-- ==== Sys2Proof/Word.lean ====
section
/-! DEFINITION. The word types of the KX16 (00_scope.md R3): bytes, 32-bit lane words, 64-bit scalars. -/

namespace Sys2Proof

abbrev Byte := BitVec 8
abbrev Word := BitVec 32
abbrev DWord := BitVec 64

end Sys2Proof
end

