-- ==== Sys2Proof/Names.lean ====
section
/-! DEFINITION. The names that the steps of agents other than a split's word carry. -/

namespace Sys2Proof

/-- Who may be waiting or issuing: a split (team, group, split number) or a team's sequencer slot. -/
inductive AgentId where
  | split (team grp spl : Nat)
  | slot (team : Nat)
  deriving DecidableEq, Repr

/-- Where an uncorrectable error lies (07_memory.md R418): an address at its home, or in the copy that an L1 or an RDC
holds of its line. -/
inductive ErrorAt where
  | home (addr : Nat)
  | l1 (core addr : Nat)
  | rdc (die addr : Nat)
  deriving DecidableEq, Repr

/-- What hardware that errs changes in the results of a computation (15_checking.md R354): in result `index` of a lane, the
bits of a mask. -/
structure Flip where
  lane : Nat
  index : Nat
  bits : DWord
  deriving DecidableEq, Repr

/-- The errors of a replay-queue re-run: of its first computation, and of the second, which a mismatch asks for. -/
structure RerunResult where
  first : List Flip
  again : List Flip
  deriving DecidableEq, Repr

/-- A function that reports ready on its own (16_frontend.md R381). -/
inductive ModFn where
  | fwCore (module k : Nat)
  | dieServices (die : Nat)
  | core (core : Nat)
  | hbm (die : Nat)
  | port (port : Nat)
  deriving DecidableEq, Repr

/-- The conditions that step a die's clock level down (17_module.md R388). -/
inductive ThrottleCause where
  | current | temperature | power
  deriving DecidableEq, Repr

/-- A signed firmware image as the root of trust sees it (16_frontend.md R382, R383): the index of its key, the key's
modulus and public exponent, its SVN, its body, and the signature over them. -/
structure FwImage where
  key : Nat
  modulus : Nat
  exponent : Nat
  svn : Nat
  body : List Byte
  sig : Nat
  deriving DecidableEq, Repr

/-- What firmware writes in the control block of a queue that it assigns (16_frontend.md R370): the queue, the
physical address of the block, and its fields. -/
structure QueueConfig where
  queue : Nat
  qcb : Nat
  base : Nat
  log2 : Nat
  repBase : Nat
  repLog2 : Nat
  system : Bool
  deriving DecidableEq, Repr

/-- What firmware configures for a VI (16_frontend.md R379; 17_module.md R391). Cores are named
module * 1024 + die * 64 + core; queues module * 128 + queue. A timer of 0 is left at its default (01_machine.md R16), and
`reach` is the reachability timer of the VI's modules (13_fabric.md R305), 0 where it is left as it is. -/
structure ViConfig where
  vi : Nat
  cores : List Nat
  domain : Nat
  events : List (Nat × Nat)
  vroot : DWord
  queues : List QueueConfig
  hbmShare : List (Nat × Nat)
  pinLimit : Nat
  wdog : Nat
  drainb : Nat
  gangAge : Nat
  gangLimit : Nat
  cupTimer : Nat
  reach : Nat
  cseed : DWord
  cap : Nat
  deriving DecidableEq, Repr

end Sys2Proof
end

