-- ==== Sys2Proof/Syntax.lean ====
section
/-! DEFINITION. The instruction set as syntax: one constructor for each row of spec/opcode_table.json.
Words of the major map (02_words.md R33), matrix words (10_matrix.md R229) and the steps of agents other
than a split's word (95_what_each_step_holds.md). Field names follow the formats of R30:
`d a b` registers, `p q` patterns of `a` and `b`, `sb` a scalar base, `l` lookahead, `imm` an immediate. -/

namespace Sys2Proof

/-- Every instruction word and every device step of the opcode table. -/
inductive Instr where
  /-- MOV (R78): Copies a crossbar-read source register, or pair, into v[d] in every active lane. -/
  | mov (d : BitVec 6) (a : BitVec 6) (p : BitVec 3)
  /-- MOVI (R78): Writes a sign-extended immediate, or a 36-bit immediate with LIM, into v[d] in every active lane. -/
  | movi (d : BitVec 6) (imm : BitVec 12)
  /-- IADD (R71): Typed integer addition, wrapping or saturating. -/
  | iadd (d : BitVec 6) (a : BitVec 6) (p : BitVec 3) (b : BitVec 6) (q : BitVec 3)
  /-- ISUB (R71): Typed integer subtraction. -/
  | isub (d : BitVec 6) (a : BitVec 6) (p : BitVec 3) (b : BitVec 6) (q : BitVec 3)
  /-- IMUL (R71): Typed integer multiplication. -/
  | imul (d : BitVec 6) (a : BitVec 6) (p : BitVec 3) (b : BitVec 6) (q : BitVec 3)
  /-- IMULH (R71): High half of the full typed integer product. -/
  | imulh (d : BitVec 6) (a : BitVec 6) (p : BitVec 3) (b : BitVec 6) (q : BitVec 3)
  /-- IMAD (R71): Typed integer multiply-add into v[d]. -/
  | imad (d : BitVec 6) (a : BitVec 6) (p : BitVec 3) (b : BitVec 6) (q : BitVec 3)
  /-- IADDI (R71): Typed integer addition of an immediate. -/
  | iaddi (d : BitVec 6) (a : BitVec 6) (imm : BitVec 12)
  /-- IMIN (R71): Typed integer minimum. -/
  | imin (d : BitVec 6) (a : BitVec 6) (p : BitVec 3) (b : BitVec 6) (q : BitVec 3)
  /-- IMAX (R71): Typed integer maximum. -/
  | imax (d : BitVec 6) (a : BitVec 6) (p : BitVec 3) (b : BitVec 6) (q : BitVec 3)
  /-- IABS (R71): Typed integer absolute value. -/
  | iabs (d : BitVec 6) (a : BitVec 6) (p : BitVec 3)
  /-- INEG (R71): Typed integer negation. -/
  | ineg (d : BitVec 6) (a : BitVec 6) (p : BitVec 3)
  /-- ISAD (R71): Absolute difference plus the old v[d]. -/
  | isad (d : BitVec 6) (a : BitVec 6) (p : BitVec 3) (b : BitVec 6) (q : BitVec 3)
  /-- IDIV (R72): Typed integer division truncating toward zero, with fixed results for zero and overflow divisors. -/
  | idiv (d : BitVec 6) (a : BitVec 6) (p : BitVec 3) (b : BitVec 6) (q : BitVec 3)
  /-- IREM (R72): Typed integer remainder with the sign of the dividend. -/
  | irem (d : BitVec 6) (a : BitVec 6) (p : BitVec 3) (b : BitVec 6) (q : BitVec 3)
  /-- AND (R74): Bitwise and. -/
  | and (d : BitVec 6) (a : BitVec 6) (p : BitVec 3) (b : BitVec 6) (q : BitVec 3)
  /-- OR (R74): Bitwise or. -/
  | or (d : BitVec 6) (a : BitVec 6) (p : BitVec 3) (b : BitVec 6) (q : BitVec 3)
  /-- XOR (R74): Bitwise exclusive or. -/
  | xor (d : BitVec 6) (a : BitVec 6) (p : BitVec 3) (b : BitVec 6) (q : BitVec 3)
  /-- ANDN (R74): Bitwise x and not y. -/
  | andn (d : BitVec 6) (a : BitVec 6) (p : BitVec 3) (b : BitVec 6) (q : BitVec 3)
  /-- NOT (R74): Bitwise not. -/
  | not (d : BitVec 6) (a : BitVec 6) (p : BitVec 3)
  /-- SHL (R75): Typed left shift by a register amount. -/
  | shl (d : BitVec 6) (a : BitVec 6) (p : BitVec 3) (b : BitVec 6) (q : BitVec 3)
  /-- SHR (R75): Typed logical right shift by a register amount. -/
  | shr (d : BitVec 6) (a : BitVec 6) (p : BitVec 3) (b : BitVec 6) (q : BitVec 3)
  /-- SHA (R75): Typed arithmetic right shift by a register amount. -/
  | sha (d : BitVec 6) (a : BitVec 6) (p : BitVec 3) (b : BitVec 6) (q : BitVec 3)
  /-- ROTL (R75): Typed left rotation. -/
  | rotl (d : BitVec 6) (a : BitVec 6) (p : BitVec 3) (b : BitVec 6) (q : BitVec 3)
  /-- SHLI (R75): Typed left shift by an immediate. -/
  | shli (d : BitVec 6) (a : BitVec 6) (n : BitVec 6)
  /-- SHRI (R75): Typed logical right shift by an immediate. -/
  | shri (d : BitVec 6) (a : BitVec 6) (n : BitVec 6)
  /-- SHAI (R75): Typed arithmetic right shift by an immediate. -/
  | shai (d : BitVec 6) (a : BitVec 6) (n : BitVec 6)
  /-- POPC (R76): Counts one bits of the typed value. -/
  | popc (d : BitVec 6) (a : BitVec 6) (p : BitVec 3)
  /-- CLZ (R76): Counts leading zeros of the typed value. -/
  | clz (d : BitVec 6) (a : BitVec 6) (p : BitVec 3)
  /-- BREV (R76): Reverses the bits of the typed value. -/
  | brev (d : BitVec 6) (a : BitVec 6) (p : BitVec 3)
  /-- BFX (R77): Extracts and extends a bit field. -/
  | bfx (d : BitVec 6) (a : BitVec 6) (l : BitVec 6) (o : BitVec 6)
  /-- BFI (R77): Inserts a bit field into the old v[d]. -/
  | bfi (d : BitVec 6) (a : BitVec 6) (l : BitVec 6) (o : BitVec 6)
  /-- SEL (R79): Selects between two sources per lane by predicate MODE.SP. -/
  | sel (d : BitVec 6) (a : BitVec 6) (p : BitVec 3) (b : BitVec 6) (q : BitVec 3)
  /-- ICMP (R83): Typed integer compare writing a predicate. -/
  | icmp (d : BitVec 3) (c : BitVec 3) (a : BitVec 6) (p : BitVec 3) (b : BitVec 6) (q : BitVec 3)
  /-- PLOG (R84): Combines two predicates by a logic function. -/
  | plog (d : BitVec 3) (c : BitVec 3) (a : BitVec 3) (b : BitVec 3)
  /-- PMOV_NZ (R85): Sets a predicate where the source is non-zero. -/
  | pmovNz (d : BitVec 3) (a : BitVec 6) (p : BitVec 3)
  /-- PMOV_BIT (R85): Sets a predicate from bit k of the source. -/
  | pmovBit (d : BitVec 3) (a : BitVec 6) (p : BitVec 3) (k : BitVec 5)
  /-- PMOV_SET (R85): Sets a predicate to 1. -/
  | pmovSet (d : BitVec 3)
  /-- PMOV_CLR (R85): Sets a predicate to 0. -/
  | pmovClr (d : BitVec 3)
  /-- PMOV_NOT (R85): Sets a predicate to the inverse of another. -/
  | pmovNot (d : BitVec 3) (a : BitVec 3)
  /-- PMOV_FROMS (R85): Sets a predicate from bit l of a scalar register. -/
  | pmovFroms (d : BitVec 3) (a : BitVec 5)
  /-- VOTE (R86): Reduces a predicate over the active lanes by all, any or eq. -/
  | vote (d : BitVec 3) (c : BitVec 3) (a : BitVec 3)
  /-- VOTE_BALLOT (R86): Writes the mask of active lanes holding 1 into a scalar register. -/
  | voteBallot (d : BitVec 3) (a : BitVec 3) (b : BitVec 5)
  /-- XSHF (R80): Gathers across lanes with a register index. -/
  | xshf (d : BitVec 6) (a : BitVec 6) (b : BitVec 6) (q : BitVec 3)
  /-- SETX (R69): Loads an index register base and bound from two scalars. -/
  | setx (n : BitVec 3) (a : BitVec 5) (b : BitVec 5)
  /-- MOVX (R70): Reads the lane's indexed region through an index register. -/
  | movx (d : BitVec 6) (a : BitVec 6) (p : BitVec 3) (n : BitVec 3)
  /-- STX (R70): Writes the lane's indexed region through an index register. -/
  | stx (n : BitVec 3) (a : BitVec 6) (p : BitVec 3) (b : BitVec 6) (q : BitVec 3)
  /-- S2V (R82): Broadcasts a scalar into every active lane. -/
  | s2v (d : BitVec 6) (a : BitVec 5)
  /-- V2S (R82): Copies one lane's value into a scalar register. -/
  | v2s (d : BitVec 5) (a : BitVec 6) (p : BitVec 3) (l : BitVec 5)
  /-- SADD (R89): Scalar 64-bit addition of a register. -/
  | sadd (d : BitVec 5) (a : BitVec 5) (b : BitVec 5)
  /-- SADD_IMM (R89): Scalar 64-bit addition of an immediate. -/
  | saddImm (d : BitVec 5) (a : BitVec 5) (imm : BitVec 8)
  /-- SSUB (R89): Scalar subtraction of a register. -/
  | ssub (d : BitVec 5) (a : BitVec 5) (b : BitVec 5)
  /-- SSUB_IMM (R89): Scalar subtraction of an immediate. -/
  | ssubImm (d : BitVec 5) (a : BitVec 5) (imm : BitVec 8)
  /-- SMUL (R89): Scalar multiplication by a register. -/
  | smul (d : BitVec 5) (a : BitVec 5) (b : BitVec 5)
  /-- SMUL_IMM (R89): Scalar multiplication by an immediate. -/
  | smulImm (d : BitVec 5) (a : BitVec 5) (imm : BitVec 8)
  /-- SAND (R89): Scalar and with a register. -/
  | sand (d : BitVec 5) (a : BitVec 5) (b : BitVec 5)
  /-- SAND_IMM (R89): Scalar and with an immediate. -/
  | sandImm (d : BitVec 5) (a : BitVec 5) (imm : BitVec 8)
  /-- SOR (R89): Scalar or with a register. -/
  | sor (d : BitVec 5) (a : BitVec 5) (b : BitVec 5)
  /-- SOR_IMM (R89): Scalar or with an immediate. -/
  | sorImm (d : BitVec 5) (a : BitVec 5) (imm : BitVec 8)
  /-- SXOR (R89): Scalar xor with a register. -/
  | sxor (d : BitVec 5) (a : BitVec 5) (b : BitVec 5)
  /-- SXOR_IMM (R89): Scalar xor with an immediate. -/
  | sxorImm (d : BitVec 5) (a : BitVec 5) (imm : BitVec 8)
  /-- SSHL (R89): Scalar left shift by a register amount. -/
  | sshl (d : BitVec 5) (a : BitVec 5) (b : BitVec 5)
  /-- SSHL_IMM (R89): Scalar left shift by an immediate amount. -/
  | sshlImm (d : BitVec 5) (a : BitVec 5) (imm : BitVec 8)
  /-- SSHR (R89): Scalar logical right shift by a register amount. -/
  | sshr (d : BitVec 5) (a : BitVec 5) (b : BitVec 5)
  /-- SSHR_IMM (R89): Scalar logical right shift by an immediate amount. -/
  | sshrImm (d : BitVec 5) (a : BitVec 5) (imm : BitVec 8)
  /-- SCMP (R90): Scalar compare writing 1 or 0. -/
  | scmp (d : BitVec 5) (a : BitVec 5) (b : BitVec 5) (c : BitVec 3)
  /-- SMOVI (R91): Writes a sign-extended 19-bit immediate into a scalar. -/
  | smovi (d : BitVec 5) (imm : BitVec 19)
  /-- SREG (R92): Reads a special register such as LANE, ROLE, CLK or READY. -/
  | sreg (d : BitVec 5) (n : BitVec 9)
  /-- SETM (R93): Writes MODE from a scalar under the checks of R41. -/
  | setm (a : BitVec 5)
  /-- MODI (R93): Writes one MODE field from an immediate. -/
  | modi (f : BitVec 4) (v : BitVec 12)
  /-- BYSEL (R81): Builds each result byte under its own control byte. -/
  | bysel (d : BitVec 6) (a : BitVec 6) (p : BitVec 3) (b : BitVec 6) (q : BitVec 3)
  /-- IDOT4 (R73): Narrow integer dot product accumulated into v[d]. -/
  | idot4 (d : BitVec 6) (a : BitVec 6) (p : BitVec 3) (b : BitVec 6) (q : BitVec 3)
  /-- IRED (R87): Integer lane reduction in fixed butterfly order. -/
  | ired (d : BitVec 6) (a : BitVec 6) (o : BitVec 3)
  /-- FADD (R105): Floating addition rounded once. -/
  | fadd (d : BitVec 6) (a : BitVec 6) (p : BitVec 3) (b : BitVec 6) (q : BitVec 3)
  /-- FSUB (R105): Floating subtraction. -/
  | fsub (d : BitVec 6) (a : BitVec 6) (p : BitVec 3) (b : BitVec 6) (q : BitVec 3)
  /-- FMUL (R105): Floating multiplication. -/
  | fmul (d : BitVec 6) (a : BitVec 6) (p : BitVec 3) (b : BitVec 6) (q : BitVec 3)
  /-- FMA (R105): Fused multiply-add into v[d]. -/
  | fma (d : BitVec 6) (a : BitVec 6) (p : BitVec 3) (b : BitVec 6) (q : BitVec 3)
  /-- FMS (R105): Fused multiply-subtract. -/
  | fms (d : BitVec 6) (a : BitVec 6) (p : BitVec 3) (b : BitVec 6) (q : BitVec 3)
  /-- FNMA (R105): Fused negated multiply-add. -/
  | fnma (d : BitVec 6) (a : BitVec 6) (p : BitVec 3) (b : BitVec 6) (q : BitVec 3)
  /-- FMIN (R106): minimumNumber. -/
  | fmin (d : BitVec 6) (a : BitVec 6) (p : BitVec 3) (b : BitVec 6) (q : BitVec 3)
  /-- FMAX (R106): maximumNumber. -/
  | fmax (d : BitVec 6) (a : BitVec 6) (p : BitVec 3) (b : BitVec 6) (q : BitVec 3)
  /-- FABS (R107): Clears the sign. -/
  | fabs (d : BitVec 6) (a : BitVec 6) (p : BitVec 3)
  /-- FNEG (R107): Inverts the sign. -/
  | fneg (d : BitVec 6) (a : BitVec 6) (p : BitVec 3)
  /-- FSGN (R107): Copies the sign of y onto x. -/
  | fsgn (d : BitVec 6) (a : BitVec 6) (p : BitVec 3) (b : BitVec 6) (q : BitVec 3)
  /-- FCMP (R108): Floating compare writing a predicate. -/
  | fcmp (d : BitVec 3) (c : BitVec 3) (a : BitVec 6) (p : BitVec 3) (b : BitVec 6) (q : BitVec 3)
  /-- FCLASS (R109): Writes a one-hot class mask. -/
  | fclass (d : BitVec 6) (a : BitVec 6) (p : BitVec 3)
  /-- FRINT (R110): Rounds to an integral value. -/
  | frint (d : BitVec 6) (a : BitVec 6) (p : BitVec 3)
  /-- FSCALE (R110): Multiplies by a power of two and rounds. -/
  | fscale (d : BitVec 6) (a : BitVec 6) (p : BitVec 3) (b : BitVec 6) (q : BitVec 3)
  /-- FGETEXP (R110): Writes the integer exponent. -/
  | fgetexp (d : BitVec 6) (a : BitVec 6) (p : BitVec 3)
  /-- FDIV (R111): Correctly rounded division. -/
  | fdiv (d : BitVec 6) (a : BitVec 6) (p : BitVec 3) (b : BitVec 6) (q : BitVec 3)
  /-- FSQRT (R111): Correctly rounded square root. -/
  | fsqrt (d : BitVec 6) (a : BitVec 6) (p : BitVec 3)
  /-- FRCP (R111): Correctly rounded reciprocal. -/
  | frcp (d : BitVec 6) (a : BitVec 6) (p : BitVec 3)
  /-- FRSQ (R111): Correctly rounded reciprocal square root. -/
  | frsq (d : BitVec 6) (a : BitVec 6) (p : BitVec 3)
  /-- FEXP2 (R111): Correctly rounded 2^x. -/
  | fexp2 (d : BitVec 6) (a : BitVec 6) (p : BitVec 3)
  /-- FLOG2 (R111): Correctly rounded log2 x. -/
  | flog2 (d : BitVec 6) (a : BitVec 6) (p : BitVec 3)
  /-- FSIN (R111): Correctly rounded sine of x turns. -/
  | fsin (d : BitVec 6) (a : BitVec 6) (p : BitVec 3)
  /-- FCOS (R111): Correctly rounded cosine of x turns. -/
  | fcos (d : BitVec 6) (a : BitVec 6) (p : BitVec 3)
  /-- FTANH (R111): Correctly rounded tanh. -/
  | ftanh (d : BitVec 6) (a : BitVec 6) (p : BitVec 3)
  /-- FDOT2 (R112): 16-bit pair dot product accumulated into F32. -/
  | fdot2 (d : BitVec 6) (a : BitVec 6) (p : BitVec 3) (b : BitVec 6) (q : BitVec 3)
  /-- FDOT4 (R112): Narrow float quad dot product accumulated into F32. -/
  | fdot4 (d : BitVec 6) (a : BitVec 6) (p : BitVec 3) (b : BitVec 6) (q : BitVec 3)
  /-- FRED (R113): Floating lane reduction in fixed butterfly order. -/
  | fred (d : BitVec 6) (a : BitVec 6) (o : BitVec 3)
  /-- ARGMX (R114): Finds the top-ranked lane's value and payload over each span. -/
  | argmx (d : BitVec 6) (a : BitVec 6) (p : BitVec 3) (b : BitVec 6) (q : BitVec 3)
  /-- CVT (R123): Converts one element per lane between formats. -/
  | cvt (d : BitVec 6) (a : BitVec 6) (p : BitVec 3) (x : BitVec 2) (t : BitVec 4)
  /-- CVTP (R125): Rounds two F32 values into an adjacent pair of narrow positions. -/
  | cvtp (d : BitVec 6) (a : BitVec 6) (p : BitVec 3) (b : BitVec 6) (q : BitVec 3)
  /-- SEED (R120): Seeds every active lane's generator from a scalar. -/
  | seed (a : BitVec 5)
  /-- RNG_U32 (R121): Draws a 32-bit word from the lane generator. -/
  | rngU32 (d : BitVec 6)
  /-- RNG_UNIT (R121): Draws a uniform F32 in [0, 1). -/
  | rngUnit (d : BitVec 6)
  /-- RNG_GET (R121): Reads the generator state without a draw. -/
  | rngGet (d : BitVec 6)
  /-- RNG_SET (R121): Sets the generator state from a crossbar-read register. -/
  | rngSet (a : BitVec 6) (p : BitVec 3)
  /-- QMX (R126): Computes the shared E8M0 scale of an MX block. -/
  | qmx (d : BitVec 6) (a : BitVec 6) (p : BitVec 3)
  /-- QMXA (R127): Applies a scale and writes an MX element, always saturating. -/
  | qmxa (d : BitVec 6) (a : BitVec 6) (p : BitVec 3) (b : BitVec 6) (q : BitVec 3)
  /-- BRA (R131): Branch taken by the active lanes, diverging if partial. -/
  | bra (imm : BitVec 24)
  /-- BRALL (R131): Whole-split branch when every lane is active. -/
  | brall (imm : BitVec 24)
  /-- BRANY (R131): Whole-split branch when some lane is active. -/
  | brany (imm : BitVec 24)
  /-- BRX (R131): Indirect branch to a uniform register-pair target. -/
  | brx (a : BitVec 6)
  /-- CALL (R137): Call through link register s31. -/
  | call (imm : BitVec 24)
  /-- CALLX (R137): Indirect call to a uniform register-pair target. -/
  | callx (a : BitVec 6)
  /-- RET (R131): Branches to the address in a scalar register. -/
  | ret (a : BitVec 5)
  /-- SPLIT (R139): Gives the active lanes a new split with its own PC. -/
  | split (imm : BitVec 24)
  /-- RCV (R132): Arms the reconvergence address. -/
  | rcv (imm : BitVec 24)
  /-- WAIT (R145): Holds the split until a path counter is at most n from a register. -/
  | wait (p : BitVec 3) (b : BitVec 5)
  /-- WAIT_IMM (R145): Holds the split until a path counter is at most an immediate n. -/
  | waitImm (p : BitVec 3) (n : BitVec 6)
  /-- BKPT (R146): Raises the BKPT trap. -/
  | bkpt (imm : BitVec 12)
  /-- MSQ_START (R147): Starts the team's matrix sequencer slot at a stream address if idle. -/
  | msqStart (x : BitVec 5) (l : BitVec 4)
  /-- MSQ_QRY (R147): Reads the sequencer slot state. -/
  | msqQry (z : BitVec 5) (l : BitVec 4)
  /-- LDB (R167): Byte load per lane. -/
  | ldb (d : BitVec 6) (a : BitVec 6) (sb : BitVec 5) (l : BitVec 4) (q : BitVec 3)
  /-- LDH (R167): Halfword load per lane. -/
  | ldh (d : BitVec 6) (a : BitVec 6) (sb : BitVec 5) (l : BitVec 4) (q : BitVec 3)
  /-- LDW (R167): Word load per lane. -/
  | ldw (d : BitVec 6) (a : BitVec 6) (sb : BitVec 5) (l : BitVec 4) (q : BitVec 3)
  /-- LDD (R167): Doubleword load into a pair. -/
  | ldd (d : BitVec 6) (a : BitVec 6) (sb : BitVec 5) (l : BitVec 4) (q : BitVec 3)
  /-- LDQ (R167): 16-byte load into a quad. -/
  | ldq (d : BitVec 6) (a : BitVec 6) (sb : BitVec 5) (l : BitVec 4) (q : BitVec 3)
  /-- STB (R167): Byte store per lane. -/
  | stb (d : BitVec 6) (a : BitVec 6) (sb : BitVec 5) (l : BitVec 4) (q : BitVec 3)
  /-- STH (R167): Halfword store per lane. -/
  | sth (d : BitVec 6) (a : BitVec 6) (sb : BitVec 5) (l : BitVec 4) (q : BitVec 3)
  /-- STW (R167): Word store per lane. -/
  | stw (d : BitVec 6) (a : BitVec 6) (sb : BitVec 5) (l : BitVec 4) (q : BitVec 3)
  /-- STD (R167): Doubleword store from a pair. -/
  | std (d : BitVec 6) (a : BitVec 6) (sb : BitVec 5) (l : BitVec 4) (q : BitVec 3)
  /-- STQ (R167): 16-byte store from a quad. -/
  | stq (d : BitVec 6) (a : BitVec 6) (sb : BitVec 5) (l : BitVec 4) (q : BitVec 3)
  /-- LDC (R169): Loads 8 bytes into a scalar register once for the split. -/
  | ldc (d : BitVec 5) (sb : BitVec 5) (l : BitVec 4) (q : BitVec 3)
  /-- PREF (R170): Prefetches lines into L1 and L2 or only L2. -/
  | pref (v : BitVec 2) (a : BitVec 6) (sb : BitVec 5) (l : BitVec 4)
  /-- CCTL_L1INV (R171): Drops the issuing core's L1 copy of each line. -/
  | cctlL1inv (a : BitVec 6) (sb : BitVec 5) (l : BitVec 4)
  /-- CCTL_RDCINV (R171): Drops the issuing die's RDC copy or lease of each line. -/
  | cctlRdcinv (a : BitVec 6) (sb : BitVec 5) (l : BitVec 4)
  /-- CCTL_WB (R171): Writes a dirty home L2 line to HBM and keeps it. -/
  | cctlWb (a : BitVec 6) (sb : BitVec 5) (l : BitVec 4)
  /-- CCTL_WBINV (R171): Writes back and drops the home L2 copy unless pinned. -/
  | cctlWbinv (a : BitVec 6) (sb : BitVec 5) (l : BitVec 4)
  /-- PIN_SET (R164): Pins L2 lines of a range for the VI. -/
  | pinSet (x : BitVec 5) (y : BitVec 5) (z : BitVec 5) (l : BitVec 4)
  /-- PIN_CLR (R164): Unpins the VI's pins on a range. -/
  | pinClr (x : BitVec 5) (y : BitVec 5) (z : BitVec 5) (l : BitVec 4)
  /-- PIN_QRY (R164): Counts the VI's pinned lines on a die. -/
  | pinQry (y : BitVec 5) (z : BitVec 5) (l : BitVec 4)
  /-- PIN_ALL (R164): Unpins every line of the VI on the module. -/
  | pinAll (z : BitVec 5) (l : BitVec 4)
  /-- ATRN (R172): Reports each lane's translation into a pair. -/
  | atrn (d : BitVec 6) (a : BitVec 6) (sb : BitVec 5) (l : BitVec 4) (w : BitVec 1)
  /-- FENCE (R183): Orders the split's earlier accesses at a scope, optionally speculative. -/
  | fence (n : BitVec 1) (c : BitVec 3)
  /-- BINIT (R190): Initialises a barrier object with an expected count. -/
  | binit (x : BitVec 5) (y : BitVec 5) (l : BitVec 4)
  /-- BARV (R190): Arrives at a barrier object with a release scope. -/
  | barv (x : BitVec 5) (z : BitVec 5) (l : BitVec 4) (c : BitVec 3)
  /-- BARV_B (R190): Arrives at a barrier object and adds expected bytes. -/
  | barvB (x : BitVec 5) (y : BitVec 5) (z : BitVec 5) (l : BitVec 4) (c : BitVec 3)
  /-- BEXP (R190): Adds expected bytes to a barrier object. -/
  | bexp (x : BitVec 5) (y : BitVec 5) (l : BitVec 4)
  /-- BWAIT (R191): Waits until the object's phase reaches a target, acquiring at a scope. -/
  | bwait (x : BitVec 5) (y : BitVec 5) (c : BitVec 3)
  /-- BTEST (R190): Reads half of a barrier object relaxed. -/
  | btest (x : BitVec 5) (z : BitVec 5) (l : BitVec 4) (h : BitVec 1)
  /-- RINIT (R193): Initialises a rendezvous point idempotently. -/
  | rinit (y : BitVec 5) (k : BitVec 5)
  /-- RARV (R193): Arrives at a rendezvous point with team release. -/
  | rarv (z : BitVec 5) (k : BitVec 5)
  /-- RWAIT (R193): Waits on a rendezvous point with team acquire. -/
  | rwait (y : BitVec 5) (k : BitVec 5)
  /-- RSYNC (R193): Arrives then waits on a rendezvous point. -/
  | rsync (z : BitVec 5) (k : BitVec 5)
  /-- AADD (R201): Atomic add returning the old value. -/
  | aadd (d : BitVec 6) (a : BitVec 6) (b : BitVec 6) (l : BitVec 4) (o : BitVec 2)
  /-- AMIN (R201): Atomic minimum. -/
  | amin (d : BitVec 6) (a : BitVec 6) (b : BitVec 6) (l : BitVec 4) (o : BitVec 2)
  /-- AMAX (R201): Atomic maximum. -/
  | amax (d : BitVec 6) (a : BitVec 6) (b : BitVec 6) (l : BitVec 4) (o : BitVec 2)
  /-- AAND (R201): Atomic and. -/
  | aand (d : BitVec 6) (a : BitVec 6) (b : BitVec 6) (l : BitVec 4) (o : BitVec 2)
  /-- AOR (R201): Atomic or. -/
  | aor (d : BitVec 6) (a : BitVec 6) (b : BitVec 6) (l : BitVec 4) (o : BitVec 2)
  /-- AXOR (R201): Atomic xor. -/
  | axor (d : BitVec 6) (a : BitVec 6) (b : BitVec 6) (l : BitVec 4) (o : BitVec 2)
  /-- AXCH (R201): Atomic exchange. -/
  | axch (d : BitVec 6) (a : BitVec 6) (b : BitVec 6) (l : BitVec 4) (o : BitVec 2)
  /-- ACAS (R202): Atomic bitwise compare-and-swap. -/
  | acas (d : BitVec 6) (a : BitVec 6) (b : BitVec 6) (l : BitVec 4) (o : BitVec 2)
  /-- AFADD (R203): Atomic floating add rounded RNE. -/
  | afadd (d : BitVec 6) (a : BitVec 6) (b : BitVec 6) (l : BitVec 4) (o : BitVec 2)
  /-- RED (R204): Non-returning atomic reduction. -/
  | red (o : BitVec 3) (a : BitVec 6) (b : BitVec 6) (l : BitVec 4) (r : BitVec 1)
  /-- BUMP (R206): Allocates from a bump object, setting OVF on overflow. -/
  | bump (d : BitVec 6) (a : BitVec 6) (b : BitVec 6) (l : BitVec 4) (o : BitVec 2)
  /-- SIGI (R207): Checked signal increment. -/
  | sigi (d : BitVec 6) (a : BitVec 6) (b : BitVec 6) (o : BitVec 2)
  /-- SIGD (R207): Checked signal decrement. -/
  | sigd (d : BitVec 6) (a : BitVec 6) (b : BitVec 6) (o : BitVec 2)
  /-- TLSIG (R208): Checked timeline advance. -/
  | tlsig (d : BitVec 6) (a : BitVec 6) (b : BitVec 6) (o : BitVec 2)
  /-- CARM (R210): Arms a barrier object for one arrival when a condition on a word holds. -/
  | carm (x : BitVec 5) (y : BitVec 5) (z : BitVec 5) (l : BitVec 4) (c : BitVec 5)
  /-- CARM_CANCEL (R210): Removes an object's arm of any kind if not yet arrived. -/
  | carmCancel (y : BitVec 5) (z : BitVec 5) (l : BitVec 4)
  /-- CPA (R247): Per-lane asynchronous copy of up to 32 bytes into scratchpad on a batch tag. -/
  | cpa (d : BitVec 6) (a : BitVec 6) (sb : BitVec 5) (l : BitVec 4) (t : BitVec 2)
  /-- HDEF_CHK (R253): Returns the reason code of a handle descriptor. -/
  | hdefChk (y : BitVec 5) (z : BitVec 5) (l : BitVec 4)
  /-- HDEF_BASE (R253): Sets a descriptor's BASE. -/
  | hdefBase (x : BitVec 5) (y : BitVec 5) (l : BitVec 4)
  /-- HDEF_ORG (R253): Sets ORG0 and ORG1. -/
  | hdefOrg (x : BitVec 5) (y : BitVec 5) (l : BitVec 4)
  /-- HDEF_ADV (R253): Advances ORG0 and ORG1. -/
  | hdefAdv (x : BitVec 5) (y : BitVec 5) (l : BitVec 4)
  /-- HDEF_ORGH (R253): Sets ORG2 to ORG4. -/
  | hdefOrgh (x : BitVec 5) (y : BitVec 5) (l : BitVec 4)
  /-- TCPY (R256): Copies a tensor box into a scratchpad image. -/
  | tcpy (x : BitVec 5) (y : BitVec 5) (z : BitVec 5) (l : BitVec 4) (u : BitVec 1) (n : BitVec 1)
  /-- TSTO (R256): Stores a scratchpad image into a tensor box. -/
  | tsto (x : BitVec 5) (y : BitVec 5) (z : BitVec 5) (l : BitVec 4) (u : BitVec 1) (n : BitVec 1)
  /-- TRED (R257): Adds a scratchpad image into a tensor box, optionally in turn order. -/
  | tred (x : BitVec 5) (y : BitVec 5) (z : BitVec 5) (l : BitVec 4) (u : BitVec 1) (n : BitVec 1)
  /-- TSCT (R258): Scatters image rows into bins allocated by BUMP. -/
  | tsct (x : BitVec 5) (y : BitVec 5) (z : BitVec 5) (l : BitVec 4) (k : BitVec 5)
  /-- TGTH (R256): Gathers indexed tensor rows into a scratchpad image. -/
  | tgth (x : BitVec 5) (y : BitVec 5) (z : BitVec 5) (l : BitVec 4) (u : BitVec 1) (n : BitVec 1)
  /-- CRSET (R260): Sets the group's completion-record ring. -/
  | crset (x : BitVec 5) (y : BitVec 5) (l : BitVec 4)
  /-- CRPOP (R262): Pops the record at HEAD into four scalars. -/
  | crpop (z : BitVec 5) (l : BitVec 4)
  /-- CRPOP_SEQ (R262): Reads the group's SEQ. -/
  | crpopSeq (z : BitVec 5) (l : BitVec 4)
  /-- CRPOP_DROP (R262): Reads and clears DROPC. -/
  | crpopDrop (z : BitVec 5) (l : BitVec 4)
  /-- MBXGET (R285): Takes the bound job descriptor into scalars. -/
  | mbxget (z : BitVec 5) (l : BitVec 4)
  /-- MBXGET_SP (R285): Takes the bound job descriptor into scratchpad. -/
  | mbxgetSp (y : BitVec 5) (z : BitVec 5) (l : BitVec 4)
  /-- MBXARM (R286): Arms an object for the arrival of a job binding. -/
  | mbxarm (y : BitVec 5)
  /-- MBXARM_CANCEL (R286): Cancels an object's arm. -/
  | mbxarmCancel (y : BitVec 5) (z : BitVec 5)
  /-- EVSIG_ADD (R288): Adds to an event's COUNT with fabric release. -/
  | evsigAdd (x : BitVec 5) (y : BitVec 5)
  /-- EVSIG_RESET (R288): Resets an event with a sequence and threshold. -/
  | evsigReset (x : BitVec 5) (y : BitVec 5) (z : BitVec 5)
  /-- EVARM (R289): Arms an object for an event's satisfaction or poison. -/
  | evarm (x : BitVec 5) (y : BitVec 5) (z : BitVec 5)
  /-- EVARM_CANCEL (R289): Cancels an object's arm. -/
  | evarmCancel (y : BitVec 5) (z : BitVec 5)
  /-- EVQRY (R290): Reads half of an event entry relaxed. -/
  | evqry (x : BitVec 5) (z : BitVec 5) (l : BitVec 4) (h : BitVec 1)
  /-- OPAPP (R291): Appends an operator record to a device stream. -/
  | opapp (x : BitVec 5) (y : BitVec 5) (z : BitVec 5) (l : BitVec 4)
  /-- FIXUP (R292): Adds the stream-K partial slots into an owner's tile image in fixed order. -/
  | fixup (x : BitVec 5) (z : BitVec 5)
  /-- LMAP (R312): Binds a layout map slot and returns its reason code. -/
  | lmap (y : BitVec 5) (z : BitVec 5) (l : BitVec 4) (n : BitVec 3)
  /-- XA2A (R314): Starts an all-to-all exchange. -/
  | xa2a (x : BitVec 5) (y : BitVec 5) (z : BitVec 5) (l : BitVec 4) (n : BitVec 1) (m : BitVec 3)
  /-- XAG (R314): Starts an all-gather exchange. -/
  | xag (x : BitVec 5) (y : BitVec 5) (z : BitVec 5) (l : BitVec 4) (n : BitVec 1) (m : BitVec 3)
  /-- XRS (R315): Starts a reduce-scatter exchange in rank order. -/
  | xrs (x : BitVec 5) (y : BitVec 5) (z : BitVec 5) (l : BitVec 4) (n : BitVec 1) (m : BitVec 3)
  /-- RDCF_RANGE (R308): Drops the die's RDC copies of a range. -/
  | rdcfRange (x : BitVec 5) (y : BitVec 5) (z : BitVec 5) (l : BitVec 4)
  /-- RDCF_MOD (R308): Drops every lease the die holds on a module. -/
  | rdcfMod (y : BitVec 5) (z : BitVec 5) (l : BitVec 4)
  /-- FQRY_PORT (R309): Reads a port's state. -/
  | fqryPort (y : BitVec 5) (z : BitVec 5) (l : BitVec 4)
  /-- FQRY_PLANE (R309): Reads a logical plane's state. -/
  | fqryPlane (y : BitVec 5) (z : BitVec 5) (l : BitVec 4)
  /-- FQRY_REACH (R309): Reads a module's reach state. -/
  | fqryReach (y : BitVec 5) (z : BitVec 5) (l : BitVec 4)
  /-- DIGS (R359): Adds lane values to the team's open job digest. -/
  | digs (a : BitVec 6) (p : BitVec 3) (b : BitVec 6) (q : BitVec 3)
  /-- CLON_CHK (R360): Reads the core's checked-instruction counter. -/
  | clonChk (d : BitVec 5)
  /-- CLON_DROP (R360): Reads the core's dropped-entry counter. -/
  | clonDrop (d : BitVec 5)
  /-- CLON_TRANS (R360): Reads the core's transient-mismatch counter. -/
  | clonTrans (d : BitVec 5)
  /-- SCRN_DIG (R360): Reads the team's open digest. -/
  | scrnDig (z : BitVec 5)
  /-- SUSQ_SCORE (R360): Reads a core's suspicion score. -/
  | susqScore (y : BitVec 5) (z : BitVec 5)
  /-- SUSQ_QMASK (R360): Reads a die's quarantine bits. -/
  | susqQmask (y : BitVec 5) (z : BitVec 5)
  /-- SUSQ_STAT (R360): Reads a die's Cupping statistics. -/
  | susqStat (y : BitVec 5) (z : BitVec 5)
  /-- TRAP (R328): Raises SWTRAP with a code. -/
  | trap (imm : BitVec 12)
  /-- CSRR (R323): Reads a system register into a scalar. -/
  | csrr (d : BitVec 5) (c : BitVec 9)
  /-- CSRW (R323): Writes a system register without behaviour of its own. -/
  | csrw (a : BitVec 5) (c : BitVec 9)
  /-- TLBI_WRITE (R158): CSRW to TLBI: drops matching translations module-wide. -/
  | tlbiWrite (a : BitVec 5)
  /-- FPMAP_WRITE (R302): CSRW to FPMAP: quiesces, remaps or releases logical planes. -/
  | fpmapWrite (a : BitVec 5)
  /-- PPT_QRY (R334): Reads whether a drain is pending. -/
  | pptQry (z : BitVec 5)
  /-- BSWP (R340): Starts a forced swap to a READY shadow bank. -/
  | bswp (z : BitVec 5)
  /-- BSWP_QRY (R340): Reads BANKST. -/
  | bswpQry (z : BitVec 5)
  /-- CTXS (R345): Saves the non-running bank to an image. -/
  | ctxs (x : BitVec 5) (y : BitVec 5) (z : BitVec 5)
  /-- CTXL (R345): Loads a whole-bank image into the non-running bank. -/
  | ctxl (x : BitVec 5) (y : BitVec 5) (z : BitVec 5)
  /-- CTXL_TEAM (R345): Loads one team slot of an image into the non-running bank. -/
  | ctxlTeam (x : BitVec 5) (y : BitVec 5) (z : BitVec 5) (t : BitVec 4)
  /-- TAGS_SET (R330): Sets the team's request tag. -/
  | tagsSet (y : BitVec 5)
  /-- TAGS_CNT (R330): Counts teams and jobs bearing a tag. -/
  | tagsCnt (y : BitVec 5) (z : BitVec 5)
  /-- PURG (R331): Makes a tag dead and waits for its purge. -/
  | purg (y : BitVec 5)
  /-- PURG_CLR (R331): Makes a tag cease to be dead. -/
  | purgClr (y : BitVec 5)
  /-- PURG_QRY (R331): Reads whether a tag is dead. -/
  | purgQry (y : BitVec 5) (z : BitVec 5)
  /-- MZERO (R239): Sets a tile to +0. -/
  | mzero (m : BitVec 2) (v : BitVec 1)
  /-- MMA (R237): Dense multiply-accumulate repetitions in fixed order. -/
  | mma (m : BitVec 2) (a : BitVec 5) (b : BitVec 5) (k : BitVec 6) (n : BitVec 1) (u : BitVec 1) (t : BitVec 1)
  /-- MMAS (R237): 2:4 sparse multiply-accumulate repetitions. -/
  | mmas (m : BitVec 2) (a : BitVec 5) (b : BitVec 5) (k : BitVec 6) (n : BitVec 1) (u : BitVec 1)
  /-- MMAX (R238): Multiply-accumulate with the range check that marks suspect tiles. -/
  | mmax (m : BitVec 2) (a : BitVec 5) (b : BitVec 5) (k : BitVec 6) (n : BitVec 1) (u : BitVec 1) (t : BitVec 1)
  /-- MLDA (R239): Loads a tile from a handle's box. -/
  | mlda (m : BitVec 2) (a : BitVec 5) (v : BitVec 1) (t : BitVec 1)
  /-- MSTA (R239): Stores a tile to a handle's box with rounding. -/
  | msta (m : BitVec 2) (a : BitVec 5) (v : BitVec 1) (sb : BitVec 1) (r : BitVec 2) (t : BitVec 1)
  /-- MCMP (R240): Compresses dense boxes into 2:4 sparse form. -/
  | mcmp (a : BitVec 5) (b : BitVec 5) (k : BitVec 6)
  /-- MARV (R241): Sequencer arrival at a rendezvous point after its stores. -/
  | marv (k : BitVec 5)
  /-- MWAT (R241): Holds the slot until a point reaches its wait target. -/
  | mwat (k : BitVec 5)
  /-- MHDL (R232): Binds a handle slot from a scratchpad descriptor. -/
  | mhdl (h : BitVec 5) (imm : BitVec 17)
  /-- MJMP (R230): Jumps the stream. -/
  | mjmp (imm : BitVec 24)
  /-- MLOOP (R231): Repeats a stream range through the loop stack. -/
  | mloop (n : BitVec 12) (imm : BitVec 12)
  /-- LIM (R36): Prefix fused to its successor to widen an immediate or add an offset. -/
  | lim (imm : BitVec 24)
  /-- MTRN (R239): Copies or transposes a tile. -/
  | mtrn (m : BitVec 2) (t : BitVec 2) (v : BitVec 1) (c : BitVec 1)
  /-- NOP (R78): Does nothing. -/
  | nop
  /-- JOIN (R140): Parks the split at a JOIN for merging. -/
  | join
  /-- EXIT (R142): Ends the split's active lanes. -/
  | exit
  /-- YIELD (R144): Moves the split to the pending set. -/
  | yield
  /-- JOBDONE (R287): Retires the held job once the team's work is performed. -/
  | jobdone
  /-- CLON_SYNC (R360): Waits until the partition's replay entries issued before it are re-run or dropped. -/
  | clonSync
  /-- SCRN_SKIP (R360): Marks the open job SKIP. -/
  | scrnSkip
  /-- RTE (R329): Returns from a handler, or performs a pending purge. -/
  | rte
  /-- PPT (R334): Parks the split for a pending drain. -/
  | ppt
  /-- HALT (R339): Stops the executing team and reports TEAM_HALTED. -/
  | halt
  /-- MEND (R230): Ends the stream; the slot goes idle once stores are performed. -/
  | mend
  /-- MEND_COMPLETE (R230): After MEND, the stream's stores are performed and the slot becomes idle. -/
  | mendComplete (team : Nat)
  /-- IDLE_DEMOTE (R58): An active entity not ready for 64 clocks moves to the pending set. -/
  | idleDemote (team grp spl : Nat)
  /-- ENTITY_ROTATE (R60): Rotation demotes an active entity after 512 clocks, or when a pending one has waited 256. -/
  | entityRotate (core part : Nat)
  /-- OWNER_CHECKS_PASSED (R53): An L or A owner passes translation, releasing its window's logged results. -/
  | ownerChecksPassed (flight : Nat)
  /-- LOAD_DATA_RETURN (R165): Load data are written to registers and the path counter falls in order. -/
  | loadDataReturn (flight : Nat)
  /-- STORE_PERFORM (R162): A store is performed at its home or buffer and STG falls. -/
  | storePerform (flight : Nat)
  /-- ATOMIC_EXECUTE (R198): An atomic lane request executes in its unit and its result returns. -/
  | atomicExecute (flight : Nat)
  /-- L1_INVALIDATE (R161): A home directory invalidation reaches a core's L1. -/
  | l1Invalidate (core line : Nat)
  /-- FENCE_COMPLETE (R184): The FENCE's earlier accesses are performed; the window commits. -/
  | fenceComplete (team grp spl : Nat)
  /-- TLBI_COMPLETE (R158): Every translating unit has dropped the entries and their accesses are performed. -/
  | tlbiComplete (flight : Nat)
  /-- UNCORRECTABLE_ERROR (R418): An uncorrectable error poisons its 32-byte granule. -/
  | uncorrectableError (at_ : ErrorAt)
  /-- LEASE_EXPIRE (R307): A remote-line lease expires after 4 ms and is dropped. -/
  | leaseExpire (die line : Nat)
  /-- LEASE_INVALIDATE_TIMEOUT (R307): 5 ms after the latest grant the home stops resending and performs the write. -/
  | leaseInvalidateTimeout (die line : Nat)
  /-- CPA_LAND (R248): Every lane of a CPA has written or faulted; its CT decrement falls due. -/
  | cpaLand (flight : Nat)
  /-- TILE_OP_COMPLETE (R256): A tile operation finishes or faults, counts bytes and writes a record. -/
  | tileOpComplete (flight : Nat)
  /-- TRED_TURN (R257): A TRED's turn word reaches its turn and the adds are applied. -/
  | tredTurn (flight : Nat)
  /-- FIXUP_RELEASE (R292): The fix-up event is satisfied or poisoned and FIXUP proceeds or faults. -/
  | fixupRelease (flight : Nat)
  /-- XRS_TURN (R315): An XRS contribution's turn arrives at a rank's event. -/
  | xrsTurn (flight : Nat)
  /-- EXCHANGE_COMPLETE (R314): An exchange's writes land, events are added and bytes counted. -/
  | exchangeComplete (flight : Nat)
  /-- OP_EXPAND (R273): A Col reads a record past TAIL and expands it into jobs and events. -/
  | opExpand (die vi stream : Nat)
  /-- EVENT_SUBSCRIBE (R282): A subscription or local arm arrives at an event's home. -/
  | eventSubscribe (msg : Nat)
  /-- EVENT_HOME_UPDATE (R282): An add or reset arrives at the home and completes waiters. -/
  | eventHomeUpdate (msg : Nat)
  /-- EVENT_NOTIFY (R282): A notification reaches a Col, which may make jobs ready. -/
  | eventNotify (msg : Nat)
  /-- JOB_PLACE (R283): A Col binds a ready job to a free worker team on an eligible core. -/
  | jobPlace (die : Nat)
  /-- JOBDONE_RETIRE (R287): After its accesses are performed, JOBDONE closes the digest and counts the event. -/
  | jobdoneRetire (flight : Nat)
  /-- TEAM_PLACE (R294): The front end places a waiting team or gang when resources allow. -/
  | teamPlace (launch : Nat)
  /-- GANG_AGE (R295): The gang-age timer reserves cores for a waiting gang. -/
  | gangAge (launch : Nat)
  /-- GANG_STARVED (R295): The gang-limit timer reports starvation. -/
  | gangStarved (launch : Nat)
  /-- WAIT_TIMEOUT (R215): The wait watchdog reports an unsatisfied wait. -/
  | waitTimeout (who : AgentId)
  /-- PURGE_COMPLETE (R332): A tag's purge is complete and TAG_PURGED is reported. -/
  | purgeComplete (vi tag : Nat)
  /-- DRAIN_ALL_PARKED (R336): Every team of the bank is parked; DRAIN moves to FLUSH. -/
  | drainAllParked (core : Nat)
  /-- DRAIN_FLUSH_DONE (R336): Counters and engine work have finished; FLUSH moves to WRITE. -/
  | drainFlushDone (core : Nat)
  /-- DRAIN_IMAGE_WRITTEN (R336): The drain image is written or fails. -/
  | drainImageWritten (core : Nat)
  /-- DRAINB_EXPIRE (R336): The tile-boundary drain bound expires. -/
  | drainbExpire (core : Nat)
  /-- CONTEXT_SAVE_DONE (R345): A bank image is written and counted, or the save faults. -/
  | contextSaveDone (core : Nat)
  /-- CONTEXT_LOAD_DONE (R346): An image load completes, is refused or faults. -/
  | contextLoadDone (core : Nat)
  /-- CORE_LOST (R349): A core fails or becomes unreachable; its teams end and jobs replay. -/
  | coreLost (core : Nat)
  /-- REPLAY_RERUN (R353): The replay queue re-runs its oldest entry in an idle VEC clock. -/
  | replayRerun (core part : Nat) (res : RerunResult)
  /-- CUP_TIMER_EXPIRE (R364): The Cupping timer expires, abandoning or leaving undecided. -/
  | cupTimerExpire (die job : Nat)
  /-- SCORE_DECAY (R365): Every 2^20 JOBDONEs non-zero scores fall by 1. -/
  | scoreDecay (die : Nat)
  /-- PKT_FETCH (R372): A queue's next slot is read as a snapshot after an invalidation and checked. -/
  | pktFetch (queue : Nat)
  /-- PKT_REREAD (R372): A CRC-failing slot is re-read every 1 µs. -/
  | pktReread (queue : Nat)
  /-- QUEUE_TRANSLATE_RETRY (R372): Every 1 ms the fetcher retries a slot's translation. -/
  | queueTranslateRetry (queue : Nat)
  /-- NOP_PACKET (R375): NOP packet. -/
  | nopPacket (queue : Nat)
  /-- QUERY_STATUS (R380): Writes the VI status reply. -/
  | queryStatus (queue : Nat)
  /-- CLEAR_QUARANTINE (R367): Clears a core's quarantine and score. -/
  | clearQuarantine (queue : Nat)
  /-- OPSTREAM_REGISTER (R269): Registers a stream after checking its SCB. -/
  | opstreamRegister (queue : Nat)
  /-- OPSTREAM_UNREGISTER (R377): Unregisters a stream. -/
  | opstreamUnregister (queue : Nat)
  /-- OPSTREAM_CLEAR_STOP (R272): Clears STOP and resumes expansion. -/
  | opstreamClearStop (queue : Nat)
  /-- EVENT_ADD (R375): Adds to an event as EVSIG.add. -/
  | eventAdd (queue : Nat)
  /-- EVENT_RESET (R375): Resets an event as EVSIG.reset. -/
  | eventReset (queue : Nat)
  /-- LAUNCH (R375): Loads a kernel image and places a grid or gang. -/
  | launch (queue : Nat)
  /-- CONTEXT_BANK (R375): Loads a whole-bank image on a core. -/
  | contextBank (queue : Nat)
  /-- CONTEXT_TEAM (R375): Loads one team of an image on a core. -/
  | contextTeam (queue : Nat)
  /-- PREEMPT_DRAIN (R336): Requests a tier-1 drain of a core. -/
  | preemptDrain (queue : Nat)
  /-- PREEMPT_IMMEDIATE (R337): Requests an immediate forced swap. -/
  | preemptImmediate (queue : Nat)
  /-- PURGE (R332): Purges a tag as PURG. -/
  | purge (queue : Nat)
  /-- PURGE_CLEAR (R331): Clears a dead tag as PURG.clr. -/
  | purgeClear (queue : Nat)
  /-- LANE_FAILURE (R303): A port loses a lane and retrains narrower or goes down. -/
  | laneFailure (port : Nat)
  /-- PORT_RETRAIN (R303): Firmware retrains a port to a wider width. -/
  | portRetrain (port width : Nat)
  /-- PLANE_QUIESCED (R302): Every outstanding request of a quiesced plane is acknowledged or held; QD sets. -/
  | planeQuiesced (module plane : Nat)
  /-- FABRIC_REQUEST_ARRIVE (R304): A fabric request reaches its target and is performed or deduplicated. -/
  | fabricRequestArrive (req : Nat)
  /-- FABRIC_ACK (R304): An acknowledgement reaches the source. -/
  | fabricAck (req : Nat)
  /-- DEDUP_ADVANCE (R304): A message advances a deduplication window base. -/
  | dedupAdvance (src tgt : Nat)
  /-- REQUEST_RESEND (R305): An unacknowledged request is sent again. -/
  | requestResend (req : Nat)
  /-- REACH_TIMEOUT (R305): The reachability timer expires and the request is abandoned. -/
  | reachTimeout (req : Nat)
  /-- MODULE_RESET (R392): MRESET_N resets the module and re-runs bring-up. -/
  | moduleReset (module slotid : Nat)
  /-- FUNCTION_READY (R381): A function reports ready and held work proceeds. -/
  | functionReady (fn : ModFn)
  /-- THROTTLE_DOWN (R388): A power or thermal condition steps a die's clock level down. -/
  | throttleDown (die : Nat) (cause : ThrottleCause)
  /-- THROTTLE_UP (R388): After 100 µs clear, the clock level steps up. -/
  | throttleUp (die : Nat)
  /-- THERMAL_TRIP (R389): Over-temperature or undervoltage switches off the rails. -/
  | thermalTrip (module : Nat)
  /-- POWER_CAP_WINDOW (R391): Each 1 µs window withholds issue from VIs over their cap. -/
  | powerCapWindow (vi energy : Nat)
  /-- TELEMETRY (R386): Once per second telemetry is sent per die and VI. -/
  | telemetry (module : Nat)
  /-- FIRMWARE_UPDATE (R386): A signed firmware image is staged. -/
  | firmwareUpdate (module : Nat) (img : FwImage)
  /-- SVN_COMMIT (R383): A signed commit raises the fuse counter. -/
  | svnCommit (module svn : Nat)
  /-- ATTESTATION (R386): An SPDM request returns signed measurements. -/
  | attestation (module nonce : Nat)
  /-- VI_CONFIGURATION (R379): Firmware configures a VI's allotment, share, queues and cap. -/
  | viConfiguration (cfg : ViConfig)
  /-- MEASURE_EXTEND (R384): A measurement register is extended with an object's digest. -/
  | measureExtend (module reg : Nat) (obj : List Byte)
  /-- RDMA_TRANSFER (R385): An RDMA transfer reads or writes HBM through a VI's tables; 64 in place of a VI
  is a host core, which reads or writes places of its own module (log 85). -/
  | rdmaTransfer (module vi addr len : Nat) (data : Option (List Byte))
  /-- NOT_AN_INSTRUCTION (R35): A split fetches a word, or a LIM pair, that decodes to no instruction and raises ILLEGAL. -/
  | notAnInstruction (w : Word)
  /-- M_WORD_NOT_INSTRUCTION (R34): The sequencer fetches an M word that is not an instruction, stops the slot and raises MATRIX_FAULT with KIND 0. -/
  | mWordNotInstruction (w : Word)
  /-- RETRAIN_COMPLETE (R303): A port finishes retraining to its new width, its state goes from training to up and paused traffic resumes. -/
  | retrainComplete (port : Nat)
  /-- LINK_LEVEL_RETRY (R303): A port's link acknowledgement timeout expires, the unacknowledged flits are replayed and the port's retry count rises. -/
  | linkLevelRetry (port : Nat)
  /-- KILL_TEAM (R339): Firmware ends a stopped, halted or waiting team, which sets POIS on its completion event. -/
  | killTeam (team : Nat)
  /-- RELEASE_COL_RECORDS (R348): Before an image moves to another UALink group, firmware releases the source Cols' records of the image's held jobs. -/
  | releaseColRecords (vi addr : Nat)
  deriving DecidableEq, Repr

end Sys2Proof
end

