-- ==== Sys2Proof/WellFormed.lean ====
section
/-! DEFINITION. The static checks on an instruction word: register fields (02_words.md R31) and the codes
that a home chapter lists (R35, check 3). A device step has no word, so it is not well-formed as one. -/

namespace Sys2Proof

/-- The system register numbers of 14_system.md R322. -/
def csrListed (n : Nat) : Bool :=
  [0, 1, 2, 3, 4, 5, 6, 7, 8, 9, 10, 16, 17, 18, 19, 24, 25, 32, 33, 34].contains n

/-- The instruction is a word whose register fields and codes the spec lists. -/
def Instr.wellFormed : Instr → Bool
  | .nop => true
  | .mov _ _ _ => true
  | .movi _ _ => true
  | .iadd _ _ _ _ _ => true
  | .isub _ _ _ _ _ => true
  | .imul _ _ _ _ _ => true
  | .imulh _ _ _ _ _ => true
  | .imad _ _ _ _ _ => true
  | .iaddi _ _ _ => true
  | .imin _ _ _ _ _ => true
  | .imax _ _ _ _ _ => true
  | .iabs _ _ _ => true
  | .ineg _ _ _ => true
  | .isad _ _ _ _ _ => true
  | .idiv _ _ _ _ _ => true
  | .irem _ _ _ _ _ => true
  | .and _ _ _ _ _ => true
  | .or _ _ _ _ _ => true
  | .xor _ _ _ _ _ => true
  | .andn _ _ _ _ _ => true
  | .not _ _ _ => true
  | .shl _ _ _ _ _ => true
  | .shr _ _ _ _ _ => true
  | .sha _ _ _ _ _ => true
  | .rotl _ _ _ _ _ => true
  | .shli _ _ _ => true
  | .shri _ _ _ => true
  | .shai _ _ _ => true
  | .popc _ _ _ => true
  | .clz _ _ _ => true
  | .brev _ _ _ => true
  | .bfx _ _ _ _ => true
  | .bfi _ _ _ _ => true
  | .sel _ _ _ _ _ => true
  | .icmp _ _ _ _ _ _ => true
  | .plog _ _ _ _ => true
  | .pmovNz _ _ _ => true
  | .pmovBit _ _ _ _ => true
  | .pmovSet _ => true
  | .pmovClr _ => true
  | .pmovNot _ _ => true
  | .pmovFroms _ _ => true
  | .vote _ c _ => decide (c.toNat ≤ 2)
  | .voteBallot _ _ _ => true
  | .xshf _ _ _ _ => true
  | .setx _ _ _ => true
  | .movx _ _ _ _ => true
  | .stx _ _ _ _ _ => true
  | .s2v _ _ => true
  | .v2s _ _ _ _ => true
  | .sadd _ _ _ => true
  | .saddImm _ _ _ => true
  | .ssub _ _ _ => true
  | .ssubImm _ _ _ => true
  | .smul _ _ _ => true
  | .smulImm _ _ _ => true
  | .sand _ _ _ => true
  | .sandImm _ _ _ => true
  | .sor _ _ _ => true
  | .sorImm _ _ _ => true
  | .sxor _ _ _ => true
  | .sxorImm _ _ _ => true
  | .sshl _ _ _ => true
  | .sshlImm _ _ _ => true
  | .sshr _ _ _ => true
  | .sshrImm _ _ _ => true
  | .scmp _ _ _ _ => true
  | .smovi _ _ => true
  | .sreg _ n => decide (n.toNat ≤ 19)
  | .setm _ => true
  | .modi f _ => decide (f.toNat ≤ 13)
  | .bysel _ _ _ _ _ => true
  | .idot4 _ _ _ _ _ => true
  | .ired _ _ o => decide (o.toNat ≤ 5)
  | .fadd _ _ _ _ _ => true
  | .fsub _ _ _ _ _ => true
  | .fmul _ _ _ _ _ => true
  | .fma _ _ _ _ _ => true
  | .fms _ _ _ _ _ => true
  | .fnma _ _ _ _ _ => true
  | .fmin _ _ _ _ _ => true
  | .fmax _ _ _ _ _ => true
  | .fabs _ _ _ => true
  | .fneg _ _ _ => true
  | .fsgn _ _ _ _ _ => true
  | .fcmp _ _ _ _ _ _ => true
  | .fclass _ _ _ => true
  | .frint _ _ _ => true
  | .fscale _ _ _ _ _ => true
  | .fgetexp _ _ _ => true
  | .fdiv _ _ _ _ _ => true
  | .fsqrt _ _ _ => true
  | .frcp _ _ _ => true
  | .frsq _ _ _ => true
  | .fexp2 _ _ _ => true
  | .flog2 _ _ _ => true
  | .fsin _ _ _ => true
  | .fcos _ _ _ => true
  | .ftanh _ _ _ => true
  | .fdot2 _ _ _ _ _ => true
  | .fdot4 _ _ _ _ _ => true
  | .fred _ _ o => decide (o.toNat ≤ 2)
  | .argmx _ _ _ _ _ => true
  | .cvt _ _ _ _ _ => true
  | .cvtp _ _ _ _ _ => true
  | .seed _ => true
  | .rngU32 _ => true
  | .rngUnit _ => true
  | .rngGet _ => true
  | .rngSet _ _ => true
  | .qmx _ _ _ => true
  | .qmxa _ _ _ _ _ => true
  | .bra _ => true
  | .brall _ => true
  | .brany _ => true
  | .brx a => a.toNat % 2 == 0
  | .call _ => true
  | .callx a => a.toNat % 2 == 0
  | .ret _ => true
  | .split _ => true
  | .rcv _ => true
  | .join => true
  | .exit => true
  | .yield => true
  | .wait _ _ => true
  | .waitImm _ _ => true
  | .bkpt _ => true
  | .msqStart _ _ => true
  | .msqQry _ _ => true
  | .ldb _ _ _ _ _ => true
  | .ldh _ _ _ _ _ => true
  | .ldw _ _ _ _ _ => true
  | .ldd d _ _ _ _ => d.toNat % 2 == 0
  | .ldq d _ _ _ _ => d.toNat % 4 == 0
  | .stb _ _ _ _ _ => true
  | .sth _ _ _ _ _ => true
  | .stw _ _ _ _ _ => true
  | .std d _ _ _ _ => d.toNat % 2 == 0
  | .stq d _ _ _ _ => d.toNat % 4 == 0
  | .ldc _ _ _ _ => true
  | .pref v _ _ _ => decide (v.toNat ≤ 1)
  | .cctlL1inv _ _ _ => true
  | .cctlRdcinv _ _ _ => true
  | .cctlWb _ _ _ => true
  | .cctlWbinv _ _ _ => true
  | .pinSet _ _ _ _ => true
  | .pinClr _ _ _ _ => true
  | .pinQry _ _ _ => true
  | .pinAll _ _ => true
  | .atrn d _ _ _ _ => d.toNat % 2 == 0
  | .fence _ c => decide (1 ≤ c.toNat) && decide (c.toNat ≤ 5)
  | .binit _ _ _ => true
  | .barv _ _ _ c => decide (c.toNat ≤ 5)
  | .barvB _ _ _ _ c => decide (c.toNat ≤ 5)
  | .bexp _ _ _ => true
  | .bwait _ _ c => decide (c.toNat ≤ 5)
  | .btest _ _ _ _ => true
  | .rinit _ _ => true
  | .rarv _ _ => true
  | .rwait _ _ => true
  | .rsync _ _ => true
  | .aadd _ a _ _ _ => a.toNat % 2 == 0
  | .amin _ a _ _ _ => a.toNat % 2 == 0
  | .amax _ a _ _ _ => a.toNat % 2 == 0
  | .aand _ a _ _ _ => a.toNat % 2 == 0
  | .aor _ a _ _ _ => a.toNat % 2 == 0
  | .axor _ a _ _ _ => a.toNat % 2 == 0
  | .axch _ a _ _ _ => a.toNat % 2 == 0
  | .acas _ a _ _ _ => a.toNat % 2 == 0
  | .afadd _ a _ _ _ => a.toNat % 2 == 0
  | .red o a _ _ _ => a.toNat % 2 == 0 && decide (o.toNat ≤ 6)
  | .bump d a _ _ _ => d.toNat % 2 == 0 && a.toNat % 2 == 0
  | .sigi d a _ _ => a.toNat % 2 == 0 && d.toNat % 2 == 0
  | .sigd d a _ _ => a.toNat % 2 == 0 && d.toNat % 2 == 0
  | .tlsig d a b _ => a.toNat % 2 == 0 && d.toNat % 2 == 0 && b.toNat % 2 == 0
  | .carm _ _ _ _ c => decide (c.toNat ≤ 5)
  | .carmCancel _ _ _ => true
  | .cpa d _ _ _ _ => d.toNat % 2 == 0
  | .hdefChk _ _ _ => true
  | .hdefBase _ _ _ => true
  | .hdefOrg _ _ _ => true
  | .hdefAdv _ _ _ => true
  | .hdefOrgh _ _ _ => true
  | .tcpy _ _ _ _ _ _ => true
  | .tsto _ _ _ _ _ _ => true
  | .tred _ _ _ _ _ _ => true
  | .tsct _ _ _ _ _ => true
  | .tgth _ _ _ _ _ _ => true
  | .crset _ _ _ => true
  | .crpop z _ => z.toNat % 4 == 0
  | .crpopSeq _ _ => true
  | .crpopDrop _ _ => true
  | .mbxget z _ => z.toNat % 8 == 0
  | .mbxgetSp _ _ _ => true
  | .mbxarm _ => true
  | .mbxarmCancel _ _ => true
  | .jobdone => true
  | .evsigAdd _ _ => true
  | .evsigReset _ _ _ => true
  | .evarm _ _ _ => true
  | .evarmCancel _ _ => true
  | .evqry _ _ _ _ => true
  | .opapp _ _ _ _ => true
  | .fixup _ _ => true
  | .lmap _ _ _ _ => true
  | .xa2a _ _ _ _ _ _ => true
  | .xag _ _ _ _ _ _ => true
  | .xrs _ _ _ _ _ _ => true
  | .rdcfRange _ _ _ _ => true
  | .rdcfMod _ _ _ => true
  | .fqryPort _ _ _ => true
  | .fqryPlane _ _ _ => true
  | .fqryReach _ _ _ => true
  | .digs _ _ _ _ => true
  | .clonSync => true
  | .clonChk _ => true
  | .clonDrop _ => true
  | .clonTrans _ => true
  | .scrnDig _ => true
  | .scrnSkip => true
  | .susqScore _ _ => true
  | .susqQmask _ _ => true
  | .susqStat _ _ => true
  | .trap _ => true
  | .rte => true
  | .csrr _ c => csrListed c.toNat
  | .csrw _ c => csrListed c.toNat && c.toNat != 17 && c.toNat != 19
  | .tlbiWrite _ => true
  | .fpmapWrite _ => true
  | .ppt => true
  | .pptQry _ => true
  | .bswp _ => true
  | .bswpQry _ => true
  | .ctxs _ _ _ => true
  | .ctxl _ _ _ => true
  | .ctxlTeam _ _ _ _ => true
  | .tagsSet _ => true
  | .tagsCnt _ _ => true
  | .purg _ => true
  | .purgClr _ => true
  | .purgQry _ _ => true
  | .halt => true
  | .lim _ => true
  | .mzero _ _ => true
  | .mma _ _ _ _ _ _ _ => true
  | .mmas _ _ _ _ _ _ => true
  | .mmax _ _ _ _ _ _ _ => true
  | .mlda _ _ _ _ => true
  | .msta _ _ _ _ r _ => decide (r.toNat ≤ 2)
  | .mcmp _ _ _ => true
  | .marv _ => true
  | .mwat _ => true
  | .mhdl _ _ => true
  | .mjmp _ => true
  | .mloop _ imm => decide (2048 ≤ imm.toNat)
  | .mend => true
  | .mtrn _ _ _ _ => true
  | .mendComplete _ => false
  | .idleDemote _ _ _ => false
  | .entityRotate _ _ => false
  | .ownerChecksPassed _ => false
  | .loadDataReturn _ => false
  | .storePerform _ => false
  | .atomicExecute _ => false
  | .l1Invalidate _ _ => false
  | .fenceComplete _ _ _ => false
  | .tlbiComplete _ => false
  | .uncorrectableError _ => false
  | .leaseExpire _ _ => false
  | .leaseInvalidateTimeout _ _ => false
  | .cpaLand _ => false
  | .tileOpComplete _ => false
  | .tredTurn _ => false
  | .fixupRelease _ => false
  | .xrsTurn _ => false
  | .exchangeComplete _ => false
  | .opExpand _ _ _ => false
  | .eventSubscribe _ => false
  | .eventHomeUpdate _ => false
  | .eventNotify _ => false
  | .jobPlace _ => false
  | .jobdoneRetire _ => false
  | .teamPlace _ => false
  | .gangAge _ => false
  | .gangStarved _ => false
  | .waitTimeout _ => false
  | .purgeComplete _ _ => false
  | .drainAllParked _ => false
  | .drainFlushDone _ => false
  | .drainImageWritten _ => false
  | .drainbExpire _ => false
  | .contextSaveDone _ => false
  | .contextLoadDone _ => false
  | .coreLost _ => false
  | .replayRerun _ _ _ => false
  | .cupTimerExpire _ _ => false
  | .scoreDecay _ => false
  | .pktFetch _ => false
  | .pktReread _ => false
  | .queueTranslateRetry _ => false
  | .nopPacket _ => false
  | .queryStatus _ => false
  | .clearQuarantine _ => false
  | .opstreamRegister _ => false
  | .opstreamUnregister _ => false
  | .opstreamClearStop _ => false
  | .eventAdd _ => false
  | .eventReset _ => false
  | .launch _ => false
  | .contextBank _ => false
  | .contextTeam _ => false
  | .preemptDrain _ => false
  | .preemptImmediate _ => false
  | .purge _ => false
  | .purgeClear _ => false
  | .laneFailure _ => false
  | .portRetrain _ _ => false
  | .planeQuiesced _ _ => false
  | .fabricRequestArrive _ => false
  | .fabricAck _ => false
  | .dedupAdvance _ _ => false
  | .requestResend _ => false
  | .reachTimeout _ => false
  | .moduleReset _ _ => false
  | .functionReady _ => false
  | .throttleDown _ _ => false
  | .throttleUp _ => false
  | .thermalTrip _ => false
  | .powerCapWindow _ _ => false
  | .telemetry _ => false
  | .firmwareUpdate _ _ => false
  | .svnCommit _ _ => false
  | .attestation _ _ => false
  | .viConfiguration _ => false
  | .measureExtend _ _ _ => false
  | .rdmaTransfer _ _ _ _ _ => false
  | .notAnInstruction _ => false
  | .mWordNotInstruction _ => false
  | .retrainComplete _ => false
  | .linkLevelRetry _ => false
  | .killTeam _ => false
  | .releaseColRecords _ _ => false

/-- The instruction is a word of the matrix stream's own opcode space (R34, R229). -/
def Instr.isMWord : Instr → Bool
  | .mzero _ _ => true
  | .mma _ _ _ _ _ _ _ => true
  | .mmas _ _ _ _ _ _ => true
  | .mmax _ _ _ _ _ _ _ => true
  | .mlda _ _ _ _ => true
  | .msta _ _ _ _ _ _ => true
  | .mcmp _ _ _ => true
  | .marv _ => true
  | .mwat _ => true
  | .mhdl _ _ => true
  | .mjmp _ => true
  | .mloop _ _ => true
  | .mend => true
  | .mtrn _ _ _ _ => true
  | _ => false

end Sys2Proof
end

