-- ==== Sys2Proof/Decode.lean ====
section
/-! DEFINITION. Decoding and encoding of instruction words (02_words.md R29 to R35; 10_matrix.md R229).
A word is read as a natural number below 2^32; every field is pulled out here, once. -/

namespace Sys2Proof

/-- Why a word is no instruction: its opcode is not in the map (R35, check 1), or a reserved field, a
register field or a code is wrong (check 3). -/
inductive DecodeError where
  | noOpcode
  | badField
  /-- The word is LIM (R36): it is issued with the word after it, so it is decoded by `decodeWord` alone. -/
  | immediateWord
  /-- The word is MTRN (10_matrix.md R239), which `decodeMatrixWord` alone builds, for the same reason. -/
  | tileMoveWord
  deriving DecidableEq, Repr

/-- Bits `lo + wd - 1` down to `lo` of `w`, as a number. -/
def fld (w lo wd : Nat) : Nat := w / 2 ^ lo % 2 ^ wd

/-- The same field as a bit vector. -/
def bits (w lo wd : Nat) : BitVec wd := BitVec.ofNat wd (fld w lo wd)

/-- Opcodes 0x0 to 0xf. -/
def decodeMajor0 (w : Nat) : Except DecodeError Instr :=
  match fld w 24 4 with
  | 0x1 =>
    bif fld w 0 24 == 0 then .ok (.nop) else
    .error .badField
  | 0x2 =>
    bif fld w 0 9 == 0 then .ok (.mov (bits w 18 6) (bits w 12 6) (bits w 9 3)) else
    .error .badField
  | 0x3 =>
    bif fld w 12 6 == 0 then .ok (.movi (bits w 18 6) (bits w 0 12)) else
    .error .badField
  | 0x4 =>
    .ok (.iadd (bits w 18 6) (bits w 12 6) (bits w 9 3) (bits w 3 6) (bits w 0 3))
  | 0x5 =>
    .ok (.isub (bits w 18 6) (bits w 12 6) (bits w 9 3) (bits w 3 6) (bits w 0 3))
  | 0x6 =>
    .ok (.imul (bits w 18 6) (bits w 12 6) (bits w 9 3) (bits w 3 6) (bits w 0 3))
  | 0x7 =>
    .ok (.imulh (bits w 18 6) (bits w 12 6) (bits w 9 3) (bits w 3 6) (bits w 0 3))
  | 0x8 =>
    .ok (.imad (bits w 18 6) (bits w 12 6) (bits w 9 3) (bits w 3 6) (bits w 0 3))
  | 0x9 =>
    .ok (.iaddi (bits w 18 6) (bits w 12 6) (bits w 0 12))
  | 0xa =>
    .ok (.imin (bits w 18 6) (bits w 12 6) (bits w 9 3) (bits w 3 6) (bits w 0 3))
  | 0xb =>
    .ok (.imax (bits w 18 6) (bits w 12 6) (bits w 9 3) (bits w 3 6) (bits w 0 3))
  | 0xc =>
    bif fld w 0 9 == 0 then .ok (.iabs (bits w 18 6) (bits w 12 6) (bits w 9 3)) else
    .error .badField
  | 0xd =>
    bif fld w 0 9 == 0 then .ok (.ineg (bits w 18 6) (bits w 12 6) (bits w 9 3)) else
    .error .badField
  | 0xe =>
    .ok (.isad (bits w 18 6) (bits w 12 6) (bits w 9 3) (bits w 3 6) (bits w 0 3))
  | 0xf =>
    .ok (.idiv (bits w 18 6) (bits w 12 6) (bits w 9 3) (bits w 3 6) (bits w 0 3))
  | _ => .error .noOpcode

/-- Opcodes 0x10 to 0x1f. -/
def decodeMajor1 (w : Nat) : Except DecodeError Instr :=
  match fld w 24 4 with
  | 0x0 =>
    .ok (.irem (bits w 18 6) (bits w 12 6) (bits w 9 3) (bits w 3 6) (bits w 0 3))
  | 0x1 =>
    .ok (.and (bits w 18 6) (bits w 12 6) (bits w 9 3) (bits w 3 6) (bits w 0 3))
  | 0x2 =>
    .ok (.or (bits w 18 6) (bits w 12 6) (bits w 9 3) (bits w 3 6) (bits w 0 3))
  | 0x3 =>
    .ok (.xor (bits w 18 6) (bits w 12 6) (bits w 9 3) (bits w 3 6) (bits w 0 3))
  | 0x4 =>
    .ok (.andn (bits w 18 6) (bits w 12 6) (bits w 9 3) (bits w 3 6) (bits w 0 3))
  | 0x5 =>
    bif fld w 0 9 == 0 then .ok (.not (bits w 18 6) (bits w 12 6) (bits w 9 3)) else
    .error .badField
  | 0x6 =>
    .ok (.shl (bits w 18 6) (bits w 12 6) (bits w 9 3) (bits w 3 6) (bits w 0 3))
  | 0x7 =>
    .ok (.shr (bits w 18 6) (bits w 12 6) (bits w 9 3) (bits w 3 6) (bits w 0 3))
  | 0x8 =>
    .ok (.sha (bits w 18 6) (bits w 12 6) (bits w 9 3) (bits w 3 6) (bits w 0 3))
  | 0x9 =>
    .ok (.rotl (bits w 18 6) (bits w 12 6) (bits w 9 3) (bits w 3 6) (bits w 0 3))
  | 0xa =>
    bif fld w 6 6 == 0 then .ok (.shli (bits w 18 6) (bits w 12 6) (bits w 0 6)) else
    .error .badField
  | 0xb =>
    bif fld w 6 6 == 0 then .ok (.shri (bits w 18 6) (bits w 12 6) (bits w 0 6)) else
    .error .badField
  | 0xc =>
    bif fld w 6 6 == 0 then .ok (.shai (bits w 18 6) (bits w 12 6) (bits w 0 6)) else
    .error .badField
  | 0xd =>
    bif fld w 0 9 == 0 then .ok (.popc (bits w 18 6) (bits w 12 6) (bits w 9 3)) else
    .error .badField
  | 0xe =>
    bif fld w 0 9 == 0 then .ok (.clz (bits w 18 6) (bits w 12 6) (bits w 9 3)) else
    .error .badField
  | 0xf =>
    bif fld w 0 9 == 0 then .ok (.brev (bits w 18 6) (bits w 12 6) (bits w 9 3)) else
    .error .badField
  | _ => .error .noOpcode

/-- Opcodes 0x20 to 0x2f. -/
def decodeMajor2 (w : Nat) : Except DecodeError Instr :=
  match fld w 24 4 with
  | 0x0 =>
    .ok (.bfx (bits w 18 6) (bits w 12 6) (bits w 6 6) (bits w 0 6))
  | 0x1 =>
    .ok (.bfi (bits w 18 6) (bits w 12 6) (bits w 6 6) (bits w 0 6))
  | 0x2 =>
    .ok (.sel (bits w 18 6) (bits w 12 6) (bits w 9 3) (bits w 3 6) (bits w 0 3))
  | 0x3 =>
    .ok (.icmp (bits w 21 3) (bits w 18 3) (bits w 12 6) (bits w 9 3) (bits w 3 6) (bits w 0 3))
  | 0x4 =>
    bif fld w 0 3 == 0 && fld w 6 6 == 0 && fld w 15 3 == 0 then .ok (.plog (bits w 21 3) (bits w 18 3) (bits w 12 3) (bits w 3 3)) else
    .error .badField
  | 0x5 =>
    bif fld w 0 21 == 524288 then .ok (.pmovSet (bits w 21 3)) else
    bif fld w 0 21 == 786432 then .ok (.pmovClr (bits w 21 3)) else
    bif fld w 0 12 == 0 && fld w 15 6 == 32 then .ok (.pmovNot (bits w 21 3) (bits w 12 3)) else
    bif fld w 0 12 == 0 && fld w 17 4 == 10 then .ok (.pmovFroms (bits w 21 3) (bits w 12 5)) else
    bif fld w 0 9 == 0 && fld w 18 3 == 0 then .ok (.pmovNz (bits w 21 3) (bits w 12 6) (bits w 9 3)) else
    bif fld w 0 3 == 0 && fld w 8 1 == 0 && fld w 18 3 == 1 then .ok (.pmovBit (bits w 21 3) (bits w 12 6) (bits w 9 3) (bits w 3 5)) else
    .error .badField
  | 0x6 =>
    bif fld w 0 12 == 0 && fld w 15 3 == 0 && decide ((fld w 18 3) ≤ 2) then .ok (.vote (bits w 21 3) (bits w 18 3) (bits w 12 3)) else
    bif fld w 0 3 == 0 && fld w 8 4 == 0 && fld w 15 6 == 24 then .ok (.voteBallot (bits w 21 3) (bits w 12 3) (bits w 3 5)) else
    .error .badField
  | 0x7 =>
    bif fld w 9 3 == 0 then .ok (.xshf (bits w 18 6) (bits w 12 6) (bits w 3 6) (bits w 0 3)) else
    .error .badField
  | 0x8 =>
    bif fld w 0 9 == 0 && fld w 22 2 == 0 then .ok (.setx (bits w 19 3) (bits w 14 5) (bits w 9 5)) else
    .error .badField
  | 0x9 =>
    bif fld w 0 3 == 0 && fld w 6 3 == 0 then .ok (.movx (bits w 18 6) (bits w 12 6) (bits w 9 3) (bits w 3 3)) else
    .error .badField
  | 0xa =>
    bif fld w 21 3 == 0 then .ok (.stx (bits w 18 3) (bits w 12 6) (bits w 9 3) (bits w 3 6) (bits w 0 3)) else
    .error .badField
  | 0xb =>
    bif fld w 0 12 == 0 && fld w 17 1 == 0 then .ok (.s2v (bits w 18 6) (bits w 12 5)) else
    .error .badField
  | 0xc =>
    bif fld w 0 3 == 0 && fld w 8 1 == 0 && fld w 23 1 == 0 then .ok (.v2s (bits w 18 5) (bits w 12 6) (bits w 9 3) (bits w 3 5)) else
    .error .badField
  | 0xd =>
    bif fld w 0 9 == 0 then .ok (.sadd (bits w 19 5) (bits w 14 5) (bits w 9 5)) else
    bif fld w 8 6 == 1 then .ok (.saddImm (bits w 19 5) (bits w 14 5) (bits w 0 8)) else
    .error .badField
  | 0xe =>
    bif fld w 0 9 == 0 then .ok (.ssub (bits w 19 5) (bits w 14 5) (bits w 9 5)) else
    bif fld w 8 6 == 1 then .ok (.ssubImm (bits w 19 5) (bits w 14 5) (bits w 0 8)) else
    .error .badField
  | 0xf =>
    bif fld w 0 9 == 0 then .ok (.smul (bits w 19 5) (bits w 14 5) (bits w 9 5)) else
    bif fld w 8 6 == 1 then .ok (.smulImm (bits w 19 5) (bits w 14 5) (bits w 0 8)) else
    .error .badField
  | _ => .error .noOpcode

/-- Opcodes 0x30 to 0x3f. -/
def decodeMajor3 (w : Nat) : Except DecodeError Instr :=
  match fld w 24 4 with
  | 0x0 =>
    bif fld w 0 9 == 0 then .ok (.sand (bits w 19 5) (bits w 14 5) (bits w 9 5)) else
    bif fld w 8 6 == 1 then .ok (.sandImm (bits w 19 5) (bits w 14 5) (bits w 0 8)) else
    .error .badField
  | 0x1 =>
    bif fld w 0 9 == 0 then .ok (.sor (bits w 19 5) (bits w 14 5) (bits w 9 5)) else
    bif fld w 8 6 == 1 then .ok (.sorImm (bits w 19 5) (bits w 14 5) (bits w 0 8)) else
    .error .badField
  | 0x2 =>
    bif fld w 0 9 == 0 then .ok (.sxor (bits w 19 5) (bits w 14 5) (bits w 9 5)) else
    bif fld w 8 6 == 1 then .ok (.sxorImm (bits w 19 5) (bits w 14 5) (bits w 0 8)) else
    .error .badField
  | 0x3 =>
    bif fld w 0 9 == 0 then .ok (.sshl (bits w 19 5) (bits w 14 5) (bits w 9 5)) else
    bif fld w 8 6 == 1 then .ok (.sshlImm (bits w 19 5) (bits w 14 5) (bits w 0 8)) else
    .error .badField
  | 0x4 =>
    bif fld w 0 9 == 0 then .ok (.sshr (bits w 19 5) (bits w 14 5) (bits w 9 5)) else
    bif fld w 8 6 == 1 then .ok (.sshrImm (bits w 19 5) (bits w 14 5) (bits w 0 8)) else
    .error .badField
  | 0x5 =>
    bif fld w 3 6 == 0 then .ok (.scmp (bits w 19 5) (bits w 14 5) (bits w 9 5) (bits w 0 3)) else
    .error .badField
  | 0x6 =>
    .ok (.smovi (bits w 19 5) (bits w 0 19))
  | 0x7 =>
    bif fld w 9 10 == 0 && decide ((fld w 0 9) ≤ 19) then .ok (.sreg (bits w 19 5) (bits w 0 9)) else
    .error .badField
  | 0x8 =>
    bif fld w 0 14 == 0 && fld w 19 5 == 0 then .ok (.setm (bits w 14 5)) else
    .error .badField
  | 0x9 =>
    bif fld w 12 6 == 0 && fld w 22 2 == 0 && decide ((fld w 18 4) ≤ 13) then .ok (.modi (bits w 18 4) (bits w 0 12)) else
    .error .badField
  | 0xa =>
    .ok (.bysel (bits w 18 6) (bits w 12 6) (bits w 9 3) (bits w 3 6) (bits w 0 3))
  | 0xb =>
    .ok (.idot4 (bits w 18 6) (bits w 12 6) (bits w 9 3) (bits w 3 6) (bits w 0 3))
  | 0xc =>
    bif fld w 0 3 == 0 && fld w 6 6 == 0 && decide ((fld w 3 3) ≤ 5) then .ok (.ired (bits w 18 6) (bits w 12 6) (bits w 3 3)) else
    .error .badField
  | _ => .error .noOpcode

/-- Opcodes 0x40 to 0x4f. -/
def decodeMajor4 (w : Nat) : Except DecodeError Instr :=
  match fld w 24 4 with
  | 0x0 =>
    .ok (.fadd (bits w 18 6) (bits w 12 6) (bits w 9 3) (bits w 3 6) (bits w 0 3))
  | 0x1 =>
    .ok (.fsub (bits w 18 6) (bits w 12 6) (bits w 9 3) (bits w 3 6) (bits w 0 3))
  | 0x2 =>
    .ok (.fmul (bits w 18 6) (bits w 12 6) (bits w 9 3) (bits w 3 6) (bits w 0 3))
  | 0x3 =>
    .ok (.fma (bits w 18 6) (bits w 12 6) (bits w 9 3) (bits w 3 6) (bits w 0 3))
  | 0x4 =>
    .ok (.fms (bits w 18 6) (bits w 12 6) (bits w 9 3) (bits w 3 6) (bits w 0 3))
  | 0x5 =>
    .ok (.fnma (bits w 18 6) (bits w 12 6) (bits w 9 3) (bits w 3 6) (bits w 0 3))
  | 0x6 =>
    .ok (.fmin (bits w 18 6) (bits w 12 6) (bits w 9 3) (bits w 3 6) (bits w 0 3))
  | 0x7 =>
    .ok (.fmax (bits w 18 6) (bits w 12 6) (bits w 9 3) (bits w 3 6) (bits w 0 3))
  | 0x8 =>
    bif fld w 0 9 == 0 then .ok (.fabs (bits w 18 6) (bits w 12 6) (bits w 9 3)) else
    .error .badField
  | 0x9 =>
    bif fld w 0 9 == 0 then .ok (.fneg (bits w 18 6) (bits w 12 6) (bits w 9 3)) else
    .error .badField
  | 0xa =>
    .ok (.fsgn (bits w 18 6) (bits w 12 6) (bits w 9 3) (bits w 3 6) (bits w 0 3))
  | 0xb =>
    .ok (.fcmp (bits w 21 3) (bits w 18 3) (bits w 12 6) (bits w 9 3) (bits w 3 6) (bits w 0 3))
  | 0xc =>
    bif fld w 0 9 == 0 then .ok (.fclass (bits w 18 6) (bits w 12 6) (bits w 9 3)) else
    .error .badField
  | 0xd =>
    bif fld w 0 9 == 0 then .ok (.frint (bits w 18 6) (bits w 12 6) (bits w 9 3)) else
    .error .badField
  | 0xe =>
    .ok (.fscale (bits w 18 6) (bits w 12 6) (bits w 9 3) (bits w 3 6) (bits w 0 3))
  | 0xf =>
    bif fld w 0 9 == 0 then .ok (.fgetexp (bits w 18 6) (bits w 12 6) (bits w 9 3)) else
    .error .badField
  | _ => .error .noOpcode

/-- Opcodes 0x50 to 0x5f. -/
def decodeMajor5 (w : Nat) : Except DecodeError Instr :=
  match fld w 24 4 with
  | 0x0 =>
    .ok (.fdiv (bits w 18 6) (bits w 12 6) (bits w 9 3) (bits w 3 6) (bits w 0 3))
  | 0x1 =>
    bif fld w 0 9 == 0 then .ok (.fsqrt (bits w 18 6) (bits w 12 6) (bits w 9 3)) else
    .error .badField
  | 0x2 =>
    bif fld w 0 9 == 0 then .ok (.frcp (bits w 18 6) (bits w 12 6) (bits w 9 3)) else
    .error .badField
  | 0x3 =>
    bif fld w 0 9 == 0 then .ok (.frsq (bits w 18 6) (bits w 12 6) (bits w 9 3)) else
    .error .badField
  | 0x4 =>
    bif fld w 0 9 == 0 then .ok (.fexp2 (bits w 18 6) (bits w 12 6) (bits w 9 3)) else
    .error .badField
  | 0x5 =>
    bif fld w 0 9 == 0 then .ok (.flog2 (bits w 18 6) (bits w 12 6) (bits w 9 3)) else
    .error .badField
  | 0x6 =>
    bif fld w 0 9 == 0 then .ok (.fsin (bits w 18 6) (bits w 12 6) (bits w 9 3)) else
    .error .badField
  | 0x7 =>
    bif fld w 0 9 == 0 then .ok (.fcos (bits w 18 6) (bits w 12 6) (bits w 9 3)) else
    .error .badField
  | 0x8 =>
    bif fld w 0 9 == 0 then .ok (.ftanh (bits w 18 6) (bits w 12 6) (bits w 9 3)) else
    .error .badField
  | 0x9 =>
    .ok (.fdot2 (bits w 18 6) (bits w 12 6) (bits w 9 3) (bits w 3 6) (bits w 0 3))
  | 0xa =>
    .ok (.fdot4 (bits w 18 6) (bits w 12 6) (bits w 9 3) (bits w 3 6) (bits w 0 3))
  | 0xb =>
    bif fld w 0 3 == 0 && fld w 6 6 == 0 && decide ((fld w 3 3) ≤ 2) then .ok (.fred (bits w 18 6) (bits w 12 6) (bits w 3 3)) else
    .error .badField
  | 0xc =>
    .ok (.argmx (bits w 18 6) (bits w 12 6) (bits w 9 3) (bits w 3 6) (bits w 0 3))
  | _ => .error .noOpcode

/-- Opcodes 0x60 to 0x6f. -/
def decodeMajor6 (w : Nat) : Except DecodeError Instr :=
  match fld w 24 4 with
  | 0x0 =>
    bif fld w 0 3 == 0 then .ok (.cvt (bits w 18 6) (bits w 12 6) (bits w 9 3) (bits w 7 2) (bits w 3 4)) else
    .error .badField
  | 0x1 =>
    .ok (.cvtp (bits w 18 6) (bits w 12 6) (bits w 9 3) (bits w 3 6) (bits w 0 3))
  | 0x2 =>
    bif fld w 0 14 == 0 && fld w 19 5 == 0 then .ok (.seed (bits w 14 5)) else
    .error .badField
  | 0x3 =>
    bif fld w 0 18 == 0 then .ok (.rngU32 (bits w 18 6)) else
    bif fld w 0 18 == 8 then .ok (.rngUnit (bits w 18 6)) else
    bif fld w 0 18 == 16 then .ok (.rngGet (bits w 18 6)) else
    bif fld w 0 9 == 24 && fld w 18 6 == 0 then .ok (.rngSet (bits w 12 6) (bits w 9 3)) else
    .error .badField
  | 0x4 =>
    bif fld w 0 9 == 0 then .ok (.qmx (bits w 18 6) (bits w 12 6) (bits w 9 3)) else
    .error .badField
  | 0x5 =>
    .ok (.qmxa (bits w 18 6) (bits w 12 6) (bits w 9 3) (bits w 3 6) (bits w 0 3))
  | _ => .error .noOpcode

/-- Opcodes 0x70 to 0x7f. -/
def decodeMajor7 (w : Nat) : Except DecodeError Instr :=
  match fld w 24 4 with
  | 0x0 =>
    .ok (.bra (bits w 0 24))
  | 0x1 =>
    .ok (.brall (bits w 0 24))
  | 0x2 =>
    .ok (.brany (bits w 0 24))
  | 0x3 =>
    bif fld w 0 12 == 0 && fld w 18 6 == 0 && (fld w 12 6) % 2 == 0 then .ok (.brx (bits w 12 6)) else
    .error .badField
  | 0x4 =>
    .ok (.call (bits w 0 24))
  | 0x5 =>
    bif fld w 0 12 == 0 && fld w 18 6 == 0 && (fld w 12 6) % 2 == 0 then .ok (.callx (bits w 12 6)) else
    .error .badField
  | 0x6 =>
    bif fld w 0 12 == 0 && fld w 17 7 == 0 then .ok (.ret (bits w 12 5)) else
    .error .badField
  | 0x7 =>
    .ok (.split (bits w 0 24))
  | 0x8 =>
    .ok (.rcv (bits w 0 24))
  | 0x9 =>
    bif fld w 0 24 == 0 then .ok (.join) else
    .error .badField
  | 0xa =>
    bif fld w 0 24 == 0 then .ok (.exit) else
    .error .badField
  | 0xb =>
    bif fld w 0 24 == 0 then .ok (.yield) else
    .error .badField
  | 0xc =>
    bif fld w 0 9 == 0 && fld w 14 5 == 0 && fld w 22 2 == 0 then .ok (.wait (bits w 19 3) (bits w 9 5)) else
    bif fld w 6 13 == 4 && fld w 22 2 == 0 then .ok (.waitImm (bits w 19 3) (bits w 0 6)) else
    .error .badField
  | 0xd =>
    bif fld w 12 12 == 0 then .ok (.bkpt (bits w 0 12)) else
    .error .badField
  | 0xe =>
    bif fld w 0 5 == 0 && fld w 9 10 == 0 then .ok (.msqStart (bits w 19 5) (bits w 5 4)) else
    bif fld w 0 5 == 1 && fld w 14 10 == 0 then .ok (.msqQry (bits w 9 5) (bits w 5 4)) else
    .error .badField
  | _ => .error .noOpcode

/-- Opcodes 0x80 to 0x8f. -/
def decodeMajor8 (w : Nat) : Except DecodeError Instr :=
  match fld w 24 4 with
  | 0x0 =>
    .ok (.ldb (bits w 18 6) (bits w 12 6) (bits w 7 5) (bits w 3 4) (bits w 0 3))
  | 0x1 =>
    .ok (.ldh (bits w 18 6) (bits w 12 6) (bits w 7 5) (bits w 3 4) (bits w 0 3))
  | 0x2 =>
    .ok (.ldw (bits w 18 6) (bits w 12 6) (bits w 7 5) (bits w 3 4) (bits w 0 3))
  | 0x3 =>
    bif (fld w 18 6) % 2 == 0 then .ok (.ldd (bits w 18 6) (bits w 12 6) (bits w 7 5) (bits w 3 4) (bits w 0 3)) else
    .error .badField
  | 0x4 =>
    bif (fld w 18 6) % 4 == 0 then .ok (.ldq (bits w 18 6) (bits w 12 6) (bits w 7 5) (bits w 3 4) (bits w 0 3)) else
    .error .badField
  | 0x5 =>
    .ok (.stb (bits w 18 6) (bits w 12 6) (bits w 7 5) (bits w 3 4) (bits w 0 3))
  | 0x6 =>
    .ok (.sth (bits w 18 6) (bits w 12 6) (bits w 7 5) (bits w 3 4) (bits w 0 3))
  | 0x7 =>
    .ok (.stw (bits w 18 6) (bits w 12 6) (bits w 7 5) (bits w 3 4) (bits w 0 3))
  | 0x8 =>
    bif (fld w 18 6) % 2 == 0 then .ok (.std (bits w 18 6) (bits w 12 6) (bits w 7 5) (bits w 3 4) (bits w 0 3)) else
    .error .badField
  | 0x9 =>
    bif (fld w 18 6) % 4 == 0 then .ok (.stq (bits w 18 6) (bits w 12 6) (bits w 7 5) (bits w 3 4) (bits w 0 3)) else
    .error .badField
  | 0xa =>
    bif fld w 12 6 == 0 && fld w 23 1 == 0 then .ok (.ldc (bits w 18 5) (bits w 7 5) (bits w 3 4) (bits w 0 3)) else
    .error .badField
  | 0xb =>
    bif fld w 0 3 == 0 && fld w 20 4 == 0 && decide ((fld w 18 2) ≤ 1) then .ok (.pref (bits w 18 2) (bits w 12 6) (bits w 7 5) (bits w 3 4)) else
    .error .badField
  | 0xc =>
    bif fld w 0 3 == 0 && fld w 18 6 == 0 then .ok (.cctlL1inv (bits w 12 6) (bits w 7 5) (bits w 3 4)) else
    bif fld w 0 3 == 0 && fld w 18 6 == 1 then .ok (.cctlRdcinv (bits w 12 6) (bits w 7 5) (bits w 3 4)) else
    bif fld w 0 3 == 0 && fld w 18 6 == 2 then .ok (.cctlWb (bits w 12 6) (bits w 7 5) (bits w 3 4)) else
    bif fld w 0 3 == 0 && fld w 18 6 == 3 then .ok (.cctlWbinv (bits w 12 6) (bits w 7 5) (bits w 3 4)) else
    .error .badField
  | 0xd =>
    bif fld w 0 5 == 3 && fld w 14 10 == 0 then .ok (.pinAll (bits w 9 5) (bits w 5 4)) else
    bif fld w 0 5 == 2 && fld w 19 5 == 0 then .ok (.pinQry (bits w 14 5) (bits w 9 5) (bits w 5 4)) else
    bif fld w 0 5 == 0 then .ok (.pinSet (bits w 19 5) (bits w 14 5) (bits w 9 5) (bits w 5 4)) else
    bif fld w 0 5 == 1 then .ok (.pinClr (bits w 19 5) (bits w 14 5) (bits w 9 5) (bits w 5 4)) else
    .error .badField
  | 0xe =>
    bif fld w 1 2 == 0 && (fld w 18 6) % 2 == 0 then .ok (.atrn (bits w 18 6) (bits w 12 6) (bits w 7 5) (bits w 3 4) (bits w 0 1)) else
    .error .badField
  | _ => .error .noOpcode

/-- Opcodes 0xa0 to 0xaf. -/
def decodeMajorA (w : Nat) : Except DecodeError Instr :=
  match fld w 24 4 with
  | 0x0 =>
    bif fld w 4 20 == 0 && decide (1 ≤ (fld w 0 3)) && decide ((fld w 0 3) ≤ 5) then .ok (.fence (bits w 3 1) (bits w 0 3)) else
    .error .badField
  | 0x1 =>
    bif fld w 0 5 == 0 && fld w 9 5 == 0 then .ok (.binit (bits w 19 5) (bits w 14 5) (bits w 5 4)) else
    .error .badField
  | 0x2 =>
    bif fld w 3 2 == 0 && fld w 14 5 == 0 && decide ((fld w 0 3) ≤ 5) then .ok (.barv (bits w 19 5) (bits w 9 5) (bits w 5 4) (bits w 0 3)) else
    bif fld w 3 2 == 1 && decide ((fld w 0 3) ≤ 5) then .ok (.barvB (bits w 19 5) (bits w 14 5) (bits w 9 5) (bits w 5 4) (bits w 0 3)) else
    .error .badField
  | 0x3 =>
    bif fld w 0 5 == 0 && fld w 9 5 == 0 then .ok (.bexp (bits w 19 5) (bits w 14 5) (bits w 5 4)) else
    .error .badField
  | 0x4 =>
    bif fld w 3 11 == 0 && decide ((fld w 0 3) ≤ 5) then .ok (.bwait (bits w 19 5) (bits w 14 5) (bits w 0 3)) else
    .error .badField
  | 0x5 =>
    bif fld w 1 4 == 0 && fld w 14 5 == 0 then .ok (.btest (bits w 19 5) (bits w 9 5) (bits w 5 4) (bits w 0 1)) else
    .error .badField
  | 0x6 =>
    bif fld w 5 9 == 0 && fld w 19 5 == 0 then .ok (.rinit (bits w 14 5) (bits w 0 5)) else
    .error .badField
  | 0x7 =>
    bif fld w 5 4 == 0 && fld w 14 10 == 0 then .ok (.rarv (bits w 9 5) (bits w 0 5)) else
    .error .badField
  | 0x8 =>
    bif fld w 5 9 == 0 && fld w 19 5 == 0 then .ok (.rwait (bits w 14 5) (bits w 0 5)) else
    .error .badField
  | 0x9 =>
    bif fld w 5 4 == 0 && fld w 14 10 == 0 then .ok (.rsync (bits w 9 5) (bits w 0 5)) else
    .error .badField
  | _ => .error .noOpcode

/-- Opcodes 0xb0 to 0xbf. -/
def decodeMajorB (w : Nat) : Except DecodeError Instr :=
  match fld w 24 4 with
  | 0x0 =>
    bif (fld w 12 6) % 2 == 0 then .ok (.aadd (bits w 18 6) (bits w 12 6) (bits w 6 6) (bits w 2 4) (bits w 0 2)) else
    .error .badField
  | 0x1 =>
    bif (fld w 12 6) % 2 == 0 then .ok (.amin (bits w 18 6) (bits w 12 6) (bits w 6 6) (bits w 2 4) (bits w 0 2)) else
    .error .badField
  | 0x2 =>
    bif (fld w 12 6) % 2 == 0 then .ok (.amax (bits w 18 6) (bits w 12 6) (bits w 6 6) (bits w 2 4) (bits w 0 2)) else
    .error .badField
  | 0x3 =>
    bif (fld w 12 6) % 2 == 0 then .ok (.aand (bits w 18 6) (bits w 12 6) (bits w 6 6) (bits w 2 4) (bits w 0 2)) else
    .error .badField
  | 0x4 =>
    bif (fld w 12 6) % 2 == 0 then .ok (.aor (bits w 18 6) (bits w 12 6) (bits w 6 6) (bits w 2 4) (bits w 0 2)) else
    .error .badField
  | 0x5 =>
    bif (fld w 12 6) % 2 == 0 then .ok (.axor (bits w 18 6) (bits w 12 6) (bits w 6 6) (bits w 2 4) (bits w 0 2)) else
    .error .badField
  | 0x6 =>
    bif (fld w 12 6) % 2 == 0 then .ok (.axch (bits w 18 6) (bits w 12 6) (bits w 6 6) (bits w 2 4) (bits w 0 2)) else
    .error .badField
  | 0x7 =>
    bif (fld w 12 6) % 2 == 0 then .ok (.acas (bits w 18 6) (bits w 12 6) (bits w 6 6) (bits w 2 4) (bits w 0 2)) else
    .error .badField
  | 0x8 =>
    bif (fld w 12 6) % 2 == 0 then .ok (.afadd (bits w 18 6) (bits w 12 6) (bits w 6 6) (bits w 2 4) (bits w 0 2)) else
    .error .badField
  | 0x9 =>
    bif fld w 0 1 == 0 && fld w 21 3 == 0 && (fld w 12 6) % 2 == 0 && decide ((fld w 18 3) ≤ 6) then .ok (.red (bits w 18 3) (bits w 12 6) (bits w 6 6) (bits w 2 4) (bits w 1 1)) else
    .error .badField
  | 0xa =>
    bif (fld w 18 6) % 2 == 0 && (fld w 12 6) % 2 == 0 then .ok (.bump (bits w 18 6) (bits w 12 6) (bits w 6 6) (bits w 2 4) (bits w 0 2)) else
    .error .badField
  | 0xb =>
    bif fld w 2 4 == 0 && (fld w 12 6) % 2 == 0 && (fld w 18 6) % 2 == 0 then .ok (.sigi (bits w 18 6) (bits w 12 6) (bits w 6 6) (bits w 0 2)) else
    .error .badField
  | 0xc =>
    bif fld w 2 4 == 0 && (fld w 12 6) % 2 == 0 && (fld w 18 6) % 2 == 0 then .ok (.sigd (bits w 18 6) (bits w 12 6) (bits w 6 6) (bits w 0 2)) else
    .error .badField
  | 0xd =>
    bif fld w 2 4 == 0 && (fld w 12 6) % 2 == 0 && (fld w 18 6) % 2 == 0 && (fld w 6 6) % 2 == 0 then .ok (.tlsig (bits w 18 6) (bits w 12 6) (bits w 6 6) (bits w 0 2)) else
    .error .badField
  | 0xe =>
    bif fld w 0 5 == 6 && fld w 19 5 == 0 then .ok (.carmCancel (bits w 14 5) (bits w 9 5) (bits w 5 4)) else
    bif decide ((fld w 0 5) ≤ 5) then .ok (.carm (bits w 19 5) (bits w 14 5) (bits w 9 5) (bits w 5 4) (bits w 0 5)) else
    .error .badField
  | _ => .error .noOpcode

/-- Opcodes 0xc0 to 0xcf. -/
def decodeMajorC (w : Nat) : Except DecodeError Instr :=
  match fld w 24 4 with
  | 0x0 =>
    bif fld w 2 1 == 0 && (fld w 18 6) % 2 == 0 then .ok (.cpa (bits w 18 6) (bits w 12 6) (bits w 7 5) (bits w 3 4) (bits w 0 2)) else
    .error .badField
  | 0x1 =>
    bif fld w 0 5 == 0 && fld w 19 5 == 0 then .ok (.hdefChk (bits w 14 5) (bits w 9 5) (bits w 5 4)) else
    bif fld w 0 5 == 1 && fld w 9 5 == 0 then .ok (.hdefBase (bits w 19 5) (bits w 14 5) (bits w 5 4)) else
    bif fld w 0 5 == 2 && fld w 9 5 == 0 then .ok (.hdefOrg (bits w 19 5) (bits w 14 5) (bits w 5 4)) else
    bif fld w 0 5 == 3 && fld w 9 5 == 0 then .ok (.hdefAdv (bits w 19 5) (bits w 14 5) (bits w 5 4)) else
    bif fld w 0 5 == 4 && fld w 9 5 == 0 then .ok (.hdefOrgh (bits w 19 5) (bits w 14 5) (bits w 5 4)) else
    .error .badField
  | 0x2 =>
    bif fld w 2 3 == 0 then .ok (.tcpy (bits w 19 5) (bits w 14 5) (bits w 9 5) (bits w 5 4) (bits w 1 1) (bits w 0 1)) else
    .error .badField
  | 0x3 =>
    bif fld w 2 3 == 0 then .ok (.tsto (bits w 19 5) (bits w 14 5) (bits w 9 5) (bits w 5 4) (bits w 1 1) (bits w 0 1)) else
    .error .badField
  | 0x4 =>
    bif fld w 2 3 == 0 then .ok (.tred (bits w 19 5) (bits w 14 5) (bits w 9 5) (bits w 5 4) (bits w 1 1) (bits w 0 1)) else
    .error .badField
  | 0x5 =>
    .ok (.tsct (bits w 19 5) (bits w 14 5) (bits w 9 5) (bits w 5 4) (bits w 0 5))
  | 0x6 =>
    bif fld w 2 3 == 0 then .ok (.tgth (bits w 19 5) (bits w 14 5) (bits w 9 5) (bits w 5 4) (bits w 1 1) (bits w 0 1)) else
    .error .badField
  | 0x7 =>
    bif fld w 0 5 == 0 && fld w 9 5 == 0 then .ok (.crset (bits w 19 5) (bits w 14 5) (bits w 5 4)) else
    .error .badField
  | 0x8 =>
    bif fld w 0 5 == 0 && fld w 14 10 == 0 && (fld w 9 5) % 4 == 0 then .ok (.crpop (bits w 9 5) (bits w 5 4)) else
    bif fld w 0 5 == 1 && fld w 14 10 == 0 then .ok (.crpopSeq (bits w 9 5) (bits w 5 4)) else
    bif fld w 0 5 == 2 && fld w 14 10 == 0 then .ok (.crpopDrop (bits w 9 5) (bits w 5 4)) else
    .error .badField
  | _ => .error .noOpcode

/-- Opcodes 0xd0 to 0xdf. -/
def decodeMajorD (w : Nat) : Except DecodeError Instr :=
  match fld w 24 4 with
  | 0x0 =>
    bif fld w 0 5 == 0 && fld w 14 10 == 0 && (fld w 9 5) % 8 == 0 then .ok (.mbxget (bits w 9 5) (bits w 5 4)) else
    bif fld w 0 5 == 1 && fld w 19 5 == 0 then .ok (.mbxgetSp (bits w 14 5) (bits w 9 5) (bits w 5 4)) else
    .error .badField
  | 0x1 =>
    bif fld w 0 14 == 0 && fld w 19 5 == 0 then .ok (.mbxarm (bits w 14 5)) else
    bif fld w 0 9 == 1 && fld w 19 5 == 0 then .ok (.mbxarmCancel (bits w 14 5) (bits w 9 5)) else
    .error .badField
  | 0x2 =>
    bif fld w 0 24 == 0 then .ok (.jobdone) else
    .error .badField
  | 0x3 =>
    bif fld w 0 14 == 0 then .ok (.evsigAdd (bits w 19 5) (bits w 14 5)) else
    bif fld w 0 9 == 1 then .ok (.evsigReset (bits w 19 5) (bits w 14 5) (bits w 9 5)) else
    .error .badField
  | 0x4 =>
    bif fld w 0 9 == 1 && fld w 19 5 == 0 then .ok (.evarmCancel (bits w 14 5) (bits w 9 5)) else
    bif fld w 0 9 == 0 then .ok (.evarm (bits w 19 5) (bits w 14 5) (bits w 9 5)) else
    .error .badField
  | 0x5 =>
    bif fld w 1 4 == 0 && fld w 14 5 == 0 then .ok (.evqry (bits w 19 5) (bits w 9 5) (bits w 5 4) (bits w 0 1)) else
    .error .badField
  | 0x6 =>
    bif fld w 0 5 == 0 then .ok (.opapp (bits w 19 5) (bits w 14 5) (bits w 9 5) (bits w 5 4)) else
    .error .badField
  | 0x7 =>
    bif fld w 0 9 == 0 && fld w 14 5 == 0 then .ok (.fixup (bits w 19 5) (bits w 9 5)) else
    .error .badField
  | _ => .error .noOpcode

/-- Opcodes 0xe0 to 0xef. -/
def decodeMajorE (w : Nat) : Except DecodeError Instr :=
  match fld w 24 4 with
  | 0x0 =>
    bif fld w 3 2 == 0 && fld w 19 5 == 0 then .ok (.lmap (bits w 14 5) (bits w 9 5) (bits w 5 4) (bits w 0 3)) else
    .error .badField
  | 0x1 =>
    bif fld w 4 1 == 0 then .ok (.xa2a (bits w 19 5) (bits w 14 5) (bits w 9 5) (bits w 5 4) (bits w 3 1) (bits w 0 3)) else
    .error .badField
  | 0x2 =>
    bif fld w 4 1 == 0 then .ok (.xag (bits w 19 5) (bits w 14 5) (bits w 9 5) (bits w 5 4) (bits w 3 1) (bits w 0 3)) else
    .error .badField
  | 0x3 =>
    bif fld w 4 1 == 0 then .ok (.xrs (bits w 19 5) (bits w 14 5) (bits w 9 5) (bits w 5 4) (bits w 3 1) (bits w 0 3)) else
    .error .badField
  | 0x4 =>
    bif fld w 0 5 == 1 && fld w 19 5 == 0 then .ok (.rdcfMod (bits w 14 5) (bits w 9 5) (bits w 5 4)) else
    bif fld w 0 5 == 0 then .ok (.rdcfRange (bits w 19 5) (bits w 14 5) (bits w 9 5) (bits w 5 4)) else
    .error .badField
  | 0x5 =>
    bif fld w 0 5 == 0 && fld w 19 5 == 0 then .ok (.fqryPort (bits w 14 5) (bits w 9 5) (bits w 5 4)) else
    bif fld w 0 5 == 1 && fld w 19 5 == 0 then .ok (.fqryPlane (bits w 14 5) (bits w 9 5) (bits w 5 4)) else
    bif fld w 0 5 == 2 && fld w 19 5 == 0 then .ok (.fqryReach (bits w 14 5) (bits w 9 5) (bits w 5 4)) else
    .error .badField
  | 0x8 =>
    bif fld w 18 6 == 0 then .ok (.digs (bits w 12 6) (bits w 9 3) (bits w 3 6) (bits w 0 3)) else
    .error .badField
  | 0x9 =>
    bif fld w 0 24 == 0 then .ok (.clonSync) else
    bif fld w 0 18 == 8 && fld w 23 1 == 0 then .ok (.clonChk (bits w 18 5)) else
    bif fld w 0 18 == 16 && fld w 23 1 == 0 then .ok (.clonDrop (bits w 18 5)) else
    bif fld w 0 18 == 24 && fld w 23 1 == 0 then .ok (.clonTrans (bits w 18 5)) else
    .error .badField
  | 0xa =>
    bif fld w 0 24 == 1 then .ok (.scrnSkip) else
    bif fld w 0 9 == 0 && fld w 14 10 == 0 then .ok (.scrnDig (bits w 9 5)) else
    .error .badField
  | 0xb =>
    bif fld w 0 9 == 0 && fld w 19 5 == 0 then .ok (.susqScore (bits w 14 5) (bits w 9 5)) else
    bif fld w 0 9 == 1 && fld w 19 5 == 0 then .ok (.susqQmask (bits w 14 5) (bits w 9 5)) else
    bif fld w 0 9 == 2 && fld w 19 5 == 0 then .ok (.susqStat (bits w 14 5) (bits w 9 5)) else
    .error .badField
  | _ => .error .noOpcode

/-- Opcodes 0xf0 to 0xff. -/
def decodeMajorF (w : Nat) : Except DecodeError Instr :=
  match fld w 24 4 with
  | 0x0 =>
    bif fld w 12 12 == 0 then .ok (.trap (bits w 0 12)) else
    .error .badField
  | 0x1 =>
    bif fld w 0 24 == 0 then .ok (.rte) else
    .error .badField
  | 0x2 =>
    bif fld w 9 10 == 0 && csrListed (fld w 0 9) then .ok (.csrr (bits w 19 5) (bits w 0 9)) else
    .error .badField
  | 0x3 =>
    bif fld w 0 14 == 17 && fld w 19 5 == 0 then .ok (.tlbiWrite (bits w 14 5)) else
    bif fld w 0 14 == 19 && fld w 19 5 == 0 then .ok (.fpmapWrite (bits w 14 5)) else
    bif fld w 9 5 == 0 && fld w 19 5 == 0 && csrListed (fld w 0 9) && (fld w 0 9) != 17 && (fld w 0 9) != 19 then .ok (.csrw (bits w 14 5) (bits w 0 9)) else
    .error .badField
  | 0x4 =>
    bif fld w 0 24 == 0 then .ok (.ppt) else
    bif fld w 0 9 == 1 && fld w 14 10 == 0 then .ok (.pptQry (bits w 9 5)) else
    .error .badField
  | 0x5 =>
    bif fld w 0 9 == 0 && fld w 14 10 == 0 then .ok (.bswp (bits w 9 5)) else
    bif fld w 0 9 == 1 && fld w 14 10 == 0 then .ok (.bswpQry (bits w 9 5)) else
    .error .badField
  | 0x6 =>
    bif fld w 0 9 == 0 then .ok (.ctxs (bits w 19 5) (bits w 14 5) (bits w 9 5)) else
    .error .badField
  | 0x7 =>
    bif fld w 0 9 == 0 then .ok (.ctxl (bits w 19 5) (bits w 14 5) (bits w 9 5)) else
    bif fld w 0 1 == 1 && fld w 5 4 == 0 then .ok (.ctxlTeam (bits w 19 5) (bits w 14 5) (bits w 9 5) (bits w 1 4)) else
    .error .badField
  | 0x8 =>
    bif fld w 0 14 == 0 && fld w 19 5 == 0 then .ok (.tagsSet (bits w 14 5)) else
    bif fld w 0 9 == 1 && fld w 19 5 == 0 then .ok (.tagsCnt (bits w 14 5) (bits w 9 5)) else
    .error .badField
  | 0x9 =>
    bif fld w 0 14 == 0 && fld w 19 5 == 0 then .ok (.purg (bits w 14 5)) else
    bif fld w 0 14 == 1 && fld w 19 5 == 0 then .ok (.purgClr (bits w 14 5)) else
    bif fld w 0 9 == 2 && fld w 19 5 == 0 then .ok (.purgQry (bits w 14 5) (bits w 9 5)) else
    .error .badField
  | 0xa =>
    bif fld w 0 24 == 0 then .ok (.halt) else
    .error .badField
  | 0xf =>
    .error .immediateWord
  | _ => .error .noOpcode

/-- The major opcode map of R33, with the checks 1 and 3 of R35. -/
def decodeMajor (w : Nat) : Except DecodeError Instr :=
  match fld w 28 4 with
  | 0x0 => decodeMajor0 w
  | 0x1 => decodeMajor1 w
  | 0x2 => decodeMajor2 w
  | 0x3 => decodeMajor3 w
  | 0x4 => decodeMajor4 w
  | 0x5 => decodeMajor5 w
  | 0x6 => decodeMajor6 w
  | 0x7 => decodeMajor7 w
  | 0x8 => decodeMajor8 w
  | 0xa => decodeMajorA w
  | 0xb => decodeMajorB w
  | 0xc => decodeMajorC w
  | 0xd => decodeMajorD w
  | 0xe => decodeMajorE w
  | 0xf => decodeMajorF w
  | _ => .error .noOpcode

/-- Opcodes 0x0 to 0xf. -/
def decodeM0 (w : Nat) : Except DecodeError Instr :=
  match fld w 24 4 with
  | 0x1 =>
    bif fld w 0 12 == 0 && fld w 13 9 == 0 then .ok (.mzero (bits w 22 2) (bits w 12 1)) else
    .error .badField
  | 0x2 =>
    bif fld w 3 3 == 0 then .ok (.mma (bits w 22 2) (bits w 17 5) (bits w 12 5) (bits w 6 6) (bits w 2 1) (bits w 1 1) (bits w 0 1)) else
    .error .badField
  | 0x3 =>
    bif fld w 0 1 == 0 && fld w 3 3 == 0 then .ok (.mmas (bits w 22 2) (bits w 17 5) (bits w 12 5) (bits w 6 6) (bits w 2 1) (bits w 1 1)) else
    .error .badField
  | 0x4 =>
    bif fld w 3 3 == 0 then .ok (.mmax (bits w 22 2) (bits w 17 5) (bits w 12 5) (bits w 6 6) (bits w 2 1) (bits w 1 1) (bits w 0 1)) else
    .error .badField
  | 0x5 =>
    bif fld w 1 11 == 0 && fld w 13 4 == 0 then .ok (.mlda (bits w 22 2) (bits w 17 5) (bits w 12 1) (bits w 0 1)) else
    .error .badField
  | 0x6 =>
    bif fld w 1 2 == 0 && fld w 6 6 == 0 && fld w 13 4 == 0 && decide ((fld w 3 2) ≤ 2) then .ok (.msta (bits w 22 2) (bits w 17 5) (bits w 12 1) (bits w 5 1) (bits w 3 2) (bits w 0 1)) else
    .error .badField
  | 0x7 =>
    bif fld w 0 6 == 0 && fld w 22 2 == 0 then .ok (.mcmp (bits w 17 5) (bits w 12 5) (bits w 6 6)) else
    .error .badField
  | 0x8 =>
    bif fld w 0 17 == 0 && fld w 22 2 == 0 then .ok (.marv (bits w 17 5)) else
    .error .badField
  | 0x9 =>
    bif fld w 0 17 == 0 && fld w 22 2 == 0 then .ok (.mwat (bits w 17 5)) else
    .error .badField
  | 0xa =>
    bif fld w 22 2 == 0 then .ok (.mhdl (bits w 17 5) (bits w 0 17)) else
    .error .badField
  | 0xb =>
    .ok (.mjmp (bits w 0 24))
  | 0xc =>
    bif decide (2048 ≤ (fld w 0 12)) then .ok (.mloop (bits w 12 12) (bits w 0 12)) else
    .error .badField
  | 0xd =>
    bif fld w 0 24 == 0 then .ok (.mend) else
    .error .badField
  | 0xe =>
    bif fld w 0 3 == 0 && fld w 4 8 == 0 && fld w 13 4 == 0 && fld w 19 3 == 0 then .error .tileMoveWord else
    .error .badField
  | _ => .error .noOpcode

/-- The matrix stream's opcode space of R34 and R229. -/
def decodeM (w : Nat) : Except DecodeError Instr :=
  match fld w 28 4 with
  | 0x0 => decodeM0 w
  | _ => .error .noOpcode

/-- Put fields after one another, each a value and its width, the most significant first. -/
def packWord (n : Nat) : List (Nat × Nat) → Nat
  | [] => n
  | (v, wd) :: r => packWord (n * 2 ^ wd + v) r

/-- The word of an instruction, written from the same encoding tables: its opcode, then its fields and its fixed
bits down to bit 0; a device step has none and gives 0. -/
def encode : Instr → Nat
  | .nop => packWord 0 [(0x1, 8), (0, 24)]
  | .mov d a p => packWord 0 [(0x2, 8), (d.toNat, 6), (a.toNat, 6), (p.toNat, 3), (0, 9)]
  | .movi d imm => packWord 0 [(0x3, 8), (d.toNat, 6), (0, 6), (imm.toNat, 12)]
  | .iadd d a p b q => packWord 0 [(0x4, 8), (d.toNat, 6), (a.toNat, 6), (p.toNat, 3), (b.toNat, 6), (q.toNat, 3)]
  | .isub d a p b q => packWord 0 [(0x5, 8), (d.toNat, 6), (a.toNat, 6), (p.toNat, 3), (b.toNat, 6), (q.toNat, 3)]
  | .imul d a p b q => packWord 0 [(0x6, 8), (d.toNat, 6), (a.toNat, 6), (p.toNat, 3), (b.toNat, 6), (q.toNat, 3)]
  | .imulh d a p b q => packWord 0 [(0x7, 8), (d.toNat, 6), (a.toNat, 6), (p.toNat, 3), (b.toNat, 6), (q.toNat, 3)]
  | .imad d a p b q => packWord 0 [(0x8, 8), (d.toNat, 6), (a.toNat, 6), (p.toNat, 3), (b.toNat, 6), (q.toNat, 3)]
  | .iaddi d a imm => packWord 0 [(0x9, 8), (d.toNat, 6), (a.toNat, 6), (imm.toNat, 12)]
  | .imin d a p b q => packWord 0 [(0xa, 8), (d.toNat, 6), (a.toNat, 6), (p.toNat, 3), (b.toNat, 6), (q.toNat, 3)]
  | .imax d a p b q => packWord 0 [(0xb, 8), (d.toNat, 6), (a.toNat, 6), (p.toNat, 3), (b.toNat, 6), (q.toNat, 3)]
  | .iabs d a p => packWord 0 [(0xc, 8), (d.toNat, 6), (a.toNat, 6), (p.toNat, 3), (0, 9)]
  | .ineg d a p => packWord 0 [(0xd, 8), (d.toNat, 6), (a.toNat, 6), (p.toNat, 3), (0, 9)]
  | .isad d a p b q => packWord 0 [(0xe, 8), (d.toNat, 6), (a.toNat, 6), (p.toNat, 3), (b.toNat, 6), (q.toNat, 3)]
  | .idiv d a p b q => packWord 0 [(0xf, 8), (d.toNat, 6), (a.toNat, 6), (p.toNat, 3), (b.toNat, 6), (q.toNat, 3)]
  | .irem d a p b q => packWord 0 [(0x10, 8), (d.toNat, 6), (a.toNat, 6), (p.toNat, 3), (b.toNat, 6), (q.toNat, 3)]
  | .and d a p b q => packWord 0 [(0x11, 8), (d.toNat, 6), (a.toNat, 6), (p.toNat, 3), (b.toNat, 6), (q.toNat, 3)]
  | .or d a p b q => packWord 0 [(0x12, 8), (d.toNat, 6), (a.toNat, 6), (p.toNat, 3), (b.toNat, 6), (q.toNat, 3)]
  | .xor d a p b q => packWord 0 [(0x13, 8), (d.toNat, 6), (a.toNat, 6), (p.toNat, 3), (b.toNat, 6), (q.toNat, 3)]
  | .andn d a p b q => packWord 0 [(0x14, 8), (d.toNat, 6), (a.toNat, 6), (p.toNat, 3), (b.toNat, 6), (q.toNat, 3)]
  | .not d a p => packWord 0 [(0x15, 8), (d.toNat, 6), (a.toNat, 6), (p.toNat, 3), (0, 9)]
  | .shl d a p b q => packWord 0 [(0x16, 8), (d.toNat, 6), (a.toNat, 6), (p.toNat, 3), (b.toNat, 6), (q.toNat, 3)]
  | .shr d a p b q => packWord 0 [(0x17, 8), (d.toNat, 6), (a.toNat, 6), (p.toNat, 3), (b.toNat, 6), (q.toNat, 3)]
  | .sha d a p b q => packWord 0 [(0x18, 8), (d.toNat, 6), (a.toNat, 6), (p.toNat, 3), (b.toNat, 6), (q.toNat, 3)]
  | .rotl d a p b q => packWord 0 [(0x19, 8), (d.toNat, 6), (a.toNat, 6), (p.toNat, 3), (b.toNat, 6), (q.toNat, 3)]
  | .shli d a n => packWord 0 [(0x1a, 8), (d.toNat, 6), (a.toNat, 6), (0, 6), (n.toNat, 6)]
  | .shri d a n => packWord 0 [(0x1b, 8), (d.toNat, 6), (a.toNat, 6), (0, 6), (n.toNat, 6)]
  | .shai d a n => packWord 0 [(0x1c, 8), (d.toNat, 6), (a.toNat, 6), (0, 6), (n.toNat, 6)]
  | .popc d a p => packWord 0 [(0x1d, 8), (d.toNat, 6), (a.toNat, 6), (p.toNat, 3), (0, 9)]
  | .clz d a p => packWord 0 [(0x1e, 8), (d.toNat, 6), (a.toNat, 6), (p.toNat, 3), (0, 9)]
  | .brev d a p => packWord 0 [(0x1f, 8), (d.toNat, 6), (a.toNat, 6), (p.toNat, 3), (0, 9)]
  | .bfx d a l o => packWord 0 [(0x20, 8), (d.toNat, 6), (a.toNat, 6), (l.toNat, 6), (o.toNat, 6)]
  | .bfi d a l o => packWord 0 [(0x21, 8), (d.toNat, 6), (a.toNat, 6), (l.toNat, 6), (o.toNat, 6)]
  | .sel d a p b q => packWord 0 [(0x22, 8), (d.toNat, 6), (a.toNat, 6), (p.toNat, 3), (b.toNat, 6), (q.toNat, 3)]
  | .icmp d c a p b q => packWord 0 [(0x23, 8), (d.toNat, 3), (c.toNat, 3), (a.toNat, 6), (p.toNat, 3), (b.toNat, 6), (q.toNat, 3)]
  | .plog d c a b => packWord 0 [(0x24, 8), (d.toNat, 3), (c.toNat, 3), (0, 3), (a.toNat, 3), (0, 6), (b.toNat, 3), (0, 3)]
  | .pmovNz d a p => packWord 0 [(0x25, 8), (d.toNat, 3), (0, 3), (a.toNat, 6), (p.toNat, 3), (0, 9)]
  | .pmovBit d a p k => packWord 0 [(0x25, 8), (d.toNat, 3), (1, 3), (a.toNat, 6), (p.toNat, 3), (0, 1), (k.toNat, 5), (0, 3)]
  | .pmovSet d => packWord 0 [(0x25, 8), (d.toNat, 3), (524288, 21)]
  | .pmovClr d => packWord 0 [(0x25, 8), (d.toNat, 3), (786432, 21)]
  | .pmovNot d a => packWord 0 [(0x25, 8), (d.toNat, 3), (32, 6), (a.toNat, 3), (0, 12)]
  | .pmovFroms d a => packWord 0 [(0x25, 8), (d.toNat, 3), (10, 4), (a.toNat, 5), (0, 12)]
  | .vote d c a => packWord 0 [(0x26, 8), (d.toNat, 3), (c.toNat, 3), (0, 3), (a.toNat, 3), (0, 12)]
  | .voteBallot d a b => packWord 0 [(0x26, 8), (d.toNat, 3), (24, 6), (a.toNat, 3), (0, 4), (b.toNat, 5), (0, 3)]
  | .xshf d a b q => packWord 0 [(0x27, 8), (d.toNat, 6), (a.toNat, 6), (0, 3), (b.toNat, 6), (q.toNat, 3)]
  | .setx n a b => packWord 0 [(0x28, 8), (0, 2), (n.toNat, 3), (a.toNat, 5), (b.toNat, 5), (0, 9)]
  | .movx d a p n => packWord 0 [(0x29, 8), (d.toNat, 6), (a.toNat, 6), (p.toNat, 3), (0, 3), (n.toNat, 3), (0, 3)]
  | .stx n a p b q => packWord 0 [(0x2a, 8), (0, 3), (n.toNat, 3), (a.toNat, 6), (p.toNat, 3), (b.toNat, 6), (q.toNat, 3)]
  | .s2v d a => packWord 0 [(0x2b, 8), (d.toNat, 6), (0, 1), (a.toNat, 5), (0, 12)]
  | .v2s d a p l => packWord 0 [(0x2c, 8), (0, 1), (d.toNat, 5), (a.toNat, 6), (p.toNat, 3), (0, 1), (l.toNat, 5), (0, 3)]
  | .sadd d a b => packWord 0 [(0x2d, 8), (d.toNat, 5), (a.toNat, 5), (b.toNat, 5), (0, 9)]
  | .saddImm d a imm => packWord 0 [(0x2d, 8), (d.toNat, 5), (a.toNat, 5), (1, 6), (imm.toNat, 8)]
  | .ssub d a b => packWord 0 [(0x2e, 8), (d.toNat, 5), (a.toNat, 5), (b.toNat, 5), (0, 9)]
  | .ssubImm d a imm => packWord 0 [(0x2e, 8), (d.toNat, 5), (a.toNat, 5), (1, 6), (imm.toNat, 8)]
  | .smul d a b => packWord 0 [(0x2f, 8), (d.toNat, 5), (a.toNat, 5), (b.toNat, 5), (0, 9)]
  | .smulImm d a imm => packWord 0 [(0x2f, 8), (d.toNat, 5), (a.toNat, 5), (1, 6), (imm.toNat, 8)]
  | .sand d a b => packWord 0 [(0x30, 8), (d.toNat, 5), (a.toNat, 5), (b.toNat, 5), (0, 9)]
  | .sandImm d a imm => packWord 0 [(0x30, 8), (d.toNat, 5), (a.toNat, 5), (1, 6), (imm.toNat, 8)]
  | .sor d a b => packWord 0 [(0x31, 8), (d.toNat, 5), (a.toNat, 5), (b.toNat, 5), (0, 9)]
  | .sorImm d a imm => packWord 0 [(0x31, 8), (d.toNat, 5), (a.toNat, 5), (1, 6), (imm.toNat, 8)]
  | .sxor d a b => packWord 0 [(0x32, 8), (d.toNat, 5), (a.toNat, 5), (b.toNat, 5), (0, 9)]
  | .sxorImm d a imm => packWord 0 [(0x32, 8), (d.toNat, 5), (a.toNat, 5), (1, 6), (imm.toNat, 8)]
  | .sshl d a b => packWord 0 [(0x33, 8), (d.toNat, 5), (a.toNat, 5), (b.toNat, 5), (0, 9)]
  | .sshlImm d a imm => packWord 0 [(0x33, 8), (d.toNat, 5), (a.toNat, 5), (1, 6), (imm.toNat, 8)]
  | .sshr d a b => packWord 0 [(0x34, 8), (d.toNat, 5), (a.toNat, 5), (b.toNat, 5), (0, 9)]
  | .sshrImm d a imm => packWord 0 [(0x34, 8), (d.toNat, 5), (a.toNat, 5), (1, 6), (imm.toNat, 8)]
  | .scmp d a b c => packWord 0 [(0x35, 8), (d.toNat, 5), (a.toNat, 5), (b.toNat, 5), (0, 6), (c.toNat, 3)]
  | .smovi d imm => packWord 0 [(0x36, 8), (d.toNat, 5), (imm.toNat, 19)]
  | .sreg d n => packWord 0 [(0x37, 8), (d.toNat, 5), (0, 10), (n.toNat, 9)]
  | .setm a => packWord 0 [(0x38, 8), (0, 5), (a.toNat, 5), (0, 14)]
  | .modi f v => packWord 0 [(0x39, 8), (0, 2), (f.toNat, 4), (0, 6), (v.toNat, 12)]
  | .bysel d a p b q => packWord 0 [(0x3a, 8), (d.toNat, 6), (a.toNat, 6), (p.toNat, 3), (b.toNat, 6), (q.toNat, 3)]
  | .idot4 d a p b q => packWord 0 [(0x3b, 8), (d.toNat, 6), (a.toNat, 6), (p.toNat, 3), (b.toNat, 6), (q.toNat, 3)]
  | .ired d a o => packWord 0 [(0x3c, 8), (d.toNat, 6), (a.toNat, 6), (0, 6), (o.toNat, 3), (0, 3)]
  | .fadd d a p b q => packWord 0 [(0x40, 8), (d.toNat, 6), (a.toNat, 6), (p.toNat, 3), (b.toNat, 6), (q.toNat, 3)]
  | .fsub d a p b q => packWord 0 [(0x41, 8), (d.toNat, 6), (a.toNat, 6), (p.toNat, 3), (b.toNat, 6), (q.toNat, 3)]
  | .fmul d a p b q => packWord 0 [(0x42, 8), (d.toNat, 6), (a.toNat, 6), (p.toNat, 3), (b.toNat, 6), (q.toNat, 3)]
  | .fma d a p b q => packWord 0 [(0x43, 8), (d.toNat, 6), (a.toNat, 6), (p.toNat, 3), (b.toNat, 6), (q.toNat, 3)]
  | .fms d a p b q => packWord 0 [(0x44, 8), (d.toNat, 6), (a.toNat, 6), (p.toNat, 3), (b.toNat, 6), (q.toNat, 3)]
  | .fnma d a p b q => packWord 0 [(0x45, 8), (d.toNat, 6), (a.toNat, 6), (p.toNat, 3), (b.toNat, 6), (q.toNat, 3)]
  | .fmin d a p b q => packWord 0 [(0x46, 8), (d.toNat, 6), (a.toNat, 6), (p.toNat, 3), (b.toNat, 6), (q.toNat, 3)]
  | .fmax d a p b q => packWord 0 [(0x47, 8), (d.toNat, 6), (a.toNat, 6), (p.toNat, 3), (b.toNat, 6), (q.toNat, 3)]
  | .fabs d a p => packWord 0 [(0x48, 8), (d.toNat, 6), (a.toNat, 6), (p.toNat, 3), (0, 9)]
  | .fneg d a p => packWord 0 [(0x49, 8), (d.toNat, 6), (a.toNat, 6), (p.toNat, 3), (0, 9)]
  | .fsgn d a p b q => packWord 0 [(0x4a, 8), (d.toNat, 6), (a.toNat, 6), (p.toNat, 3), (b.toNat, 6), (q.toNat, 3)]
  | .fcmp d c a p b q => packWord 0 [(0x4b, 8), (d.toNat, 3), (c.toNat, 3), (a.toNat, 6), (p.toNat, 3), (b.toNat, 6), (q.toNat, 3)]
  | .fclass d a p => packWord 0 [(0x4c, 8), (d.toNat, 6), (a.toNat, 6), (p.toNat, 3), (0, 9)]
  | .frint d a p => packWord 0 [(0x4d, 8), (d.toNat, 6), (a.toNat, 6), (p.toNat, 3), (0, 9)]
  | .fscale d a p b q => packWord 0 [(0x4e, 8), (d.toNat, 6), (a.toNat, 6), (p.toNat, 3), (b.toNat, 6), (q.toNat, 3)]
  | .fgetexp d a p => packWord 0 [(0x4f, 8), (d.toNat, 6), (a.toNat, 6), (p.toNat, 3), (0, 9)]
  | .fdiv d a p b q => packWord 0 [(0x50, 8), (d.toNat, 6), (a.toNat, 6), (p.toNat, 3), (b.toNat, 6), (q.toNat, 3)]
  | .fsqrt d a p => packWord 0 [(0x51, 8), (d.toNat, 6), (a.toNat, 6), (p.toNat, 3), (0, 9)]
  | .frcp d a p => packWord 0 [(0x52, 8), (d.toNat, 6), (a.toNat, 6), (p.toNat, 3), (0, 9)]
  | .frsq d a p => packWord 0 [(0x53, 8), (d.toNat, 6), (a.toNat, 6), (p.toNat, 3), (0, 9)]
  | .fexp2 d a p => packWord 0 [(0x54, 8), (d.toNat, 6), (a.toNat, 6), (p.toNat, 3), (0, 9)]
  | .flog2 d a p => packWord 0 [(0x55, 8), (d.toNat, 6), (a.toNat, 6), (p.toNat, 3), (0, 9)]
  | .fsin d a p => packWord 0 [(0x56, 8), (d.toNat, 6), (a.toNat, 6), (p.toNat, 3), (0, 9)]
  | .fcos d a p => packWord 0 [(0x57, 8), (d.toNat, 6), (a.toNat, 6), (p.toNat, 3), (0, 9)]
  | .ftanh d a p => packWord 0 [(0x58, 8), (d.toNat, 6), (a.toNat, 6), (p.toNat, 3), (0, 9)]
  | .fdot2 d a p b q => packWord 0 [(0x59, 8), (d.toNat, 6), (a.toNat, 6), (p.toNat, 3), (b.toNat, 6), (q.toNat, 3)]
  | .fdot4 d a p b q => packWord 0 [(0x5a, 8), (d.toNat, 6), (a.toNat, 6), (p.toNat, 3), (b.toNat, 6), (q.toNat, 3)]
  | .fred d a o => packWord 0 [(0x5b, 8), (d.toNat, 6), (a.toNat, 6), (0, 6), (o.toNat, 3), (0, 3)]
  | .argmx d a p b q => packWord 0 [(0x5c, 8), (d.toNat, 6), (a.toNat, 6), (p.toNat, 3), (b.toNat, 6), (q.toNat, 3)]
  | .cvt d a p x t => packWord 0 [(0x60, 8), (d.toNat, 6), (a.toNat, 6), (p.toNat, 3), (x.toNat, 2), (t.toNat, 4), (0, 3)]
  | .cvtp d a p b q => packWord 0 [(0x61, 8), (d.toNat, 6), (a.toNat, 6), (p.toNat, 3), (b.toNat, 6), (q.toNat, 3)]
  | .seed a => packWord 0 [(0x62, 8), (0, 5), (a.toNat, 5), (0, 14)]
  | .rngU32 d => packWord 0 [(0x63, 8), (d.toNat, 6), (0, 18)]
  | .rngUnit d => packWord 0 [(0x63, 8), (d.toNat, 6), (8, 18)]
  | .rngGet d => packWord 0 [(0x63, 8), (d.toNat, 6), (16, 18)]
  | .rngSet a p => packWord 0 [(0x63, 8), (0, 6), (a.toNat, 6), (p.toNat, 3), (24, 9)]
  | .qmx d a p => packWord 0 [(0x64, 8), (d.toNat, 6), (a.toNat, 6), (p.toNat, 3), (0, 9)]
  | .qmxa d a p b q => packWord 0 [(0x65, 8), (d.toNat, 6), (a.toNat, 6), (p.toNat, 3), (b.toNat, 6), (q.toNat, 3)]
  | .bra imm => packWord 0 [(0x70, 8), (imm.toNat, 24)]
  | .brall imm => packWord 0 [(0x71, 8), (imm.toNat, 24)]
  | .brany imm => packWord 0 [(0x72, 8), (imm.toNat, 24)]
  | .brx a => packWord 0 [(0x73, 8), (0, 6), (a.toNat, 6), (0, 12)]
  | .call imm => packWord 0 [(0x74, 8), (imm.toNat, 24)]
  | .callx a => packWord 0 [(0x75, 8), (0, 6), (a.toNat, 6), (0, 12)]
  | .ret a => packWord 0 [(0x76, 8), (0, 7), (a.toNat, 5), (0, 12)]
  | .split imm => packWord 0 [(0x77, 8), (imm.toNat, 24)]
  | .rcv imm => packWord 0 [(0x78, 8), (imm.toNat, 24)]
  | .join => packWord 0 [(0x79, 8), (0, 24)]
  | .exit => packWord 0 [(0x7a, 8), (0, 24)]
  | .yield => packWord 0 [(0x7b, 8), (0, 24)]
  | .wait p b => packWord 0 [(0x7c, 8), (0, 2), (p.toNat, 3), (0, 5), (b.toNat, 5), (0, 9)]
  | .waitImm p n => packWord 0 [(0x7c, 8), (0, 2), (p.toNat, 3), (4, 13), (n.toNat, 6)]
  | .bkpt imm => packWord 0 [(0x7d, 8), (0, 12), (imm.toNat, 12)]
  | .msqStart x l => packWord 0 [(0x7e, 8), (x.toNat, 5), (0, 10), (l.toNat, 4), (0, 5)]
  | .msqQry z l => packWord 0 [(0x7e, 8), (0, 10), (z.toNat, 5), (l.toNat, 4), (1, 5)]
  | .ldb d a sb l q => packWord 0 [(0x80, 8), (d.toNat, 6), (a.toNat, 6), (sb.toNat, 5), (l.toNat, 4), (q.toNat, 3)]
  | .ldh d a sb l q => packWord 0 [(0x81, 8), (d.toNat, 6), (a.toNat, 6), (sb.toNat, 5), (l.toNat, 4), (q.toNat, 3)]
  | .ldw d a sb l q => packWord 0 [(0x82, 8), (d.toNat, 6), (a.toNat, 6), (sb.toNat, 5), (l.toNat, 4), (q.toNat, 3)]
  | .ldd d a sb l q => packWord 0 [(0x83, 8), (d.toNat, 6), (a.toNat, 6), (sb.toNat, 5), (l.toNat, 4), (q.toNat, 3)]
  | .ldq d a sb l q => packWord 0 [(0x84, 8), (d.toNat, 6), (a.toNat, 6), (sb.toNat, 5), (l.toNat, 4), (q.toNat, 3)]
  | .stb d a sb l q => packWord 0 [(0x85, 8), (d.toNat, 6), (a.toNat, 6), (sb.toNat, 5), (l.toNat, 4), (q.toNat, 3)]
  | .sth d a sb l q => packWord 0 [(0x86, 8), (d.toNat, 6), (a.toNat, 6), (sb.toNat, 5), (l.toNat, 4), (q.toNat, 3)]
  | .stw d a sb l q => packWord 0 [(0x87, 8), (d.toNat, 6), (a.toNat, 6), (sb.toNat, 5), (l.toNat, 4), (q.toNat, 3)]
  | .std d a sb l q => packWord 0 [(0x88, 8), (d.toNat, 6), (a.toNat, 6), (sb.toNat, 5), (l.toNat, 4), (q.toNat, 3)]
  | .stq d a sb l q => packWord 0 [(0x89, 8), (d.toNat, 6), (a.toNat, 6), (sb.toNat, 5), (l.toNat, 4), (q.toNat, 3)]
  | .ldc d sb l q => packWord 0 [(0x8a, 8), (0, 1), (d.toNat, 5), (0, 6), (sb.toNat, 5), (l.toNat, 4), (q.toNat, 3)]
  | .pref v a sb l => packWord 0 [(0x8b, 8), (0, 4), (v.toNat, 2), (a.toNat, 6), (sb.toNat, 5), (l.toNat, 4), (0, 3)]
  | .cctlL1inv a sb l => packWord 0 [(0x8c, 8), (0, 6), (a.toNat, 6), (sb.toNat, 5), (l.toNat, 4), (0, 3)]
  | .cctlRdcinv a sb l => packWord 0 [(0x8c, 8), (1, 6), (a.toNat, 6), (sb.toNat, 5), (l.toNat, 4), (0, 3)]
  | .cctlWb a sb l => packWord 0 [(0x8c, 8), (2, 6), (a.toNat, 6), (sb.toNat, 5), (l.toNat, 4), (0, 3)]
  | .cctlWbinv a sb l => packWord 0 [(0x8c, 8), (3, 6), (a.toNat, 6), (sb.toNat, 5), (l.toNat, 4), (0, 3)]
  | .pinSet x y z l => packWord 0 [(0x8d, 8), (x.toNat, 5), (y.toNat, 5), (z.toNat, 5), (l.toNat, 4), (0, 5)]
  | .pinClr x y z l => packWord 0 [(0x8d, 8), (x.toNat, 5), (y.toNat, 5), (z.toNat, 5), (l.toNat, 4), (1, 5)]
  | .pinQry y z l => packWord 0 [(0x8d, 8), (0, 5), (y.toNat, 5), (z.toNat, 5), (l.toNat, 4), (2, 5)]
  | .pinAll z l => packWord 0 [(0x8d, 8), (0, 10), (z.toNat, 5), (l.toNat, 4), (3, 5)]
  | .atrn d a sb l w => packWord 0 [(0x8e, 8), (d.toNat, 6), (a.toNat, 6), (sb.toNat, 5), (l.toNat, 4), (0, 2), (w.toNat, 1)]
  | .fence n c => packWord 0 [(0xa0, 8), (0, 20), (n.toNat, 1), (c.toNat, 3)]
  | .binit x y l => packWord 0 [(0xa1, 8), (x.toNat, 5), (y.toNat, 5), (0, 5), (l.toNat, 4), (0, 5)]
  | .barv x z l c => packWord 0 [(0xa2, 8), (x.toNat, 5), (0, 5), (z.toNat, 5), (l.toNat, 4), (0, 2), (c.toNat, 3)]
  | .barvB x y z l c => packWord 0 [(0xa2, 8), (x.toNat, 5), (y.toNat, 5), (z.toNat, 5), (l.toNat, 4), (1, 2), (c.toNat, 3)]
  | .bexp x y l => packWord 0 [(0xa3, 8), (x.toNat, 5), (y.toNat, 5), (0, 5), (l.toNat, 4), (0, 5)]
  | .bwait x y c => packWord 0 [(0xa4, 8), (x.toNat, 5), (y.toNat, 5), (0, 11), (c.toNat, 3)]
  | .btest x z l h => packWord 0 [(0xa5, 8), (x.toNat, 5), (0, 5), (z.toNat, 5), (l.toNat, 4), (0, 4), (h.toNat, 1)]
  | .rinit y k => packWord 0 [(0xa6, 8), (0, 5), (y.toNat, 5), (0, 9), (k.toNat, 5)]
  | .rarv z k => packWord 0 [(0xa7, 8), (0, 10), (z.toNat, 5), (0, 4), (k.toNat, 5)]
  | .rwait y k => packWord 0 [(0xa8, 8), (0, 5), (y.toNat, 5), (0, 9), (k.toNat, 5)]
  | .rsync z k => packWord 0 [(0xa9, 8), (0, 10), (z.toNat, 5), (0, 4), (k.toNat, 5)]
  | .aadd d a b l o => packWord 0 [(0xb0, 8), (d.toNat, 6), (a.toNat, 6), (b.toNat, 6), (l.toNat, 4), (o.toNat, 2)]
  | .amin d a b l o => packWord 0 [(0xb1, 8), (d.toNat, 6), (a.toNat, 6), (b.toNat, 6), (l.toNat, 4), (o.toNat, 2)]
  | .amax d a b l o => packWord 0 [(0xb2, 8), (d.toNat, 6), (a.toNat, 6), (b.toNat, 6), (l.toNat, 4), (o.toNat, 2)]
  | .aand d a b l o => packWord 0 [(0xb3, 8), (d.toNat, 6), (a.toNat, 6), (b.toNat, 6), (l.toNat, 4), (o.toNat, 2)]
  | .aor d a b l o => packWord 0 [(0xb4, 8), (d.toNat, 6), (a.toNat, 6), (b.toNat, 6), (l.toNat, 4), (o.toNat, 2)]
  | .axor d a b l o => packWord 0 [(0xb5, 8), (d.toNat, 6), (a.toNat, 6), (b.toNat, 6), (l.toNat, 4), (o.toNat, 2)]
  | .axch d a b l o => packWord 0 [(0xb6, 8), (d.toNat, 6), (a.toNat, 6), (b.toNat, 6), (l.toNat, 4), (o.toNat, 2)]
  | .acas d a b l o => packWord 0 [(0xb7, 8), (d.toNat, 6), (a.toNat, 6), (b.toNat, 6), (l.toNat, 4), (o.toNat, 2)]
  | .afadd d a b l o => packWord 0 [(0xb8, 8), (d.toNat, 6), (a.toNat, 6), (b.toNat, 6), (l.toNat, 4), (o.toNat, 2)]
  | .red o a b l r => packWord 0 [(0xb9, 8), (0, 3), (o.toNat, 3), (a.toNat, 6), (b.toNat, 6), (l.toNat, 4), (r.toNat, 1), (0, 1)]
  | .bump d a b l o => packWord 0 [(0xba, 8), (d.toNat, 6), (a.toNat, 6), (b.toNat, 6), (l.toNat, 4), (o.toNat, 2)]
  | .sigi d a b o => packWord 0 [(0xbb, 8), (d.toNat, 6), (a.toNat, 6), (b.toNat, 6), (0, 4), (o.toNat, 2)]
  | .sigd d a b o => packWord 0 [(0xbc, 8), (d.toNat, 6), (a.toNat, 6), (b.toNat, 6), (0, 4), (o.toNat, 2)]
  | .tlsig d a b o => packWord 0 [(0xbd, 8), (d.toNat, 6), (a.toNat, 6), (b.toNat, 6), (0, 4), (o.toNat, 2)]
  | .carm x y z l c => packWord 0 [(0xbe, 8), (x.toNat, 5), (y.toNat, 5), (z.toNat, 5), (l.toNat, 4), (c.toNat, 5)]
  | .carmCancel y z l => packWord 0 [(0xbe, 8), (0, 5), (y.toNat, 5), (z.toNat, 5), (l.toNat, 4), (6, 5)]
  | .cpa d a sb l t => packWord 0 [(0xc0, 8), (d.toNat, 6), (a.toNat, 6), (sb.toNat, 5), (l.toNat, 4), (0, 1), (t.toNat, 2)]
  | .hdefChk y z l => packWord 0 [(0xc1, 8), (0, 5), (y.toNat, 5), (z.toNat, 5), (l.toNat, 4), (0, 5)]
  | .hdefBase x y l => packWord 0 [(0xc1, 8), (x.toNat, 5), (y.toNat, 5), (0, 5), (l.toNat, 4), (1, 5)]
  | .hdefOrg x y l => packWord 0 [(0xc1, 8), (x.toNat, 5), (y.toNat, 5), (0, 5), (l.toNat, 4), (2, 5)]
  | .hdefAdv x y l => packWord 0 [(0xc1, 8), (x.toNat, 5), (y.toNat, 5), (0, 5), (l.toNat, 4), (3, 5)]
  | .hdefOrgh x y l => packWord 0 [(0xc1, 8), (x.toNat, 5), (y.toNat, 5), (0, 5), (l.toNat, 4), (4, 5)]
  | .tcpy x y z l u n => packWord 0 [(0xc2, 8), (x.toNat, 5), (y.toNat, 5), (z.toNat, 5), (l.toNat, 4), (0, 3), (u.toNat, 1), (n.toNat, 1)]
  | .tsto x y z l u n => packWord 0 [(0xc3, 8), (x.toNat, 5), (y.toNat, 5), (z.toNat, 5), (l.toNat, 4), (0, 3), (u.toNat, 1), (n.toNat, 1)]
  | .tred x y z l u n => packWord 0 [(0xc4, 8), (x.toNat, 5), (y.toNat, 5), (z.toNat, 5), (l.toNat, 4), (0, 3), (u.toNat, 1), (n.toNat, 1)]
  | .tsct x y z l k => packWord 0 [(0xc5, 8), (x.toNat, 5), (y.toNat, 5), (z.toNat, 5), (l.toNat, 4), (k.toNat, 5)]
  | .tgth x y z l u n => packWord 0 [(0xc6, 8), (x.toNat, 5), (y.toNat, 5), (z.toNat, 5), (l.toNat, 4), (0, 3), (u.toNat, 1), (n.toNat, 1)]
  | .crset x y l => packWord 0 [(0xc7, 8), (x.toNat, 5), (y.toNat, 5), (0, 5), (l.toNat, 4), (0, 5)]
  | .crpop z l => packWord 0 [(0xc8, 8), (0, 10), (z.toNat, 5), (l.toNat, 4), (0, 5)]
  | .crpopSeq z l => packWord 0 [(0xc8, 8), (0, 10), (z.toNat, 5), (l.toNat, 4), (1, 5)]
  | .crpopDrop z l => packWord 0 [(0xc8, 8), (0, 10), (z.toNat, 5), (l.toNat, 4), (2, 5)]
  | .mbxget z l => packWord 0 [(0xd0, 8), (0, 10), (z.toNat, 5), (l.toNat, 4), (0, 5)]
  | .mbxgetSp y z l => packWord 0 [(0xd0, 8), (0, 5), (y.toNat, 5), (z.toNat, 5), (l.toNat, 4), (1, 5)]
  | .mbxarm y => packWord 0 [(0xd1, 8), (0, 5), (y.toNat, 5), (0, 14)]
  | .mbxarmCancel y z => packWord 0 [(0xd1, 8), (0, 5), (y.toNat, 5), (z.toNat, 5), (1, 9)]
  | .jobdone => packWord 0 [(0xd2, 8), (0, 24)]
  | .evsigAdd x y => packWord 0 [(0xd3, 8), (x.toNat, 5), (y.toNat, 5), (0, 14)]
  | .evsigReset x y z => packWord 0 [(0xd3, 8), (x.toNat, 5), (y.toNat, 5), (z.toNat, 5), (1, 9)]
  | .evarm x y z => packWord 0 [(0xd4, 8), (x.toNat, 5), (y.toNat, 5), (z.toNat, 5), (0, 9)]
  | .evarmCancel y z => packWord 0 [(0xd4, 8), (0, 5), (y.toNat, 5), (z.toNat, 5), (1, 9)]
  | .evqry x z l h => packWord 0 [(0xd5, 8), (x.toNat, 5), (0, 5), (z.toNat, 5), (l.toNat, 4), (0, 4), (h.toNat, 1)]
  | .opapp x y z l => packWord 0 [(0xd6, 8), (x.toNat, 5), (y.toNat, 5), (z.toNat, 5), (l.toNat, 4), (0, 5)]
  | .fixup x z => packWord 0 [(0xd7, 8), (x.toNat, 5), (0, 5), (z.toNat, 5), (0, 9)]
  | .lmap y z l n => packWord 0 [(0xe0, 8), (0, 5), (y.toNat, 5), (z.toNat, 5), (l.toNat, 4), (0, 2), (n.toNat, 3)]
  | .xa2a x y z l n m => packWord 0 [(0xe1, 8), (x.toNat, 5), (y.toNat, 5), (z.toNat, 5), (l.toNat, 4), (0, 1), (n.toNat, 1), (m.toNat, 3)]
  | .xag x y z l n m => packWord 0 [(0xe2, 8), (x.toNat, 5), (y.toNat, 5), (z.toNat, 5), (l.toNat, 4), (0, 1), (n.toNat, 1), (m.toNat, 3)]
  | .xrs x y z l n m => packWord 0 [(0xe3, 8), (x.toNat, 5), (y.toNat, 5), (z.toNat, 5), (l.toNat, 4), (0, 1), (n.toNat, 1), (m.toNat, 3)]
  | .rdcfRange x y z l => packWord 0 [(0xe4, 8), (x.toNat, 5), (y.toNat, 5), (z.toNat, 5), (l.toNat, 4), (0, 5)]
  | .rdcfMod y z l => packWord 0 [(0xe4, 8), (0, 5), (y.toNat, 5), (z.toNat, 5), (l.toNat, 4), (1, 5)]
  | .fqryPort y z l => packWord 0 [(0xe5, 8), (0, 5), (y.toNat, 5), (z.toNat, 5), (l.toNat, 4), (0, 5)]
  | .fqryPlane y z l => packWord 0 [(0xe5, 8), (0, 5), (y.toNat, 5), (z.toNat, 5), (l.toNat, 4), (1, 5)]
  | .fqryReach y z l => packWord 0 [(0xe5, 8), (0, 5), (y.toNat, 5), (z.toNat, 5), (l.toNat, 4), (2, 5)]
  | .digs a p b q => packWord 0 [(0xe8, 8), (0, 6), (a.toNat, 6), (p.toNat, 3), (b.toNat, 6), (q.toNat, 3)]
  | .clonSync => packWord 0 [(0xe9, 8), (0, 24)]
  | .clonChk d => packWord 0 [(0xe9, 8), (0, 1), (d.toNat, 5), (8, 18)]
  | .clonDrop d => packWord 0 [(0xe9, 8), (0, 1), (d.toNat, 5), (16, 18)]
  | .clonTrans d => packWord 0 [(0xe9, 8), (0, 1), (d.toNat, 5), (24, 18)]
  | .scrnDig z => packWord 0 [(0xea, 8), (0, 10), (z.toNat, 5), (0, 9)]
  | .scrnSkip => packWord 0 [(0xea, 8), (1, 24)]
  | .susqScore y z => packWord 0 [(0xeb, 8), (0, 5), (y.toNat, 5), (z.toNat, 5), (0, 9)]
  | .susqQmask y z => packWord 0 [(0xeb, 8), (0, 5), (y.toNat, 5), (z.toNat, 5), (1, 9)]
  | .susqStat y z => packWord 0 [(0xeb, 8), (0, 5), (y.toNat, 5), (z.toNat, 5), (2, 9)]
  | .trap imm => packWord 0 [(0xf0, 8), (0, 12), (imm.toNat, 12)]
  | .rte => packWord 0 [(0xf1, 8), (0, 24)]
  | .csrr d c => packWord 0 [(0xf2, 8), (d.toNat, 5), (0, 10), (c.toNat, 9)]
  | .csrw a c => packWord 0 [(0xf3, 8), (0, 5), (a.toNat, 5), (0, 5), (c.toNat, 9)]
  | .tlbiWrite a => packWord 0 [(0xf3, 8), (0, 5), (a.toNat, 5), (17, 14)]
  | .fpmapWrite a => packWord 0 [(0xf3, 8), (0, 5), (a.toNat, 5), (19, 14)]
  | .ppt => packWord 0 [(0xf4, 8), (0, 24)]
  | .pptQry z => packWord 0 [(0xf4, 8), (0, 10), (z.toNat, 5), (1, 9)]
  | .bswp z => packWord 0 [(0xf5, 8), (0, 10), (z.toNat, 5), (0, 9)]
  | .bswpQry z => packWord 0 [(0xf5, 8), (0, 10), (z.toNat, 5), (1, 9)]
  | .ctxs x y z => packWord 0 [(0xf6, 8), (x.toNat, 5), (y.toNat, 5), (z.toNat, 5), (0, 9)]
  | .ctxl x y z => packWord 0 [(0xf7, 8), (x.toNat, 5), (y.toNat, 5), (z.toNat, 5), (0, 9)]
  | .ctxlTeam x y z t => packWord 0 [(0xf7, 8), (x.toNat, 5), (y.toNat, 5), (z.toNat, 5), (0, 4), (t.toNat, 4), (1, 1)]
  | .tagsSet y => packWord 0 [(0xf8, 8), (0, 5), (y.toNat, 5), (0, 14)]
  | .tagsCnt y z => packWord 0 [(0xf8, 8), (0, 5), (y.toNat, 5), (z.toNat, 5), (1, 9)]
  | .purg y => packWord 0 [(0xf9, 8), (0, 5), (y.toNat, 5), (0, 14)]
  | .purgClr y => packWord 0 [(0xf9, 8), (0, 5), (y.toNat, 5), (1, 14)]
  | .purgQry y z => packWord 0 [(0xf9, 8), (0, 5), (y.toNat, 5), (z.toNat, 5), (2, 9)]
  | .halt => packWord 0 [(0xfa, 8), (0, 24)]
  | .lim imm => packWord 0 [(0xff, 8), (imm.toNat, 24)]
  | .mzero m v => packWord 0 [(0x1, 8), (m.toNat, 2), (0, 9), (v.toNat, 1), (0, 12)]
  | .mma m a b k n u t => packWord 0 [(0x2, 8), (m.toNat, 2), (a.toNat, 5), (b.toNat, 5), (k.toNat, 6), (0, 3), (n.toNat, 1), (u.toNat, 1), (t.toNat, 1)]
  | .mmas m a b k n u => packWord 0 [(0x3, 8), (m.toNat, 2), (a.toNat, 5), (b.toNat, 5), (k.toNat, 6), (0, 3), (n.toNat, 1), (u.toNat, 1), (0, 1)]
  | .mmax m a b k n u t => packWord 0 [(0x4, 8), (m.toNat, 2), (a.toNat, 5), (b.toNat, 5), (k.toNat, 6), (0, 3), (n.toNat, 1), (u.toNat, 1), (t.toNat, 1)]
  | .mlda m a v t => packWord 0 [(0x5, 8), (m.toNat, 2), (a.toNat, 5), (0, 4), (v.toNat, 1), (0, 11), (t.toNat, 1)]
  | .msta m a v sb r t => packWord 0 [(0x6, 8), (m.toNat, 2), (a.toNat, 5), (0, 4), (v.toNat, 1), (0, 6), (sb.toNat, 1), (r.toNat, 2), (0, 2), (t.toNat, 1)]
  | .mcmp a b k => packWord 0 [(0x7, 8), (0, 2), (a.toNat, 5), (b.toNat, 5), (k.toNat, 6), (0, 6)]
  | .marv k => packWord 0 [(0x8, 8), (0, 2), (k.toNat, 5), (0, 17)]
  | .mwat k => packWord 0 [(0x9, 8), (0, 2), (k.toNat, 5), (0, 17)]
  | .mhdl h imm => packWord 0 [(0xa, 8), (0, 2), (h.toNat, 5), (imm.toNat, 17)]
  | .mjmp imm => packWord 0 [(0xb, 8), (imm.toNat, 24)]
  | .mloop n imm => packWord 0 [(0xc, 8), (n.toNat, 12), (imm.toNat, 12)]
  | .mend => packWord 0 [(0xd, 8), (0, 24)]
  | .mtrn m t v c => packWord 0 [(0xe, 8), (m.toNat, 2), (0, 3), (t.toNat, 2), (0, 4), (v.toNat, 1), (0, 8), (c.toNat, 1), (0, 3)]
  | .mendComplete _ => 0
  | .idleDemote _ _ _ => 0
  | .entityRotate _ _ => 0
  | .ownerChecksPassed _ => 0
  | .loadDataReturn _ => 0
  | .storePerform _ => 0
  | .atomicExecute _ => 0
  | .l1Invalidate _ _ => 0
  | .fenceComplete _ _ _ => 0
  | .tlbiComplete _ => 0
  | .uncorrectableError _ => 0
  | .leaseExpire _ _ => 0
  | .leaseInvalidateTimeout _ _ => 0
  | .cpaLand _ => 0
  | .tileOpComplete _ => 0
  | .tredTurn _ => 0
  | .fixupRelease _ => 0
  | .xrsTurn _ => 0
  | .exchangeComplete _ => 0
  | .opExpand _ _ _ => 0
  | .eventSubscribe _ => 0
  | .eventHomeUpdate _ => 0
  | .eventNotify _ => 0
  | .jobPlace _ => 0
  | .jobdoneRetire _ => 0
  | .teamPlace _ => 0
  | .gangAge _ => 0
  | .gangStarved _ => 0
  | .waitTimeout _ => 0
  | .purgeComplete _ _ => 0
  | .drainAllParked _ => 0
  | .drainFlushDone _ => 0
  | .drainImageWritten _ => 0
  | .drainbExpire _ => 0
  | .contextSaveDone _ => 0
  | .contextLoadDone _ => 0
  | .coreLost _ => 0
  | .replayRerun _ _ _ => 0
  | .cupTimerExpire _ _ => 0
  | .scoreDecay _ => 0
  | .pktFetch _ => 0
  | .pktReread _ => 0
  | .queueTranslateRetry _ => 0
  | .nopPacket _ => 0
  | .queryStatus _ => 0
  | .clearQuarantine _ => 0
  | .opstreamRegister _ => 0
  | .opstreamUnregister _ => 0
  | .opstreamClearStop _ => 0
  | .eventAdd _ => 0
  | .eventReset _ => 0
  | .launch _ => 0
  | .contextBank _ => 0
  | .contextTeam _ => 0
  | .preemptDrain _ => 0
  | .preemptImmediate _ => 0
  | .purge _ => 0
  | .purgeClear _ => 0
  | .laneFailure _ => 0
  | .portRetrain _ _ => 0
  | .planeQuiesced _ _ => 0
  | .fabricRequestArrive _ => 0
  | .fabricAck _ => 0
  | .dedupAdvance _ _ => 0
  | .requestResend _ => 0
  | .reachTimeout _ => 0
  | .moduleReset _ _ => 0
  | .functionReady _ => 0
  | .throttleDown _ _ => 0
  | .throttleUp _ => 0
  | .thermalTrip _ => 0
  | .powerCapWindow _ _ => 0
  | .telemetry _ => 0
  | .firmwareUpdate _ _ => 0
  | .svnCommit _ _ => 0
  | .attestation _ _ => 0
  | .viConfiguration _ => 0
  | .measureExtend _ _ _ => 0
  | .rdmaTransfer _ _ _ _ _ => 0
  | .notAnInstruction _ => 0
  | .mWordNotInstruction _ => 0
  | .retrainComplete _ => 0
  | .linkLevelRetry _ => 0
  | .killTeam _ => 0
  | .releaseColRecords _ _ => 0

/-- The word of an instruction as a lane word: what TRAPV shows when the instruction itself is refused. -/
def Instr.word (i : Instr) : Word := BitVec.ofNat 32 (encode i)

/-- The whole decoder of a split's word: LIM (R36) and the rest of the major map. (Lean's compiler cannot
build the last of so many constructors, so this one definition is left to the kernel; the step asks
`decodeMajor` and gives LIM's immediate straight to its meaning.) -/
noncomputable def decodeWord (w : Nat) : Except DecodeError Instr :=
  match decodeMajor w with
  | .error .immediateWord => .ok (.lim (bits w 0 24))
  | r => r

/-- The whole decoder of a matrix stream's word, MTRN included. -/
noncomputable def decodeMatrixWord (w : Nat) : Except DecodeError Instr :=
  match decodeM w with
  | .error .tileMoveWord => .ok (.mtrn (bits w 22 2) (bits w 17 2) (bits w 12 1) (bits w 3 1))
  | r => r

/-- Four bytes, lowest address first, as a little-endian word (R3, R29). -/
def wordOfBytes : List Byte → Nat
  | [] => 0
  | b :: bs => b.toNat + 256 * wordOfBytes bs

/-- The little-endian bytes of a number, `n` of them. -/
def bytesOfNat : (n : Nat) → Nat → List Byte
  | 0, _ => []
  | n + 1, w => BitVec.ofNat 8 w :: bytesOfNat n (w / 256)

/-- The decoder on memory bytes: the instruction of the first word, and the bytes after it. -/
noncomputable def decodeBytes : List Byte → Option (Instr × List Byte)
  | b0 :: b1 :: b2 :: b3 :: rest =>
    match decodeWord (wordOfBytes [b0, b1, b2, b3]) with
    | .ok i => some (i, rest)
    | .error _ => none
  | _ => none

/-- What the decoder reads from a table word of `nbits` bits. The first word is laid out little-endian and
given to the split's decoder; a word that the major map does not list is read in the matrix stream's
opcode space, which reuses the same codes (log 4). -/
noncomputable def decodeTableWord (nbits w : Nat) : Option Instr :=
  match decodeBytes (bytesOfNat 8 (w % 2 ^ nbits)) with
  | some (i, _) => some i
  | none =>
    match decodeMatrixWord (w % 2 ^ nbits % 2 ^ 32) with
    | .ok i => some i
    | .error _ => none

end Sys2Proof
end

