-- ==== Sys2Proof/Config.lean ====
section
/-! DEFINITION. What the spec fixes for the machine as a whole, and the free values: opaque constants that
stand for what the spec leaves open. Nothing in Lean can evaluate one, so a statement about one holds for
every value of it. -/

namespace Sys2Proof.Config

/-- Clocks of a die that pass in a step (01_machine.md R15; 03_integer.md R92). The spec gives no count of clocks for a
step: free (log 8; safe). -/
opaque clocks : (die tick : Nat) → Nat

/-- The clocks of a die before a step: CLK, which never falls. -/
def clk (die tick : Nat) : DWord := BitVec.ofNat 64 ((List.range tick).map (clocks die)).sum

/-- Microseconds of module reference time that pass in a step (01_machine.md R15, R16). Free (log 8; safe). -/
opaque elapsed : (tick : Nat) → Nat

/-- The default timers (01_machine.md R16): DRAINB and GANG_AGE in microseconds, GANG_LIMIT in microseconds, the wait
watchdog in milliseconds, and fabric reachability in milliseconds. -/
def drainb : Nat := 20
def gangAge : Nat := 200
def gangLimit : Nat := 2000
def wdog : Nat := 100
def reachMs : Nat := 10

/-- The L2 set that a line falls in (07_memory.md R164: the limit is stated for each set, the index is not
stated). Free (log 11; safe). -/
opaque l2Set : (line : Nat) → Nat

/-- The L2 slice that a line falls in, of the 64 of its die (01_machine.md R13): the choice is not stated. Free
(log 11; safe). -/
opaque l2Slice : (line : Nat) → Nat

/-- Slices of a die, and sets of a slice: 256 MiB of lines in 16 ways (01_machine.md R13; 07_memory.md R164). -/
def l2Slices : Nat := 64
def l2Sets : Nat := 2048

/-- Lines that an L1 holds, and that an RDC holds (01_machine.md R10, R13). -/
def l1Lines : Nat := 2048
def rdcLines : Nat := 524288

/-- What ATRN reports as R, W, X and U of a scratchpad-window address (07_memory.md R172 states them of a leaf,
and the window has none). Free (log 16; safe). -/
opaque windowLeaf : BitVec 4

/-- The telemetry figures of a die (17_module.md R386): current, power and temperature at a step. Free
(log 12; safe). -/
opaque telemetry : (die tick : Nat) → List Nat

/-- How many 1 µs intervals below clock level 16 a die counts between two of its level steps (17_module.md R390):
the model has no time. Free (log 12; safe). -/
opaque throttleIntervals : (die tick : Nat) → Nat

/-- The signature that the root of trust puts on an attestation (17_module.md R386): the key is derived
inside the root of trust. Free (log 12; safe). -/
opaque signature : (module nonce : Nat) → List (BitVec 512) → List Byte

/-- What a context image has no field for (14_system.md R343, R344: the DEFPC and TRAPV of an undelivered fault
without a record, the issuing address of a saved operation or armed wait): the value a restored context holds
is free (log 23; safe). -/
opaque unsaved : (tick k : Nat) → DWord

/-- The bytes of a public key of which the fuses hold the SHA-512 digest, and the bytes of an image that its signature covers
(16_frontend.md R382): the encodings of both are not stated. Free (log 12; safe). -/
opaque keyBytes : (modulus exponent : Nat) → List Byte
opaque signedBytes : FwImage → List Byte

/-- What a module measures beside its firmware image (16_frontend.md R384): the code of the root of trust, the state of
its fuses as bytes, and the boot loader. The spec names them and gives no bytes: free (log 12; safe). -/
opaque rotCode : (module : Nat) → List Byte
opaque fuseBytes : (svn : Nat) → (revoked : List Nat) → (keys : List (BitVec 512)) → List Byte
opaque bootLoader : (module : Nat) → List Byte

/-- The bytes that a die's shadow buffer holds (15_checking.md R362: firmware reserves it). Free (log 12; safe). -/
opaque shadowBytes : (die : Nat) → Nat

/-- The target of a BRX of a path that has no lanes (06_control.md R131, R138): the branch is taken, and no lane names its
target. Free (log 106; safe). -/
opaque noTarget : (draw : Nat) → DWord

/-- What the hardware of a core changes, at a step, in the results of a checking computation (15_checking.md R354): `attempt` 0
is a mirror lane's first and 1 the one that a mismatch asks for; 2 and 3 are those of a re-run from the queue. Hardware that
never errs changes nothing. Free (log 99; safe). -/
opaque laneFlips : (core tick attempt : Nat) → List Flip

/-- The register figure that a core's CAPREG reports: 512, or 448 or 384 after repair (01_machine.md R10).
The spec gives no repaired core, so every core is whole (log 6; DESIGN CHOICE, unsafe). -/
def capreg : Nat := 512

/-- The number of ways of an L2 set that may hold pinned lines (07_memory.md R164). -/
def pinWays : Nat := 12

/-- First address of the scratchpad window (07_memory.md R154). -/
def window : Nat := 0x1FFFFFFFFF80000

/-- Lanes of a group (00_scope.md R2). -/
def lanes : Nat := 32

/-- The step bound of the interval arithmetic behind FEXP2, FLOG2, FSIN, FCOS and FTANH (04_float.md R111). -/
def transcFuel : Nat := 12

end Sys2Proof.Config
end

