-- ==== Sys2Proof/Machine/State.lean ====
section
/-! DEFINITION. Everything the spec gives the machine, as plain data, with its value after reset.
Sparse stores (memory, registers, tables) are lists of (key, value) in one canonical form: keys strictly
rising, and no entry equal to what an unlisted key reads as (the operations are in Machine/Ops.lean).

The split whose turn it is stands in `split`, its group (without it) in `group`, its team (without that
group) in `team`; the other splits, groups and teams stand in `group.splits`, `team.groups`, `teams`. `mteam`
names the team whose sequencer slot runs the M word in hand; with none it is the executing team. `fw` and
`fwModule` are the scalars and the module of the firmware core that executes a CSRW of its own (log 21). -/

namespace Sys2Proof.Machine

/-- A sparse store. -/
abbrev Cells (α : Type) := List (Nat × α)

/-- A register that a word names. -/
inductive Reg where
  | v (n : Nat) | s (n : Nat) | p (n : Nat)
  deriving DecidableEq, Repr

/-- One divergence stack entry (06_control.md R135). `ra` none is NORA. -/
structure StackEntry where
  mask : Word
  wpc : DWord
  ra : Option DWord
  park : Bool
  deriving DecidableEq, Repr

/-- The trap frame registers of a split (14_system.md R322, R420). -/
structure TrapFrame where
  trapc : BitVec 8
  trappc : DWord
  defpc : DWord
  trapv : DWord
  trapm : Word
  tmode : DWord
  trcva : DWord
  tscr0 : DWord
  tscr1 : DWord
  deriving DecidableEq, Repr

/-- An index register (03_integer.md R64). -/
structure XReg where
  base : BitVec 16
  bound : BitVec 16
  deriving DecidableEq, Repr

/-- An open lookahead window (02_words.md R52, R54): the owner's address, the instructions left in it, the
registers the owner writes, and the flight that carries the owner's result (none once it exists). -/
structure Window where
  owner : DWord
  left : Nat
  dests : List Reg
  flight : Option Nat
  deriving DecidableEq, Repr

/-- The register state that a discarded window is rolled back to (02_words.md R53; 08_ordering.md R185). -/
structure Snapshot where
  pc : DWord
  mode : DWord
  mask : Word
  rcva : DWord
  rcvaValid : Bool
  s : Cells DWord
  x : Cells XReg
  regs : Cells Word
  preds : Cells Word
  gens : Cells Word
  windows : List Window
  deriving DecidableEq, Repr

/-- One lane's access: the virtual address, its physical pieces (address, bytes), two operands, and bytes. -/
structure LaneReq where
  lane : Nat
  va : Nat
  parts : List (Nat × Nat)
  a : DWord
  b : DWord
  data : List Byte
  deriving DecidableEq, Repr

/-- What an in-flight operation does when its step comes. -/
inductive FlightKind where
  | load | store | cctl | atomic | cpa | tile | fixup | exchange | jobdone | tlbi | ctxSave | ctxLoad | owner
  deriving DecidableEq, Repr

/-- An operation in flight: who issued it, what was read at issue, and the flights whose steps it must
follow (08_ordering.md R181; log 9). `home` says that it writes its team's own scratchpad (11_copy.md R264);
`binds` are those of the flights it follows that order it and do not merely touch its bytes; `issuer` is the number that
its split had at issue (`spl` follows its split through merges, and is 5 once that has ended); `stage` counts what it has done; `rise` is its place among the rises of its path; `wrote` what it has replaced of poisoned granules (07_memory.md R418);
`frozen` is the image of a
tile operation whose team has ended, none for a byte lost to an error. -/
structure Flight where
  id : Nat
  kind : FlightKind
  team : Nat
  grp : Nat
  spl : Nat
  die : Nat
  core : Nat
  bank : Nat
  vi : Nat
  tag : Nat
  instr : Instr
  pc : DWord
  mask : Word
  mode : DWord
  path : Option Nat
  lanes : List LaneReq
  scal : List DWord
  blob : List (BitVec 512)
  after : List Nat
  binds : List Nat
  issuer : Nat
  seq : Word
  stage : Nat
  home : Bool
  rise : Nat
  wrote : List (Nat × Nat)
  frozen : List (Option Byte)
  deriving DecidableEq, Repr

/-- A trap as TakeTrap receives it (14_system.md R327). -/
structure TrapInfo where
  cause : Nat
  pc : DWord
  value : DWord
  mask : Word
  defpc : DWord
  deriving DecidableEq, Repr

/-- A FENCE that waits (08_ordering.md R183 to R186): the first flight of its window, the accesses it waits for, the instructions used of its
window, the lines and rows tracked, the stores held, the state to roll back to, and a trap held under R186. -/
structure FenceWin where
  scope : Nat
  ns : Bool
  first : Nat
  waits : List Nat
  used : Nat
  tracked : List Nat
  held : List Flight
  snap : Snapshot
  trap : Option TrapInfo
  deriving DecidableEq, Repr

/-- What an instruction found full (02_words.md R58): its path's counter, its group's write log, an arming unit and its
overflow area, a waiter pool, an operator stream's control block, or a queue of an engine. -/
inductive Room where
  | path (path : Nat)
  | log
  | arms (va pa : Nat)
  | waiters (die : Nat)
  | stream (parts : List (Nat × Nat))
  | engine
  | exchange
  deriving DecidableEq, Repr

/-- What a split that issues nothing waits for (08_ordering.md R191, and the holds listed there). A BWAIT names
its object by both addresses; `result` is an instruction held for the result of a flight (02_words.md R52); `walk` is
an instruction whose translation, of its fetch or of its data, reads page tables that must be asked for (07_memory.md R156):
the requests, and the places that are not ready yet. -/
inductive WaitCond where
  | path (path : Nat) (n : DWord)
  | barrier (va : DWord) (pa : Nat) (target : Word)
  | point (k : Nat) (target : Word)
  | rsync (k : Nat) (target : Word)
  | flight (id : Nat)
  | result (id : Nat)
  | message (id : Nat)
  | purge (vi tag : Nat)
  | replay (stamp : Nat)
  | landing
  | room (what : Room)
  | walk (data : Bool) (ids pas : List Nat)
  | performed (ids : List Nat) (scope : Nat)
  | fence
  deriving DecidableEq, Repr

/-- A split (06_control.md R129; 14_system.md R344). `order` holds the accesses that every later access of a
merged split follows (08_ordering.md R177), and `trail` the stores that its accesses made or read and that may not be
performed at every scope yet (R179); `ptag` is the tag of the error behind PURGP (14_system.md R332); `entries` counts what it holds of its group's write log (02_words.md
R54); `active`, `entered`, `woke` and `issued` are its place in the partition's sets (R57 to R60). -/
structure Split where
  num : Nat
  pc : DWord
  mask : Word
  mode : DWord
  rcva : DWord
  rcvaValid : Bool
  stack : List StackEntry
  spilled : Nat
  s : Cells DWord
  x : Cells XReg
  tstat : DWord
  frame : TrapFrame
  parked : Option (DWord × Nat)
  drainPark : Bool
  windows : List Window
  owner : Option (Nat × Snapshot)
  fence : Option FenceWin
  outcome : BitVec 8
  wait : Option WaitCond
  order : List Nat
  trail : List Nat
  ptag : Option Nat
  active : Bool
  entered : Nat
  woke : Nat
  entries : Nat
  issued : Bool
  deriving DecidableEq, Repr

/-- A rise on a decoupling path (07_memory.md R165, R166): entries stand in rise order, and a due entry falls
when every earlier one of its path has fallen. -/
structure PathEntry where
  path : Nat
  id : Nat
  due : Bool
  deriving DecidableEq, Repr

/-- Where a deferred fault is delivered (R216, R218, R243, R263, R306, R333); `slot` is where a matrix stream's is. -/
inductive DeliverAt where
  | path (path rise : Nat)
  | object (pa : Nat)
  | point (k : Nat)
  | anyWait
  | result
  | arm
  | slot
  deriving DecidableEq, Repr

/-- A deferred fault of a group, not delivered yet: `id` counts operations in issue order, `dests` are the
registers of split `spl` that a held instruction may name, `purge` the tag of a POISON; without `mask`, TRAPM is
the waiting split's active lanes. `record` is the record of a copy's fault with its window address in the ring, 0 where it was
dropped. -/
structure DFault where
  id : Nat
  cause : Nat
  defpc : DWord
  value : DWord
  mask : Option Word
  at_ : DeliverAt
  dests : List Reg
  spl : Nat
  purge : Option Nat
  record : Option (BitVec 256 × DWord)
  deriving DecidableEq, Repr

/-- A group (01_machine.md R22; 14_system.md R344). -/
structure Group where
  num : Nat
  part : Nat
  role : Nat
  splits : List Split
  regs : Cells Word
  preds : Cells Word
  gens : Cells Word
  exited : Word
  paths : List PathEntry
  rises : Cells Nat
  log : List (Nat × DWord)
  ringBase : Word
  ringSize : Word
  ringHead : Word
  ringTail : Word
  ringDrop : Word
  seq : Word
  arrivals : Nat
  faults : List DFault
  deriving DecidableEq, Repr

/-- The job a worker team holds (12_work.md R283; 14_system.md R343). -/
structure HeldJob where
  desc : BitVec 512
  seq : Word
  colDie : Nat
  taken : Bool
  rerun : Option Nat
  deriving DecidableEq, Repr

/-- A team's matrix sequencer slot (10_matrix.md R221 to R227). `acc` holds the accumulator storage in rows of
512 bytes: row i of F32 tile m is row 128m + i, row i of F64 tile m is row 64m + i. `after` holds the accesses
that the stream follows (R242), `ranged` says that the word in progress has reported its range event (R238),
`wrote` what that word has replaced of poisoned granules (07_memory.md R418), `ending` that MEND waits for its stores (R230), and `began` is the place of its start in issue order (00_scope.md R8). -/
structure MSlot where
  index : Nat
  spc : DWord
  mstat : DWord
  mrp : DWord
  loops : List (DWord × Nat)
  targets : Cells Word
  handles : List (Nat × BitVec 512)
  koff : Cells Word
  acc : Cells (BitVec 4096)
  owner : Option (Nat × Nat)
  fault : Option (Nat × TrapInfo)
  purge : Option Nat
  waiting : Option Nat
  after : List Nat
  ranged : Bool
  wrote : List (Nat × Nat)
  ending : Bool
  began : Nat
  deriving DecidableEq, Repr

/-- A team (01_machine.md R22 to R24; 14_system.md R343); `ptags` are the tags of errors that its splits consumed and
whose purge has not been performed yet (R332), and `trail` what the `trail` of its ended splits held. -/
structure Team where
  id : Nat
  vi : Nat
  core : Nat
  bank : Nat
  slot : Nat
  first : Nat
  hdr : Word
  roles : List Word
  rtag : BitVec 16
  ptags : List Nat
  tvec : DWord
  worker : Bool
  exitPending : Bool
  stopped : Bool
  clean : Bool
  spadBase : Nat
  spadBytes : Nat
  teamix : Nat
  cev : Word
  points : Cells (BitVec 128)
  maps : List (Nat × BitVec 512)
  job : Option HeldJob
  mslot : Option MSlot
  trail : List Nat
  groups : List Group
  deriving DecidableEq, Repr

/-- A translation held by a TLB (07_memory.md R158): `unit` names the holder (a core, its matrix engine, its
copy engine, the die's exchange engine or walkers). -/
structure TlbEntry where
  unit : Nat
  vi : Nat
  level : Nat
  vpn : Nat
  pte : DWord
  deriving DecidableEq, Repr

/-- What a checked instruction commits in one lane (15_checking.md R352): its results in the order of its destinations, a
predicate in bit 0, and the lane's generator. -/
structure LaneResult where
  lane : Nat
  vals : List DWord
  gen : Word
  deriving DecidableEq, Repr

/-- A replay-queue entry (15_checking.md R353): the instruction, with its fused immediate; the registers and generators that
it read, with its group's budget word; and what it committed. -/
structure ReplayEntry where
  part : Nat
  team : Nat
  grp : Nat
  spl : Nat
  pc : DWord
  instr : Instr
  lim : Option (BitVec 24)
  role : Word
  before : Snapshot
  results : List LaneResult
  stamp : Nat
  deriving DecidableEq, Repr

/-- The packet that asked for something: its queue and position, its VI, type and sub, and whether it asked for
DONE (16_frontend.md R371, R421). -/
structure PktRef where
  queue : Nat
  pos : Word
  vi : Nat
  type : Nat
  sub : Nat
  notify : Bool
  deriving DecidableEq, Repr

/-- What an arm watches (R210, R257, R286, R289, R292, R315). -/
inductive ArmCond where
  | word (cond : Nat) (comparand : DWord)
  | event (name q : Word)
  | mailbox (team : Nat)
  deriving DecidableEq, Repr

/-- An arm held by an arming unit (09_atomics.md R210, R211); `core`, `vi` and `tag` are the arming request's (R216). -/
structure Arm where
  id : Nat
  cond : ArmCond
  addr : Nat
  va : DWord
  object : Nat
  objva : DWord
  team : Nat
  grp : Nat
  spl : Nat
  pc : DWord
  mask : Word
  core : Nat
  vi : Nat
  tag : Nat
  deriving DecidableEq, Repr

/-- An image on its way to another module: the requests that write it, whether one was given up, and the arms of its teams,
each with its die, which are withdrawn from their units. -/
structure ImageWrite where
  ids : List Nat
  lost : Bool
  arms : List (Nat × Arm)
  deriving DecidableEq, Repr

/-- A drain or a forced swap in progress on a core (14_system.md R336, R337); `failed` says that its image could
not be written, and `imm` that a request for it was immediate. -/
structure DrainSt where
  image : DWord
  vi : Nat
  pkts : List PktRef
  failed : Bool
  imm : Bool
  wrote : Option ImageWrite
  deriving DecidableEq, Repr

/-- A background save or load of the non-running bank (14_system.md R345): the team slot of a CTXL.team, the
issuing flight of a CTXS or CTXL, the packets that wait, whether a forced swap began it, and one that an immediate request
asked for. -/
structure CtxOp where
  save : Bool
  team : Option Nat
  image : DWord
  vi : Nat
  flight : Option Nat
  pkts : List PktRef
  forced : Bool
  imm : Bool
  wrote : Option ImageWrite
  deriving DecidableEq, Repr

/-- A core (01_machine.md R10; 14_system.md R322); `l1bad` are the granules of its L1 copies that hold an
uncorrectable error of the copy alone (07_memory.md R418); `loaded` says that its non-running bank is READY after a load. Its scratchpad, mailbox and digest bytes are in memory. -/
structure CoreSt where
  ready : Bool
  lost : Bool
  quarantined : Bool
  capreg : Nat
  susp : BitVec 8
  fnrb : DWord
  bankst : DWord
  saveseq : DWord
  chk : DWord
  drop : DWord
  trans : DWord
  replay : List ReplayEntry
  mailbox : List (Nat × Nat)
  l1 : List Nat
  l1own : List Nat
  l1bad : List Nat
  drain : Option DrainSt
  ctx : Option CtxOp
  loaded : Bool
  swapping : Bool
  reserved : Option Nat
  deriving DecidableEq, Repr

/-- A record in a die's waiter pool (12_work.md R282), by its number in the pool. `col` is the subscribing
die, none for a local arm. -/
structure Waiter where
  num : Nat
  name : Word
  q : Word
  col : Option Nat
  arm : Option Nat
  deriving DecidableEq, Repr

/-- A stream registered with a Col (12_work.md R268, R269): the fields copied, the next position, the stop, the
position of a refused record (R272), the producer words of its own expansion: table index, position, word and the word
that stood in the table (R274), and a record whose expansion has paused: the jobs expanded and the producer words of its
inputs with their modes (R277). -/
structure Stream where
  vi : Nat
  num : Nat
  scb : DWord
  base : DWord
  log2 : Nat
  dev : Bool
  dmask : Nat
  ttcount : Nat
  ttbase : DWord
  fxbase : DWord
  next : Word
  stopped : Bool
  skip : Option Word
  made : List (Nat × Word × BitVec 128 × BitVec 128)
  hand : Option (Nat × List (Nat × BitVec 128))
  deriving DecidableEq, Repr

/-- Where a job stands in its Col (12_work.md R277, R283). -/
inductive JobStage where
  | waiting | ready | bound (core team : Nat)
  deriving DecidableEq, Repr

/-- A job record of a Col (12_work.md R274 to R278); `cup` names the run of a Cupping re-run (R362). -/
structure Job where
  vi : Nat
  desc : BitVec 512
  number : Nat
  prio : Nat
  inputs : List (Word × Word)
  done : List (Word × Word)
  poisoned : Bool
  since : Nat
  stage : JobStage
  cup : Option Nat
  deriving DecidableEq, Repr

/-- A Cupping run (15_checking.md R361 to R364). -/
structure Cup where
  id : Nat
  vi : Nat
  desc : BitVec 512
  cores : List Nat
  digests : List DWord
  holds : List (DWord × Nat)
  bound : Option Nat
  marked : Bool
  deriving DecidableEq, Repr

/-- A read-only lease of a line of another module, held by a die (13_fabric.md R307). -/
structure Lease where
  die : Nat
  line : Nat
  deriving DecidableEq, Repr

/-- A compute die (01_machine.md R13); `causes` are those of its steps down, latest first (17_module.md R390); `rdcbad` are the granules of its RDC copies and leases that hold an
uncorrectable error of the copy alone (07_memory.md R418). -/
structure DieSt where
  ready : Bool
  hbmReady : Bool
  waiters : List Waiter
  rdc : List Nat
  rdcbad : List Nat
  pins : List (Nat × Nat)
  predictor : Cells Nat
  arms : List Arm
  streams : List Stream
  jobs : List Job
  jobseq : Word
  lastCore : Cells Nat
  cupc : Cells DWord
  cups : List Cup
  selected : Word
  mismatches : Word
  jobdones : Nat
  shadow : List (Nat × Byte)
  level : Nat
  throttled : Nat
  stepsDown : Nat
  causes : List ThrottleCause
  deriving DecidableEq, Repr

/-- A virtual interface on a module (16_frontend.md R379); `power` is the energy of its last window, and `withheld` that
by which it exceeded the cap (17_module.md R391). -/
structure ViSt where
  module : Nat
  cfg : ViConfig
  dead : List Nat
  power : Nat
  withheld : Nat
  deriving DecidableEq, Repr

/-- A UALink port (13_fabric.md R300, R303, R309): state 0 down, 1 training, 2 up; `working` counts the lanes that
have not failed. -/
structure PortSt where
  state : Nat
  width : Nat
  working : Nat
  retries : Word
  deriving DecidableEq, Repr

/-- A firmware queue assigned to a VI (16_frontend.md R369, R370): its control block is in memory at the
physical address `qcb`; `watch` is the line of which the fetcher keeps a read copy (none once it is invalidated),
`packet` is the snapshot of the next slot that passed its checks and waits for its step, and `rereads` counts the
failed reads of R372. -/
structure QueueSt where
  vi : Nat
  qcb : Nat
  watch : Option Nat
  packet : Option (List Byte)
  rereads : Nat
  deriving DecidableEq, Repr

/-- A launch in progress (12_work.md R294, R295): `aged` is 1 after GANG_AGE and 2 after GANG_STARVED, and `fixes` are the
requests that write relocated fields in other modules (02_words.md R45). -/
structure Launch where
  id : Nat
  vi : Nat
  module : Nat
  queue : Nat
  pos : Word
  notify : Bool
  image : DWord
  arg : DWord
  ext : Nat × Nat × Nat
  cev : Word
  tvec : DWord
  rtag : Nat
  worker : Bool
  system : Bool
  header : Word
  roles : List Word
  next : Nat
  lastCore : Option Nat
  aged : Nat
  fixes : List Nat
  deriving DecidableEq, Repr

/-- A message between a Col, an engine or an instruction and an event's home (12_work.md R282, R288). -/
inductive MsgKind where
  | subscribe (q : Word) (col : Nat)
  | add (amount : Nat)
  | reset (q : Word) (thresh : Nat)
  | poison
  | notify (q : Word) (col : Nat) (poisoned : Bool)
  deriving DecidableEq, Repr

/-- A request between two modules (13_fabric.md R304, R305). An atomic names its lanes; a read says whether its
line is leased, and the core whose L1 a prefetch fills. -/
inductive ReqKind where
  | write (bytes : List (Nat × Byte))
  | event (name : Word) (kind : MsgKind)
  | atomic (lanes : List Nat)
  | read (lease : Bool) (l1 : Option Nat)
  deriving DecidableEq, Repr

/-- An outstanding request to another module: `who` issued it (none for a device's own), `mask` are the lanes it
serves, `rise` is its place among the rises of STG, `after` what a release must follow (08_ordering.md R181), `vi` the VI it
is made for, `contribs` the digest contributions of the bytes it writes (15_checking.md R356), and `op` the tile operation that made it
and has ended since, at stage 9 when it has raised its fault (11_copy.md R263). -/
structure Request where
  id : Nat
  die : Nat
  src : Nat
  tgt : Nat
  seq : Word
  line : Nat
  plane : Nat
  kind : ReqKind
  flight : Option Nat
  va : DWord
  pc : DWord
  who : Option (Nat × Nat × Nat)
  mask : Word
  rise : Nat
  after : List Nat
  vi : Option Nat
  contribs : List DWord
  op : Option Flight
  sent : Bool
  performed : Bool
  acked : Bool
  abandoned : Bool
  deriving DecidableEq, Repr

/-- A deduplication window (13_fabric.md R304), held by the target for a source: the base, and the marks with what
an atomic returned to its lanes. -/
structure Dedup where
  src : Nat
  tgt : Nat
  next : Word
  base : Word
  marks : List (Word × List (Nat × List Byte))
  deriving DecidableEq, Repr

/-- An event message in flight. -/
structure Msg where
  id : Nat
  name : Word
  vi : Nat
  kind : MsgKind
  after : List Nat
  who : Option (Nat × Nat × Nat)
  pc : DWord
  deriving DecidableEq, Repr

/-- A module (17_module.md R392; 16_frontend.md R369, R382 to R384); `reached` holds the modules that have answered it,
with the step of the latest answer, and `reachMs` its reachability timer (13_fabric.md R305, R309); `keys` are the digests
of the public keys in its fuses. -/
structure ModuleSt where
  members : List Nat
  reached : List (Nat × Nat)
  reachMs : Nat
  fpmap : DWord
  fwReady : List Nat
  meas : Cells (BitVec 512)
  svn : Nat
  keys : Cells (BitVec 512)
  revoked : List Nat
  staged : Option FwImage
  running : Option FwImage
  fatal : Bool
  tripped : Bool
  deriving DecidableEq, Repr

/-- An event report (16_frontend.md R378), as firmware receives it. -/
structure Report where
  code : Nat
  reason : Nat
  vi : Nat
  arg0 : DWord
  arg1 : DWord
  ext : Option (BitVec 256)
  pos : Word
  deriving DecidableEq, Repr

/-- What the management port says (17_module.md R386). -/
structure Notice where
  what : String
  args : List Nat
  deriving DecidableEq, Repr

/-- Bytes that a module's front end or report writer has written on behalf of a VI and that wait for their home: an HBM stack
that is not ready, or another module (16_frontend.md R378, R381). -/
structure LateWrite where
  module : Nat
  vi : Nat
  va : Nat
  pa : Nat
  data : List Byte
  deriving DecidableEq, Repr

/-- A purge in progress (14_system.md R332). -/
structure Purge where
  module : Nat
  vi : Nat
  tag : Nat
  addr : Option DWord
  pkts : List PktRef
  deriving DecidableEq, Repr

/-- The whole machine. `awaits` are packets whose DONE waits for a request to another module; `woken` are the splits
(team, group, number) whose BWAIT a change of its object has satisfied (08_ordering.md R188); `written` are the bytes
that the front end and the report writer have written and of which the other agents have not been told yet; `late` are
their writes that wait for their homes; `rdma` are the completions that the host's transfers have had (17_module.md R385). -/
structure State where
  split : Split
  group : Group
  team : Team
  live : Bool
  teams : List Team
  mem : List Host.Cell
  poison : List Nat
  cores : Cells CoreSt
  dies : Cells DieSt
  modules : Cells ModuleSt
  ports : Cells PortSt
  queues : List (Nat × QueueSt)
  vis : List (Nat × ViSt)
  tlb : List TlbEntry
  flights : List Flight
  reqs : List Request
  dedups : List Dedup
  msgs : List Msg
  leases : List Lease
  launches : List Launch
  purges : List Purge
  awaits : List (Nat × PktRef)
  woken : List (Nat × Nat × Nat)
  written : List (Nat × Nat)
  late : List LateWrite
  reports : List Report
  notices : List Notice
  rdma : List Notice
  agenda : List Instr
  lim : Option (BitVec 24)
  mteam : Option Nat
  fw : Cells DWord
  fwModule : Nat
  tick : Nat
  fresh : Nat
  deriving DecidableEq, Repr

/-- Why a step stops. -/
inductive Fault where
  /-- Raised by the step of a device (a row of the opcode table that is no instruction word) asked for in a
  state where the machine has nothing for it to act on: no such flight, message, request, queue, port, core
  or team, or its condition does not hold. Also raised where the outside names an instruction word in place of
  a device's step, and where a word of the matrix engine is asked of a team that has no sequencer slot (log 2).
  The hardware never takes such a step, so stopping is safe. -/
  | notEnabled
  deriving DecidableEq, Repr

/-- Why an instruction has no meaning in the model. -/
inductive Refusal where
  /-- Answered by the dispatcher alone, for an instruction that has no meaning yet; safe. -/
  | notModelled (mnemonic : String)
  deriving DecidableEq, Repr

/-- The trap frame before any trap: the spec gives no reset (log 6). -/
def TrapFrame.zero : TrapFrame := ⟨0, 0, 0, 0, 0, 0, 0, 0, 0⟩

/-- A split as team placement makes it, but for its number, mask, PC, MODE and s0 to s2 (R129, R64, R324). -/
def Split.fresh : Split where
  num := 0
  pc := 0
  mask := 0
  mode := 0
  rcva := 0
  rcvaValid := false
  stack := []
  spilled := 0
  s := []
  x := []
  tstat := 0
  frame := TrapFrame.zero
  parked := none
  drainPark := false
  windows := []
  owner := none
  fence := none
  outcome := 0
  wait := none
  order := []
  trail := []
  ptag := none
  active := false
  entered := 0
  woke := 0
  entries := 0
  issued := false

/-- A group as team placement makes it (R64, R142, R165, R260). -/
def Group.fresh : Group where
  num := 0
  part := 0
  role := 0
  splits := []
  regs := []
  preds := []
  gens := []
  exited := 0
  paths := []
  rises := []
  log := []
  ringBase := 0
  ringSize := 0
  ringHead := 0
  ringTail := 0
  ringDrop := 0
  seq := 0
  arrivals := 0
  faults := []

/-- A sequencer slot as team placement makes it (R222, R225 to R227; SPC and KOFF: log 6). -/
def MSlot.fresh : MSlot where
  index := 0
  spc := 0
  mstat := 0
  mrp := 0
  loops := []
  targets := []
  handles := []
  koff := []
  acc := []
  owner := none
  fault := none
  purge := none
  waiting := none
  after := []
  ranged := false
  wrote := []
  ending := false
  began := 0

/-- A team with nothing in it. -/
def Team.fresh : Team where
  id := 0
  vi := 0
  core := 0
  bank := 0
  slot := 0
  first := 0
  hdr := 0
  roles := []
  rtag := 0
  ptags := []
  tvec := 0
  worker := false
  exitPending := false
  stopped := false
  clean := false
  spadBase := 0
  spadBytes := 0
  teamix := 0
  cev := 0
  points := []
  maps := []
  job := none
  mslot := none
  trail := []
  groups := []

/-- A core after module reset (R28, R381: not ready; R185, R324, R342, R360, R365: zero). -/
def CoreSt.reset : CoreSt where
  ready := false
  lost := false
  quarantined := false
  capreg := Config.capreg
  susp := 0
  fnrb := 0
  bankst := 0
  saveseq := 0
  chk := 0
  drop := 0
  trans := 0
  replay := []
  mailbox := []
  l1 := []
  l1own := []
  l1bad := []
  drain := none
  ctx := none
  loaded := false
  swapping := false
  reserved := none

/-- A die after module reset (R381; R197, R361, R365: zero; clock level: log 6). -/
def DieSt.reset : DieSt where
  ready := false
  hbmReady := false
  waiters := []
  rdc := []
  rdcbad := []
  pins := []
  predictor := []
  arms := []
  streams := []
  jobs := []
  jobseq := 1
  lastCore := []
  cupc := []
  cups := []
  selected := 0
  mismatches := 0
  jobdones := 0
  shadow := []
  level := 16
  throttled := 0
  stepsDown := 0
  causes := []

/-- A module after reset (R302: FPMAP; R305: the timer; R384: M0 to M7 zero; R383: no SVN committed, and no key's digest burnt, log 6). -/
def ModuleSt.reset : ModuleSt where
  members := []
  reached := []
  reachMs := Config.reachMs
  fpmap := 0x0706050403020100
  fwReady := []
  meas := []
  svn := 0
  keys := []
  revoked := []
  staged := none
  running := none
  fatal := false
  tripped := false

/-- A port after reset: not ready (R381), with no width yet. -/
def PortSt.reset : PortSt := ⟨0, 0, 4, 0⟩

/-- The machine right after reset (16_frontend.md R381): nothing is ready, no VI is configured, no team is
placed, and memory lists nothing. How a program comes to run from here is said in log 3. -/
def State.reset : State where
  split := Split.fresh
  group := Group.fresh
  team := Team.fresh
  live := false
  teams := []
  mem := []
  poison := []
  cores := []
  dies := []
  modules := []
  ports := []
  queues := []
  vis := []
  tlb := []
  flights := []
  reqs := []
  dedups := []
  msgs := []
  leases := []
  launches := []
  purges := []
  awaits := []
  woken := []
  written := []
  late := []
  reports := []
  notices := []
  rdma := []
  agenda := []
  lim := none
  mteam := none
  fw := []
  fwModule := 0
  tick := 0
  fresh := 0

end Sys2Proof.Machine
end

