-- ==== Sys2Proof/Machine/Mem.lean ====
section
/-! DEFINITION. Sparse stores, physical places, bytes of memory and address translation
(07_memory.md R152 to R159, R418, R419). -/

namespace Sys2Proof.Machine

/-! ## Sparse stores in canonical form -/

/-- What a store holds at a key; `d` gives what an unlisted key reads as. -/
def cget {α : Type} (d : Nat → α) : Cells α → Nat → α
  | [], k => d k
  | (j, v) :: r, k => if j = k then v else cget d r k

/-- Without a key. -/
def cdel {α : Type} : Cells α → Nat → Cells α
  | [], _ => []
  | (j, w) :: r, k => if j = k then cdel r k else (j, w) :: cdel r k

/-- Insert a key before the first greater one. -/
def cins {α : Type} : Cells α → Nat → α → Cells α
  | [], k, v => [(k, v)]
  | (j, w) :: r, k, v => if k < j then (k, v) :: (j, w) :: r else (j, w) :: cins r k v

/-- Write one key, keeping the keys rising and dropping an entry that equals its default. -/
def cput {α : Type} [DecidableEq α] (d : Nat → α) (m : Cells α) (k : Nat) (v : α) : Cells α :=
  if v = d k then cdel m k else cins (cdel m k) k v

/-- Keys strictly above `lo`, rising, and no entry equal to its default. -/
def cwfFrom {α : Type} [DecidableEq α] (d : Nat → α) (lo : Nat) : Cells α → Bool
  | [] => true
  | (j, v) :: r => decide (lo ≤ j) && decide (v ≠ d j) && cwfFrom d (j + 1) r

/-- The canonical form of a sparse store. -/
def cwf {α : Type} [DecidableEq α] (d : Nat → α) (m : Cells α) : Bool := cwfFrom d 0 m

/-- Write consecutive keys. -/
def cputs {α : Type} [DecidableEq α] (d : Nat → α) (m : Cells α) (k : Nat) : List α → Cells α
  | [] => m
  | v :: r => cputs d (cput d m k v) (k + 1) r

/-- An entry of a table without default. -/
def lookup {α : Type} : List (Nat × α) → Nat → Option α
  | [], _ => none
  | (j, v) :: r, k => if j = k then some v else lookup r k

/-- Bind a key of such a table, replacing an earlier binding. -/
def bind {α : Type} (m : List (Nat × α)) (k : Nat) (v : α) : List (Nat × α) :=
  (k, v) :: m.filter (fun e => decide (e.1 ≠ k))

/-! ## Physical places -/

/-- What a physical address names (R152). -/
inductive Place where
  | hbm
  | spad (core bank off : Nat)
  | event (idx : Nat)
  | mailbox (core off : Nat)
  | digest (core off : Nat)
  | reserved
  deriving DecidableEq, Repr

/-- Module field PA[51:42]. -/
def paModule (pa : Nat) : Nat := pa / 2 ^ 42 % 2 ^ 10

/-- Die number within its module. -/
def paDie (pa : Nat) : Nat := pa / 2 ^ 38 % 16

/-- The die as the model numbers it: module times 16 plus die. -/
def paHome (pa : Nat) : Nat := pa / 2 ^ 38 % 2 ^ 14

/-- The local field PA[37:0]. -/
def paLocal (pa : Nat) : Nat := pa % 2 ^ 38

/-- The table of R152. -/
def place (pa : Nat) : Place :=
  let l := paLocal pa
  if l < 0x1000000000 then .hbm
  else if 0x3000000000 ≤ l ∧ l < 0x3000000000 + 48 * 0x100000 then
    let o := l - 0x3000000000
    .spad (o / 0x100000) (o / 0x80000 % 2) (o % 0x80000)
  else if 0x3100000000 ≤ l ∧ l < 0x3100400000 then .event ((l - 0x3100000000) / 16)
  else if 0x3200000000 ≤ l ∧ l < 0x3200000000 + 48 * 0x1000 then
    .mailbox ((l - 0x3200000000) / 0x1000) ((l - 0x3200000000) % 0x1000)
  else if 0x3300000000 ≤ l ∧ l < 0x3300000000 + 48 * 0x1000 then
    .digest ((l - 0x3300000000) / 0x1000) ((l - 0x3300000000) % 0x1000)
  else .reserved

/-- First byte of bank `bank` of core `core` (numbered module * 1024 + die * 64 + core). -/
def spadAddr (core bank off : Nat) : Nat :=
  core / 64 * 2 ^ 38 + 0x3000000000 + core % 64 * 0x100000 + bank * 0x80000 + off

/-- The address of an event entry by its name (R279). -/
def eventAddr (name : Nat) : Nat := name / 2 ^ 18 % 2 ^ 14 * 2 ^ 38 + 0x3100000000 + name % 2 ^ 18 * 16

/-- The address of mailbox entry `e` of a core. -/
def mailAddr (core e : Nat) : Nat := core / 64 * 2 ^ 38 + 0x3200000000 + core % 64 * 0x1000 + e * 64

/-- The address of the digest entry of team slot `slot` of bank `bank` of a core (15_checking.md R357). -/
def digestAddr (core bank slot : Nat) : Nat :=
  core / 64 * 2 ^ 38 + 0x3300000000 + core % 64 * 0x1000 + (16 * bank + slot) * 128

/-! ## Bytes -/

/-- What a byte that nothing has written reads as: the reset contents of the event table (R280: THRESH 1,
WAITH 0xFFFF), and 0 everywhere else (log 5). -/
def memDflt (pa : Nat) : Byte :=
  match place pa with
  | .event _ => if pa % 16 = 2 then 1 else if pa % 16 = 12 then 0xFF else if pa % 16 = 13 then 0xFF else 0
  | _ => 0

/-- The canonical form of a memory. -/
def Memory.wf (m : List Host.Cell) : Bool := cwf memDflt m

/-- One byte of memory at a physical address. -/
def rdByte (s : State) (pa : Nat) : Byte := cget memDflt s.mem pa

/-- Write one byte. -/
def wrByte (s : State) (pa : Nat) (b : Byte) : State := { s with mem := cput memDflt s.mem pa b }

/-- `n` consecutive bytes, lowest address first. -/
def rdBytes (s : State) : (pa n : Nat) → List Byte
  | _, 0 => []
  | pa, n + 1 => rdByte s pa :: rdBytes s (pa + 1) n

/-- Write consecutive bytes. -/
def wrBytes (s : State) (pa : Nat) (bs : List Byte) : State := { s with mem := cputs memDflt s.mem pa bs }

/-- Little-endian value of bytes (R3). -/
def leNat : List Byte → Nat
  | [] => 0
  | b :: r => b.toNat + 256 * leNat r

/-- The `n` little-endian bytes of a number. -/
def natLe : (n : Nat) → Nat → List Byte
  | 0, _ => []
  | n + 1, w => BitVec.ofNat 8 w :: natLe n (w / 256)

def rdNat (s : State) (pa n : Nat) : Nat := leNat (rdBytes s pa n)

def wrNat (s : State) (pa n v : Nat) : State := wrBytes s pa (natLe n v)

/-- Bytes of an access made of physical pieces, in order. -/
def rdParts (s : State) : List (Nat × Nat) → List Byte
  | [] => []
  | (pa, n) :: r => rdBytes s pa n ++ rdParts s r

/-- Write bytes over physical pieces, in order. -/
def wrParts (s : State) : List (Nat × Nat) → List Byte → State
  | [], _ => s
  | (pa, n) :: r, bs => wrParts (wrBytes s pa (bs.take n)) r (bs.drop n)

/-! ## Uncorrectable errors (R418) -/

/-- The poisoned granules among the bytes of a piece. -/
def poisoned (s : State) (pa n : Nat) : Bool :=
  s.poison.any (fun g => decide (g * 32 < pa + n) && decide (pa < g * 32 + 32))

def poisonedParts (s : State) (ps : List (Nat × Nat)) : Bool := ps.any (fun p => poisoned s p.1 p.2)

/-- Mark a granule. -/
def addPoison (s : State) (g : Nat) : State := { s with poison := g :: s.poison.filter (fun x => decide (x ≠ g)) }

/-- The byte `pa` lies in one of the pieces. -/
def covered (ps : List (Nat × Nat)) (pa : Nat) : Bool :=
  ps.any (fun p => decide (p.1 ≤ pa) && decide (pa < p.1 + p.2))

/-- Writes that together replace all 32 bytes of a granule clear its poison. -/
def clearPoison (s : State) (ps : List (Nat × Nat)) : State :=
  { s with poison := s.poison.filter (fun g => !(List.range 32).all (fun i => covered ps (g * 32 + i))) }

/-! ## Tables of the machine -/

def getCore (s : State) (c : Nat) : CoreSt := cget (fun _ => CoreSt.reset) s.cores c
def setCore (s : State) (c : Nat) (x : CoreSt) : State := { s with cores := cput (fun _ => CoreSt.reset) s.cores c x }
def getDie (s : State) (d : Nat) : DieSt := cget (fun _ => DieSt.reset) s.dies d
def setDie (s : State) (d : Nat) (x : DieSt) : State := { s with dies := cput (fun _ => DieSt.reset) s.dies d x }
def getModule (s : State) (m : Nat) : ModuleSt := cget (fun _ => ModuleSt.reset) s.modules m
def setModule (s : State) (m : Nat) (x : ModuleSt) : State :=
  { s with modules := cput (fun _ => ModuleSt.reset) s.modules m x }
def getPort (s : State) (p : Nat) : PortSt := cget (fun _ => PortSt.reset) s.ports p
def setPort (s : State) (p : Nat) (x : PortSt) : State := { s with ports := cput (fun _ => PortSt.reset) s.ports p x }

/-- The place of an address takes accesses: an HBM stack, or a core with its scratchpad, that is not ready makes them wait
(01_machine.md R28; 16_frontend.md R381; log 91), and so does a module whose rails are off (17_module.md R389). -/
def homeReady (s : State) (pa : Nat) : Bool :=
  !(getModule s (paModule pa)).tripped &&
  match place pa with
  | .hbm => (getDie s (paHome pa)).hbmReady
  | .spad c _ _ => (getCore s (paHome pa * 64 + c)).ready || (getCore s (paHome pa * 64 + c)).lost
  | _ => true

/-- Core numbers name their die and module. -/
def coreDie (c : Nat) : Nat := c / 64
def coreModule (c : Nat) : Nat := c / 1024
def dieModule (d : Nat) : Nat := d / 16

/-- The key of a VI on a module. -/
def viKey (module vi : Nat) : Nat := module * 64 + vi

def getVi (s : State) (module vi : Nat) : Option ViSt := lookup s.vis (viKey module vi)

/-- VROOT of a VI (R157); 0, so EN = 0, when the VI is not configured. -/
def vrootOf (s : State) (module vi : Nat) : DWord :=
  match getVi s module vi with
  | some v => v.cfg.vroot
  | none => 0

/-- The VI's event domain (R280); 0 means none. -/
def domainOf (s : State) (module vi : Nat) : Nat :=
  match getVi s module vi with
  | some v => v.cfg.domain
  | none => 0

/-! ## Page tables (R155, R156) -/

/-- Trap cause codes (14_system.md R325). -/
def Cause.illegal := 0x01
def Cause.priv := 0x03
def Cause.indexBound := 0x04
def Cause.lookahead := 0x05
def Cause.targetDiverge := 0x06
def Cause.misalign := 0x07
def Cause.misalignAttr := 0x08
def Cause.pageFault := 0x09
def Cause.access := 0x0A
def Cause.poison := 0x0B
def Cause.sigUnder := 0x0C
def Cause.sigOver := 0x0D
def Cause.tlBack := 0x0E
def Cause.tlTop := 0x0F
def Cause.deferredCopy := 0x10
def Cause.fabricUncertain := 0x11
def Cause.stackOver := 0x12
def Cause.bkpt := 0x14
def Cause.swtrap := 0x15
def Cause.matrixFault := 0x16

/-- What an access wants of the page. -/
inductive Kind where
  | read | write | atomic | exec
  deriving DecidableEq, Repr

/-- A leaf entry with its level. -/
structure Leaf where
  level : Nat
  pte : Nat
  deriving DecidableEq, Repr

/-- Low bit of the VA index of a level, and of a page mapped at that level. -/
def levelShift (level : Nat) : Nat :=
  match level with
  | 3 => 39
  | 2 => 30
  | 1 => 21
  | _ => 16

/-- Entries of a table at a level. -/
def levelEntries (level : Nat) : Nat :=
  match level with
  | 3 => 262144
  | 0 => 32
  | _ => 512

/-- The page or table address held in an entry. -/
def pteAddr (pte : Nat) : Nat := pte / 2 ^ 12 % 2 ^ 48 * 16

/-- An entry that the walk may follow or use (R156, second row). -/
def pteOk (level pte : Nat) : Bool :=
  let leaf := pte / 4 % 2 == 1
  pte % 2 == 1 && pte / 2 ^ 60 == 0 && pte / 2 ^ 9 % 8 == 0 && pte / 2 % 2 == 0 &&
  (if leaf then level != 3 && pte / 2 ^ 7 % 4 != 3 && pteAddr pte % 2 ^ levelShift level == 0
   else level != 0 && pte / 8 % 64 == 0 && pteAddr pte % (8 * levelEntries (level - 1)) == 0)

/-- The write-through request of a die whose byte for an address every load from that die reads, with the byte: the
latest (R162). -/
def bufferHit (s : State) (die pa : Nat) : Option (Nat × Byte) :=
  s.reqs.foldl (fun a r =>
    match r.kind with
    | .write bs =>
      if r.die = die ∧ !r.performed ∧ !r.abandoned then
        bs.foldl (fun a e => if e.1 = pa then some (r.id, e.2) else a) a
      else a
    | _ => a) none

/-- The byte that a die's write-through buffer holds at an address. -/
def bufferByte (s : State) (die pa : Nat) : Option Byte := (bufferHit s die pa).map Prod.snd

/-- A byte as a load at die scope reads it. -/
def dieByte (s : State) (die pa : Nat) : Byte := (bufferByte s die pa).getD (rdByte s pa)

/-- Some of the bytes that a load at die scope reads are lost to an error (R418): in the die's own copy where it holds one,
and at the home otherwise. -/
def dieLost (s : State) (die pa n : Nat) : Bool :=
  let d := getDie s die
  (List.range n).any (fun i =>
    let line := (pa + i) / 128
    (bufferByte s die (pa + i)).isNone &&
      (if d.rdc.contains line || s.leases.contains ⟨die, line⟩ then d.rdcbad.contains ((pa + i) / 32)
       else poisoned s (pa + i) 1))

/-- The address of the entry that maps `va` in a table. -/
def entryAddr (va level base : Nat) : Nat := base + 8 * (va / 2 ^ levelShift level % levelEntries level)

/-- A page-table entry, read as an 8-byte load at die scope (R156). -/
def readEntry (s : State) (die at_ : Nat) : Nat := leNat ((List.range 8).map (fun i => dieByte s die (at_ + i)))

/-- Walk from a level down. POISON when the read of an entry meets an error (R419). An entry is read wherever its
table's address points (log 67). -/
def walkFrom (s : State) (die va : Nat) : (level base : Nat) → Except Nat Leaf
  | level, base =>
    let at_ := entryAddr va level base
    if dieLost s die at_ 8 then .error Cause.poison
    else
      let pte := readEntry s die at_
      if !pteOk level pte then .error Cause.pageFault
      else if pte / 4 % 2 = 1 then .ok ⟨level, pte⟩
      else
        match level with
        | 0 => .error Cause.pageFault
        | l + 1 => walkFrom s die va l (pteAddr pte)

/-- The addresses of the entries that a walk reads. -/
def walkEntries (s : State) (die va : Nat) : (level base : Nat) → List Nat
  | level, base =>
    let at_ := entryAddr va level base
    let pte := readEntry s die at_
    if dieLost s die at_ 8 || !pteOk level pte || pte / 4 % 2 == 1 then [at_]
    else
      match level with
      | 0 => [at_]
      | l + 1 => at_ :: walkEntries s die va l (pteAddr pte)

/-- The translation units (R158): a core's TLB, its matrix engine's, its copy engine's, and a die's engines. -/
def unitCore (c : Nat) : Nat := c * 4
def unitMatrix (c : Nat) : Nat := c * 4 + 1
def unitCopy (c : Nat) : Nat := c * 4 + 2
def unitDie (d : Nat) : Nat := d * 4 + 3

/-- The die of a unit. -/
def unitHome (u : Nat) : Nat := if u % 4 = 3 then u / 4 else coreDie (u / 4)

/-- Entries a unit holds. -/
def unitSize (u : Nat) : Nat := if u % 4 = 1 then 512 else 2048

/-- A cached translation that covers an address (R158: it may be used until it is dropped). -/
def tlbFind (s : State) (unit vi va : Nat) : Option Leaf :=
  match s.tlb.find? (fun e => e.unit == unit && e.vi == vi && e.vpn == va / 2 ^ levelShift e.level) with
  | some e => some ⟨e.level, e.pte.toNat⟩
  | none => none

/-- Add a translation; the oldest of a full unit leaves (log 13). -/
def tlbFill (s : State) (unit vi va : Nat) (l : Leaf) : State :=
  let e : TlbEntry := ⟨unit, vi, l.level, va / 2 ^ levelShift l.level, BitVec.ofNat 64 l.pte⟩
  let mine := (s.tlb.filter (fun x => x.unit == unit)).take (unitSize unit - 1)
  { s with tlb := e :: mine ++ s.tlb.filter (fun x => x.unit != unit) }

/-- The level-3 table that VROOT names (R157). -/
def rootBase (root : Nat) : Nat := root / 2 ^ 21 % 2 ^ 31 * 2 ^ 21

/-- The entries that a translation reads: none where the unit holds it, or where there is nothing to walk. -/
def walkReads (s : State) (module unit vi va : Nat) : List Nat :=
  let root := (vrootOf s module vi).toNat
  if 2 ^ 57 ≤ va ∨ Config.window ≤ va ∨ root % 2 = 0 ∨ (tlbFind s unit vi va).isSome then []
  else walkEntries s (unitHome unit) va 3 (rootBase root)

/-- The leaf for an address, from the unit's cache or by a walk. -/
def leafOf (s : State) (module unit vi va : Nat) : Except Nat Leaf :=
  match tlbFind s unit vi va with
  | some l => .ok l
  | none =>
    let root := (vrootOf s module vi).toNat
    if root % 2 = 0 then .error Cause.pageFault
    else walkFrom s (unitHome unit) va 3 (rootBase root)

/-- The physical address of `va` under a leaf. -/
def leafPa (l : Leaf) (va : Nat) : Nat := pteAddr l.pte + va % 2 ^ levelShift l.level

def leafAttr (l : Leaf) : Nat := l.pte / 2 ^ 7 % 4

/-- The leaf allows the access kind (R156). -/
def leafAllows (l : Leaf) (user : Bool) (k : Kind) : Bool :=
  let r := l.pte / 8 % 2 == 1
  let w := l.pte / 16 % 2 == 1
  let x := l.pte / 32 % 2 == 1
  let u := l.pte / 64 % 2 == 1
  (match k with
   | .read => r
   | .write => w
   | .atomic => r && w
   | .exec => x && leafAttr l != 2) && (u || !user)

/-- A module that an access may name: this one, or a member of the UALink group (R156). -/
def inGroup (s : State) (module m : Nat) : Bool := m == module || (getModule s module).members.contains m

/-- The checks of R156 after the walk, on the bytes from `va` to `last`, which lie in the leaf's page. -/
def leafFate (s : State) (module : Nat) (user : Bool) (k : Kind) (l : Leaf) (va last : Nat) :
    Except Nat (Nat × Nat) :=
  let pa := leafPa l va
  let hbm := decide (place pa = .hbm)
  if !inGroup s module (pa / 2 ^ 42 % 2 ^ 10) then .error Cause.access
  else if place pa = .reserved ∨ place (leafPa l last) = .reserved then .error Cause.access
  else if (leafAttr l == 2) == hbm then .error Cause.access
  else if !leafAllows l user k then .error Cause.access
  else .ok (pa, leafAttr l)

/-- Translate the bytes from `va` to `last` of one page: the physical address and the attribute. -/
def translate (s : State) (module unit vi : Nat) (user : Bool) (k : Kind) (va last : Nat) :
    Except Nat (Nat × Nat) :=
  match leafOf s module unit vi va with
  | .error c => .error c
  | .ok l => leafFate s module user k l va last

/-- The last address of the page of `va`: of the leaf's page, or of the smallest one when the walk fails. -/
def pageEnd (s : State) (module unit vi va : Nat) : Nat :=
  let n := match leafOf s module unit vi va with
    | .ok l => 2 ^ levelShift l.level
    | .error _ => 65536
  va / n * n + n - 1

/-- Remember the translation of `va`, when there is one. -/
def remember (s : State) (module unit vi va : Nat) : State :=
  match tlbFind s unit vi va with
  | some _ => s
  | none =>
    match leafOf s module unit vi va with
    | .error _ => s
    | .ok l => tlbFill s unit vi va l

/-- Who makes an access: module, unit, VI, mode, and the scratchpad its window names. -/
structure Agent where
  module : Nat
  unit : Nat
  vi : Nat
  user : Bool
  spad : Nat
  spadBytes : Nat
  deriving DecidableEq, Repr

/-- What one lane's check answers: the pieces, the attribute (2 in the window) and whether it is the window. -/
structure Granted where
  parts : List (Nat × Nat)
  attr : Nat
  window : Bool
  deriving DecidableEq, Repr

/-- The place of the first byte may not be stored to (R153). -/
def noStore (pa : Nat) : Bool :=
  match place pa with
  | .event _ => true
  | .mailbox _ _ => true
  | .digest _ _ => true
  | _ => false

/-- Checks 1 to 4 of R159 for one access of `n` bytes at `ea`: the grant, or the cause and its TRAPV. Of two pages that
both fail, the lower one decides (log 92). -/
def check (s : State) (g : Agent) (k : Kind) (ea n : Nat) : Except (Nat × Nat) Granted :=
  if 2 ^ 57 ≤ ea then .error (Cause.access, ea)
  else if Config.window ≤ ea then
    let o := ea - Config.window
    if g.spadBytes < o + n then .error (Cause.access, ea)
    else .ok ⟨[(g.spad + o, n)], 2, true⟩
  else
    let last := ea + n - 1
    let stop := min (pageEnd s g.module g.unit g.vi ea) (Config.window - 1)
    match translate s g.module g.unit g.vi g.user k ea (min last stop) with
    | .error c => .error (c, ea)
    | .ok (pa, attr) =>
      if last ≤ stop then
        if k != .read && k != .exec && noStore pa then .error (Cause.access, ea)
        else .ok ⟨[(pa, n)], attr, false⟩
      else if Config.window ≤ stop + 1 then .error (Cause.misalignAttr, ea)
      else
        match translate s g.module g.unit g.vi g.user k (stop + 1) last with
        | .error c => .error (c, stop + 1)
        | .ok (pb, attr') =>
          if attr ≠ attr' then .error (Cause.misalignAttr, ea)
          else if k != .read && k != .exec && (noStore pa || noStore pb) then .error (Cause.access, ea)
          else .ok ⟨[(pa, stop + 1 - ea), (pb, n - (stop + 1 - ea))], attr, false⟩

/-- Fill the unit's TLB with the pages of an access that passed. -/
def touch (s : State) (g : Agent) (ea n : Nat) : State :=
  if Config.window ≤ ea then s
  else remember (remember s g.module g.unit g.vi ea) g.module g.unit g.vi (ea + n - 1)

/-- Outcome of the checks over several lanes (R159): the lowest cause, its lanes, and the TRAPV of the
lowest of them; or the grants in lane order. -/
structure Failing where
  cause : Nat
  mask : Word
  value : Nat
  deriving DecidableEq, Repr

/-- Join one failing lane into what has failed so far; lanes come in ascending order. -/
def joinFail (f : Option Failing) (lane : Nat) (c v : Nat) : Option Failing :=
  let m : Word := BitVec.ofNat 32 (2 ^ lane)
  match f with
  | none => some ⟨c, m, v⟩
  | some f => if c < f.cause then some ⟨c, m, v⟩ else if c = f.cause then some { f with mask := f.mask ||| m } else some f

end Sys2Proof.Machine
end

