-- ==== Sys2Proof/Machine/Ops.lean ====
section
/-! DEFINITION. The named operations over the machine: MODE, registers, lanes, the focus, path counters,
reports, traps and the return from one (02_words.md R38 to R42; 03_integer.md R64 to R66; 07_memory.md R165,
R166; 14_system.md R321 to R329, R332, R339; 16_frontend.md R378). -/

namespace Sys2Proof.Machine

/-! ## MODE (R40) -/

/-- Bits `lo + wd - 1` down to `lo` of a 64-bit register. -/
def bitsOf (x : DWord) (lo wd : Nat) : Nat := x.toNat / 2 ^ lo % 2 ^ wd

/-- The bank that holds a core's running context (14_system.md R324). -/
def runningBank (s : State) (core : Nat) : Nat := bitsOf (getCore s core).bankst 3 1

/-- Replace those bits. -/
def putBits (x : DWord) (lo wd v : Nat) : DWord :=
  BitVec.ofNat 64 (x.toNat - bitsOf x lo wd * 2 ^ lo + v % 2 ^ wd * 2 ^ lo)

def mType (m : DWord) : Nat := bitsOf m 0 4
def mRnd (m : DWord) : Nat := bitsOf m 4 3
def mSat (m : DWord) : Bool := bitsOf m 7 1 == 1
def mFtz (m : DWord) : Bool := bitsOf m 8 1 == 1
def mGrd (m : DWord) : Nat := bitsOf m 10 3
def mGneg (m : DWord) : Bool := bitsOf m 13 1 == 1
def mSp (m : DWord) : Nat := bitsOf m 14 3
def mPk (m : DWord) : Nat := bitsOf m 17 5
def mPl (m : DWord) : Nat := bitsOf m 22 5
def mPx (m : DWord) : Nat := bitsOf m 27 5
def mPs (m : DWord) : Nat := bitsOf m 32 3
def mSub (m : DWord) : Nat := bitsOf m 35 3
def mAscope (m : DWord) : Nat := bitsOf m 38 3
def mClone (m : DWord) : Bool := bitsOf m 41 1 == 1
def mC16 (m : DWord) : Bool := bitsOf m 42 1 == 1

/-- The checks of R41 on a value about to become MODE. -/
def modeOk (m : DWord) : Bool :=
  mRnd m != 7 && decide (mPs m ≤ 4) && decide (mAscope m ≤ 5) && bitsOf m 43 21 == 0 && bitsOf m 9 1 == 0

/-- The low bit and the width of the field that MODI names (R41). -/
def modiField (code : Nat) : Option (Nat × Nat) :=
  match code with
  | 0 => some (0, 4)
  | 1 => some (4, 3)
  | 2 => some (7, 1)
  | 3 => some (8, 1)
  | 4 => some (10, 3)
  | 5 => some (13, 1)
  | 6 => some (14, 3)
  | 7 => some (17, 5)
  | 8 => some (22, 5)
  | 9 => some (27, 5)
  | 10 => some (32, 3)
  | 11 => some (35, 3)
  | 12 => some (38, 3)
  | 13 => some (41, 1)
  | _ => none

/-! ## Lanes and predicates -/

/-- Bit `l` of a lane mask. -/
def laneBit (m : Word) (l : Nat) : Bool := m.getLsbD l

/-- The lanes of a mask, ascending. -/
def lanesOf (m : Word) : List Nat := (List.range 32).filter (fun l => laneBit m l)

/-- The mask of a lane test. -/
def maskOf (f : Nat → Bool) : Word :=
  BitVec.ofNat 32 ((List.range 32).foldl (fun a l => if f l then a + 2 ^ l else a) 0)

/-- Predicate register `p` of a group as a lane mask; p0 reads 1 in every lane (R64). -/
def predMask (g : Group) (p : Nat) : Word := if p = 0 then 0xFFFFFFFF else cget (fun _ => 0) g.preds p

/-- One predicate bit. -/
def rp (s : State) (p l : Nat) : Bool := laneBit (predMask s.group p) l

/-- Write predicate `p` in the lanes of `m`; a write to p0 is discarded (R64). -/
def wp (s : State) (p : Nat) (m v : Word) : State :=
  if p = 0 then s
  else { s with group := { s.group with
    preds := cput (fun _ => 0) s.group.preds p ((predMask s.group p &&& ~~~ m) ||| (v &&& m)) } }

/-- Active lanes of a split of a group (R7): its MASK under the guard of its MODE. With GRD 0 and GNEG 1 the formula leaves
none (log 73). -/
def activeIn (g : Group) (sp : Split) : Word :=
  let p := predMask g (mGrd sp.mode)
  sp.mask &&& (if mGneg sp.mode then ~~~ p else p)

/-- Active(split). -/
def active (s : State) : Word := activeIn s.group s.split

/-- Its lanes, ascending. -/
def actives (s : State) : List Nat := lanesOf (active s)

/-! ## Lane, scalar and index registers (R64) -/

/-- Key of physical register `n` of lane `l`. -/
def vkey (n l : Nat) : Nat := n * 32 + l

/-- Physical register `n` of lane `l` of a group. -/
def gv (g : Group) (n l : Nat) : Word := cget (fun _ => 0) g.regs (vkey n l)

def rv (s : State) (n l : Nat) : Word := gv s.group n l

/-- Write one lane register of a group. -/
def gput (g : Group) (n l : Nat) (v : Word) : Group :=
  { g with regs := cput (fun _ => 0) g.regs (vkey n l) v }

def wv (s : State) (n l : Nat) (v : Word) : State := { s with group := gput s.group n l v }

/-- The pair v[n]:v[n+1] of a lane, v[n] low. -/
def rv2 (s : State) (n l : Nat) : DWord := (rv s (n + 1) l) ++ (rv s n l)

/-- Write a pair. -/
def wv2 (s : State) (n l : Nat) (v : DWord) : State :=
  wv (wv s n l (v.extractLsb' 0 32)) (n + 1) l (v.extractLsb' 32 32)

/-- Write one register in each lane of a list. -/
def wvs (s : State) (n : Nat) (f : Nat → Word) : List Nat → State
  | [] => s
  | l :: r => wvs (wv s n l (f l)) n f r

/-- Write a pair in each lane of a list. -/
def wv2s (s : State) (n : Nat) (f : Nat → DWord) : List Nat → State
  | [] => s
  | l :: r => wv2s (wv2 s n l (f l)) n f r

/-- Scalar register `n` (one copy per split). -/
def rs (s : State) (n : Nat) : DWord := cget (fun _ => 0) s.split.s n

def splitPutS (sp : Split) (n : Nat) (v : DWord) : Split := { sp with s := cput (fun _ => 0) sp.s n v }

def ws (s : State) (n : Nat) (v : DWord) : State := { s with split := splitPutS s.split n v }

def rx (s : State) (n : Nat) : XReg := cget (fun _ => ⟨0, 0⟩) s.split.x n

def wx (s : State) (n : Nat) (v : XReg) : State :=
  { s with split := { s.split with x := cput (fun _ => ⟨0, 0⟩) s.split.x n v } }

/-- Generator state of a lane before it is ever drawn from or set (05_convert.md R118). -/
def genInit (l : Nat) : Word :=
  let v : Word := 1 ^^^ (BitVec.ofNat 32 (l * 0x9E3779B9))
  if v = 0 then 1 else v

/-! ## The executing split, group and team -/

/-- The register budget per lane of a role (02_words.md R44). -/
def roleBudget (t : Team) (role : Nat) : Nat := ((t.roles.getD role 0).toNat / 256 % 16 + 1) * 16

/-- The budget of the executing group's role. -/
def budget (s : State) : Nat := roleBudget s.team s.group.role

/-- RS: registers of the indexed region (R64). -/
def regionSize (s : State) : Nat := budget s - 64

/-- Split runs in user mode (R321). -/
def userMode (s : State) : Bool := bitsOf s.split.tstat 0 1 == 0

def thisModule (s : State) : Nat := coreModule s.team.core
def thisDie (s : State) : Nat := coreDie s.team.core

/-- A header field. -/
def hdrField (t : Team) (lo wd : Nat) : Nat := t.hdr.toNat / 2 ^ lo % 2 ^ wd

/-- The header's count of rendezvous points (R43). -/
def rdvCount (s : State) : Nat := hdrField s.team 12 5

/-- First byte of a team's scratchpad. -/
def teamSpad (t : Team) : Nat := spadAddr t.core t.bank t.spadBase

/-- The executing split as an accessing agent. -/
def me (s : State) : Agent :=
  ⟨thisModule s, unitCore s.team.core, s.team.vi, userMode s, teamSpad s.team, s.team.spadBytes⟩

/-- Bytes of the instruction in hand: eight when LIM was fused to it (02_words.md R37). -/
def insnLen (s : State) : Nat := if s.lim.isSome then 8 else 4

/-- Set PC. -/
def setPc (s : State) (pc : DWord) : State := { s with split := { s.split with pc := pc } }

/-- The address after the instruction in hand. -/
def nextPc (s : State) : DWord := s.split.pc + BitVec.ofNat 64 (insnLen s)

/-- Go on after the instruction in hand; the fused immediate is used up, and no wait stands. -/
def adv (s : State) : State :=
  { s with lim := none, split := { s.split with pc := nextPc s, wait := none } }

/-- The LIM offset of an L, A, C or E instruction (R36). -/
def limOffset (s : State) : DWord :=
  match s.lim with
  | some i => i.signExtend 64
  | none => 0

/-- A number that names something new. -/
def freshId (s : State) : Nat × State := (s.fresh, { s with fresh := s.fresh + 1 })

/-! ## The focus -/

/-- Insert by number. -/
def putSplit (sp : Split) : List Split → List Split
  | [] => [sp]
  | x :: r => if sp.num < x.num then sp :: x :: r else if sp.num = x.num then sp :: r else x :: putSplit sp r

def putGroup (g : Group) : List Group → List Group
  | [] => [g]
  | x :: r => if g.num < x.num then g :: x :: r else if g.num = x.num then g :: r else x :: putGroup g r

def putTeam (t : Team) : List Team → List Team
  | [] => [t]
  | x :: r => if t.id < x.id then t :: x :: r else if t.id = x.id then t :: r else x :: putTeam t r

/-- The executing group with its executing split in it. -/
def fullGroup (s : State) : Group :=
  { s.group with splits := if s.live then putSplit s.split s.group.splits else s.group.splits }

/-- The executing team with its executing group in it. -/
def fullTeam (s : State) : Team := { s.team with groups := putGroup (fullGroup s) s.team.groups }

/-- Every team of the machine. -/
def allTeams (s : State) : List Team := if s.live then putTeam (fullTeam s) s.teams else s.teams

/-- No split in focus: every team stands in `teams`. -/
def close (s : State) : State :=
  { s with live := false, split := Split.fresh, group := Group.fresh, team := Team.fresh, teams := allTeams s }

/-- Bring a split into focus; without such a split nothing changes. -/
def openOn (s : State) (tid gn sn : Nat) : State :=
  match s.teams.find? (fun t => t.id == tid) with
  | none => s
  | some t =>
    match t.groups.find? (fun g => g.num == gn) with
    | none => s
    | some g =>
      match g.splits.find? (fun x => x.num == sn) with
      | none => s
      | some sp =>
        { s with
          live := true
          split := sp
          group := { g with splits := g.splits.filter (fun x => x.num != sn) }
          team := { t with groups := t.groups.filter (fun x => x.num != gn) }
          teams := s.teams.filter (fun x => x.id != tid) }

/-- Bring another split into focus. -/
def focusOn (s : State) (tid gn sn : Nat) : State := openOn (close s) tid gn sn

/-- Change every team, keeping the focus where it was when its split still exists. -/
def mapTeams (s : State) (f : Team → Team) : State :=
  let c := close s
  let c := { c with teams := c.teams.map f }
  if s.live then openOn c s.team.id s.group.num s.split.num else c

/-- Change one team. -/
def updTeam (s : State) (tid : Nat) (f : Team → Team) : State :=
  mapTeams s (fun t => if t.id = tid then f t else t)

/-- Change one group. -/
def updGroup (s : State) (tid gn : Nat) (f : Group → Group) : State :=
  updTeam s tid (fun t => { t with groups := t.groups.map (fun g => if g.num = gn then f g else g) })

/-- Change one split. -/
def updSplit (s : State) (tid gn sn : Nat) (f : Split → Split) : State :=
  updGroup s tid gn (fun g => { g with splits := g.splits.map (fun x => if x.num = sn then f x else x) })

/-- Change every split that satisfies a test on its place. -/
def mapSplits (s : State) (f : Team → Group → Split → Split) : State :=
  mapTeams s (fun t => { t with groups := t.groups.map (fun g => { g with splits := g.splits.map (f t g) }) })

def findTeam (s : State) (tid : Nat) : Option Team := (allTeams s).find? (fun t => t.id == tid)

def findGroup (s : State) (tid gn : Nat) : Option Group :=
  match findTeam s tid with
  | none => none
  | some t => t.groups.find? (fun g => g.num == gn)

def findSplit (s : State) (tid gn sn : Nat) : Option Split :=
  match findGroup s tid gn with
  | none => none
  | some g => g.splits.find? (fun x => x.num == sn)

/-! ## Decoupling-path counters (07_memory.md R165, R166) -/

/-- The counter of a path: rises that have not fallen. -/
def pathCount (g : Group) (path : Nat) : Nat := (g.paths.filter (fun e => e.path == path)).length

/-- A rise, on behalf of flight `id`. -/
def pathRise (g : Group) (path id : Nat) : Group :=
  { g with
    paths := g.paths ++ [⟨path, id, false⟩]
    rises := cput (fun _ => 0) g.rises path (cget (fun _ => 0) g.rises path + 1) }

/-- Let due entries fall that no earlier entry of their path stands before; `seen` are the paths passed. -/
def pathSettle (seen : List Nat) : List PathEntry → List PathEntry
  | [] => []
  | e :: r =>
    if e.due && !seen.contains e.path then pathSettle seen r
    else e :: pathSettle (e.path :: seen) r

/-- The decrement of flight `id` is due. -/
def pathDue (g : Group) (id : Nat) : Group :=
  { g with paths := pathSettle [] (g.paths.map (fun e => if e.id = id then { e with due := true } else e)) }

/-! ## Reports (16_frontend.md R370, R378) -/

/-- Where a report is written, beside firmware. -/
inductive ReportTo where
  | packet (queue : Nat) | owner | system | ownerAndSystem | firmware
  deriving DecidableEq, Repr

/-- A field of a queue control block. -/
def qcbField (s : State) (q : QueueSt) (lo wd : Nat) : Nat := rdNat s q.qcb 64 / 2 ^ lo % 2 ^ wd

/-- The front end or the report writer writes bytes of memory: the agents that watch them are told when the next step
without an input begins (log 88). -/
def deviceWrite (s : State) (pa n v : Nat) : State :=
  let t := wrNat s pa n v
  { t with written := t.written ++ [(pa, n)] }

/-- Write a field of a queue control block, by bytes. -/
def qcbPut (s : State) (q : QueueSt) (byte n v : Nat) : State := deviceWrite s (q.qcb + byte) n v

/-- The 32-byte head record of a report. -/
def reportHead (r : Report) (rseq : Nat) : Nat :=
  r.code + r.reason * 2 ^ 8 + (if r.ext.isSome then 1 else 0) * 2 ^ 16 + rseq * 2 ^ 64 + r.pos.toNat * 2 ^ 96 +
    r.arg0.toNat * 2 ^ 128 + r.arg1.toNat * 2 ^ 192

/-- A byte of a queue control block that software does not write: of its fields, REPHEAD alone is open to any code
(16_frontend.md R370; 00_scope.md R5; log 100). -/
def qcbByte (s : State) (pa : Nat) : Bool :=
  s.queues.any (fun e => decide (e.2.qcb ≤ pa) && decide (pa < e.2.qcb + 64) &&
    !(decide (e.2.qcb + 44 ≤ pa) && decide (pa < e.2.qcb + 48)))

/-- What bytes written from an address on leave there. -/
def keepBytes (s : State) : (pa : Nat) → List Byte → List Byte
  | _, [] => []
  | pa, b :: r => (if qcbByte s pa then rdByte s pa else b) :: keepBytes s (pa + 1) r

/-- The report writer writes bytes for a VI: at once in memory of its module that is ready, and otherwise once their home
takes them (R381; log 98). A control block onto which a VI maps its ring keeps its own bytes (log 100). -/
def lateWrite (s : State) (w : LateWrite) : State :=
  if paModule w.pa = w.module ∧ homeReady s w.pa = true then deviceWrite s w.pa w.data.length (leNat (keepBytes s w.pa w.data))
  else { s with late := s.late ++ [w] }

/-- Write one record in a report ring slot, when the slot translates under the owning VI's tables to a place that may be
written. -/
def ringSlot (s : State) (module : Nat) (q : QueueSt) (slot v : Nat) : Option State :=
  let va := qcbField s q 256 57 + 32 * (slot % 2 ^ qcbField s q 3 4)
  match translate s module (unitDie (module * 16)) q.vi false .write va (va + 31) with
  | .error _ => none
  | .ok (pa, _) => if noStore pa then none else some (lateWrite s ⟨module, q.vi, va, pa, natLe 32 v⟩)

/-- Write a report to a queue's ring, or count it as dropped (R378). -/
def ringWrite (s : State) (qid : Nat) (r : Report) : State :=
  match lookup s.queues qid with
  | none => s
  | some q =>
    let tail := qcbField s q 320 32
    let head := qcbField s q 352 32
    let ext := if r.ext.isSome then 1 else 0
    let module := qid / 128
    let drop := qcbPut s q 12 4 (qcbField s q 96 32 + 1)
    if 2 ^ qcbField s q 3 4 ≤ (tail + 2 ^ 32 - head) % 2 ^ 32 + ext then drop
    else
      match ringSlot s module q tail (reportHead r tail) with
      | none => drop
      | some s1 =>
        match r.ext with
        | none => qcbPut s1 q 40 4 (tail + 1)
        | some e =>
          match ringSlot s1 module q (tail + 1) e.toNat with
          | none => drop
          | some s2 => qcbPut s2 q 40 4 (tail + 2)

/-- The lowest-numbered queue of a VI of a module that satisfies a test. -/
def lowQueue (s : State) (module vi : Nat) (f : QueueSt → Bool) : Option Nat :=
  (s.queues.filter (fun e => e.1 / 128 == module && e.2.vi == vi && f e.2)).foldl
    (fun a e => match a with | none => some e.1 | some k => some (min k e.1)) none

/-- Write a report to a queue when there is one. -/
def ringWrite? (s : State) (q : Option Nat) (r : Report) : State :=
  match q with
  | none => s
  | some q => ringWrite s q r

/-- The system queues of a module: the lowest system queue of every VI that has one. -/
def systemQueues (s : State) (module : Nat) : List Nat :=
  (List.range 64).filterMap (fun vi => lowQueue s module vi (fun q => qcbField s q 17 1 == 1))

/-- Make a report: every report is delivered to firmware, and written to a queue as its row states. -/
def report (s : State) (module : Nat) (dst : ReportTo) (r : Report) : State :=
  let s := { s with reports := s.reports ++ [r] }
  match dst with
  | .firmware => s
  | .packet q => ringWrite s q r
  | .owner => ringWrite? s (lowQueue s module r.vi (fun _ => true)) r
  | .system => (systemQueues s module).foldl (fun s q => ringWrite s q r) s
  | .ownerAndSystem =>
    (systemQueues s module).foldl (fun s q => ringWrite s q r)
      (ringWrite? s (lowQueue s module r.vi (fun _ => true)) r)

/-- A report without a packet. -/
def mkReport (code : Nat) (vi : Nat) (arg0 arg1 : DWord) : Report := ⟨code, 0, vi, arg0, arg1, none, 0xFFFFFFFF⟩

/-- A notice on the management port (17_module.md R386). -/
def notice (s : State) (what : String) (args : List Nat) : State :=
  { s with notices := s.notices ++ [⟨what, args⟩] }

/-! ## Job descriptors (12_work.md R278) -/

/-- A field of a 64-byte block. -/
def dField (d : BitVec 512) (lo wd : Nat) : Nat := d.toNat / 2 ^ lo % 2 ^ wd

def djSeq (d : BitVec 512) : Word := BitVec.ofNat 32 (dField d 0 32)
def djOpseq (d : BitVec 512) : Word := BitVec.ofNat 32 (dField d 32 32)
def djTag (d : BitVec 512) : Nat := dField d 64 16
def djPolicy (d : BitVec 512) : Nat := dField d 80 8
def djKind (d : BitVec 512) : Nat := dField d 104 2
def djStream (d : BitVec 512) : Nat := dField d 118 4
def djOutev (d : BitVec 512) : Word := BitVec.ofNat 32 (dField d 320 32)
def djFxev (d : BitVec 512) : Word := BitVec.ofNat 32 (dField d 352 32)

/-! ## Cupping runs (15_checking.md R361 to R364) -/

/-- The die whose Col holds a run, and the run. -/
def findCup (s : State) (id : Nat) : Option (Nat × Cup) :=
  s.dies.findSome? (fun e => (e.2.cups.find? (fun c => c.id == id)).map (fun c => (e.1, c)))

/-- The run ends and its holds are released. -/
def dropCup (s : State) (die id : Nat) : State :=
  let d := getDie s die
  setDie s die { d with
    cups := d.cups.filter (fun c => c.id != id)
    jobs := d.jobs.filter (fun j => j.cup != some id) }

/-- An abandoned run releases the hold, counts as neither of SUSQ's figures (R360), and reports CUP_ABANDONED with its cause
(R364, 16_frontend.md R378). -/
def cupAbandon (s : State) (id cause : Nat) : State :=
  match findCup s id with
  | none => s
  | some (die, c) =>
    let s := dropCup s die id
    let s := setDie s die { getDie s die with selected := (getDie s die).selected - 1 }
    report s (dieModule die) .owner
      (mkReport 0x0B c.vi (djSeq c.desc ++ djOpseq c.desc) (BitVec.ofNat 64 (djStream c.desc + cause * 16)))

/-! ## Purging a tag: its start (14_system.md R331, R332) -/

/-- The tag of a VI is dead. -/
def tagDead (s : State) (module vi tag : Nat) : Bool :=
  match getVi s module vi with
  | some v => v.dead.contains tag
  | none => false

/-- Change a VI's dead-tag set. -/
def updVi (s : State) (module vi : Nat) (f : ViSt → ViSt) : State :=
  { s with vis := s.vis.map (fun e => if e.1 = viKey module vi then (e.1, f e.2) else e) }

/-- The Cupping runs of a VI's jobs that bear a tag. -/
def tagCups (s : State) (module vi tag : Nat) : List Cup :=
  (s.dies.flatMap (fun e => if dieModule e.1 = module then e.2.cups else [])).filter (fun c =>
    c.vi == vi && djTag c.desc == tag)

/-- A tag dies; the Cupping runs that bear it are abandoned (15_checking.md R364). -/
def markDead (s : State) (module vi tag : Nat) : State :=
  (tagCups s module vi tag).foldl (fun s c => cupAbandon s c.id 4)
    (updVi s module vi (fun v => { v with dead := tag :: v.dead.filter (fun t => t != tag) }))

/-- Consumption by tag 0 stops the module (R332). -/
def moduleFatal (s : State) (module : Nat) : State :=
  notice (setModule s module { getModule s module with fatal := true }) "MODULE_FATAL" [module]

/-- A purge begins: from here on nothing that bears the tag issues, and PURGE_COMPLETE gives every bearer
its fate. Tag 0 is module-fatal. -/
def startPurge (s : State) (module vi tag : Nat) (addr : Option DWord) (pkts : List PktRef) : State :=
  if tag = 0 then moduleFatal s module
  else
    let s := markDead s module vi tag
    if s.purges.any (fun p => p.module == module && p.vi == vi && p.tag == tag) then
      { s with purges := s.purges.map (fun p =>
        if p.module = module ∧ p.vi = vi ∧ p.tag = tag then { p with pkts := p.pkts ++ pkts } else p) }
    else { s with purges := s.purges ++ [⟨module, vi, tag, addr, pkts⟩] }

/-! ## Taking a trap, and the return from one (R326 to R329, R339) -/

/-- A team stops: it issues nothing until firmware acts (R339). -/
def stopTeam (s : State) : State := { s with team := { s.team with stopped := true } }

/-- TSTAT with some fields replaced. -/
def setTstat (s : State) (v : DWord) : State := { s with split := { s.split with tstat := v } }

/-- The report of a trap that finds no handler (R327, R378). -/
def trapReport (s : State) (code : Nat) (t : TrapInfo) : Report :=
  ⟨code, 0, s.team.vi, t.pc, BitVec.ofNat 64 (t.cause + t.mask.toNat * 2 ^ 8),
    some (BitVec.ofNat 256 (t.value.toNat + t.defpc.toNat * 2 ^ 64)), 0xFFFFFFFF⟩

/-- A trap has no handler to go to: TVEC.EN is 0, or a handler is running. -/
def trapStops (s : State) : Bool := bitsOf s.team.tvec 0 1 == 0 || bitsOf s.split.tstat 1 1 == 1

/-- The trap frame, MODE, RCVA, TSTAT and PC as R327 writes them. -/
def enterHandler (s : State) (t : TrapInfo) : State :=
  let sp := s.split
  let ts := putBits (putBits (putBits (putBits sp.tstat 3 1 sp.rcvaValid.toNat) 2 1 (bitsOf sp.tstat 0 1)) 0 1 1) 1 1 1
  { s with
    lim := none
    split := { sp with
      frame := { sp.frame with
        trapc := BitVec.ofNat 8 t.cause
        trappc := t.pc
        trapv := t.value
        trapm := t.mask
        defpc := t.defpc
        tmode := sp.mode
        trcva := sp.rcva }
      mode := putBits 0 42 1 (bitsOf sp.mode 42 1)
      rcvaValid := false
      tstat := ts
      pc := BitVec.ofNat 64 (bitsOf s.team.tvec 2 55 * 4)
      wait := some .landing
      fence := none
      owner := none
      entries := 0 } }

/-- TakeTrap (R327): the one way a trap is taken. -/
def takeTrap (s : State) (t : TrapInfo) : State :=
  if trapStops s then
    report { stopTeam s with lim := none } (thisModule s) .owner
      (trapReport s (if bitsOf s.team.tvec 0 1 = 0 then 0x11 else 0x12) t)
  else enterHandler s t

/-- Trap(cause, value, mask) of R7, at the instruction in hand; a precise trap has no deferred address. -/
def trap (s : State) (cause : Nat) (value : DWord) (mask : Word) : State :=
  takeTrap s ⟨cause, s.split.pc, value, mask, 0⟩

/-- ILLEGAL with the word in TRAPV and the active lanes in TRAPM (02_words.md R35). -/
def illegal (s : State) (w : Word) : State := trap s Cause.illegal (w.setWidth 64) (active s)

/-- RTE's own effect once its checks have passed (R329): MODE, RCVA, PRV, INTR and PC restored, and HOLD
cleared when this split owns the team's sequencer slot. -/
def leaveHandler (s : State) : State :=
  let sp := s.split
  let ts := putBits (putBits sp.tstat 0 1 (bitsOf sp.tstat 2 1)) 1 1 0
  { s with
    split := { sp with
      mode := putBits sp.frame.tmode 42 1 (bitsOf sp.mode 42 1)
      rcva := sp.frame.trcva
      rcvaValid := bitsOf sp.tstat 3 1 == 1
      tstat := ts
      pc := sp.frame.trappc }
    team := { s.team with
      mslot := s.team.mslot.map (fun m =>
        if m.owner = some (s.group.num, sp.num) then { m with mstat := putBits m.mstat 6 1 0 } else m) } }

/-- Take a POISON whose tag is dead already (R332): PURGP is set for that tag, and when no RTE can follow the purge is
performed at once. -/
def takeDead (s : State) (t : TrapInfo) (tag : Nat) : State :=
  let m := thisModule s
  let vi := s.team.vi
  let stops := trapStops s
  let s := setTstat s (putBits s.split.tstat 4 1 1)
  if stops then startPurge (takeTrap s t) m vi tag (some t.value) []
  else takeTrap { s with
    split := { s.split with ptag := some tag }
    team := { s.team with ptags := tag :: s.team.ptags.filter (fun g => g != tag) } } t

/-- POISON reaches a split (R332, R333): the tag dies, and the trap is taken; tag 0 is module-fatal. -/
def takePoison (s : State) (t : TrapInfo) (tag : Nat) : State :=
  if tag = 0 then moduleFatal s (thisModule s)
  else takeDead (markDead s (thisModule s) s.team.vi tag) t tag

end Sys2Proof.Machine
end

