-- ==== Sys2Proof/Machine/Operands.lean ====
section
/-! DEFINITION. The operand forms: lane patterns (02_words.md R38), typed and sized operands (03_integer.md R67,
R68), which registers each word names (R31, R65, R67; 02_words.md R52), and the wrapper every word's meaning
runs under: privilege, the odd-field rule and the register budget. -/

namespace Sys2Proof.Machine

/-! ## Patterns (R38) -/

/-- Span of the crossbar: 16 lanes under C16, else 32. -/
def spanOf (m : DWord) : Nat := if mC16 m then 16 else 32

/-- The offset in its span that lane offset `i` reads under a pattern. -/
def patLane (m : DWord) (w pat i : Nat) : Nat :=
  match pat with
  | 0 => i
  | 1 => (i + mPk m) % w
  | 2 => mPl m % w
  | 3 => i ^^^ (mPx m % w)
  | 4 => i ^^^ (min (2 ^ (mPs m + 1)) w - 1)
  | 5 => (i + 1) % w
  | 6 => i ^^^ 1
  | _ => 0

/-- The source lane of lane `l`. -/
def srcLane (m : DWord) (pat l : Nat) : Nat :=
  let w := spanOf m
  l - l % w + patLane m w pat (l % w)

/-- The registers before the window that a split has open, whose results wait in the write log (02_words.md R53;
08_ordering.md R184). -/
def heldRegs (x : Split) : Option (Cells Word) :=
  match x.fence, x.owner with
  | some w, _ => some w.snap.regs
  | none, some (_, k) => some k.regs
  | none, none => none

/-- A register of a lane, as the executing split sees it: one of another split shows no result that still waits in the
write log. -/
def seen (s : State) (n l : Nat) : Word :=
  match (s.group.splits.find? (fun x => laneBit x.mask l && (heldRegs x).isSome)).bind heldRegs with
  | some r => cget (fun _ => 0) r (vkey n l)
  | none => rv s n l

/-- Src(v[n], pat)[l], 32 bits. -/
def src (s : State) (n pat l : Nat) : Word := seen s n (srcLane s.split.mode pat l)

/-- Src of a pair: it moves whole from one lane. -/
def src2 (s : State) (n pat l : Nat) : DWord :=
  let k := srcLane s.split.mode pat l
  seen s (n + 1) k ++ seen s n k

/-! ## Typed and sized operands (R67, R68) -/

/-- A TYPE whose operands take pairs. -/
def wide (m : DWord) : Bool := mType m == 2 || mType m == 3 || mType m == 9

/-- Registers that an operand of the type's width takes. -/
def wd (m : DWord) : Nat := if wide m then 2 else 1

/-- Typed width and signedness; none where TYPE is no integer type. -/
def typed (m : DWord) : Option (Nat × Bool) :=
  match mType m with
  | 0 => some (32, true)
  | 1 => some (32, false)
  | 2 => some (64, true)
  | 3 => some (64, false)
  | 4 => some (16, true)
  | 5 => some (16, false)
  | 6 => some (8, true)
  | 7 => some (8, false)
  | _ => none

/-- The low `w` bits of a value, as two's complement when `sg`. -/
def asInt (w : Nat) (sg : Bool) (x : Nat) : Int :=
  let v := x % 2 ^ w
  if sg && decide (2 ^ (w - 1) ≤ v) then (v : Int) - (2 ^ w : Nat) else (v : Int)

/-- Min(w, sg) and Max(w, sg). -/
def intMin (w : Nat) (sg : Bool) : Int := if sg then -((2 ^ (w - 1) : Nat) : Int) else 0
def intMax (w : Nat) (sg : Bool) : Int := if sg then ((2 ^ (w - 1) : Nat) : Int) - 1 else ((2 ^ w : Nat) : Int) - 1

def clampInt (lo hi t : Int) : Int := if t < lo then lo else if hi < t then hi else t

/-- The value modulo 2^w, as a natural number. -/
def modW (w : Nat) (t : Int) : Nat := (t % ((2 ^ w : Nat) : Int)).toNat

/-- A source operand of width 64 or less as a number: the pair when the width is 64. -/
def srcNat (s : State) (w n pat l : Nat) : Nat := if w = 64 then (src2 s n pat l).toNat else (src s n pat l).toNat

/-- ReadOp(Src(v[n], pat), l, w, sg). -/
def readOp (s : State) (n pat l w : Nat) (sg : Bool) : Int := asInt w sg (srcNat s w n pat l)

/-- The bits that WriteOp leaves in the register or pair. -/
def fitOp (w : Nat) (sg sat : Bool) (t : Int) : Nat :=
  let t := if sat then clampInt (intMin w sg) (intMax w sg) t else t
  let v := modW w t
  if w < 32 then modW 32 (asInt w sg v) else v

/-- WriteOp to the lanes of a list, from a value per lane. -/
def writeOps (s : State) (n w : Nat) (sg sat : Bool) (f : Nat → Int) (ls : List Nat) : State :=
  if w = 64 then wv2s s n (fun l => BitVec.ofNat 64 (fitOp w sg sat (f l))) ls
  else wvs s n (fun l => BitVec.ofNat 32 (fitOp w sg sat (f l))) ls

/-- Move 32 bits, or a pair when the type is wide, into the lanes of a list. -/
def writeSized (s : State) (n : Nat) (f : Nat → DWord) (ls : List Nat) : State :=
  if wide s.split.mode then wv2s s n f ls else wvs s n (fun l => (f l).setWidth 32) ls

/-- Read 32 bits or a pair, zero-extended. -/
def srcSized (s : State) (n pat l : Nat) : DWord :=
  if wide s.split.mode then src2 s n pat l else (src s n pat l).setWidth 64

/-- The lane number a program sees (R92, R118): modulo 16 under C16. -/
def laneNo (m : DWord) (l : Nat) : Nat := if mC16 m then l % 16 else l

/-! ## The registers a word names -/

/-- One register operand: the file, the first number, how many, and whether it is read, written or both. -/
inductive Operand where
  | rv (n c : Nat) | wv (n c : Nat) | xv (n c : Nat)
  | rs (n : Nat) | ws (n c : Nat)
  | rp (n : Nat) | wp (n : Nat)
  deriving DecidableEq, Repr

/-- Registers that a CVT source takes, by its XS and TYPE code (05_convert.md R122). -/
def cvtWd (x t : Nat) : Nat := if x % 2 = 0 && (t == 2 || t == 3 || t == 9) then 2 else 1

/-- The operands of a word under a MODE. The index field b of XSHF is one register under a 64-bit TYPE too (log 71). -/
def operands (m : DWord) : Instr → List Operand
  | .mov d a _ => [.wv d.toNat (wd m), .rv a.toNat (wd m)]
  | .movi d _ => [.wv d.toNat (wd m)]
  | .iadd d a _ b _ => [.wv d.toNat (wd m), .rv a.toNat (wd m), .rv b.toNat (wd m)]
  | .isub d a _ b _ => [.wv d.toNat (wd m), .rv a.toNat (wd m), .rv b.toNat (wd m)]
  | .imul d a _ b _ => [.wv d.toNat (wd m), .rv a.toNat (wd m), .rv b.toNat (wd m)]
  | .imulh d a _ b _ => [.wv d.toNat (wd m), .rv a.toNat (wd m), .rv b.toNat (wd m)]
  | .imad d a _ b _ => [.xv d.toNat (wd m), .rv a.toNat (wd m), .rv b.toNat (wd m)]
  | .iaddi d a _ => [.wv d.toNat (wd m), .rv a.toNat (wd m)]
  | .imin d a _ b _ => [.wv d.toNat (wd m), .rv a.toNat (wd m), .rv b.toNat (wd m)]
  | .imax d a _ b _ => [.wv d.toNat (wd m), .rv a.toNat (wd m), .rv b.toNat (wd m)]
  | .iabs d a _ => [.wv d.toNat (wd m), .rv a.toNat (wd m)]
  | .ineg d a _ => [.wv d.toNat (wd m), .rv a.toNat (wd m)]
  | .isad d a _ b _ => [.xv d.toNat (wd m), .rv a.toNat (wd m), .rv b.toNat (wd m)]
  | .idiv d a _ b _ => [.wv d.toNat (wd m), .rv a.toNat (wd m), .rv b.toNat (wd m)]
  | .irem d a _ b _ => [.wv d.toNat (wd m), .rv a.toNat (wd m), .rv b.toNat (wd m)]
  | .and d a _ b _ => [.wv d.toNat (wd m), .rv a.toNat (wd m), .rv b.toNat (wd m)]
  | .or d a _ b _ => [.wv d.toNat (wd m), .rv a.toNat (wd m), .rv b.toNat (wd m)]
  | .xor d a _ b _ => [.wv d.toNat (wd m), .rv a.toNat (wd m), .rv b.toNat (wd m)]
  | .andn d a _ b _ => [.wv d.toNat (wd m), .rv a.toNat (wd m), .rv b.toNat (wd m)]
  | .not d a _ => [.wv d.toNat (wd m), .rv a.toNat (wd m)]
  | .shl d a _ b _ => [.wv d.toNat (wd m), .rv a.toNat (wd m), .rv b.toNat 1]
  | .shr d a _ b _ => [.wv d.toNat (wd m), .rv a.toNat (wd m), .rv b.toNat 1]
  | .sha d a _ b _ => [.wv d.toNat (wd m), .rv a.toNat (wd m), .rv b.toNat 1]
  | .rotl d a _ b _ => [.wv d.toNat (wd m), .rv a.toNat (wd m), .rv b.toNat 1]
  | .shli d a _ => [.wv d.toNat (wd m), .rv a.toNat (wd m)]
  | .shri d a _ => [.wv d.toNat (wd m), .rv a.toNat (wd m)]
  | .shai d a _ => [.wv d.toNat (wd m), .rv a.toNat (wd m)]
  | .popc d a _ => [.wv d.toNat (wd m), .rv a.toNat (wd m)]
  | .clz d a _ => [.wv d.toNat (wd m), .rv a.toNat (wd m)]
  | .brev d a _ => [.wv d.toNat (wd m), .rv a.toNat (wd m)]
  | .bfx d a _ _ => [.wv d.toNat (wd m), .rv a.toNat (wd m)]
  | .bfi d a _ _ => [.xv d.toNat (wd m), .rv a.toNat (wd m)]
  | .sel d a _ b _ => [.wv d.toNat (wd m), .rv a.toNat (wd m), .rv b.toNat (wd m)]
  | .icmp d _ a _ b _ => [.wp d.toNat, .rv a.toNat (wd m), .rv b.toNat (wd m)]
  | .plog d _ a b => [.wp d.toNat, .rp a.toNat, .rp b.toNat]
  | .pmovNz d a _ => [.wp d.toNat, .rv a.toNat 1]
  | .pmovBit d a _ _ => [.wp d.toNat, .rv a.toNat 1]
  | .pmovSet d => [.wp d.toNat]
  | .pmovClr d => [.wp d.toNat]
  | .pmovNot d a => [.wp d.toNat, .rp a.toNat]
  | .pmovFroms d a => [.wp d.toNat, .rs a.toNat]
  | .vote d _ a => [.wp d.toNat, .rp a.toNat]
  | .voteBallot d a b => [.wp d.toNat, .rp a.toNat, .ws b.toNat 1]
  | .xshf d a b _ => [.wv d.toNat (wd m), .rv a.toNat (wd m), .rv b.toNat 1]
  | .setx _ a b => [.rs a.toNat, .rs b.toNat]
  | .movx d a _ _ => [.wv d.toNat 1, .rv a.toNat 1]
  | .stx _ a _ b _ => [.rv a.toNat 1, .rv b.toNat 1]
  | .s2v d a => [.wv d.toNat (wd m), .rs a.toNat]
  | .v2s d a _ _ => [.ws d.toNat 1, .rv a.toNat (wd m)]
  | .sadd d a b => [.ws d.toNat 1, .rs a.toNat, .rs b.toNat]
  | .saddImm d a _ => [.ws d.toNat 1, .rs a.toNat]
  | .ssub d a b => [.ws d.toNat 1, .rs a.toNat, .rs b.toNat]
  | .ssubImm d a _ => [.ws d.toNat 1, .rs a.toNat]
  | .smul d a b => [.ws d.toNat 1, .rs a.toNat, .rs b.toNat]
  | .smulImm d a _ => [.ws d.toNat 1, .rs a.toNat]
  | .sand d a b => [.ws d.toNat 1, .rs a.toNat, .rs b.toNat]
  | .sandImm d a _ => [.ws d.toNat 1, .rs a.toNat]
  | .sor d a b => [.ws d.toNat 1, .rs a.toNat, .rs b.toNat]
  | .sorImm d a _ => [.ws d.toNat 1, .rs a.toNat]
  | .sxor d a b => [.ws d.toNat 1, .rs a.toNat, .rs b.toNat]
  | .sxorImm d a _ => [.ws d.toNat 1, .rs a.toNat]
  | .sshl d a b => [.ws d.toNat 1, .rs a.toNat, .rs b.toNat]
  | .sshlImm d a _ => [.ws d.toNat 1, .rs a.toNat]
  | .sshr d a b => [.ws d.toNat 1, .rs a.toNat, .rs b.toNat]
  | .sshrImm d a _ => [.ws d.toNat 1, .rs a.toNat]
  | .scmp d a b _ => [.ws d.toNat 1, .rs a.toNat, .rs b.toNat]
  | .smovi d _ => [.ws d.toNat 1]
  | .sreg d n => if n.toNat = 0 then [.wv d.toNat 1] else [.ws d.toNat 1]
  | .setm a => [.rs a.toNat]
  | .bysel d a _ b _ => [.xv d.toNat 1, .rv a.toNat 1, .rv b.toNat 1]
  | .idot4 d a _ b _ => [.xv d.toNat 1, .rv a.toNat 1, .rv b.toNat 1]
  | .ired d a _ => [.wv d.toNat (wd m), .rv a.toNat (wd m)]
  | .fadd d a _ b _ => [.wv d.toNat (wd m), .rv a.toNat (wd m), .rv b.toNat (wd m)]
  | .fsub d a _ b _ => [.wv d.toNat (wd m), .rv a.toNat (wd m), .rv b.toNat (wd m)]
  | .fmul d a _ b _ => [.wv d.toNat (wd m), .rv a.toNat (wd m), .rv b.toNat (wd m)]
  | .fma d a _ b _ => [.xv d.toNat (wd m), .rv a.toNat (wd m), .rv b.toNat (wd m)]
  | .fms d a _ b _ => [.xv d.toNat (wd m), .rv a.toNat (wd m), .rv b.toNat (wd m)]
  | .fnma d a _ b _ => [.xv d.toNat (wd m), .rv a.toNat (wd m), .rv b.toNat (wd m)]
  | .fmin d a _ b _ => [.wv d.toNat (wd m), .rv a.toNat (wd m), .rv b.toNat (wd m)]
  | .fmax d a _ b _ => [.wv d.toNat (wd m), .rv a.toNat (wd m), .rv b.toNat (wd m)]
  | .fabs d a _ => [.wv d.toNat (wd m), .rv a.toNat (wd m)]
  | .fneg d a _ => [.wv d.toNat (wd m), .rv a.toNat (wd m)]
  | .fsgn d a _ b _ => [.wv d.toNat (wd m), .rv a.toNat (wd m), .rv b.toNat (wd m)]
  | .fcmp d _ a _ b _ => [.wp d.toNat, .rv a.toNat (wd m), .rv b.toNat (wd m)]
  | .fclass d a _ => [.wv d.toNat 1, .rv a.toNat (wd m)]
  | .frint d a _ => [.wv d.toNat (wd m), .rv a.toNat (wd m)]
  | .fscale d a _ b _ => [.wv d.toNat (wd m), .rv a.toNat (wd m), .rv b.toNat 1]
  | .fgetexp d a _ => [.wv d.toNat 1, .rv a.toNat (wd m)]
  | .fdiv d a _ b _ => [.wv d.toNat (wd m), .rv a.toNat (wd m), .rv b.toNat (wd m)]
  | .fsqrt d a _ => [.wv d.toNat (wd m), .rv a.toNat (wd m)]
  | .frcp d a _ => [.wv d.toNat (wd m), .rv a.toNat (wd m)]
  | .frsq d a _ => [.wv d.toNat (wd m), .rv a.toNat (wd m)]
  | .fexp2 d a _ => [.wv d.toNat (wd m), .rv a.toNat (wd m)]
  | .flog2 d a _ => [.wv d.toNat (wd m), .rv a.toNat (wd m)]
  | .fsin d a _ => [.wv d.toNat (wd m), .rv a.toNat (wd m)]
  | .fcos d a _ => [.wv d.toNat (wd m), .rv a.toNat (wd m)]
  | .ftanh d a _ => [.wv d.toNat (wd m), .rv a.toNat (wd m)]
  | .fdot2 d a _ b _ => [.xv d.toNat 1, .rv a.toNat 1, .rv b.toNat 1]
  | .fdot4 d a _ b _ => [.xv d.toNat 1, .rv a.toNat 1, .rv b.toNat 1]
  | .fred d a _ => [.wv d.toNat (wd m), .rv a.toNat (wd m)]
  | .argmx d a _ b _ => [.wv d.toNat (if mType m = 9 then 3 else 2), .rv a.toNat (wd m), .rv b.toNat 1]
  | .cvt d a _ x t => [.xv d.toNat (wd m), .rv a.toNat (cvtWd x.toNat t.toNat)]
  | .cvtp d a _ b _ => [.xv d.toNat 1, .rv a.toNat 1, .rv b.toNat 1]
  | .seed a => [.rs a.toNat]
  | .rngU32 d => [.wv d.toNat 1]
  | .rngUnit d => [.wv d.toNat 1]
  | .rngGet d => [.wv d.toNat 1]
  | .rngSet a _ => [.rv a.toNat 1]
  | .qmx d a _ => [.wv d.toNat 1, .rv a.toNat 1]
  | .qmxa d a _ b _ => [.xv d.toNat 1, .rv a.toNat 1, .rv b.toNat 1]
  | .brx a => [.rv a.toNat 2]
  | .call _ => [.ws 31 1]
  | .callx a => [.rv a.toNat 2, .ws 31 1]
  | .ret a => [.rs a.toNat]
  | .wait _ b => [.rs b.toNat]
  | .msqStart x _ => [.rs x.toNat]
  | .msqQry z _ => [.ws z.toNat 1]
  | .ldb d a sb _ _ => [.wv d.toNat 1, .rv a.toNat 1, .rs sb.toNat]
  | .ldh d a sb _ _ => [.wv d.toNat 1, .rv a.toNat 1, .rs sb.toNat]
  | .ldw d a sb _ _ => [.wv d.toNat 1, .rv a.toNat 1, .rs sb.toNat]
  | .ldd d a sb _ _ => [.wv d.toNat 2, .rv a.toNat 1, .rs sb.toNat]
  | .ldq d a sb _ _ => [.wv d.toNat 4, .rv a.toNat 1, .rs sb.toNat]
  | .stb d a sb _ _ => [.rv d.toNat 1, .rv a.toNat 1, .rs sb.toNat]
  | .sth d a sb _ _ => [.rv d.toNat 1, .rv a.toNat 1, .rs sb.toNat]
  | .stw d a sb _ _ => [.rv d.toNat 1, .rv a.toNat 1, .rs sb.toNat]
  | .std d a sb _ _ => [.rv d.toNat 2, .rv a.toNat 1, .rs sb.toNat]
  | .stq d a sb _ _ => [.rv d.toNat 4, .rv a.toNat 1, .rs sb.toNat]
  | .ldc d sb _ _ => [.ws d.toNat 1, .rs sb.toNat]
  | .pref _ a sb _ => [.rv a.toNat 1, .rs sb.toNat]
  | .cctlL1inv a sb _ => [.rv a.toNat 1, .rs sb.toNat]
  | .cctlRdcinv a sb _ => [.rv a.toNat 1, .rs sb.toNat]
  | .cctlWb a sb _ => [.rv a.toNat 1, .rs sb.toNat]
  | .cctlWbinv a sb _ => [.rv a.toNat 1, .rs sb.toNat]
  | .pinSet x y z _ => [.rs x.toNat, .rs y.toNat, .ws z.toNat 1]
  | .pinClr x y z _ => [.rs x.toNat, .rs y.toNat, .ws z.toNat 1]
  | .pinQry y z _ => [.rs y.toNat, .ws z.toNat 1]
  | .pinAll z _ => [.ws z.toNat 1]
  | .atrn d a sb _ _ => [.wv d.toNat 2, .rv a.toNat 1, .rs sb.toNat]
  | .binit x y _ => [.rs x.toNat, .rs y.toNat]
  | .barv x z _ _ => [.rs x.toNat, .ws z.toNat 1]
  | .barvB x y z _ _ => [.rs x.toNat, .rs y.toNat, .ws z.toNat 1]
  | .bexp x y _ => [.rs x.toNat, .rs y.toNat]
  | .bwait x y _ => [.rs x.toNat, .rs y.toNat]
  | .btest x z _ _ => [.rs x.toNat, .ws z.toNat 1]
  | .rinit y _ => [.rs y.toNat]
  | .rarv z _ => [.ws z.toNat 1]
  | .rwait y _ => [.rs y.toNat]
  | .rsync z _ => [.ws z.toNat 1]
  | .aadd d a b _ _ => [.wv d.toNat (wd m), .rv a.toNat 2, .rv b.toNat (wd m)]
  | .amin d a b _ _ => [.wv d.toNat (wd m), .rv a.toNat 2, .rv b.toNat (wd m)]
  | .amax d a b _ _ => [.wv d.toNat (wd m), .rv a.toNat 2, .rv b.toNat (wd m)]
  | .aand d a b _ _ => [.wv d.toNat (wd m), .rv a.toNat 2, .rv b.toNat (wd m)]
  | .aor d a b _ _ => [.wv d.toNat (wd m), .rv a.toNat 2, .rv b.toNat (wd m)]
  | .axor d a b _ _ => [.wv d.toNat (wd m), .rv a.toNat 2, .rv b.toNat (wd m)]
  | .axch d a b _ _ => [.wv d.toNat (wd m), .rv a.toNat 2, .rv b.toNat (wd m)]
  | .acas d a b _ _ => [.xv d.toNat (wd m), .rv a.toNat 2, .rv b.toNat (wd m)]
  | .afadd d a b _ _ => [.wv d.toNat (wd m), .rv a.toNat 2, .rv b.toNat (wd m)]
  | .red _ a b _ _ => [.rv a.toNat 2, .rv b.toNat (wd m)]
  | .bump d a b _ _ => [.wv d.toNat 2, .rv a.toNat 2, .rv b.toNat 1]
  | .sigi d a b _ => [.wv d.toNat 2, .rv a.toNat 2, .rv b.toNat 1]
  | .sigd d a b _ => [.wv d.toNat 2, .rv a.toNat 2, .rv b.toNat 1]
  | .tlsig d a b _ => [.wv d.toNat 2, .rv a.toNat 2, .rv b.toNat 2]
  | .carm x y z _ _ => [.rs x.toNat, .rs y.toNat, .rs z.toNat]
  | .carmCancel y z _ => [.rs y.toNat, .ws z.toNat 1]
  | .cpa d a sb _ _ => [.rv d.toNat 2, .rv a.toNat 1, .rs sb.toNat]
  | .hdefChk y z _ => [.rs y.toNat, .ws z.toNat 1]
  | .hdefBase x y _ => [.rs x.toNat, .rs y.toNat]
  | .hdefOrg x y _ => [.rs x.toNat, .rs y.toNat]
  | .hdefAdv x y _ => [.rs x.toNat, .rs y.toNat]
  | .hdefOrgh x y _ => [.rs x.toNat, .rs y.toNat]
  | .tcpy x y z _ _ _ => [.rs x.toNat, .rs y.toNat, .rs z.toNat]
  | .tsto x y z _ _ _ => [.rs x.toNat, .rs y.toNat, .rs z.toNat]
  | .tred x y z _ _ _ => [.rs x.toNat, .rs y.toNat, .rs z.toNat]
  | .tsct x y z _ _ => [.rs x.toNat, .rs y.toNat, .rs z.toNat]
  | .tgth x y z _ _ _ => [.rs x.toNat, .rs y.toNat, .rs z.toNat]
  | .crset x y _ => [.rs x.toNat, .rs y.toNat]
  | .crpop z _ => [.ws z.toNat 4]
  | .crpopSeq z _ => [.ws z.toNat 1]
  | .crpopDrop z _ => [.ws z.toNat 1]
  | .mbxget z _ => [.ws z.toNat 8]
  | .mbxgetSp y z _ => [.rs y.toNat, .ws z.toNat 1]
  | .mbxarm y => [.rs y.toNat]
  | .mbxarmCancel y z => [.rs y.toNat, .ws z.toNat 1]
  | .evsigAdd x y => [.rs x.toNat, .rs y.toNat]
  | .evsigReset x y z => [.rs x.toNat, .rs y.toNat, .rs z.toNat]
  | .evarm x y z => [.rs x.toNat, .rs y.toNat, .rs z.toNat]
  | .evarmCancel y z => [.rs y.toNat, .ws z.toNat 1]
  | .evqry x z _ _ => [.rs x.toNat, .ws z.toNat 1]
  | .opapp x y z _ => [.rs x.toNat, .rs y.toNat, .ws z.toNat 1]
  | .fixup x z => [.rs x.toNat, .rs z.toNat]
  | .lmap y z _ _ => [.rs y.toNat, .ws z.toNat 1]
  | .xa2a x y z _ _ _ => [.rs x.toNat, .rs y.toNat, .rs z.toNat]
  | .xag x y z _ _ _ => [.rs x.toNat, .rs y.toNat, .rs z.toNat]
  | .xrs x y z _ _ _ => [.rs x.toNat, .rs y.toNat, .rs z.toNat]
  | .rdcfRange x y z _ => [.rs x.toNat, .rs y.toNat, .ws z.toNat 1]
  | .rdcfMod y z _ => [.rs y.toNat, .ws z.toNat 1]
  | .fqryPort y z _ => [.rs y.toNat, .ws z.toNat 1]
  | .fqryPlane y z _ => [.rs y.toNat, .ws z.toNat 1]
  | .fqryReach y z _ => [.rs y.toNat, .ws z.toNat 1]
  | .digs a _ b _ => [.rv a.toNat 1, .rv b.toNat 1]
  | .clonChk d => [.ws d.toNat 1]
  | .clonDrop d => [.ws d.toNat 1]
  | .clonTrans d => [.ws d.toNat 1]
  | .scrnDig z => [.ws z.toNat 1]
  | .susqScore y z => [.rs y.toNat, .ws z.toNat 1]
  | .susqQmask y z => [.rs y.toNat, .ws z.toNat 1]
  | .susqStat y z => [.rs y.toNat, .ws z.toNat 1]
  | .csrr d _ => [.ws d.toNat 1]
  | .csrw a _ => [.rs a.toNat]
  | .tlbiWrite a => [.rs a.toNat]
  | .fpmapWrite a => [.rs a.toNat]
  | .pptQry z => [.ws z.toNat 1]
  | .bswp z => [.ws z.toNat 1]
  | .bswpQry z => [.ws z.toNat 1]
  | .ctxs x y z => [.rs x.toNat, .rs y.toNat, .ws z.toNat 1]
  | .ctxl x y z => [.rs x.toNat, .rs y.toNat, .ws z.toNat 1]
  | .ctxlTeam x y z _ => [.rs x.toNat, .rs y.toNat, .ws z.toNat 1]
  | .tagsSet y => [.rs y.toNat]
  | .tagsCnt y z => [.rs y.toNat, .ws z.toNat 1]
  | .purg y => [.rs y.toNat]
  | .purgClr y => [.rs y.toNat]
  | .purgQry y z => [.rs y.toNat, .ws z.toNat 1]
  | _ => []

/-- The registers of an operand that it reads or writes. -/
def Operand.regs : Operand → List Reg
  | .rv n c => (List.range c).map (fun k => .v (n + k))
  | .wv n c => (List.range c).map (fun k => .v (n + k))
  | .xv n c => (List.range c).map (fun k => .v (n + k))
  | .rs n => [.s n]
  | .ws n c => (List.range c).map (fun k => .s (n + k))
  | .rp n => [.p n]
  | .wp n => [.p n]

/-- The operand is written. -/
def Operand.isWrite : Operand → Bool
  | .wv _ _ => true
  | .xv _ _ => true
  | .ws _ _ => true
  | .wp _ => true
  | _ => false

/-- Every register that a word reads or writes (R52). -/
def touches (m : DWord) (i : Instr) : List Reg := (operands m i).flatMap Operand.regs

/-- Every register that a word writes: the owner's result of R52. -/
def writes (m : DWord) (i : Instr) : List Reg := ((operands m i).filter Operand.isWrite).flatMap Operand.regs

/-- A lane operand breaks the budget (R65) or names a pair by an odd register (R67). -/
def Operand.bad (budget : Nat) : Operand → Bool
  | .rv n c => decide (budget < n + c) || (c == 2 && n % 2 == 1)
  | .wv n c => decide (budget < n + c) || (c == 2 && n % 2 == 1)
  | .xv n c => decide (budget < n + c) || (c == 2 && n % 2 == 1)
  | _ => false

/-- A lane register field of the word is at or above the budget, or is odd where a pair is named. -/
def operandsBad (s : State) (i : Instr) : Bool := (operands s.split.mode i).any (Operand.bad (budget s))

/-! ## The wrapper of every meaning -/

/-- Run a word's own effect under the check of R65 and R67, which raises ILLEGAL with the word in TRAPV. -/
def run (i : Instr) (s : State) (body : State → State) : Host.Outcome State Fault Refusal :=
  .next (if operandsBad s i then illegal s i.word else body s)

/-- The same for a privileged word: PRIV in user mode (02_words.md R35, check 4). -/
def runPriv (i : Instr) (s : State) (body : State → State) : Host.Outcome State Fault Refusal :=
  .next (if userMode s then trap s Cause.priv (i.word.setWidth 64) (active s) else body s)

/-- A step of a device, which the machine takes only when its condition holds. -/
def runEvent (ok : Bool) (s : State) (body : State → State) : Host.Outcome State Fault Refusal :=
  if ok then .next (body s) else .fault .notEnabled

end Sys2Proof.Machine
end

