-- ==== Sys2Proof/Machine/Float.lean ====
section
/-! DEFINITION. Number formats, exact values and RoundTo (04_float.md R96 to R103), and the generator draw
(05_convert.md R118). An exact magnitude is given by its floor at every binary scale, whether it is an integer
there, and its binary exponent; nothing is ever rounded twice. -/

namespace Sys2Proof.Machine

/-- The floating and scale formats. -/
inductive Fmt where
  | f64 | f32 | f16 | bf16 | e4m3 | e5m2 | e3m2 | e2m1 | mxint8 | e8m0
  deriving DecidableEq, Repr

/-- Fraction bits M (R96). -/
def Fmt.m : Fmt → Nat
  | .f64 => 52 | .f32 => 23 | .f16 => 10 | .bf16 => 7 | .e4m3 => 3 | .e5m2 => 2 | .e3m2 => 2 | .e2m1 => 1
  | .mxint8 => 6 | .e8m0 => 0

/-- Exponent bits. -/
def Fmt.ebits : Fmt → Nat
  | .f64 => 11 | .f32 => 8 | .f16 => 5 | .bf16 => 8 | .e4m3 => 4 | .e5m2 => 5 | .e3m2 => 3 | .e2m1 => 2
  | .mxint8 => 1 | .e8m0 => 8

/-- Exponent bias (R96). -/
def Fmt.bias : Fmt → Int
  | .f64 => 1023 | .f32 => 127 | .f16 => 15 | .bf16 => 127 | .e4m3 => 7 | .e5m2 => 15 | .e3m2 => 3 | .e2m1 => 1
  | .mxint8 => 0 | .e8m0 => 127

/-- Bits of the encoding. -/
def Fmt.width (f : Fmt) : Nat :=
  match f with
  | .mxint8 => 8
  | .e8m0 => 8
  | _ => 1 + f.ebits + f.m

/-- The all-ones exponent field encodes infinities and NaNs. -/
def Fmt.ieee : Fmt → Bool
  | .f64 => true | .f32 => true | .f16 => true | .bf16 => true | .e5m2 => true | _ => false

/-- FTZ applies to the format (R100, R103). -/
def Fmt.ftz : Fmt → Bool
  | .f64 => true | .f32 => true | .f16 => true | .bf16 => true | _ => false

/-- Magnitude field of the largest finite value. -/
def Fmt.maxMag (f : Fmt) : Nat :=
  match f with
  | .e4m3 => 0x7E
  | .e3m2 => 0x1F
  | .e2m1 => 0x7
  | .mxint8 => 127
  | .e8m0 => 0xFE
  | _ => (2 ^ f.ebits - 1) * 2 ^ f.m - 1

/-- CanonNaN (R98); for the formats without NaN, the result of R101. -/
def Fmt.nan (f : Fmt) : Nat :=
  match f with
  | .e4m3 => 0x7F
  | .e3m2 => 0
  | .e2m1 => 0
  | .mxint8 => 0
  | .e8m0 => 0xFF
  | _ => (2 ^ f.ebits - 1) * 2 ^ f.m + 2 ^ (f.m - 1)

/-- The sign bit. -/
def Fmt.sign (f : Fmt) (neg : Bool) : Nat := if neg then 2 ^ (f.width - 1) else 0

/-- A value read from an encoding: `num neg m e` is m × 2^e with m > 0. -/
inductive FVal where
  | nan
  | inf (neg : Bool)
  | zero (neg : Bool)
  | num (neg : Bool) (m : Nat) (e : Int)
  deriving DecidableEq, Repr

/-- The value of an encoding (R96, R97). -/
def decodeF (f : Fmt) (x : Nat) : FVal :=
  match f with
  | .mxint8 =>
    let k := asInt 8 true x
    if k = 0 then .zero false else .num (decide (k < 0)) k.natAbs (-6)
  | .e8m0 => if x % 256 = 255 then .nan else .num false 1 (((x % 256 : Nat) : Int) - 127)
  | _ =>
    let neg := x / 2 ^ (f.width - 1) % 2 == 1
    let e := x / 2 ^ f.m % 2 ^ f.ebits
    let fr := x % 2 ^ f.m
    if f.ieee && e == 2 ^ f.ebits - 1 then (if fr = 0 then .inf neg else .nan)
    else if f == .e4m3 && e == 15 && fr == 7 then .nan
    else if e = 0 then (if fr = 0 then .zero neg else .num neg fr (1 - f.bias - f.m))
    else .num neg (2 ^ f.m + fr) ((e : Int) - f.bias - f.m)

/-- The encoding is a subnormal of a format that FTZ flushes. -/
def isSubnormal (f : Fmt) (x : Nat) : Bool :=
  x / 2 ^ f.m % 2 ^ f.ebits == 0 && x % 2 ^ f.m != 0

/-- Read a source under FTZ (R103). -/
def readF (f : Fmt) (ftz : Bool) (x : Nat) : FVal :=
  if ftz && f.ftz && isSubnormal f x then .zero (x / 2 ^ (f.width - 1) % 2 == 1) else decodeF f x

/-! ## Exact magnitudes -/

/-- A positive real: `fl k` is the floor of it times 2^k, `ex k` says that this product is an integer, and
`lg` is the floor of its base-2 logarithm. -/
structure Mag where
  fl : Int → Nat
  ex : Int → Bool
  lg : Int

/-- n × 2^k with k of either sign, rounded down. -/
def scaleNat (n : Nat) (k : Int) : Nat := if 0 ≤ k then n * 2 ^ k.toNat else n / 2 ^ (-k).toNat

/-- n × 2^k is an integer. -/
def scaleExact (n : Nat) (k : Int) : Bool := if 0 ≤ k then true else n % 2 ^ (-k).toNat == 0

/-- m × 2^e. -/
def Mag.dyadic (m : Nat) (e : Int) : Mag :=
  ⟨fun k => scaleNat m (e + k), fun k => scaleExact m (e + k), (Nat.log2 m : Int) + e⟩

/-- The exponent from a guess that is off by at most one. -/
def lgFrom (fl : Int → Nat) (g : Int) : Int :=
  if 1 ≤ fl (-(g + 1)) then g + 1 else if 1 ≤ fl (-g) then g else g - 1

/-- n / d × 2^e. -/
def Mag.ratio (n d : Nat) (e : Int) : Mag :=
  let fl := fun (k : Int) => if 0 ≤ e + k then n * 2 ^ (e + k).toNat / d else n / (d * 2 ^ (-(e + k)).toNat)
  let ex := fun (k : Int) => if 0 ≤ e + k then n * 2 ^ (e + k).toNat % d == 0 else n % (d * 2 ^ (-(e + k)).toNat) == 0
  ⟨fl, ex, lgFrom fl ((Nat.log2 n : Int) - Nat.log2 d + e)⟩

/-- Integer square root by bits, highest first. -/
def isqrtFrom (n : Nat) : Nat → Nat → Nat
  | 0, r => r
  | b + 1, r => isqrtFrom n b (if (r + 2 ^ b) * (r + 2 ^ b) ≤ n then r + 2 ^ b else r)

def isqrt (n : Nat) : Nat := isqrtFrom n (Nat.log2 n / 2 + 1) 0

/-- The square root of m × 2^e. -/
def Mag.sqrt (m : Nat) (e : Int) : Mag :=
  let fl := fun (k : Int) => isqrt (scaleNat m (e + 2 * k))
  let ex := fun (k : Int) => scaleExact m (e + 2 * k) && (let r := isqrt (scaleNat m (e + 2 * k)); r * r == scaleNat m (e + 2 * k))
  ⟨fl, ex, lgFrom fl (((Nat.log2 m : Int) + e) / 2)⟩

/-- The reciprocal of the square root of m × 2^e. -/
def Mag.rsqrt (m : Nat) (e : Int) : Mag :=
  let q := fun (k : Int) => if 0 ≤ 2 * k - e then 2 ^ (2 * k - e).toNat / m else 0
  let whole := fun (k : Int) => decide (0 ≤ 2 * k - e) && 2 ^ (2 * k - e).toNat % m == 0
  let fl := fun (k : Int) => isqrt (q k)
  let ex := fun (k : Int) => whole k && (let r := isqrt (q k); r * r == q k)
  ⟨fl, ex, lgFrom fl (-(((Nat.log2 m : Int) + e) / 2) - 1)⟩

/-- An exact result on its way to RoundTo. -/
inductive Exact where
  | nan
  | inf (neg : Bool)
  | zero (neg : Bool)
  | real (neg : Bool) (m : Mag)

/-- A value read from an encoding is exact. -/
def FVal.exact : FVal → Exact
  | .nan => .nan
  | .inf n => .inf n
  | .zero n => .zero n
  | .num n m e => .real n (Mag.dyadic m e)

/-- The signed integer t times 2^e; an exact zero takes the sign `z`. -/
def exactInt (t : Int) (e : Int) (z : Bool) : Exact :=
  if t = 0 then .zero z else .real (decide (t < 0)) (Mag.dyadic t.natAbs e)

/-! ## The generator (05_convert.md R118) -/

/-- The state after one draw, which is also the word drawn. -/
def nextGen (x : Word) : Word :=
  let x := x ^^^ (x <<< 13)
  let x := x ^^^ (x >>> 17)
  x ^^^ (x <<< 5)

/-- A lane's generator state. -/
def genOf (g : Group) (l : Nat) : Word := cget genInit g.gens l

/-- The state after `n` draws. -/
def genAfter (x : Word) : Nat → Word
  | 0 => x
  | n + 1 => genAfter (nextGen x) n

/-- Advance the generators of some lanes by `n` draws. -/
def advanceGens (s : State) (n : Nat) : List Nat → State
  | [] => s
  | l :: r => advanceGens
      { s with group := { s.group with gens := cput genInit s.group.gens l (genAfter (genOf s.group l) n) } } n r

/-! ## RoundTo (R99 to R102) -/

/-- What RoundTo reads of MODE. -/
structure RMode where
  rnd : Nat
  sat : Bool
  ftz : Bool
  deriving DecidableEq, Repr

def rmode (m : DWord) : RMode := ⟨mRnd m, mSat m, mFtz m⟩

/-- The least k below `n + 1` at which a magnitude is an integer, starting the search at `k`; 32 if none. -/
def fracBits (m : Mag) (base : Int) : (n k : Nat) → Nat
  | 0, _ => 32
  | n + 1, k => if m.ex (base + k) then k else fracBits m base n (k + 1)

/-- RoundsUp (R99, R102) for a magnitude counted in units of 2^-base; `g` is the word drawn under SR. -/
def roundsUp (rnd : Nat) (neg : Bool) (m : Mag) (base : Int) (g : Word) : Bool :=
  let n := m.fl base
  let exact := m.ex base
  let half := m.fl (base + 1) % 2 == 1
  let tie := half && m.ex (base + 1)
  match rnd with
  | 0 => half && (!tie || n % 2 == 1)
  | 2 => !exact && !neg
  | 3 => !exact && neg
  | 4 => half
  | 5 =>
    let k := fracBits m base 32 0
    k != 0 && decide (2 ^ k ≤ (m.fl (base + k) - n * 2 ^ k) + g.toNat / 2 ^ (32 - k))
  | 6 => !exact && n % 2 == 0
  | _ => false

/-- OverResult (R101). `infinite` marks an infinite x. -/
def overResult (f : Fmt) (r : RMode) (neg infinite : Bool) : Nat :=
  let big := f.sign neg + f.maxMag
  let infty :=
    match f with
    | .e4m3 => f.sign neg + 0x7F
    | _ => f.sign neg + (2 ^ f.ebits - 1) * 2 ^ f.m
  match f with
  | .mxint8 => if neg then 0x81 else 0x7F
  | .e3m2 => big
  | .e2m1 => big
  | .e8m0 => 0xFE
  | _ =>
    if r.sat then big
    else if infinite then infty
    else
      match r.rnd with
      | 1 => big
      | 6 => big
      | 2 => if neg then big else infty
      | 3 => if neg then infty else big
      | _ => infty

/-- Encode n units of 2^(e - M), with n at most 2^(M + 1): the magnitude field. -/
def magField (f : Fmt) (e : Int) (n : Nat) : Nat :=
  match f with
  | .mxint8 => n
  | _ => if n < 2 ^ f.m then n else ((e + f.bias).toNat - 1) * 2 ^ f.m + n

/-- A signed magnitude field as an encoding. -/
def withSign (f : Fmt) (neg : Bool) (mag : Nat) : Nat :=
  match f with
  | .mxint8 => if neg then (256 - mag) % 256 else mag
  | _ => f.sign neg + mag

/-- RoundTo(fmt, x, mode) (R100), with the word drawn under SR. -/
def roundTo (f : Fmt) (r : RMode) (g : Word) (x : Exact) : Nat :=
  match x with
  | .nan => f.nan
  | .inf neg => overResult f r neg true
  | .zero neg => withSign f neg 0
  | .real neg m =>
    let e := max m.lg (1 - f.bias)
    let base : Int := match f with
      | .mxint8 => 6
      | _ => (f.m : Int) - e
    let n := m.fl base + (if roundsUp r.rnd neg m base g then 1 else 0)
    let mag := magField f e n
    if f.maxMag < mag then overResult f r neg false
    else if r.ftz && f.ftz && decide (mag < 2 ^ f.m) then withSign f neg 0
    else withSign f neg mag

/-- Rounding to an integer with unit 1 (R110, R124). -/
def roundInt (rnd : Nat) (neg : Bool) (m : Mag) (g : Word) : Nat :=
  m.fl 0 + (if roundsUp rnd neg m 0 g then 1 else 0)

/-! ## Exact arithmetic (R105) -/

/-- The sign of an exact zero sum: like signs keep it; otherwise plus, and minus under RDN. -/
def zeroSign (rnd : Nat) (a b : Bool) : Bool := if a == b then a else rnd == 3

/-- The signed numerator of a number over 2^e, for e at or below its own exponent. -/
def numAt (neg : Bool) (m : Nat) (e lo : Int) : Int :=
  let n : Int := ((m * 2 ^ (e - lo).toNat : Nat) : Int)
  if neg then -n else n

/-- x + y. -/
def fadd (rnd : Nat) : FVal → FVal → Exact
  | .nan, _ => .nan
  | _, .nan => .nan
  | .inf a, .inf b => if a == b then .inf a else .nan
  | .inf a, _ => .inf a
  | _, .inf b => .inf b
  | .zero a, .zero b => .zero (zeroSign rnd a b)
  | .zero _, y => y.exact
  | x, .zero _ => x.exact
  | .num a m e, .num b n k =>
    let lo := min e k
    exactInt (numAt a m e lo + numAt b n k lo) lo (rnd == 3)

/-- x with its sign turned. -/
def fneg : FVal → FVal
  | .nan => .nan
  | .inf n => .inf (!n)
  | .zero n => .zero (!n)
  | .num n m e => .num (!n) m e

/-- x × y, exactly. -/
def fmul : FVal → FVal → FVal
  | .nan, _ => .nan
  | _, .nan => .nan
  | .inf a, .inf b => .inf (a != b)
  | .inf _, .zero _ => .nan
  | .zero _, .inf _ => .nan
  | .inf a, .num b _ _ => .inf (a != b)
  | .num a _ _, .inf b => .inf (a != b)
  | .zero a, .zero b => .zero (a != b)
  | .zero a, .num b _ _ => .zero (a != b)
  | .num a _ _, .zero b => .zero (a != b)
  | .num a m e, .num b n k => .num (a != b) (m * n) (e + k)

/-- x / y (R111). -/
def fdiv : FVal → FVal → Exact
  | .nan, _ => .nan
  | _, .nan => .nan
  | .inf _, .inf _ => .nan
  | .inf a, .zero b => .inf (a != b)
  | .inf a, .num b _ _ => .inf (a != b)
  | .zero _, .zero _ => .nan
  | .zero a, .inf b => .zero (a != b)
  | .zero a, .num b _ _ => .zero (a != b)
  | .num a _ _, .inf b => .zero (a != b)
  | .num a _ _, .zero b => .inf (a != b)
  | .num a m e, .num b n k => .real (a != b) (Mag.ratio m n (e - k))

/-- How two values compare (R108). -/
def fcompare : FVal → FVal → Option Ordering
  | .nan, _ => none
  | _, .nan => none
  | x, y =>
    let key : FVal → Int := fun v => match v with
      | .inf true => -1
      | .inf false => 1
      | _ => 0
    if key x ≠ key y then some (compare (key x) (key y))
    else if key x ≠ 0 then some .eq
    else
      let val : FVal → Int → Int := fun v lo => match v with
        | .num n m e => numAt n m e lo
        | _ => 0
      let lo : Int := match x, y with
        | .num _ _ e, .num _ _ k => min e k
        | .num _ _ e, _ => e
        | _, .num _ _ k => k
        | _, _ => 0
      some (compare (val x lo) (val y lo))

/-- The format that MODE.TYPE names among those of R104. -/
def laneFmt (m : DWord) : Option Fmt :=
  match mType m with
  | 8 => some .f32
  | 9 => some .f64
  | 10 => some .f16
  | 11 => some .bf16
  | _ => none

end Sys2Proof.Machine
end

