-- ==== Sys2Proof/Machine/Deferred.lean ====
section
/-! DEFINITION. Deferred faults: where each is due and how it is taken (00_scope.md R8; 09_atomics.md R218;
10_matrix.md R243, R245; 11_copy.md R263; 13_fabric.md R306; 14_system.md R332, R333). -/

namespace Sys2Proof.Machine

/-- What an instruction offers as a point of delivery. `met` says that a BWAIT, RWAIT or RSYNC finds its phase reached:
a tile operation's fault is delivered at one that does not (R263). `result` is an instruction held for a result. -/
inductive Offer where
  | path (path n : Nat)
  | object (pa : Nat) (met : Bool)
  | point (k : Nat) (met : Bool)
  | exit
  | msq
  | fence
  | held (regs : List Reg)
  | result
  deriving DecidableEq, Repr

/-- Rise `r` of a path is among those that WAIT path, n covers (06_control.md R145; 07_memory.md R166). -/
def riseCovered (g : Group) (path n r : Nat) : Bool := decide (n + r + 1 ≤ cget (fun _ => 0) g.rises path)

/-- The split number of a fault whose issuing group has ended (R263); splits are numbered 0 to 3. -/
def orphanSpl : Nat := 4

/-- The split number of what a split that has ended leaves in its group (06_control.md R143). -/
def endedSpl : Nat := 5

/-- A fault of group `g` is due at an offer made by split `sp`; `own` says that `g` is the split's own group. -/
def faultDue (own : Bool) (g : Group) (sp : Nat) (o : Offer) (f : DFault) : Bool :=
  match o, f.at_ with
  | .exit, .slot => own && f.spl == sp
  | .exit, _ => own && f.spl != orphanSpl
  | .held regs, _ => own && f.spl == sp && regs.any (fun r => f.dests.contains r)
  | .path p n, .path q r => own && p == q && riseCovered g p n r
  | .path _ _, .anyWait => own
  | .object a met, .object b => a == b && !met
  | .point a met, .point b => a == b && !met
  | .object _ _, .anyWait => own
  | .point _ _, .anyWait => own
  | .object _ _, .path q _ => own && decide (q < 4)
  | .point _ _, .path q _ => own && decide (q < 4)
  | .path _ _, .arm => own
  | .object _ _, .arm => own
  | .point _ _, .arm => own
  | .result, .arm => own
  | .path _ _, .slot => own && f.spl == sp
  | .object _ _, .slot => own && f.spl == sp
  | .point _ _, .slot => own && f.spl == sp
  | .msq, .slot => own && f.spl == sp
  | .fence, .path q _ => own && q == 1 && f.spl == sp && f.cause == Cause.fabricUncertain
  | _, _ => false

/-- The earliest-issued of two faults. -/
def earlier (a : Option DFault) (b : DFault) : Option DFault :=
  match a with
  | none => some b
  | some x => if b.id < x.id then some b else some x

/-- The deferred fault due at an offer of the executing split (R8: the earliest-issued operation's). -/
def dueFault (s : State) (o : Offer) : Option DFault :=
  let mine := s.group.faults.filter (faultDue true s.group s.split.num o)
  let others := s.team.groups.flatMap (fun g => g.faults.filter (faultDue false g s.split.num o))
  (mine ++ others).foldl earlier none

/-- A delivered fault is gone. -/
def dropFault (s : State) (f : DFault) : State :=
  let cut := fun (g : Group) => { g with faults := g.faults.filter (fun x => x != f) }
  { s with group := cut s.group, team := { s.team with groups := s.team.groups.map cut } }


/-- Deliver a fault at the instruction in hand. -/
def deliver (s : State) (f : DFault) : State :=
  let t : TrapInfo := ⟨f.cause, s.split.pc, f.value, f.mask.getD (active s), f.defpc⟩
  let s := dropFault s f
  match f.purge with
  | none => takeTrap s t
  | some tag => takeDead s t tag

/-- The offers at which a stopped matrix stream's fault is delivered to its owner split (R243). -/
def matrixOffer (o : Offer) : Bool :=
  match o with
  | .fence => false
  | .result => false
  | .held _ => false
  | _ => true

/-- The matrix fault due at an offer of the executing split. -/
def dueMatrix (s : State) (o : Offer) : Option (Nat × TrapInfo) :=
  match s.team.mslot with
  | none => none
  | some m => if matrixOffer o && m.owner == some (s.group.num, s.split.num) then m.fault else none

/-- After delivery: KIND 1 and 2 leave STATE 1 with HOLD, the others and POISON leave STATE 0 (R243). -/
def matrixDelivered (m : MSlot) : MSlot :=
  let k := bitsOf m.mstat 7 3
  let holds := m.purge.isNone && (k == 1 || k == 2)
  { m with
    fault := none
    purge := none
    mstat := putBits (putBits m.mstat 0 2 (if holds then 1 else 0)) 6 1 (if holds then 1 else 0) }

/-- Deliver the matrix fault at the instruction in hand. -/
def deliverMatrix (s : State) (t : TrapInfo) : State :=
  let t : TrapInfo := { t with pc := s.split.pc, mask := active s }
  let purge := match s.team.mslot with | some m => m.purge | none => none
  let s := { s with team := { s.team with mslot := s.team.mslot.map matrixDelivered } }
  match purge with
  | none => takeTrap s t
  | some tag => takeDead s t tag

/-- Run the rest of an instruction unless a deferred fault is due at it (R8: after the decode checks, before
the instruction's own). -/
def offering (s : State) (o : Offer) (rest : State → State) : State :=
  match dueFault s o, dueMatrix s o with
  | some f, some (id, t) => if f.id < id then deliver s f else deliverMatrix s t
  | some f, none => deliver s f
  | none, some (_, t) => deliverMatrix s t
  | none, none => rest s

/-- The causes that R58 moves an entity to the pending set for; under another one it keeps its active entry until
IDLE_DEMOTE. -/
def demotes (w : WaitCond) : Bool :=
  match w with
  | .message _ => false
  | .landing => false
  | .performed _ _ => false
  | _ => true

/-- A split is held: it stays at its instruction until a condition holds (R58). -/
def hold (s : State) (w : WaitCond) : State :=
  { s with
    lim := none
    split := if demotes w then { s.split with wait := some w, active := false, woke := s.tick }
      else { s.split with wait := some w } }

/-- A deferred fault joins its group. When that group has ended, a fault that a barrier object or a point
delivers joins the team's first group, for its waiters; another is dropped (the caller reports it). -/
def addFault (s : State) (tid gn : Nat) (f : DFault) : State :=
  match findGroup s tid gn with
  | some _ => updGroup s tid gn (fun g => { g with faults := g.faults ++ [f] })
  | none =>
    match findTeam s tid, f.at_ with
    | some t, .object _ | some t, .point _ =>
      updGroup s tid ((t.groups.map Group.num).headD 0)
        (fun g => { g with faults := g.faults ++ [{ f with spl := orphanSpl }] })
    | _, _ => s

/-- The tag of an error consumed by a request of a VI on a module (R332, R333): tag 0 is module-fatal; else
the tag is dead, and the trap is deferred to the group, or the purge begins when the group has ended. -/
def consume (s : State) (module vi tag tid gn : Nat) (f : DFault) : State :=
  if tag = 0 then moduleFatal s module
  else
    match findGroup s tid gn with
    | none => startPurge s module vi tag (some f.value) []
    | some _ => addFault (markDead s module vi tag) tid gn { f with purge := some tag }

end Sys2Proof.Machine
end

