-- ==== Sys2Proof/Machine/Rollback.lean ====
section
/-! DEFINITION. Flights by their number, lines, and the snapshots and rollback of speculative windows
(02_words.md R53, R54; 08_ordering.md R185). -/

namespace Sys2Proof.Machine

/-! ## Flights -/

def findFlight (s : State) (id : Nat) : Option Flight := s.flights.find? (fun f => f.id == id)

def dropFlight (s : State) (id : Nat) : State := { s with flights := s.flights.filter (fun f => f.id != id) }

def setFlight (s : State) (f : Flight) : State :=
  { s with flights := s.flights.map (fun x => if x.id = f.id then f else x) }

/-- A flight is still to come. -/
def pending (s : State) (id : Nat) : Bool := s.flights.any (fun f => f.id == id)

/-! ## Snapshots and rollback (R185; 02_words.md R53, R54) -/

/-- Bring a split into focus, act, and bring the earlier one back. -/
def onSplit (s : State) (tid gn sn : Nat) (f : State → State) : State :=
  if s.live && s.team.id == tid && s.group.num == gn && s.split.num == sn then f s
  else
    let c := f (focusOn s tid gn sn)
    if s.live then focusOn c s.team.id s.group.num s.split.num else close c

/-- The register state of the executing split's lanes. -/
def takeSnap (s : State) : Snapshot where
  pc := s.split.pc
  mode := s.split.mode
  mask := s.split.mask
  rcva := s.split.rcva
  rcvaValid := s.split.rcvaValid
  s := s.split.s
  x := s.split.x
  regs := s.group.regs
  preds := s.group.preds
  gens := s.group.gens
  windows := s.split.windows

/-- The cells of `old` where `p` holds and of `cur` elsewhere. -/
def mixCells {α : Type} [DecidableEq α] (d : Nat → α) (p : Nat → Bool) (old cur : Cells α) : Cells α :=
  (old.filter (fun e => p e.1)).foldl (fun m e => cput d m e.1 e.2) (cur.filter (fun e => !p e.1))

/-- The predicates of `old` in the lanes of `m`, of `cur` elsewhere. -/
def mixPreds (m : Word) (old cur : Cells Word) : Cells Word :=
  [1, 2, 3, 4, 5, 6, 7].foldl (fun c p =>
    cput (fun _ => 0) c p ((cget (fun _ => 0) old p &&& m) ||| (cget (fun _ => 0) cur p &&& ~~~ m))) cur

/-- Put a snapshot back: the split's own lanes and its own registers. -/
def putSnap (s : State) (k : Snapshot) : State :=
  let lane := fun (n : Nat) => laneBit k.mask (n % 32)
  { s with
    split := { s.split with
      pc := k.pc, mode := k.mode, mask := k.mask, rcva := k.rcva, rcvaValid := k.rcvaValid, s := k.s, x := k.x
      entries := 0
      windows := k.windows.map (fun w => match w.flight with
        | some i => if pending s i then w else { w with flight := none }
        | none => w) }
    group := { s.group with
      regs := mixCells (fun _ => 0) lane k.regs s.group.regs
      preds := mixPreds k.mask k.preds s.group.preds
      gens := mixCells genInit lane k.gens s.group.gens } }

/-- Discard flights of the executing group: their results are dropped and they never rose (R54, R166). -/
def discardFlights (s : State) (ids : List Nat) : State :=
  let dead := s.flights.filter (fun f => ids.contains f.id)
  let g := s.group
  let rises := dead.foldl (fun c f =>
    match f.path with | some p => cput (fun _ => 0) c p (cget (fun _ => 0) c p - 1) | none => c) g.rises
  { s with
    flights := s.flights.filter (fun f => !ids.contains f.id)
    reqs := s.reqs.filter (fun r => match r.flight with | some i => !ids.contains i | none => true)
    group := { g with rises := rises, paths := pathSettle [] (g.paths.filter (fun e => !ids.contains e.id)) } }

/-- The flights of the executing split from `first` on. -/
def flightsSince (s : State) (first : Nat) : List Nat :=
  (s.flights.filter (fun f =>
    f.team == s.team.id && f.grp == s.group.num && f.spl == s.split.num && decide (first ≤ f.id))).map Flight.id

/-- The faults that the executing split's accesses from `first` on have left. -/
def faultSince (s : State) (first : Nat) (f : DFault) : Bool := f.spl == s.split.num && decide (first ≤ f.id)

/-- What the executing split has done from access `first` on is discarded: its flights, and the faults that they left (R186;
02_words.md R54). An error that one of them consumed stays owed to its tag. -/
def discardSince (s : State) (first : Nat) : State :=
  let gone := s.group.faults.filter (faultSince s first)
  let s1 := discardFlights s (flightsSince s first)
  { s1 with
    group := { s1.group with faults := s1.group.faults.filter (fun f => !faultSince s first f) }
    team := { s1.team with ptags := (gone.filterMap DFault.purge ++ s1.team.ptags).eraseDups } }

/-- A fence rollback of the executing split (R185). -/
def rollbackHere (s : State) : State :=
  match s.split.fence with
  | none => s
  | some w =>
    let s := putSnap (discardSince s w.first) w.snap
    let c := getCore s s.team.core
    let s := setCore s s.team.core { c with fnrb := c.fnrb + 1 }
    { s with
      split := { s.split with
        fence := some { w with used := 0, tracked := [], held := [], trap := none }
        wait := none }
      group := { s.group with log := s.group.log.filter (fun e => e.1 != s.split.num) } }

/-- The splits that satisfy a test and whose fence window tracks a line or row. -/
def trackers (s : State) (line : Nat) (test : Team → Group → Split → Bool) : List (Nat × Nat × Nat) :=
  (allTeams s).flatMap (fun t => t.groups.flatMap (fun g =>
    (g.splits.filter (fun x => test t g x && (match x.fence with | some w => w.tracked.contains line | none => false))).map
      (fun x => (t.id, g.num, x.num))))

def rollbackAll (s : State) (ws : List (Nat × Nat × Nat)) : State :=
  ws.foldl (fun s w => onSplit s w.1 w.2.1 w.2.2 rollbackHere) s

/-- Line or scratchpad-row number of an address. -/
def lineOf (pa : Nat) : Nat := pa / 128

/-- Two sets of pieces share a byte. -/
def overlap (p q : List (Nat × Nat)) : Bool :=
  p.any (fun a => q.any (fun b => decide (a.1 < b.1 + b.2) && decide (b.1 < a.1 + a.2)))

/-- The lines that pieces touch. -/
def linesOf (ps : List (Nat × Nat)) : List Nat :=
  (ps.flatMap (fun p => if p.2 = 0 then [] else
    (List.range (lineOf (p.1 + p.2 - 1) - lineOf p.1 + 1)).map (fun i => lineOf p.1 + i))).eraseDups

/-- Every piece of a flight. -/
def flightParts (f : Flight) : List (Nat × Nat) := f.lanes.flatMap LaneReq.parts

/-- A memory access of a split, not an engine's. -/
def isAccess (f : Flight) : Bool :=
  match f.kind with
  | .load => true
  | .store => true
  | .cctl => true
  | .atomic => true
  | _ => false

/-- The scope of a flight's acquire, 0 for none: q 1 to 5 of a load (in scal 0), ord 1 or 3 of an atomic
(scal 0) at its ASCOPE. -/
def acqScope (f : Flight) : Option Nat :=
  let c := (f.scal.headD 0).toNat
  match f.kind with
  | .load => if 1 ≤ c ∧ c ≤ 5 then some c else none
  | .atomic => if c % 2 = 1 then some (mAscope f.mode) else none
  | _ => none

/-- A place is scratchpad. -/
def isSpad (pa : Nat) : Bool := match place pa with | .spad _ _ _ => true | _ => false

/-- A store no lane of which names scratchpad. -/
def isGlobalStore (f : Flight) : Bool := f.kind == .store && !(flightParts f).any (fun p => isSpad p.1)

/-- A global store that stands in its core's store queue (R179). -/
def inQueue (f : Flight) : Bool := isGlobalStore f && f.stage == 0

/-- The flights that order a new access of the executing split whatever its bytes: the split's acquires (case 2), all its
accesses and the stores that they read for a release (case 3), and those before a merge (case 5). -/
def orderBinds (s : State) (release : Bool) : List Nat :=
  let skip := match s.split.fence with | some w => w.waits | none => []
  (s.flights.filter (fun f =>
    f.team == s.team.id && f.grp == s.group.num && f.spl == s.split.num && isAccess f &&
      (release || ((acqScope f).isSome && !skip.contains f.id)))).map Flight.id ++
    s.split.order ++ (if release then s.split.trail else [])

/-- The flights that a new access of the executing split must follow: those that order it, the accesses of its group on a
common byte (case 1; a load sees its group's queued stores by forwarding, and no later access follows an engine's: 11_copy.md
R259), and, for an access that writes, the queued stores of its core on a common byte. -/
def orderAfter (s : State) (ps : List (Nat × Nat)) (release writes : Bool) : List Nat :=
  (s.flights.filter (fun f => overlap (flightParts f) ps &&
    ((f.team == s.team.id && f.grp == s.group.num && isAccess f && (writes || !inQueue f)) ||
      (writes && f.core == s.team.core && inQueue f)))).map Flight.id ++ orderBinds s release

/-- The queued stores that the other groups of their core may not see yet: something that orders them is still to come, or
is such a store. -/
def hiddenFrom (s : State) : Nat → List Nat → List Nat
  | 0, h => h
  | n + 1, h => hiddenFrom s n ((s.flights.filter (fun f => inQueue f && f.binds.any (fun i =>
      match findFlight s i with | none => false | some x => !isGlobalStore x || h.contains i))).map Flight.id)

def hiddenStores (s : State) : List Nat :=
  hiddenFrom s (s.flights.filter (fun f => inQueue f && !f.binds.isEmpty)).length []

/-- A queued store may be seen by the other groups of its core. -/
def forwardable (s : State) (f : Flight) : Bool := inQueue f && (f.binds.isEmpty || !(hiddenStores s).contains f.id)

/-- Requests made for a flight that are neither acknowledged nor abandoned. -/
def reqsOpen (s : State) (id : Nat) : Bool :=
  s.reqs.any (fun r => r.flight == some id && !r.acked && !r.abandoned)

/-- A flight or a request is performed at a scope (R179): a flight's own step is made (a global store counts at core
scope once it is queued and the core's groups may see it, and at die scope once it has been sent on its way), and for module and fabric scope its
requests are performed too. -/
def performedAt (s : State) (scope id : Nat) : Bool :=
  (match findFlight s id with
   | none => true
   | some f => isGlobalStore f && (f.stage == 1 || (decide (scope ≤ 2) && (f.stage != 0 || forwardable s f)))) &&
  (decide (scope ≤ 3) || !s.reqs.any (fun r => (r.flight == some id || r.id == id) && !r.performed && !r.abandoned))

/-- Run with scratchpad bytes once what orders a team-scope access to them is performed (cases 1, 2 and 5 of R181); a hold of
scope 0 is no release. -/
def inOrder (s : State) (ps : List (Nat × Nat)) (body : State → State) : State :=
  let ids := (orderAfter s ps false true).filter (fun i => !performedAt s 1 i)
  if ps.isEmpty || ids.isEmpty then body s else hold s (.performed ids 0)

/-- The stores that the splits of the executing group hold in fence windows on a path. -/
def heldOn (s : State) (p : Nat) : Nat :=
  ((s.split :: s.group.splits).map (fun x => match x.fence with
    | some w => (w.held.filter (fun f => f.path == some p)).length
    | none => 0)).sum

/-- What stands on a path of the executing group (07_memory.md R166): its counter, and the held stores, which will rise. -/
def pathLoad (s : State) (p : Nat) : Nat := pathCount s.group p + heldOn s p

/-- Entries of the group's write log in use (02_words.md R54). -/
def logUsed (s : State) : Nat := s.split.entries + (s.group.splits.map Split.entries).sum

/-- A row of scratchpad is written: fence windows that track it roll back. -/
def rowWritten (s : State) (row : Nat) : State := rollbackAll s (trackers s row (fun _ _ _ => true))

end Sys2Proof.Machine
end

