-- ==== Sys2Proof/Machine/Objects.lean ====
section
/-! DEFINITION. Barrier objects and rendezvous points (08_ordering.md R187 to R194), arms (09_atomics.md R210,
R211, R216), event entries and their waiters (12_work.md R279 to R282), and requests to other modules
(13_fabric.md R301, R304). -/

namespace Sys2Proof.Machine

/-! ## Barrier objects (R187, R188) -/

/-- The fields of a barrier object. -/
structure Bar where
  owner : BitVec 16
  armk : BitVec 8
  rdv : Bool
  ovf : Bool
  armed : Bool
  init : Bool
  rem : Word
  exp : BitVec 16
  pend : BitVec 16
  phase : Word
  deriving DecidableEq, Repr

/-- Read the layout of R187; reserved bits are ignored. -/
def Bar.unpack (x : BitVec 128) : Bar where
  owner := x.extractLsb' 112 16
  armk := x.extractLsb' 104 8
  rdv := x.getLsbD 99
  ovf := x.getLsbD 98
  armed := x.getLsbD 97
  init := x.getLsbD 96
  rem := x.extractLsb' 64 32
  exp := x.extractLsb' 48 16
  pend := x.extractLsb' 32 16
  phase := x.extractLsb' 0 32

/-- Write it; reserved bits are zero. -/
def Bar.pack (b : Bar) : BitVec 128 :=
  b.owner ++ b.armk ++ (0 : BitVec 4) ++ BitVec.ofBool b.rdv ++ BitVec.ofBool b.ovf ++ BitVec.ofBool b.armed ++
    BitVec.ofBool b.init ++ b.rem ++ b.exp ++ b.pend ++ b.phase

/-- Add(o, k): REM is a signed 32-bit count. -/
def Bar.add (b : Bar) (k : Int) : Bar :=
  let t := b.rem.toInt + k
  if t < -2147483648 ∨ 2147483647 < t then { b with ovf := true } else { b with rem := BitVec.ofInt 32 t }

/-- Complete(o). -/
def Bar.complete (b : Bar) : Bar :=
  if b.pend = 0 ∧ b.rem = 0 then { b with phase := b.phase + 1, pend := b.exp } else b

/-- One arrival, before Complete. -/
def Bar.arrive (b : Bar) : Bar := if b.pend = 0 then { b with ovf := true } else { b with pend := b.pend - 1 }

/-- CountBytes(o, k). -/
def Bar.countBytes (b : Bar) (k : Nat) : Bar := (b.add (-(k : Int))).complete

/-- Reached(p, t). -/
def reached (p t : Word) : Bool := decide ((p - t).toNat < 2 ^ 31)

/-- BINIT's object; RINIT's with `rdv`. -/
def Bar.start (n : BitVec 16) (tag : BitVec 16) (rdv : Bool) : Bar :=
  ⟨tag, 0, rdv, false, false, true, 0, n, n, 0⟩

/-- The object at a physical address. -/
def getBar (s : State) (pa : Nat) : Bar := Bar.unpack (BitVec.ofNat 128 (rdNat s pa 16))

/-- A waiting BWAIT on an object whose bytes have changed evaluates again (R188). -/
def satisfiedNow (s : State) (ps : List (Nat × Nat)) (x : Split) : Bool :=
  match x.wait with
  | some (.barrier _ pa t) => overlap ps [(pa, 16)] && reached (getBar s pa).phase t
  | _ => false

/-- The splits that a change of some bytes wakes. -/
def wakes (s : State) (ps : List (Nat × Nat)) : List (Nat × Nat × Nat) :=
  (allTeams s).flatMap (fun t => t.groups.flatMap (fun g =>
    (g.splits.filter (satisfiedNow s ps)).map (fun x => (t.id, g.num, x.num))))

/-- Let every BWAIT see a change. -/
def wakeWaits (s : State) (ps : List (Nat × Nat)) : State := { s with woken := s.woken ++ wakes s ps }

/-- Change an object: windows that track its row roll back (R185), and waiting BWAITs evaluate again. -/
def setBar (s : State) (pa : Nat) (b : Bar) : State :=
  wakeWaits (rowWritten (wrNat s pa 16 b.pack.toNat) (lineOf pa)) [(pa, 16)]

/-- Point `k` of a team. -/
def teamPoint (t : Team) (k : Nat) : Bar := Bar.unpack (cget (fun _ => 0) t.points k)

def setTeamPoint (t : Team) (k : Nat) (b : Bar) : Team :=
  { t with points := cput (fun _ => 0) t.points k b.pack }

/-- Count bytes that an engine landed (R188): the target is an address, a point of a team, or nothing. -/
inductive CountTo where
  | none | object (pa : Nat) | point (team k : Nat)
  deriving DecidableEq, Repr

def countTo (s : State) (c : CountTo) (k : Nat) : State :=
  match c with
  | .none => s
  | .object pa => setBar s pa ((getBar s pa).countBytes k)
  | .point tid p => updTeam s tid (fun t => setTeamPoint t p ((teamPoint t p).countBytes k))

/-- A trap that a check raised; a poisoned walk also kills the tag (07_memory.md R419). -/
def trapCheck (s : State) (cause value : Nat) (mask : Word) : State :=
  if cause = Cause.poison then
    takePoison s ⟨cause, s.split.pc, BitVec.ofNat 64 value, mask, 0⟩ s.team.rtag.toNat
  else trap s cause (BitVec.ofNat 64 value) mask

/-- The core and bank of a scratchpad place. -/
def spadOf (pa : Nat) : Option (Nat × Nat) :=
  match place pa with
  | .spad c b _ => some (paHome pa * 64 + c, b)
  | _ => none

/-- Checks 2 to 5 of R189 on the object at `a`: the physical address, or the cause; TRAPV is `a`. -/
def checkObject (s : State) (a : DWord) (k : Kind) (here : Bool) : Except Nat Nat :=
  if a.toNat % 16 ≠ 0 then .error Cause.misalign
  else
    match check s (me s) k a.toNat 16 with
    | .error (c, _) => .error c
    | .ok g =>
      let pa := (g.parts.map Prod.fst).headD 0
      match spadOf pa with
      | none => .error Cause.access
      | some (c, b) => if here && (c != s.team.core || b != s.team.bank) then .error Cause.access else .ok pa

/-- Run a body with an object's place, or trap with TRAPV the object's address, unless `first` has what comes before. -/
def withObjectOr (s : State) (a : DWord) (k : Kind) (here : Bool) (first : State → State) (body : State → Nat → State) :
    State :=
  match checkObject s a k here with
  | .error c => first (trapCheck s c a.toNat (active s))
  | .ok pa => body (touch s (me s) a.toNat 16) pa

/-- The same with nothing before it. -/
def withObject (s : State) (a : DWord) (k : Kind) (here : Bool) (body : State → Nat → State) : State :=
  withObjectOr s a k here id body

/-! ## Arms (R194, R210, R211) -/

/-- The die whose units hold an arm of a watched address (R198). -/
def armDie (pa : Nat) : Nat := paHome pa

/-- The slice of a line's home. -/
def sliceOf (line : Nat) : Nat := Config.l2Slice line % Config.l2Slices

/-- The unit that executes atomics at a place (R198): a core's scratchpad path for a window address, the atomic unit
of the core that holds the bank, or the home slice. -/
def armUnit (va pa : Nat) : Nat :=
  match spadOf pa with
  | some (c, _) => Config.l2Slices + 2 * c + (if Config.window ≤ va then 1 else 0)
  | none => sliceOf (lineOf pa)

/-- The units of a die's CARM arms, one for each arm. -/
def armUnits (s : State) (die : Nat) : List Nat :=
  (getDie s die).arms.filterMap (fun a => match a.cond with | .word _ _ => some (armUnit a.va.toNat a.addr) | _ => none)

/-- The arming unit and the overflow area are both full (R211). An arm beyond a unit's capacity returns to it as soon as the
unit has room (log 97). -/
def armFull (s : State) (va pa : Nat) : Bool :=
  let us := armUnits s (armDie pa)
  let own := (us.filter (fun u => u == armUnit va pa)).length
  let spill := us.eraseDups.foldl (fun n u => n + ((us.filter (fun x => x == u)).length - 2048)) 0
  decide (2048 ≤ own) && decide (65536 ≤ spill)

def addArm (s : State) (die : Nat) (a : Arm) : State :=
  let d := getDie s die
  setDie s die { d with arms := d.arms ++ [a] }

def removeArm (s : State) (die id : Nat) : State :=
  let d := getDie s die
  setDie s die { d with arms := d.arms.filter (fun a => a.id != id) }

/-- The arrival of R194 on an arm's object, which ends the arm. -/
def armArrive (s : State) (die : Nat) (a : Arm) : State :=
  let b := getBar s a.object
  let b := ({ b with armed := false, armk := 0 } : Bar)
  setBar (removeArm s die a.id) a.object b.arrive.complete

/-- Width of the watched word. -/
def condBytes (c : Nat) : Nat := if c = 4 ∨ c = 5 then 4 else 8

/-- CARM's condition on the word's value (R210). -/
def condHolds (c : Nat) (w x : Nat) : Bool :=
  match c with
  | 0 => decide (x % 2 ^ 64 ≤ w)
  | 1 => decide ((BitVec.ofNat 64 x).toInt ≤ (BitVec.ofNat 64 w).toInt)
  | 2 => w == x % 2 ^ 64
  | 3 => w != x % 2 ^ 64
  | 4 => w == x % 2 ^ 32
  | _ => w != x % 2 ^ 32

/-- The fault of an arm whose evaluation reads poison (R216). -/
def armPoison (a : Arm) : DFault :=
  ⟨a.id, Cause.poison, a.pc, a.va, some a.mask, .arm, [], a.spl, none, none⟩

/-- An arm whose evaluation reads poison ends without an arrival; the arming group consumes the error, and its object
keeps ARMED (R216). -/
def armDies (s : State) (die : Nat) (a : Arm) : State :=
  consume (removeArm s die a.id) (coreModule a.core) a.vi a.tag a.team a.grp (armPoison a)

/-- The arrival of an arm whose condition holds, unless the place of that condition is poisoned. -/
def armMet (s : State) (die : Nat) (n : Nat) (a : Arm) : State :=
  if poisoned s a.addr n then armDies s die a else armArrive s die a

/-- Evaluate one arm on a word (R211); `all` says that a terminal TLSIG wrote (R208). -/
def evalArm (s : State) (die : Nat) (all : Bool) (a : Arm) : State :=
  match a.cond with
  | .word c x =>
    if poisoned s a.addr (condBytes c) then armDies s die a
    else if all || condHolds c (rdNat s a.addr (condBytes c)) x.toNat then armArrive s die a
    else s
  | _ => s

/-- The watched bytes of an arm meet one of the pieces written. -/
def armMeets (ps : List (Nat × Nat)) (a : Arm) : Bool :=
  match a.cond with
  | .word c _ => ps.any (fun p => decide (a.addr < p.1 + p.2) && decide (p.1 < a.addr + condBytes c))
  | _ => false

/-- Evaluate every arm that watches bytes just written. -/
def evalArms (s : State) (ps : List (Nat × Nat)) (all : Bool) : State :=
  s.dies.foldl (fun s e => (e.2.arms.filter (armMeets ps)).foldl (fun s a => evalArm s e.1 all a) s) s

/-- Write a value to scratchpad: windows that track its rows roll back, and waiting BWAITs and arms evaluate again. -/
def writeSpad (s : State) (pa n v : Nat) : State :=
  let s1 := (linesOf [(pa, n)]).foldl rowWritten s
  evalArms (wakeWaits (wrNat s1 pa n v) [(pa, n)]) [(pa, n)] false

/-! ## Requests to other modules (R301, R304) -/

/-- The deduplication window of a pair of modules. -/
def dedupOf (s : State) (src tgt : Nat) : Dedup :=
  match s.dedups.find? (fun d => d.src == src && d.tgt == tgt) with
  | some d => d
  | none => ⟨src, tgt, 0, 0, []⟩

def setDedup (s : State) (d : Dedup) : State :=
  { s with dedups := d :: s.dedups.filter (fun x => !(x.src == d.src && x.tgt == d.tgt)) }

/-- A request bears a sequence number. -/
def numbered (k : ReqKind) : Bool :=
  match k with
  | .read _ _ => false
  | .event _ (.subscribe _ _) => false
  | .event _ (.notify _ _ _) => false
  | _ => true

/-- A logical plane's entry of FPMAP. -/
def fpEntry (s : State) (module plane : Nat) : Nat := bitsOf (getModule s module).fpmap (8 * plane) 8

/-- The plane holds new requests at their source (R302). -/
def quiesced (s : State) (module plane : Nat) : Bool := fpEntry s module plane / 128 == 1

/-- Numbered requests to a target that are outstanding. -/
def outstanding (s : State) (src tgt : Nat) : Nat :=
  (s.reqs.filter (fun r => r.src == src && r.tgt == tgt && numbered r.kind && !r.acked && !r.abandoned)).length

/-- Pieces touch a line. -/
def meetsLine (ps : List (Nat × Nat)) (line : Nat) : Bool :=
  ps.any (fun p => decide (p.1 / 128 ≤ line) && decide (line * 128 < p.1 + p.2))

/-- Make a request that is not performed before the accesses of a list. It waits at its source while its plane is
quiesced or 16,384 are outstanding. A write that a die must order among its own is a request of a module to itself. -/
def requestAfter (s : State) (die : Nat) (pa : Nat) (k : ReqKind) (flight : Option Nat) (va pc : DWord)
    (who : Option (Nat × Nat × Nat)) (after : List Nat) : State :=
  let src := dieModule die
  let tgt := paModule pa
  let plane := pa / 128 % 8
  let d := dedupOf s src tgt
  let go := src == tgt || (!quiesced s src plane && (!numbered k || decide (outstanding s src tgt < 16384)))
  let f := match flight with | some i => s.flights.find? (fun (x : Flight) => x.id == i) | none => none
  let mask := match f with
    | some f => maskOf (fun n => f.lanes.any (fun l => l.lane == n && meetsLine l.parts (pa / 128)))
    | none => if s.live && who == some (s.team.id, s.group.num, s.split.num) then active s else 0
  let rise := match f with | some f => f.rise | none => 0
  let vi := match who, f with
    | some w, _ => (findTeam s w.1).map Team.vi
    | none, f => f.map Flight.vi
  let s1 := if numbered k then setDedup s { d with next := d.next + 1 } else s
  { s1 with
    fresh := s1.fresh + 1
    reqs := s1.reqs ++ [⟨s1.fresh, die, src, tgt, d.next, pa / 128, plane, k, flight, va, pc, who, mask, rise, after,
      vi, [], none, go, false, false, false⟩] }

/-- Make a request. -/
def newRequest (s : State) (die : Nat) (pa : Nat) (k : ReqKind) (flight : Option Nat) (va pc : DWord)
    (who : Option (Nat × Nat × Nat)) : State := requestAfter s die pa k flight va pc who []

/-! ## Events (R279 to R282) -/

/-- An event entry. -/
structure Ev where
  domain : BitVec 16
  waith : BitVec 16
  oseq : Word
  count : Word
  thresh : BitVec 16
  pois : Bool
  deriving DecidableEq, Repr

/-- The layout of R280. -/
def Ev.unpack (x : BitVec 128) : Ev :=
  ⟨x.extractLsb' 112 16, x.extractLsb' 96 16, x.extractLsb' 64 32, x.extractLsb' 32 32, x.extractLsb' 16 16, x.getLsbD 0⟩

def Ev.pack (e : Ev) : BitVec 128 :=
  e.domain ++ e.waith ++ e.oseq ++ e.count ++ e.thresh ++ (0 : BitVec 15) ++ BitVec.ofBool e.pois

def getEv (s : State) (name : Word) : Ev := Ev.unpack (BitVec.ofNat 128 (rdNat s (eventAddr name.toNat) 16))

def setEv (s : State) (name : Word) (e : Ev) : State := wrNat s (eventAddr name.toNat) 16 e.pack.toNat

/-- Satisfied(e, q) of R281. -/
def Ev.satisfied (e : Ev) (q : Word) : Bool :=
  let d := (e.oseq - q).toNat
  (decide (1 ≤ d) && decide (d < 2 ^ 31)) || (d == 0 && decide (e.thresh.toNat ≤ e.count.toNat))

/-- Reset(e, q, n) of R281. -/
def Ev.restart (e : Ev) (q : Word) (n : BitVec 16) : Ev := { e with oseq := q, count := 0, thresh := n, pois := false }

/-- A contribution, saturating (R280). -/
def Ev.contribute (e : Ev) (n : Nat) : Ev := { e with count := BitVec.ofNat 32 (min (e.count.toNat + n) (2 ^ 32 - 1)) }

/-- The parts of a name (R279). -/
def evModule (name : Word) : Nat := name.toNat / 2 ^ 22
def evDie (name : Word) : Nat := name.toNat / 2 ^ 18
def evIndex (name : Word) : Nat := name.toNat % 2 ^ 18

/-- A name plus an offset; none on a carry out of the index. -/
def evPlus (name : Word) (n : Nat) : Option Word :=
  if evIndex name + n < 2 ^ 18 then some (name + BitVec.ofNat 32 n) else none

/-- A VI may name the event: its module is in the group and its entry bears the VI's domain (R280). -/
def evAllowed (s : State) (module vi : Nat) (name : Word) : Bool :=
  inGroup s module (evModule name) && (getEv s name).domain.toNat == domainOf s module vi &&
    domainOf s module vi != 0

/-- Add an event message. -/
def addMsg (s : State) (name : Word) (vi : Nat) (k : MsgKind) (after : List Nat)
    (who : Option (Nat × Nat × Nat)) (pc : DWord) : Nat × State :=
  (s.fresh, { s with fresh := s.fresh + 1, msgs := s.msgs ++ [⟨s.fresh, name, vi, k, after, who, pc⟩] })

/-- The waiter chain's head follows the pool (R282); the oldest record of a name comes first (log 15). -/
def chainHead (s : State) (name : Word) : State :=
  let ws := (getDie s (evDie name)).waiters.filter (fun w => w.name == name)
  let h : BitVec 16 := match ws.head? with | none => 0xFFFF | some w => BitVec.ofNat 16 w.num
  setEv s name { getEv s name with waith := h }

/-- Free the waiter records of an arm that is cancelled (09_atomics.md R210). -/
def dropWaiters (s : State) (die id : Nat) : State :=
  let d := getDie s die
  let names := (d.waiters.filter (fun w => w.arm == some id)).map Waiter.name
  names.foldl chainHead (setDie s die { d with waiters := d.waiters.filter (fun w => w.arm != some id) })

/-- A notification write to a die: within the module, or by a request to another. -/
def sendNotify (s : State) (name q : Word) (col vi : Nat) (pois : Bool) : State :=
  if col / 16 = evModule name then (addMsg s name vi (.notify q col pois) [] none 0).2
  else newRequest s (evDie name) (col * 2 ^ 38) (.event name (.notify q col pois)) none (name.setWidth 64) 0 none

/-- Complete one waiter: a notification to the subscribing die, or the arrival of a local arm. -/
def completeWaiter (s : State) (die : Nat) (pois : Bool) (w : Waiter) : State :=
  let d := getDie s die
  let s := setDie s die { d with waiters := d.waiters.filter (fun x => x.num != w.num) }
  match w.col, w.arm with
  | some c, _ => sendNotify s w.name w.q c 0 pois
  | none, some id =>
    match (getDie s die).arms.find? (fun a => a.id == id) with
    | some a => armMet s die 16 a
    | none => s
  | none, none => s

/-- The waiter stands for an arm. -/
def watched (s : State) (w : Waiter) : Bool :=
  match w.col with
  | none => w.arm.isSome
  | some c => (getDie s c).arms.any (fun a => a.cond == .event w.name w.q)

/-- The sequences for which jobs of a Col wait on an event of its own die. They hold no subscription: the Col looks at its own
table (R282; 20_programs_system.md R412). -/
def ownWaits (s : State) (name : Word) : List Word :=
  ((getDie s (evDie name)).jobs.flatMap (fun j =>
    if j.stage = .waiting then (j.inputs.filter (fun i => i.1 == name && !j.done.contains i)).map Prod.snd else [])).eraseDups

/-- Tell a Col of an event of its own die, once. -/
def tellOwn (s : State) (name q : Word) (pois : Bool) : State :=
  let k : MsgKind := .notify q (evDie name) pois
  if s.msgs.any (fun m => m.name == name && m.kind == k) then s else (addMsg s name 0 k [] none 0).2

/-- Tell a die's own Col of an entry that has come to satisfy what its jobs wait for. -/
def tellCol (s : State) (name : Word) (e : Ev) : State :=
  ((ownWaits s name).filter (fun q => e.satisfied q || e.pois)).foldl (fun s q => tellOwn s name q e.pois) s

/-- Write an entry and complete every waiter whose condition holds (R282), and every arm when the entry's granule is
poisoned (R216). -/
def updEvent (s : State) (name : Word) (e : Ev) : State :=
  let s := tellCol (setEv s name e) name e
  let die := evDie name
  let lost := poisoned s (eventAddr name.toNat) 16
  let ws := (getDie s die).waiters.filter (fun w => w.name == name && (e.satisfied w.q || e.pois || (lost && watched s w)))
  chainHead (ws.foldl (fun s w => completeWaiter s die e.pois w) s) name

/-- The lowest free record of a die's waiter pool; none when the pool is full. -/
def freeWaiter (s : State) (die : Nat) : Option Nat :=
  let ws := (getDie s die).waiters
  if 65535 ≤ ws.length then none
  else (List.range (ws.length + 1)).find? (fun n => !ws.any (fun w => w.num == n))

/-- Chain a waiter; nothing when the pool is full (callers look first). -/
def addWaiter (s : State) (name q : Word) (col arm : Option Nat) : State :=
  let die := evDie name
  match freeWaiter s die with
  | none => s
  | some n =>
    let d := getDie s die
    chainHead (setDie s die { d with waiters := d.waiters ++ [⟨n, name, q, col, arm⟩] }) name

/-! ## Requests about events -/

/-- The requests made since a state are for a VI. -/
def forVi (s0 : State) (vi : Nat) (s : State) : State :=
  { s with reqs := s.reqs.map (fun r => if s0.fresh ≤ r.id then { r with vi := some vi } else r) }

/-- An operation on an event: a message within the module, a request to another module. -/
def sendEvent (s : State) (module vi : Nat) (name : Word) (k : MsgKind) (after : List Nat)
    (who : Option (Nat × Nat × Nat)) (pc : DWord) : State :=
  if evModule name = module then (addMsg s name vi k after who pc).2
  else forVi s vi (requestAfter s (module * 16) (eventAddr name.toNat) (.event name k) none (name.setWidth 64) pc who after)

/-- The stores that a team's accesses made or read and that may not be performed everywhere yet (08_ordering.md R179). -/
def teamTrail (t : Team) : List Nat := t.trail ++ t.groups.flatMap (fun g => g.splits.flatMap Split.trail)

/-- Every access of a team that is still to be performed: its flights, its requests, and the stores that they read. -/
def teamAccesses (s : State) (tid : Nat) : List Nat :=
  ((findTeam s tid).map teamTrail).getD [] ++
  (s.flights.filter (fun f => f.team == tid)).map Flight.id ++
    (s.reqs.filter (fun r => !r.performed && !r.abandoned &&
      (match r.who with | some w => w.1 == tid | none => false))).map Request.id

/-- POIS of an event is set (R277, R296, R318, R332). -/
def poisonName (s : State) (module vi : Nat) (name : Word) : State := sendEvent s module vi name .poison [] none 0

/-- POIS of a completion event is set (R294); name 0 names none. -/
def poisonEvent (s : State) (module vi : Nat) (name : Word) : State :=
  if name = 0 then s else poisonName s module vi name

/-- One contribution to a completion event (R294); name 0 names none. -/
def countEvent (s : State) (module vi : Nat) (name : Word) (after : List Nat) : State :=
  if name = 0 then s else sendEvent s module vi name (.add 1) after none 0

end Sys2Proof.Machine
end

