-- ==== Sys2Proof/Machine/Digest.lean ====
section
/-! DEFINITION. Job digests (15_checking.md R355 to R357). -/

namespace Sys2Proof.Machine

/-! ## Digests -/

/-- Mix64 of R355. -/
def mix64 (x : DWord) : DWord :=
  let x := (x ^^^ (x >>> 30)) * 0xBF58476D1CE4E5B9
  let x := (x ^^^ (x >>> 27)) * 0x94D049BB133111EB
  x ^^^ (x >>> 31)

def storeC (va : Nat) (b : Byte) : DWord := mix64 (mix64 (BitVec.ofNat 64 va) ^^^ b.setWidth 64)
def nibC (va h x : Nat) : DWord := mix64 (mix64 (BitVec.ofNat 64 va) ^^^ BitVec.ofNat 64 (0x200 + 16 * h + x))
def digsC (p q : Word) : DWord := mix64 (mix64 (q ++ p) ^^^ 0x100)

/-- The entry of R357. -/
structure Digest where
  skip : Bool
  void : Bool
  isOpen : Bool
  lastseq : Word
  lastd : DWord
  ncon : Word
  curseq : Word
  curd : DWord
  deriving DecidableEq, Repr

def Digest.unpack (x : Nat) : Digest where
  skip := x / 2 ^ 226 % 2 == 1
  void := x / 2 ^ 225 % 2 == 1
  isOpen := x / 2 ^ 224 % 2 == 1
  lastseq := BitVec.ofNat 32 (x / 2 ^ 192)
  lastd := BitVec.ofNat 64 (x / 2 ^ 128)
  ncon := BitVec.ofNat 32 (x / 2 ^ 96)
  curseq := BitVec.ofNat 32 (x / 2 ^ 64)
  curd := BitVec.ofNat 64 x

def Digest.pack (d : Digest) : Nat :=
  d.curd.toNat + d.curseq.toNat * 2 ^ 64 + d.ncon.toNat * 2 ^ 96 + d.lastd.toNat * 2 ^ 128 +
    d.lastseq.toNat * 2 ^ 192 + d.isOpen.toNat * 2 ^ 224 + d.void.toNat * 2 ^ 225 + d.skip.toNat * 2 ^ 226

/-- The digest entry of a team's slot. -/
def teamDigest (s : State) (core bank slot : Nat) : Digest := Digest.unpack (rdNat s (digestAddr core bank slot) 32)

def putDigest (s : State) (core bank slot : Nat) (d : Digest) : State := wrNat s (digestAddr core bank slot) 32 d.pack

/-- Add contributions to the open digest of a team's slot; without one nothing happens. -/
def contribute (s : State) (core bank slot : Nat) (cs : List DWord) : State :=
  let d := teamDigest s core bank slot
  if !d.isOpen || cs.isEmpty then s
  else putDigest s core bank slot
    { d with
      curd := cs.foldl (fun a c => a + c) d.curd
      ncon := BitVec.ofNat 32 (min (d.ncon.toNat + cs.length) (2 ^ 32 - 1)) }

/-- A digest opens when MBXGET takes a job. -/
def openDigest (s : State) (core bank slot : Nat) (seq : Word) : State :=
  putDigest s core bank slot
    { teamDigest s core bank slot with skip := false, void := false, isOpen := true, curd := 0, curseq := seq, ncon := 0 }

/-- It closes at JOBDONE. -/
def closeDigest (s : State) (core bank slot : Nat) : State :=
  let d := teamDigest s core bank slot
  putDigest s core bank slot
    { d with isOpen := false, lastseq := d.curseq, lastd := d.curd, curd := 0, curseq := 0, ncon := 0, skip := false, void := false }

/-- It is void once an image is written while the job is held (R360). -/
def voidDigest (s : State) (core bank slot : Nat) : State :=
  let d := teamDigest s core bank slot
  if d.isOpen then putDigest s core bank slot { d with void := true } else s

end Sys2Proof.Machine
end

