-- ==== Sys2Proof/Machine/Teams.lean ====
section
/-! DEFINITION. How splits merge, and how splits, groups and teams end (06_control.md R141 to R143; 10_matrix.md
R245; 11_copy.md R264; 12_work.md R294, R296). -/

namespace Sys2Proof.Machine

/-! ## JOIN merges (R141, R177) -/

/-- The half of a C16 group that a split holds; one half outside C16 (R141, R148). -/
def halfOf (sp : Split) : Nat := if mC16 sp.mode && (sp.mask.toNat % 65536 == 0) then 1 else 0

/-- Address and arrival sequence of a parked split. -/
def parkAddr (sp : Split) : Nat := match sp.parked with | some (a, _) => a.toNat | none => 0
def parkSeq (sp : Split) : Nat := match sp.parked with | some (_, n) => n | none => 0

/-- Parked splits of one address and half merge. -/
def sameJoin (a b : Split) : Bool := parkAddr a == parkAddr b && halfOf a == halfOf b

/-- The first and the last arrival of a class. -/
def firstArrival (d : Split) (cl : List Split) : Split := cl.foldl (fun a b => if parkSeq b < parkSeq a then b else a) d
def lastArrival (d : Split) (cl : List Split) : Split := cl.foldl (fun a b => if parkSeq a < parkSeq b then b else a) d

/-- The split that a class merges into; `arrived` is the number of the split whose JOIN completed the
condition, `ids` the accesses in flight that every later access follows (R177). -/
def mergeClass (tick : Nat) (arrived : Option Nat) (ids : List Nat) (sp : Split) (cl : List Split) : Split :=
  let f := firstArrival sp cl
  let l := lastArrival sp cl
  let here := arrived == some l.num
  { f with
    num := cl.foldl (fun n x => min n x.num) sp.num
    pc := BitVec.ofNat 64 (parkAddr sp) + 4
    mask := cl.foldl (fun m x => m ||| x.mask) 0
    rcvaValid := false
    stack := []
    spilled := 0
    parked := none
    windows := cl.flatMap Split.windows
    order := ids ++ cl.flatMap Split.order
    trail := cl.flatMap Split.trail
    wait := none
    active := here && l.active
    entered := l.entered
    woke := tick
    entries := 0
    issued := here && l.issued }

/-- The classes of a list of parked splits, each with its members. -/
def joinClasses : Nat → List Split → List (List Split)
  | 0, _ => []
  | _ + 1, [] => []
  | n + 1, sp :: r =>
    (sp :: r.filter (sameJoin sp)) :: joinClasses n (r.filter (fun x => !sameJoin sp x))

/-- Accesses in flight of some splits of a group. -/
def flightsOf (s : State) (tid gn : Nat) (sps : List Nat) : List Nat :=
  (s.flights.filter (fun f => f.team == tid && f.grp == gn && sps.contains f.spl)).map Flight.id

/-- Flights and faults of merged splits belong to the merged split. -/
def renumber (cls : List (List Split)) (n : Nat) : Nat :=
  match cls.find? (fun cl => cl.any (fun x => x.num == n)) with
  | some cl => cl.foldl (fun m x => min m x.num) n
  | none => n

/-- R141 on a group: when no split runs, the parked ones merge. Answers the group and the classes merged. -/
def mergeParked (s : State) (tid : Nat) (arrived : Option Nat) (g : Group) : Group × List (List Split) :=
  if g.splits.all (fun x => x.parked.isSome) then
    let cls := joinClasses g.splits.length g.splits
    let mk := fun (cl : List Split) =>
      match cl with
      | [] => []
      | sp :: _ => [mergeClass s.tick arrived (flightsOf s tid g.num (cl.map Split.num)) sp cl]
    ({ g with
        splits := (cls.flatMap mk).foldl (fun l x => putSplit x l) []
        faults := g.faults.map (fun f => { f with spl := renumber cls f.spl }) }, cls)
  else (g, [])

/-- Rename the merged splits in what is in flight, in the requests made for it, and in the slot's owner. -/
def renameMerged (s : State) (tid gn : Nat) (cls : List (List Split)) : State :=
  let s := { s with
    flights := s.flights.map (fun f =>
      if f.team = tid ∧ f.grp = gn then { f with spl := renumber cls f.spl } else f)
    reqs := s.reqs.map (fun r =>
      match r.who with
      | some (t, g, n) => if t = tid ∧ g = gn then { r with who := some (t, g, renumber cls n) } else r
      | none => r) }
  mapTeams s (fun t => if t.id = tid then
    { t with mslot := t.mslot.map (fun m =>
        match m.owner with
        | some (g, n) => if g = gn then { m with owner := some (g, renumber cls n) } else m
        | none => m) } else t)

/-- Put a group of the executing team back, with no split in focus. -/
def regroup (s : State) (g : Group) : State :=
  { s with
    live := false
    split := Split.fresh
    group := Group.fresh
    team := Team.fresh
    teams := putTeam { s.team with groups := putGroup g s.team.groups } s.teams }

/-! ## Jobs held by a team that ends (R296) -/

/-- Drop the record of a job from its Col. -/
def dropRecord (s : State) (die : Nat) (seq : Word) : State :=
  let d := getDie s die
  setDie s die { d with jobs := d.jobs.filter (fun j => !(djSeq j.desc == seq && j.cup.isNone)) }

/-- POIS on the events of a job (R277, R296, R332). -/
def poisonJob (s : State) (module vi : Nat) (d : BitVec 512) : State :=
  let s := poisonName s module vi (djOutev d)
  if djKind d = 0 then s else poisonName s module vi (djFxev d)

/-- Drop a held job and poison its events; a Cupping re-run raises none (15_checking.md R362). -/
def dropHeld (s : State) (module vi : Nat) (h : HeldJob) : State :=
  if h.rerun.isSome then s else poisonJob (dropRecord s h.colDie h.seq) module vi h.desc

/-- Free the mailbox entries bound to a team; a free entry reads zero (R283). -/
def freeMail (s : State) (core tid : Nat) : State :=
  let c := getCore s core
  let s1 := (c.mailbox.filter (fun e => e.2 == tid)).foldl (fun s e => wrNat s (mailAddr core e.1) 64 0) s
  setCore s1 core { c with mailbox := c.mailbox.filter (fun e => e.2 != tid) }

/-- JOB_ABANDONED (R296, 16_frontend.md R378). -/
def reportAbandoned (s : State) (module vi : Nat) (h : HeldJob) : State :=
  report s module .owner (mkReport 0x10 vi (h.seq.setWidth 64)
    (BitVec.ofNat 64 ((djOpseq h.desc).toNat + djStream h.desc * 2 ^ 32)))

/-- A team that ends while it holds a job: the job is dropped, its events are poisoned, and firmware is told (R296). -/
def abandonJob (s : State) (t : Team) : State :=
  match t.job with
  | none => s
  | some h =>
    if h.rerun.isSome then s
    else reportAbandoned (dropHeld (freeMail s t.core t.id) (coreModule t.core) t.vi h) (coreModule t.core) t.vi h

/-! ## The end of a team -/

/-- The slot is idle: a slot that holds ends (R244). -/
def idleSlot (m : MSlot) : MSlot := { m with mstat := putBits (putBits m.mstat 0 2 0) 6 1 0, fault := none, purge := none }

/-- The team's slot still runs its stream. -/
def slotRuns (t : Team) : Bool :=
  match t.mslot with
  | none => false
  | some m => bitsOf m.mstat 0 2 == 1 && bitsOf m.mstat 6 1 == 0

/-- MSTREAM_ORPHAN (R245). -/
def reportOrphan (s : State) (t : Team) (m : MSlot) (f : TrapInfo) : State :=
  report s (coreModule t.core) .owner
    ⟨0x19, 0, t.vi, f.defpc, BitVec.ofNat 64 (bitsOf m.mstat 7 3 + t.teamix * 2 ^ 32),
      some (f.value.setWidth 256), 0xFFFFFFFF⟩

/-- A fault of the slot of a team without groups goes to firmware, or its poison is purged at once. -/
def orphanFault (s : State) (t : Team) (m : MSlot) (f : TrapInfo) : State :=
  match m.purge with
  | some tag => startPurge s (coreModule t.core) t.vi tag (some f.value) []
  | none => reportOrphan s t m f

/-- Operations still to land in the team's own scratchpad. -/
def landing (s : State) (tid : Nat) : Bool := s.flights.any (fun f => f.team == tid && f.home)

/-- A purge in progress ends the team (14_system.md R332). -/
def purging (s : State) (t : Team) : Bool :=
  s.purges.any (fun p => p.module == coreModule t.core && p.vi == t.vi && p.tag == t.rtag.toNat)

/-- The tags whose purge a team still owes, with the poisoned address where no trap told it: errors that its splits took,
and errors in faults that were never delivered (14_system.md R332, R333). -/
def owedTags (t : Team) : List (Nat × Option DWord) :=
  t.ptags.map (fun g => (g, none)) ++
    (t.groups.flatMap Group.faults).filterMap (fun f => f.purge.map (fun g => (g, some f.value))) ++
    (match t.mslot with
     | some m => (match m.purge with | some g => [(g, m.fault.map (fun f => f.2.value))] | none => [])
     | none => [])

/-- Begin those purges. -/
def payTags (s : State) (t : Team) : State :=
  (owedTags t).foldl (fun s e => startPurge s (coreModule t.core) t.vi e.1 e.2 []) s

/-- A split whose trap waited for the purge of a tag waits for none. -/
def settleSplitTag (tag : Nat) (x : Split) : Split :=
  if x.ptag = some tag then { x with ptag := none, tstat := putBits x.tstat 4 1 0 } else x

/-- A purge of a tag is performed: no team and no split owes it any more (R332: it is performed once). -/
def settleTags (s : State) (module vi tag : Nat) : State :=
  mapTeams s (fun t =>
    if coreModule t.core = module ∧ t.vi = vi then
      { t with
        ptags := t.ptags.filter (fun g => g != tag)
        groups := t.groups.map (fun g =>
          { g with
            faults := g.faults.map (fun f => if f.purge = some tag then { f with purge := none } else f)
            splits := g.splits.map (settleSplitTag tag) })
        mslot := t.mslot.map (fun m => if m.purge = some tag then { m with purge := none } else m) }
    else t)

/-- A tile operation that writes global memory, which goes on when its team ends (R264). -/
def writesGlobal (i : Instr) : Bool :=
  match i with
  | .tsto _ _ _ _ _ _ => true
  | .tred _ _ _ _ _ _ => true
  | .tsct _ _ _ _ _ => true
  | _ => false

/-- The bytes of an image of `n` bytes, none for one that an error has taken. -/
def frozenImage (s : State) (pa n : Nat) : List (Option Byte) :=
  (List.range n).map (fun i => if poisoned s (pa + i) 1 then none else some (rdByte s (pa + i)))

/-- Such an operation keeps its image when its team's scratchpad is released, and counts into nothing of the team's: its
scalars 2 to 4 are the place and size of the scratchpad and the image's offset, 7 its flags, and 11 its image's size
(log 82). -/
def freeze (s : State) (f : Flight) : Flight :=
  let n := fun (k : Nat) => (f.scal.getD k 0).toNat
  if f.kind == .tile && writesGlobal f.instr && f.frozen.isEmpty then
    { f with
      frozen := frozenImage s (n 2 + n 4) (n 11)
      scal := (f.scal.set 3 0).set 7 (putBits (f.scal.getD 7 0) 2 2 0) }
  else f

/-- Freeze what a team leaves in flight. -/
def freezeTeam (s : State) (tid : Nat) : State :=
  { s with flights := s.flights.map (fun f => if f.team = tid then freeze s f else f) }

/-- A team without groups ends once its slot is idle and nothing is to land in its scratchpad (R143, R245,
R264). A team that ended through its last EXIT adds 1 to its completion event (R294). -/
def finishTeam (s : State) (tid : Nat) : State :=
  match findTeam s tid with
  | none => s
  | some t =>
    if !t.groups.isEmpty || slotRuns t || landing s tid || purging s t then s
    else
      let m := coreModule t.core
      let after := teamAccesses s tid
      let s := freezeTeam s tid
      let s := { s with
        teams := s.teams.filter (fun x => x.id != tid)
        woken := s.woken.filter (fun w => w.1 != tid) }
      let s := if t.clean then countEvent s m t.vi t.cev after else s
      payTags (abandonJob s t) t

/-- The digest entry of a team that ends no longer stands open. -/
def shutDigest (s : State) (t : Team) : State :=
  let d := teamDigest s t.core t.bank t.slot
  if d.isOpen then putDigest s t.core t.bank t.slot { d with isOpen := false, curd := 0, curseq := 0, ncon := 0 } else s

/-- The last group of a team has ended: a held job is abandoned, a slot that holds becomes idle, and the team
is exit-pending until it can end. -/
def lastGroupEnds (s : State) (tid : Nat) : State :=
  match s.teams.find? (fun t => t.id == tid) with
  | none => s
  | some t =>
    let s := abandonJob s t
    let s := shutDigest (freeMail s t.core tid) t
    let s := match t.mslot with
      | none => s
      | some sl => match sl.fault with | some (_, f) => orphanFault s t sl f | none => s
    let t' := { t with
      job := none
      clean := true
      exitPending := true
      mslot := t.mslot.map (fun sl => if slotRuns t then sl else idleSlot sl) }
    finishTeam { s with teams := putTeam t' s.teams } tid

/-- Faults that waited in a group for another group's waiters when that group ends: they go to the team's first
group, or, when none is left, to firmware where they carry a record (R263, R264). -/
def orphanFaults (t : Team) (fs : List DFault) : Team :=
  match t.groups with
  | [] => t
  | g :: r => { t with groups := { g with faults := g.faults ++ fs } :: r }

/-- COPY_ORPHAN for the faults of a team's tile operations that write global memory. -/
def reportOrphans (s : State) (t : Team) (fs : List DFault) : State :=
  fs.foldl (fun s f =>
    match f.record with
    | some (r, _) =>
      if f.cause = Cause.deferredCopy ∧ ([0xC3, 0xC4, 0xC5] : List Nat).contains (r.extractLsb' 24 8).toNat then
        report s (coreModule t.core) .owner ⟨0x1A, 0, t.vi, (r.extractLsb' 128 32).setWidth 64, 0, some r, 0xFFFFFFFF⟩
      else s
    | none => s) s

/-- A group without splits leaves its team; the slot's owner becomes split 0 of the lowest group left (R245). -/
def groupEnds (s : State) (g : Group) : State :=
  let t := s.team
  let own := fun (m : MSlot) =>
    match m.owner with
    | some (gn, _) => if gn = g.num then { m with owner := (t.groups.head?).map (fun x => (x.num, 0)) } else m
    | none => m
  let fs := g.faults.filter (fun f => f.spl == orphanSpl)
  let s := { s with
    live := false
    split := Split.fresh
    group := Group.fresh
    team := Team.fresh
    teams := putTeam { orphanFaults t fs with mslot := t.mslot.map own } s.teams }
  if t.groups.isEmpty then lastGroupEnds (reportOrphans s t fs) t.id else s

/-- The executing split ends: what it leaves in flight and its faults bear no split's number any more, a later split may
take its own, and a fault of the matrix slot goes to another split of the group. -/
def leaveSplit (s : State) (g : Group) : State × Group :=
  let mine := fun (t gn n : Nat) => t == s.team.id && gn == g.num && n == s.split.num
  ({ s with
      flights := s.flights.map (fun f => if mine f.team f.grp f.spl then { f with spl := endedSpl } else f)
      reqs := s.reqs.map (fun r => match r.who with
        | some (t, gn, n) => if mine t gn n then { r with who := some (t, gn, endedSpl) } else r
        | none => r)
      team := { s.team with trail := (s.team.trail ++ s.split.trail).eraseDups.filter (fun i => !performedAt s 5 i) } },
    { g with faults := g.faults.map (fun f =>
        if f.spl != s.split.num then f
        else { f with spl := if f.at_ == .slot then ((g.splits.map Split.num).head?).getD endedSpl else endedSpl }) })

/-- The executing split ends; `g` is its group without it. R141 is evaluated. -/
def splitEnds (s : State) (g : Group) : State :=
  let (s, g) := leaveSplit s g
  let (g1, cls) := mergeParked s s.team.id none g
  if g1.splits.isEmpty then groupEnds s g1
  else renameMerged (regroup s g1) s.team.id g.num cls

/-- Change every die that has any state. -/
def mapDies (s : State) (f : DieSt → DieSt) : State := s.dies.foldl (fun s e => setDie s e.1 (f (getDie s e.1))) s

/-- End a team at once (R294: POIS on its completion event). `dropJob` says that the job it holds is dropped
(R332) and not replayed (R349). It stays, without groups, while something is to land in its scratchpad; an owner whose checks
are to come and a JOBDONE end with its splits. -/
def forceEnd (s : State) (tid : Nat) (dropJob : Bool) : State :=
  let s := close s
  match s.teams.find? (fun t => t.id == tid) with
  | none => s
  | some t =>
    let m := coreModule t.core
    let s := match t.job with
      | none => s
      | some h => if dropJob then dropHeld s m t.vi h else s
    let s := reportOrphans (shutDigest (freeMail s t.core tid) t) t (t.groups.flatMap Group.faults)
    let s := payTags (poisonEvent s m t.vi t.cev) t
    let s := mapDies s (fun d => { d with arms := d.arms.filter (fun a => a.team != tid) })
    let t' := { t with
      job := none, clean := false, exitPending := true, stopped := false, cev := 0, groups := [], ptags := []
      mslot := t.mslot.map idleSlot }
    finishTeam { s with
      flights := s.flights.filter (fun f => !(f.team == tid && (f.kind == .owner || f.kind == .jobdone)))
      teams := putTeam t' s.teams } tid

/-- The same, keeping the split in focus in focus if it still stands. -/
def endTeam (s : State) (tid : Nat) (dropJob : Bool) : State :=
  let c := forceEnd s tid dropJob
  if s.live then openOn c s.team.id s.group.num s.split.num else c

/-! ## Suspicion and quarantine (15_checking.md R365 to R367) -/

/-- A team holds the job and has taken it. -/
def takenJob (s : State) (j : Job) : Bool :=
  match j.stage with
  | .bound _ tid => (match findTeam s tid with | some t => (t.job.map HeldJob.taken).getD false | none => true)
  | _ => false

/-- Descriptors bound on a core and not taken go back to their Cols (R296); a Cupping run among them is bound no more. -/
def unbindCore (s : State) (core : Nat) : State :=
  let c := getCore s core
  let s1 := c.mailbox.foldl (fun s e => wrNat s (mailAddr core e.1) 64 0) s
  let s2 := setCore s1 core { c with mailbox := [] }
  let s3 := mapTeams s2 (fun t =>
    match t.job with
    | some h => if t.core = core ∧ !h.taken then { t with job := none } else t
    | none => t)
  let back := fun (j : Job) => match j.stage with | .bound k _ => k == core && !takenJob s j | _ => false
  mapDies s3 (fun d =>
    { d with
      jobs := d.jobs.map (fun j => if back j then { j with stage := .ready } else j)
      cups := d.cups.map (fun c => if d.jobs.any (fun j => back j && j.cup == some c.id) then { c with bound := none } else c) })

/-- The VI that a core is allotted to. -/
def coreVi (s : State) (core : Nat) : Option Nat :=
  (s.vis.find? (fun e => e.1 / 64 == coreModule core && e.2.cfg.cores.contains core)).map (fun e => e.1 % 64)

/-- A report about a core goes to the owner of its VI, and to `other` where it is allotted to none. -/
def coreReport (s : State) (core : Nat) (dst other : ReportTo) (r : Nat → Report) : State :=
  match coreVi s core with
  | some vi => report s (coreModule core) dst (r vi)
  | none => report s (coreModule core) other (r 0)

/-- A core's score rises by a weight, and the core is quarantined at 64. -/
def suspect (s : State) (core w : Nat) : State :=
  let c := getCore s core
  let v := min 255 (c.susp.toNat + w)
  let s := setCore s core { c with susp := BitVec.ofNat 8 v }
  if v < 64 ∨ c.quarantined then s
  else
    let s := setCore s core { getCore s core with quarantined := true }
    let s := unbindCore s core
    notice (coreReport s core .owner .firmware
      (fun vi => mkReport 0x0C vi (BitVec.ofNat 64 (core % 1024)) (BitVec.ofNat 64 v))) "CORE_QUARANTINED" [core]

end Sys2Proof.Machine
end

