-- ==== Sys2Proof/Machine/Control.lean ====
section
/-! DEFINITION. Branches, the divergence stack, calls, splits, EXIT, YIELD, WAIT and BKPT (06_control.md R131 to
R146). -/

namespace Sys2Proof.Machine

/-! ## The divergence stack (R134 to R136) -/

/-- Entries of a split's stack. -/
def stackDepth (sp : Split) : Nat := sp.spilled + sp.stack.length

/-- First byte of a group's spill area in its team's scratchpad; none when it would start below byte 0. -/
def spillArea (t : Team) (g : Nat) : Option Nat :=
  if 2048 * (g + 1) ≤ t.spadBytes then some (t.spadBytes - 2048 * (g + 1)) else none

/-- Where slot 0 of a split lies in its group's area, and how deep its stack may grow (the table of R134). -/
def spillPlan (s : State) : Option (Nat × Nat) :=
  match spillArea s.team s.group.num with
  | none => none
  | some a =>
    if mC16 s.split.mode then
      (if s.split.num = 0 then some (a, 64) else if s.split.num = 1 then some (a + 1024, 64) else none)
    else if s.split.num = 0 then some (a, 128) else none

def depthLimit (s : State) : Nat := match spillPlan s with | some (_, n) => n | none => 16

/-- The 16-byte layout of R135. An entry whose RA is "none" and that waits holds RAD 0 (log 75). -/
def packEntry (e : StackEntry) : Nat :=
  let rad : Word := match e.ra with
    | none => 0
    | some r => if e.park then 0 else BitVec.ofInt 32 ((r.toInt - e.wpc.toInt) / 4)
  (if e.park then 1 else 0) + (if e.ra.isNone then 2 else 0) + e.wpc.toNat % 2 ^ 57 / 4 * 4 + rad.toNat * 2 ^ 64 +
    e.mask.toNat * 2 ^ 96

def unpackEntry (x : Nat) : StackEntry :=
  let wpc : DWord := BitVec.ofNat 64 (x % 2 ^ 57 / 4 * 4)
  let park := x % 2 == 1
  let rad : Word := BitVec.ofNat 32 (x / 2 ^ 64)
  { mask := BitVec.ofNat 32 (x / 2 ^ 96)
    wpc := wpc
    park := park
    ra := if x / 2 % 2 = 1 then none else if park then some wpc else some (wpc + BitVec.ofInt 64 (4 * rad.toInt)) }

/-- The address of spill slot `k` of the executing split. -/
def spillSlot (s : State) (k : Nat) : Nat :=
  teamSpad s.team + (match spillPlan s with | some (a, _) => a | none => 0) + 16 * k

/-- Push: the depth that would have resulted when the limit stands against it. -/
def pushEntry (s : State) (e : StackEntry) : Except Nat State :=
  let sp := s.split
  if depthLimit s < stackDepth sp + 1 then .error (stackDepth sp + 1)
  else if sp.stack.length < 16 then .ok { s with split := { sp with stack := e :: sp.stack } }
  else
    match sp.stack.getLast? with
    | none => .ok { s with split := { sp with stack := [e] } }
    | some old =>
      let s := writeSpad s (spillSlot s sp.spilled) 16 (packEntry old)
      .ok { s with split := { sp with stack := e :: sp.stack.dropLast, spilled := sp.spilled + 1 } }

/-- Refill the newest spilled entry when the hardware holds none (R134, R136). -/
def refill (s : State) : State :=
  let sp := s.split
  if sp.stack.isEmpty && decide (0 < sp.spilled) then
    let e := unpackEntry (rdNat s (spillSlot s (sp.spilled - 1)) 16)
    { s with split := { sp with
        stack := [{ e with mask := e.mask &&& ~~~ s.group.exited }]
        spilled := sp.spilled - 1 } }
  else s

/-- The window address of the newest spilled entry that going from `s` to `t` has refilled and that an uncorrectable error
has taken (log 90). -/
def lostRefill (s t : State) : Option Nat :=
  ((List.range (s.split.spilled - t.split.spilled)).map (fun i => spillSlot s (s.split.spilled - 1 - i))).findSome? (fun pa =>
    if poisoned s pa 16 then some (Config.window + (pa - teamSpad s.team)) else none)

/-- A step that pops entries, or POISON at its instruction where a refill reads an error. -/
def refilling (s t : State) : State :=
  match lostRefill s t with
  | none => t
  | some va => takePoison s ⟨Cause.poison, s.split.pc, BitVec.ofNat 64 va, active s, 0⟩ s.team.rtag.toNat

/-- Pop the top entry. -/
def popEntry (s : State) : State := refill { s with split := { s.split with stack := s.split.stack.tail } }

/-- RA lies more than 2^31 words from WPC (R135). -/
def raFar (e : StackEntry) : Bool :=
  match e.ra with
  | none => false
  | some r => decide (4 * 2 ^ 31 < (r.toInt - e.wpc.toInt).natAbs)

/-- Set the running path, and clear RCVA's valid bit; the fused immediate is used up and a hold is over. -/
def runPath (s : State) (mask : Word) (pc : DWord) : State :=
  { s with lim := none, split := { s.split with mask := mask, pc := pc, rcvaValid := false, wait := none } }

/-- The spill slots that a push fills, or that pops may empty: transfers wait for the group's earlier accesses to them
(R134). -/
def pushSlot (s : State) : List (Nat × Nat) :=
  if s.split.stack.length < 16 then [] else [(spillSlot s s.split.spilled, 16)]

def spilledSlots (s : State) : List (Nat × Nat) :=
  if s.split.spilled = 0 then [] else [(spillSlot s 0, 16 * s.split.spilled)]

/-- Push for a branch or call `w`, then go on; a push that cannot be made traps and changes nothing. -/
def pushing (s : State) (w : Word) (e : StackEntry) (k : State → State) : State :=
  if raFar e then illegal s w
  else
    match pushEntry s e with
    | .error d => trap s Cause.stackOver (BitVec.ofNat 64 d) (active s)
    | .ok s1 => inOrder s (pushSlot s) (fun _ => k s1)

/-- Diverge(T, take, PC + 4, M − take) of R131. -/
def diverge (s : State) (w : Word) (t : DWord) (take : Word) : State :=
  let sp := s.split
  let ra := if sp.rcvaValid then some sp.rcva else none
  let wpc := nextPc s
  let rest := sp.mask &&& ~~~ take
  let fresh := pushing s w ⟨rest, wpc, ra, false⟩ (fun s => runPath s take t)
  match sp.stack with
  | top :: r =>
    if !top.park && top.ra == ra && top.wpc == wpc then
      runPath { s with split := { sp with stack := { top with mask := top.mask ||| rest } :: r } } take t
    else fresh
  | [] => fresh

/-- The branch family of R131. -/
def branch (s : State) (w : Word) (t : DWord) (take : Word) : State :=
  if take = s.split.mask then runPath s take t
  else if take = 0 then runPath s s.split.mask (nextPc s)
  else diverge s w t take

/-- PC + 4 × SignExt(disp24, 24). -/
def relative (s : State) (imm : BitVec 24) : DWord := s.split.pc + imm.signExtend 64 * 4

def execBra (imm : BitVec 24) (s : State) :=
  run (.bra imm) s (fun s => branch s (Instr.bra imm).word (relative s imm) (active s))

def execBrall (imm : BitVec 24) (s : State) :=
  run (.brall imm) s (fun s =>
    branch s (Instr.brall imm).word (relative s imm) (if active s = s.split.mask then s.split.mask else 0))

def execBrany (imm : BitVec 24) (s : State) :=
  run (.brany imm) s (fun s =>
    branch s (Instr.brany imm).word (relative s imm) (if active s = 0 then 0 else s.split.mask))

/-! ## Indirect targets (R138) -/

/-- Uniform: the pair of the lowest active lane, and the active lanes whose pair differs. -/
def uniform (s : State) (a : Nat) : DWord × Word :=
  match actives s with
  | [] => (0, 0)
  | l :: _ =>
    let t := rv2 s a l
    (t, maskOf (fun k => laneBit (active s) k && rv2 s a k != t))

/-- Go on with an aligned target, or raise MISALIGN. -/
def aligned (s : State) (t : DWord) (k : State → State) : State :=
  if bitsOf t 0 2 ≠ 0 then trap s Cause.misalign t (active s) else k s

/-- Go on with the common target of the active lanes; neither check is made when Active is empty. -/
def withUniform (s : State) (a : Nat) (k : State → DWord → State) : State :=
  if active s = 0 then k s 0
  else
    let (t, bad) := uniform s a
    if bad ≠ 0 then trap s Cause.targetDiverge t bad else aligned s t (fun s => k s t)

/-- BRX. A path without lanes takes the branch, since take is all of MASK, and no lane names the target: it is a free value,
a multiple of 4 (log 106). -/
def execBrx (a : BitVec 6) (s : State) :=
  run (.brx a) s (fun s =>
    if s.split.mask = 0 then
      branch { s with fresh := s.fresh + 1 } (Instr.brx a).word (Config.noTarget s.fresh &&& ~~~ 3#64) 0
    else withUniform s a.toNat (fun s t => branch s (Instr.brx a).word t (active s)))

def execRet (a : BitVec 5) (s : State) :=
  run (.ret a) s (fun s =>
    let t := rs s a.toNat
    if active s = 0 then branch s (Instr.ret a).word t 0
    else aligned s t (fun s => branch s (Instr.ret a).word t (active s)))

/-! ## Calls (R137) -/

/-- CALL and CALLX: a partial call pushes the others to wait at the return address. -/
def call (s : State) (w : Word) (t : DWord) : State :=
  let take := active s
  let back := nextPc s
  if take = 0 then runPath s s.split.mask back
  else if take = s.split.mask then runPath (ws s 31 back) take t
  else pushing s w ⟨s.split.mask &&& ~~~ take, back, some back, false⟩ (fun s => runPath (ws s 31 back) take t)

def execCall (imm : BitVec 24) (s : State) :=
  run (.call imm) s (fun s => call s (Instr.call imm).word (relative s imm))

def execCallx (a : BitVec 6) (s : State) :=
  run (.callx a) s (fun s => withUniform s a.toNat (fun s t => call s (Instr.callx a).word t))

def execRcv (imm : BitVec 24) (s : State) :=
  run (.rcv imm) s (fun s =>
    adv { s with split := { s.split with rcva := BitVec.ofNat 64 ((relative s imm).toNat % 2 ^ 57), rcvaValid := true } })

/-! ## Reconvergence (R133) -/

/-- One comparison of the address about to issue with the top entry's RA; none when they do not match. -/
def reconvergeOnce (s : State) : Option State :=
  let sp := s.split
  match sp.stack with
  | [] => none
  | top :: r =>
    if top.ra != some sp.pc then none
    else if !top.park then
      some { s with split := { sp with
        mask := top.mask
        pc := top.wpc
        stack := { top with mask := sp.mask, park := true, wpc := sp.pc } :: r } }
    else some (popEntry { s with split := { sp with mask := sp.mask ||| top.mask } })

/-- R133 repeats while the new top matches; each entry takes part at most twice. -/
def reconvergeN : Nat → State → State
  | 0, s => s
  | n + 1, s =>
    match reconvergeOnce s with
    | none => s
    | some s1 => reconvergeN n s1

def reconverge (s : State) : State := reconvergeN (2 * stackDepth s.split + 2) s

/-! ## SPLIT, JOIN and EXIT (R139 to R143) -/

/-- The lowest free split number: 1 to 3, or 2 to 3 under C16. -/
def freeNumber (s : State) : Option Nat :=
  (if mC16 s.split.mode then [2, 3] else [1, 2, 3]).find?
    (fun n => n != s.split.num && !s.group.splits.any (fun x => x.num == n))

def execSplit (imm : BitVec 24) (s : State) :=
  run (.split imm) s (fun s =>
    let take := active s
    let t := relative s imm
    if take = 0 then runPath s s.split.mask (nextPc s)
    else if take = s.split.mask then runPath s take t
    else
      match freeNumber s with
      | none => trap s Cause.stackOver 0x100000005 take
      | some n =>
        if 4 ≤ s.group.splits.length + 1 then trap s Cause.stackOver 0x100000005 take
        else
          let child := { s.split with
            num := n, mask := take, pc := t, stack := [], spilled := 0, rcvaValid := false, outcome := 0
            wait := none, fence := none, owner := none, active := false, woke := s.tick, issued := false, entries := 0 }
          runPath { s with group := { s.group with splits := putSplit child s.group.splits } }
            (s.split.mask &&& ~~~ take) (nextPc s))

/-- The number that split `n` bears once some classes have merged. -/
def focusAfter (s : State) (cls : List (List Split)) (tid gn n : Nat) : State :=
  if cls.any (fun cl => cl.any (fun x => x.num == n)) then openOn s tid gn (renumber cls n) else s

def execJoin (s : State) :=
  run .join s (fun s =>
    if 0 < stackDepth s.split then illegal s Instr.join.word
    else
      let sp := { s.split with parked := some (s.split.pc, s.group.arrivals), rcvaValid := false, wait := none }
      let g := { s.group with splits := putSplit sp s.group.splits, arrivals := s.group.arrivals + 1 }
      let (g1, cls) := mergeParked s s.team.id (some sp.num) g
      let g2 := if cls.isEmpty then
          { g1 with splits := g1.splits.map (fun x => if x.num = sp.num then { x with active := false } else x) }
        else g1
      focusAfter (renameMerged (regroup { s with lim := none } g2) s.team.id g.num cls) cls s.team.id g.num sp.num)

/-- This EXIT would end the group. -/
def endsGroup (s : State) : Bool :=
  active s == s.split.mask && stackDepth s.split == 0 && s.group.splits.isEmpty

/-- EXIT's effect (R142). -/
def exitLanes (s : State) : State :=
  let gone := active s
  let rest := s.split.mask &&& ~~~ gone
  let s := { s with group := { s.group with exited := s.group.exited ||| gone } }
  if rest ≠ 0 then runPath s rest (nextPc s)
  else if gone = 0 then runPath s rest s.split.pc
  else
    match s.split.stack with
    | e :: _ => runPath (popEntry s) e.mask e.wpc
    | [] => splitEnds { s with lim := none } s.group

def execExit (s : State) :=
  run .exit s (fun s => offering s (if endsGroup s then .exit else .msq) (fun s => inOrder s (spilledSlots s) (fun s => refilling s (exitLanes s))))

/-! ## YIELD, WAIT and BKPT (R144 to R146) -/

/-- Move to the pending set (R58). -/
def demote (s : State) : State := { s with split := { s.split with active := false, woke := s.tick } }

def execYield (s : State) := run .yield s (fun s => demote (adv s))

/-- WAIT path, n: a due deferred fault, or completion, or the hold. -/
def waitPath (s : State) (p : Nat) (n : DWord) : State :=
  offering s (.path p n.toNat) (fun s =>
    if pathCount s.group p ≤ n.toNat then adv s else hold s (.path p n))

def execWait (p : BitVec 3) (b : BitVec 5) (s : State) :=
  run (.wait p b) s (fun s => waitPath s p.toNat (rs s b.toNat))

def execWaitImm (p : BitVec 3) (n : BitVec 6) (s : State) :=
  run (.waitImm p n) s (fun s => waitPath s p.toNat (n.setWidth 64))

def execBkpt (imm : BitVec 12) (s : State) :=
  run (.bkpt imm) s (fun s => takeTrap s ⟨Cause.bkpt, nextPc s, imm.setWidth 64, active s, 0⟩)

end Sys2Proof.Machine
end

