-- ==== Sys2Proof/Machine/Access.lean ====
section
/-! DEFINITION. What every access shares: lane addresses and their checks (07_memory.md R159, R167), accesses in
flight and the order they keep (08_ordering.md R181; log 9), forwarding (R179), the performing of a write
(R161, R162, R185, R211, R418), and the snapshots of speculative windows (R185; 02_words.md R53). -/

namespace Sys2Proof.Machine

/-! ## Fabric reach (13_fabric.md R300) -/

/-- Physical plane of a port 4 × die + k. -/
def portPlane (p : Nat) : Nat := p / 4 % 2 * 4 + p % 4

/-- Ports of a physical plane that are up on a module. -/
def portsUp (s : State) (m phys : Nat) : Nat :=
  ((List.range 64).filter (fun p => portPlane p == phys && (getPort s (m * 64 + p)).state == 2)).length

/-- The port by which traffic of a physical plane leaves a module from a die, or reaches the die on it: the nearest die of
the plane's parity whose port is up. -/
def egress (s : State) (m d phys : Nat) : Option Nat :=
  let e := if d % 2 = phys / 4 then d else d ^^^ 1
  ((List.range 8).map (fun k => 4 * ((e + 2 * k) % 16) + phys % 4)).find? (fun p => (getPort s (m * 64 + p)).state == 2)

/-- The physical plane that carries a logical plane. -/
def physOf (s : State) (m plane : Nat) : Nat := fpEntry s m plane % 8

/-- A request can cross: both modules answer and have a port of the plane up; one of a module to itself crosses
nothing. -/
def reach (s : State) (src tgt plane : Nat) : Bool :=
  let p := physOf s src plane
  src == tgt || decide (0 < portsUp s src p) && decide (0 < portsUp s tgt p) && inGroup s src tgt &&
    !(getModule s tgt).fatal && !(getModule s tgt).tripped && !(getModule s src).fatal

/-! ## Lane addresses and checks (R159, R167) -/

/-- Effective addresses of an L or C instruction's active lanes. -/
def lAddrs (s : State) (a sb : Nat) : List (Nat × Nat) :=
  (actives s).map (fun l => (l, (rs s sb + (rv s a l).setWidth 64 + limOffset s).toNat))

/-- Effective addresses of an A instruction's active lanes (R201). -/
def aAddrs (s : State) (a : Nat) : List (Nat × Nat) :=
  (actives s).map (fun l => (l, (rv2 s a l + limOffset s).toNat))

/-- A lane's address with what its check granted. -/
structure LaneOk where
  lane : Nat
  va : Nat
  grant : Granted
  deriving DecidableEq, Repr

/-- The checks of every lane, in ascending order; `pre` is a check made before those of R159. -/
def checkLanes (s : State) (g : Agent) (k : Kind) (n : Nat) (pre : Nat → Option Nat) :
    List (Nat × Nat) → Except Failing (List LaneOk)
  | eas =>
    let r := eas.foldl (fun (acc : Option Failing × List LaneOk) e =>
      match pre e.2 with
      | some c => (joinFail acc.1 e.1 c e.2, acc.2)
      | none =>
        match check s g k e.2 n with
        | .error (c, v) => (joinFail acc.1 e.1 c v, acc.2)
        | .ok gr => (acc.1, acc.2 ++ [⟨e.1, e.2, gr⟩])) (none, [])
    match r.1 with
    | some f => .error f
    | none => .ok r.2

/-- Fill the TLB with the pages of lanes that passed. -/
def touchLanes (s : State) (g : Agent) (n : Nat) (ls : List LaneOk) : State :=
  ls.foldl (fun s l => if l.grant.window then s else touch s g l.va n) s

/-- A lane access without operands; `a` holds the attribute and `b` is 1 in the window. -/
def laneReq (x : LaneOk) (data : List Byte) : LaneReq :=
  ⟨x.lane, x.va, x.grant.parts, BitVec.ofNat 64 x.grant.attr, if x.grant.window then 1 else 0, data⟩

/-! ## Flights and their order (R181) -/

/-- A new flight of the executing split; it rises on its path. -/
def newFlight (s : State) (k : FlightKind) (i : Instr) (path : Option Nat) (lanes : List LaneReq)
    (scal : List DWord) (after : List Nat) : Flight where
  id := s.fresh
  kind := k
  team := s.team.id
  grp := s.group.num
  spl := s.split.num
  die := thisDie s
  core := s.team.core
  bank := s.team.bank
  vi := s.team.vi
  tag := s.team.rtag.toNat
  instr := i
  pc := s.split.pc
  mask := active s
  mode := s.split.mode
  path := path
  lanes := lanes
  scal := scal
  blob := []
  after := after
  binds := []
  issuer := s.split.num
  seq := 0
  stage := 0
  home := false
  wrote := []
  frozen := []
  rise := match path with | some p => cget (fun _ => 0) s.group.rises p | none => 0

/-- Launch it. -/
def launchFlight (s : State) (f : Flight) : State :=
  { s with
    fresh := s.fresh + 1
    flights := s.flights ++ [f]
    group := match f.path with | some p => pathRise s.group p f.id | none => s.group }

/-- Nothing that the flight must follow is still to come. -/
def readyAfter (s : State) (f : Flight) : Bool := f.after.all (fun i => !pending s i)

/-- The accesses that a FENCE or a release of the executing split at a scope waits for: its own, those before a merge,
and the stores that they read (R179). -/
def fenceWaits (s : State) (scope : Nat) : List Nat :=
  let mine := (s.flights.filter (fun f =>
    isAccess f && f.team == s.team.id && f.grp == s.group.num && f.spl == s.split.num)).map Flight.id
  (mine ++ s.split.order ++ s.split.trail).filter (fun i => !performedAt s scope i)

/-- What a barrier operation on some bytes waits for: case 3 of R181 at its release scope (0 for none), and cases 1, 2
and 5. -/
def barrierWaits (s : State) (scope : Nat) (ps : List (Nat × Nat)) : List Nat :=
  (orderAfter s ps false true).filter (fun i => !performedAt s 1 i) ++ (if scope = 0 then [] else fenceWaits s scope)

/-- The accesses that an operation releasing at a scope still waits for: those it found when it was first held, or those it
finds now. -/
def releaseWaits (s : State) (scope : Nat) (ps : List (Nat × Nat)) : List Nat :=
  match s.split.wait with
  | some (.performed old (_ + 1)) => old.filter (fun i => !performedAt s (max 1 scope) i)
  | _ => barrierWaits s scope ps

/-- The fault that a release at a scope raises: that of a store of the split whose outcome is uncertain (13_fabric.md R306). -/
def fenceFault (s : State) (scope : Nat) : Option DFault := if 4 ≤ scope then dueFault s .fence else none

/-- A release whose own check fails: a fault due at it comes first (00_scope.md R8). -/
def failing (s : State) (scope : Nat) (own : State) : State :=
  match fenceFault s scope with
  | some f => deliver s f
  | none => own

/-- Run a body once the accesses that it must follow are performed; until then the split is held (R191). A release at
module or fabric scope that waited on a request whose outcome became uncertain completes, and the trap is then raised,
resuming after the instruction (13_fabric.md R306). -/
def releasing (s : State) (scope : Nat) (ps : List (Nat × Nat)) (body : State → State) : State :=
  let ids := releaseWaits s scope ps
  if ids.isEmpty then
    match fenceFault s scope with
    | some f => deliver (body s) f
    | none => body s
  else hold s (.performed ids (max 1 scope))

/-! ## Forwarding (R161, R163, R179) -/

/-- The byte that pieces with their data hold at an address. -/
def partsByte : List (Nat × Nat) → List Byte → Nat → Option Byte
  | [], _, _ => none
  | (p, n) :: r, bs, pa =>
    if p ≤ pa ∧ pa < p + n then bs[pa - p]? else partsByte r (bs.drop n) pa

/-- The byte that a store flight leaves at an address: the highest lane's (R168). A re-run's stores leave none but
in its window (15_checking.md R362). -/
def storeByte (f : Flight) (pa : Nat) : Option Byte :=
  (f.lanes.filter (fun l => f.stage != 2 || l.b == 1)).foldl (fun a l => match partsByte l.parts l.data pa with | some b => some b | none => a) none

/-- The stores that a reading flight sees before memory does, oldest first. -/
def seenStores (s : State) (r : Flight) : List Flight :=
  let held := match findSplit s r.team r.grp r.spl with
    | some sp => (match sp.fence with | some w => w.held.filter (fun f => decide (f.id < r.id)) | none => [])
    | none => []
  s.flights.filter (fun f =>
    f.kind == .store && f.stage == 0 && f.core == r.core && decide (f.id < r.id) &&
      ((f.team == r.team && f.grp == r.grp) || forwardable s f)) ++ held

/-- The store, or the write-through request, that supplies a byte to a reading flight, with the byte; none when memory
does. -/
def supplier (s : State) (r : Flight) (sts : List Flight) (pa : Nat) : Option (Nat × Byte) :=
  match sts.foldl (fun a f => match storeByte f pa with | some b => some (f.id, b) | none => a) none with
  | some x => some x
  | none => bufferHit s r.die pa

/-- One byte as a reading flight sees it, with whether it comes from memory. -/
def seenByte (s : State) (r : Flight) (sts : List Flight) (pa : Nat) : Byte × Bool :=
  match supplier s r sts pa with
  | some x => (x.2, false)
  | none => (rdByte s pa, true)

/-- The addresses of pieces, in order. -/
def partAddrs (ps : List (Nat × Nat)) : List Nat := ps.flatMap (fun p => (List.range p.2).map (fun i => p.1 + i))

/-- The bytes of pieces as a reading flight sees them. -/
def seenBytes (s : State) (r : Flight) (sts : List Flight) (ps : List (Nat × Nat)) : List Byte :=
  (partAddrs ps).map (fun pa => (seenByte s r sts pa).1)

/-- The stores and requests that a read of pieces takes bytes from. -/
def readFrom (s : State) (r : Flight) (sts : List Flight) (ps : List (Nat × Nat)) : List Nat :=
  ((partAddrs ps).filterMap (fun pa => (supplier s r sts pa).map Prod.fst)).eraseDups

/-- A list that names access `id` names the accesses `ids` too. -/
def naming (id : Nat) (ids l : List Nat) : List Nat := if l.contains id then l ++ ids else l

/-- A load is performed at a scope when the stores it read are (R179): its split's later releases wait for them, and so
does whatever waits for the load. -/
def trailRead (s : State) (f : Flight) (ids : List Nat) : State :=
  if ids.isEmpty then s
  else
    let fix := naming f.id ids
    let s1 := { s with
      flights := s.flights.map (fun x => { x with after := fix x.after, binds := fix x.binds })
      msgs := s.msgs.map (fun m => { m with after := fix m.after })
      reqs := s.reqs.map (fun r => { r with after := fix r.after }) }
    mapSplits s1 (fun t g x => { x with
      order := fix x.order
      trail := if t.id = f.team ∧ g.num = f.grp ∧ x.num = f.spl then (x.trail ++ ids).eraseDups.filter (fun i => !performedAt s 5 i)
        else x.trail
      fence := x.fence.map (fun w => { w with waits := fix w.waits })
      wait := match x.wait with | some (.performed l sc) => some (.performed (fix l) sc) | w => w })

/-! ## Copies (R161, R163, R418) -/

/-- A die holds a lease of a line. -/
def leased (s : State) (die line : Nat) : Bool := s.leases.contains ⟨die, line⟩

/-- A read is served by the copies of its core and die: attribute 0, and no q of 6. -/
def usesCopies (f : Flight) (l : LaneReq) : Bool := l.a == 0 && f.scal.headD 0 != 6

/-- The granule of an address is poisoned in the copy, or at the home, that a read takes it from. -/
def poisonRead (s : State) (core die : Nat) (copies : Bool) (pa : Nat) : Bool :=
  let c := getCore s core
  let d := getDie s die
  let line := lineOf pa
  if copies && (c.l1.contains line || c.l1own.contains line) then c.l1bad.contains (pa / 32)
  else if copies && (d.rdc.contains line || leased s die line) then d.rdcbad.contains (pa / 32)
  else poisoned s pa 1

/-- The index of the first byte read from a poisoned granule (R418). -/
def poisonAt (s : State) (r : Flight) (sts : List Flight) (copies : Bool) (ps : List (Nat × Nat)) : Option Nat :=
  (partAddrs ps).findIdx? (fun pa => poisonRead s r.core r.die copies pa && (seenByte s r sts pa).2)

/-- The granules of a line. -/
def granulesOf (line : Nat) : List Nat := [4 * line, 4 * line + 1, 4 * line + 2, 4 * line + 3]

/-- A line is dropped from an L1: with it goes what is poisoned in the copy, and an owned line takes that home. -/
def dropL1 (s : State) (core line : Nat) : State :=
  let c := getCore s core
  let bad := c.l1bad.filter (fun g => (granulesOf line).contains g)
  let s1 := if c.l1own.contains line then bad.foldl addPoison s else s
  setCore s1 core { c with
    l1 := c.l1.filter (fun x => x != line)
    l1own := c.l1own.filter (fun x => x != line)
    l1bad := c.l1bad.filter (fun g => !(granulesOf line).contains g) }

/-- A line leaves a core's L1: fence windows of the core that track it roll back. -/
def leaveL1 (s : State) (core line : Nat) : State :=
  rollbackAll (dropL1 s core line) (trackers s line (fun t _ _ => t.core == core))

/-- A line leaves a die's RDC. -/
def leaveRdc (s : State) (die line : Nat) : State :=
  let d := getDie s die
  setDie s die { d with
    rdc := d.rdc.filter (fun x => x != line)
    rdcbad := d.rdcbad.filter (fun g => !(granulesOf line).contains g) }

/-- A lease goes, and with it the copies in the L1s of the die. -/
def leaveLease (s : State) (die line : Nat) : State :=
  let s1 := leaveRdc { s with leases := s.leases.filter (fun l => !(l.die == die && l.line == line)) } die line
  ((s.cores.filter (fun e => coreDie e.1 == die && e.2.l1.contains line)).map Prod.fst).foldl
    (fun s c => leaveL1 s c line) s1

/-- Put a line among those that an L1 holds, owned or not, poisoned as the place it comes from is; the oldest line of a
full L1 leaves (log 17). -/
def enterL1 (s : State) (core line : Nat) (own : Bool) : State :=
  let c := getCore s core
  let bad := (granulesOf line).filter (fun g => poisonRead s core (coreDie core) true (32 * g))
  let old := if c.l1.length + c.l1own.length < Config.l1Lines then none
    else match c.l1.getLast? with | some x => some x | none => c.l1own.getLast?
  let s1 := match old with | some x => leaveL1 s core x | none => s
  let c := getCore s1 core
  setCore s1 core { c with
    l1 := if own then c.l1.filter (fun x => x != line) else line :: c.l1
    l1own := if own then line :: c.l1own else c.l1own
    l1bad := bad ++ c.l1bad.filter (fun g => !(granulesOf line).contains g) }

/-- Room for one more line in a die's RDC, which holds its leases too: the oldest leaves (R161; log 17). -/
def roomRdc (s : State) (die : Nat) : State :=
  let d := getDie s die
  let ls := s.leases.filter (fun l => l.die == die)
  if d.rdc.length + ls.length < Config.rdcLines then s
  else match d.rdc.getLast?, ls.getLast? with
    | some x, _ => leaveRdc s die x
    | none, some l => leaveLease s die l.line
    | none, none => s

/-- What is poisoned at the home is poisoned in a die's new copy of a line. -/
def copyPoison (s : State) (die line : Nat) : State :=
  let d := getDie s die
  setDie s die { d with rdcbad := (granulesOf line).filter (fun g => s.poison.contains g) ++ d.rdcbad }

/-- A die is granted a lease of a line. -/
def grantLease (s : State) (die line : Nat) : State :=
  if leased s die line then s
  else
    let s1 := copyPoison (roomRdc s die) die line
    { s1 with leases := ⟨die, line⟩ :: s1.leases }

/-- Allocate a line homed on another die of the module in a die's RDC. -/
def fillRdc (s : State) (die line : Nat) : State :=
  let home := paHome (line * 128)
  if home = die ∨ dieModule home ≠ dieModule die ∨ (getDie s die).rdc.contains line then s
  else
    let s1 := copyPoison (roomRdc s die) die line
    let d := getDie s1 die
    setDie s1 die { d with rdc := line :: d.rdc }

/-- Allocate a line in a core's L1. -/
def fillL1 (s : State) (core line : Nat) : State :=
  let c := getCore s core
  if c.l1.contains line || c.l1own.contains line then s else enterL1 s core line false

/-- A store enters the store queue (R161, R185): its line leaves the core's L1, and the fence windows of the core that track
it roll back. -/
def enterQueue (s : State) (ps : List (Nat × Nat)) : State := (linesOf ps).foldl (fun s line => leaveL1 s s.team.core line) s

/-- Every copy of a line in another core's L1, in an RDC or under a lease is gone before it is written (R161,
R162, R307), and fence windows that track it roll back; `core` is the writing core. -/
def invalidateLine (s : State) (core line : Nat) : State :=
  let holders := (s.cores.filter (fun e => e.1 != core && (e.2.l1.contains line || e.2.l1own.contains line))).map Prod.fst
  let s := holders.foldl (fun s c => dropL1 s c line) s
  let s := ((s.dies.filter (fun e => e.2.rdc.contains line)).map Prod.fst).foldl (fun s d => leaveRdc s d line) s
  let s := ((s.leases.filter (fun l => l.line == line)).map Lease.die).foldl (fun s d => leaveRdc s d line) s
  let s := { s with leases := s.leases.filter (fun l => l.line != line) }
  rollbackAll s (trackers s line (fun t _ _ => t.core != core))

/-- A holder of a lease on one of the lines that cannot be reached holds the write up (R307). -/
def leaseBlocks (s : State) (ps : List (Nat × Nat)) : Bool :=
  s.leases.any (fun l => (linesOf ps).contains l.line &&
    !reach s (l.line * 128 / 2 ^ 42) (dieModule l.die) (l.line % 8))

/-- A write to a line invalidates a packet fetcher's read copy of it (16_frontend.md R372). -/
def unwatch (s : State) (lines : List Nat) : State :=
  { s with queues := s.queues.map (fun e =>
      match e.2.watch with
      | some l => if lines.contains l then (e.1, { e.2 with watch := none }) else e
      | none => e) }

/-- Copies of lines that are to be written are gone, and windows that track them roll back. -/
def takeLines (s : State) (core : Nat) (ps : List (Nat × Nat)) : State :=
  (linesOf ps).foldl (fun s line =>
    if isSpad (line * 128) then rowWritten s line else invalidateLine s core line) (unwatch s (linesOf ps))

/-- What bytes written over pieces leave there. -/
def keepParts (s : State) : List (Nat × Nat) → List Byte → List Byte
  | [], bs => bs
  | (pa, n) :: r, bs => keepBytes s pa (bs.take n) ++ keepParts s r (bs.drop n)

/-- Perform a write of bytes at its place, for an agent of a core (a number no core has, for another agent). -/
def performWrite (s : State) (core : Nat) (ps : List (Nat × Nat)) (bs : List Byte) : State :=
  let s := takeLines s core ps
  evalArms (wakeWaits (wrParts s ps (keepParts s ps bs)) ps) ps false

/-- The number of no core, for writers outside the cores. -/
def noCore : Nat := 2 ^ 20

/-- The agents are told of bytes that a device has written: copies, fence windows, waits and arms see the change. -/
def tellWritten (s : State) : State :=
  s.written.foldl (fun s p => evalArms (wakeWaits (takeLines (clearPoison s [p]) noCore [p]) [p]) [p] false)
    { s with written := [] }

/-- One write that waited for its home: it is made, asked of another module, or waits on. -/
def flushOne (s : State) (w : LateWrite) : State :=
  if paModule w.pa = w.module then lateWrite s w
  else forVi s w.vi (newRequest s (w.module * 16) w.pa
    (.write (w.data.zipIdx.map (fun e => (w.pa + e.2, e.1)))) none (BitVec.ofNat 64 w.va) 0 none)

/-- The writes that wait for their homes are tried. -/
def flushLate (s : State) : State := s.late.foldl flushOne { s with late := [] }

/-- A written place is held by this module. -/
def isLocal (module : Nat) (p : Nat × Nat) : Bool := paModule p.1 == module

/-- The agent of a flight, for checks that an engine makes with a unit of its own. -/
def agentOf (s : State) (f : Flight) (unit : Nat) (user : Bool) : Agent :=
  match findTeam s f.team with
  | some t => ⟨coreModule f.core, unit, f.vi, user, teamSpad t, t.spadBytes⟩
  | none => ⟨coreModule f.core, unit, f.vi, user, spadAddr f.core f.bank 0, 0⟩

/-- A due decrement in the group of a flight. -/
def flightDue (s : State) (f : Flight) : State := updGroup s f.team f.grp (fun g => pathDue g f.id)

/-- The owner's result exists: its window no longer names a flight. -/
def resultExists (s : State) (f : Flight) : State :=
  updGroup s f.team f.grp (fun g => { g with splits := g.splits.map (fun x =>
    { x with windows := x.windows.map (fun w => if w.flight = some f.id then { w with flight := none } else w) }) })

end Sys2Proof.Machine
end

