-- ==== Sys2Proof/Machine/LoadStore.lean ====
section
/-! DEFINITION. Loads, stores, LDC, PREF, CCTL, ATRN and PIN, with the steps that return load data, perform
stores and invalidate an L1 line (07_memory.md R161 to R173, R418; 08_ordering.md R179, R184, R185). -/

namespace Sys2Proof.Machine

/-! ## Residency (R161, R163) -/

/-- Allocate as a load with q 0 to 5 does, at level `.l1` or `.l2`. -/
def fillLine (s : State) (core line : Nat) (l1 : Bool) : State :=
  let s := fillRdc s (coreDie core) line
  if l1 then fillL1 s core line else s

/-- Whether a read of another module's line asks its home, and whether it then takes a lease (R161, R163): a line of
attribute 1 or 2, or under q 6, is always asked for and never held; one under q 7 is not allocated. -/
def asks (s : State) (die q attr line : Nat) : Option Bool :=
  if paModule (line * 128) = dieModule die then none
  else if attr ≠ 0 ∨ q = 6 then some false
  else if leased s die line then none
  else some (decide (q ≠ 7))

/-- Ask for a line on behalf of a flight. -/
def askLine (s : State) (f : Flight) (q attr line va : Nat) : State :=
  match asks s f.die q attr line with
  | none => s
  | some lease =>
    newRequest s f.die (line * 128) (.read lease none) (some f.id) (BitVec.ofNat 64 va) f.pc (some (f.team, f.grp, f.spl))

/-- Each line that the lanes of a load touch, with the attribute and the address of its lowest lane. -/
def lineLanes (ls : List LaneReq) : List (Nat × Nat × Nat) :=
  ((ls.flatMap (fun l => linesOf l.parts)).eraseDups).filterMap (fun line =>
    (ls.find? (fun l => (linesOf l.parts).contains line)).map (fun l => (line, l.a.toNat, l.va)))

/-- Ask for lines, given with their attributes and addresses. -/
def askEach (s : State) (f : Flight) (q : Nat) (ls : List (Nat × Nat × Nat)) : State :=
  ls.foldl (fun s e => askLine s f q e.2.1 e.1 e.2.2) s

/-- A load asks for the lines of other modules that no lease serves (R160: once for each line). -/
def askLines (s : State) (f : Flight) : State := askEach s f (f.scal.headD 0).toNat (lineLanes f.lanes)

/-! ## Loads (R167, R169) -/

/-- Sign-extending TYPE codes of R167. -/
def signType (m : DWord) : Bool := mType m == 0 || mType m == 2 || mType m == 4 || mType m == 6

/-- What a load leaves in a lane's registers, from the bytes read. -/
def loadRegs (i : Instr) (m : DWord) (bs : List Byte) : List (Nat × Word) :=
  let word := fun (k : Nat) => BitVec.ofNat 32 (leNat ((bs.drop (4 * k)).take 4))
  let ext := fun (w : Nat) =>
    if signType m then BitVec.ofInt 32 (asInt w true (leNat bs)) else BitVec.ofNat 32 (leNat bs)
  match i with
  | .ldb d _ _ _ _ => [(d.toNat, ext 8)]
  | .ldh d _ _ _ _ => [(d.toNat, ext 16)]
  | .ldw d _ _ _ _ => [(d.toNat, word 0)]
  | .ldd d _ _ _ _ => [(d.toNat, word 0), (d.toNat + 1, word 1)]
  | .ldq d _ _ _ _ => [(d.toNat, word 0), (d.toNat + 1, word 1), (d.toNat + 2, word 2), (d.toNat + 3, word 3)]
  | .atrn d _ _ _ _ => [(d.toNat, word 0), (d.toNat + 1, word 1)]
  | _ => []

/-- A window load tracks its lines and rows (08_ordering.md R184). -/
def track (s : State) (ps : List (Nat × Nat)) : State :=
  match s.split.fence with
  | none => s
  | some w => { s with split := { s.split with fence := some { w with tracked := (w.tracked ++ linesOf ps).eraseDups } } }

/-- Issue a load whose lanes passed. -/
def issueLoad (s : State) (i : Instr) (q : Nat) (ok : List LaneOk) : State :=
  let path := if ok.all (fun x => x.grant.window) then 2 else 0
  let ps := ok.flatMap (fun x => x.grant.parts)
  let f := newFlight s .load i (some path) (ok.map (fun x => laneReq x [])) [BitVec.ofNat 64 q]
    (orderAfter s ps false false)
  let s := track (launchFlight s f) ps
  adv (askLines s f)

/-- The L-format load of R167. -/
def load (i : Instr) (a : BitVec 6) (sb : BitVec 5) (q : BitVec 3) (n : Nat) (s : State) :
    Host.Outcome State Fault Refusal :=
  run i s (fun s =>
    if active s = 0 then adv s
    else
      match checkLanes s (me s) .read n (fun _ => none) (lAddrs s a.toNat sb.toNat) with
      | .error f => trapCheck s f.cause f.value f.mask
      | .ok ok => issueLoad (touchLanes s (me s) n ok) i q.toNat ok)

def execLdb (d a : BitVec 6) (sb : BitVec 5) (l : BitVec 4) (q : BitVec 3) (s : State) := load (.ldb d a sb l q) a sb q 1 s
def execLdh (d a : BitVec 6) (sb : BitVec 5) (l : BitVec 4) (q : BitVec 3) (s : State) := load (.ldh d a sb l q) a sb q 2 s
def execLdw (d a : BitVec 6) (sb : BitVec 5) (l : BitVec 4) (q : BitVec 3) (s : State) := load (.ldw d a sb l q) a sb q 4 s
def execLdd (d a : BitVec 6) (sb : BitVec 5) (l : BitVec 4) (q : BitVec 3) (s : State) := load (.ldd d a sb l q) a sb q 8 s
def execLdq (d a : BitVec 6) (sb : BitVec 5) (l : BitVec 4) (q : BitVec 3) (s : State) := load (.ldq d a sb l q) a sb q 16 s

/-- LDC: one access for the split, with the Active set in TRAPM (R169). -/
def execLdc (d : BitVec 5) (sb : BitVec 5) (l : BitVec 4) (q : BitVec 3) (s : State) :=
  run (.ldc d sb l q) s (fun s =>
    if active s = 0 then adv s
    else
      match checkLanes s (me s) .read 8 (fun _ => none) [(0, (rs s sb.toNat + limOffset s).toNat)] with
      | .error f => trapCheck s f.cause f.value (active s)
      | .ok ok =>
        let s := touchLanes s (me s) 8 ok
        let ps := ok.flatMap (fun x => x.grant.parts)
        let f := newFlight s .load (.ldc d sb l q) (some 0) (ok.map (fun x => laneReq x [])) [q.setWidth 64]
          (orderAfter s ps false false)
        adv (askLines (track (launchFlight s f) ps) f))

/-! ## LOAD_DATA_RETURN -/

/-- A store that a reading flight may see, and that its acquire must wait for: another group's, not yet
performed at the scope (R179). -/
def acquireWaits (s : State) (f : Flight) : Bool :=
  match acqScope f with
  | none => false
  | some sc =>
    let ps := flightParts f
    (decide (3 ≤ sc) && (seenStores s f).any (fun x => !(x.team == f.team && x.grp == f.grp) && overlap (flightParts x) ps)) ||
      (decide (4 ≤ sc) && s.reqs.any (fun r =>
        match r.kind with
        | .write bs => r.die == f.die && !r.performed && !r.abandoned && !(match r.who with | some w => w.1 == f.team && w.2.1 == f.grp | none => false) &&
            bs.any (fun b => covered ps b.1)
        | _ => false))

/-- A load of an open fence window waits for the queued stores of its core on its bytes that it may not see yet: it would
read what they hide, and nothing would tell its window when they show (08_ordering.md R182, R185). -/
def windowWaits (s : State) (f : Flight) : Bool :=
  ((findSplit s f.team f.grp f.spl).bind Split.fence).any (fun w => decide (w.first ≤ f.id)) &&
    s.flights.any (fun x => inQueue x && x.core == f.core && !(x.team == f.team && x.grp == f.grp) && !forwardable s x &&
      overlap (flightParts x) (flightParts f))

/-- A flight's data can return now. -/
def loadReady (s : State) (f : Flight) : Bool :=
  f.kind == .load && readyAfter s f && !reqsOpen s f.id && !acquireWaits s f && !windowWaits s f &&
    (flightParts f).all (fun p => !isLocal (dieModule f.die) p || homeReady s p.1)

/-- A request made for a lane was abandoned (13_fabric.md R305). -/
def laneUncertain (s : State) (f : Flight) (l : LaneReq) : Bool :=
  s.reqs.any (fun r => r.flight == some f.id && r.abandoned &&
    (match r.kind with
     | .atomic ls => ls.contains l.lane
     | _ => (linesOf l.parts).contains r.line))

/-- Write a lane's registers; an ended lane's data are discarded (06_control.md R143). -/
def writeLane (g : Group) (lane : Nat) (rs : List (Nat × Word)) : Group :=
  if laneBit g.exited lane then g else rs.foldl (fun g r => gput g r.1 lane r.2) g

/-- What a flight older than a discardable window writes stands in the window's snapshot too. -/
def landSnap (id : Nat) (u : Snapshot → Snapshot) (x : Split) : Split :=
  { x with
    fence := x.fence.map (fun w => if id < w.first then { w with snap := u w.snap } else w)
    owner := x.owner.map (fun o => if id < o.1 then (o.1, u o.2) else o) }

/-- A flight writes a scalar register of its split. -/
def landScalar (s : State) (f : Flight) (n : Nat) (v : DWord) : State :=
  updSplit s f.team f.grp f.spl (fun x =>
    landSnap f.id (fun k => { k with s := cput (fun _ => 0) k.s n v }) (splitPutS x n v))

/-- A flight writes registers of a lane. -/
def landLane (s : State) (f : Flight) (lane : Nat) (rs : List (Nat × Word)) : State :=
  updGroup s f.team f.grp (fun g =>
    let g := writeLane g lane rs
    { g with splits := g.splits.map (fun x => if x.num = f.spl then
        landSnap f.id (fun k => { k with
          regs := rs.foldl (fun c r => cput (fun _ => 0) c (vkey r.1 lane) r.2) k.regs }) x else x) })

/-- Write what a load returned to its split: LDC and EVQRY to the scalar, others to the lane. -/
def writeBack (s : State) (f : Flight) (lane : Nat) (bs : List Byte) : State :=
  match f.instr with
  | .ldc d _ _ _ => landScalar s f d.toNat (BitVec.ofNat 64 (leNat bs))
  | .evqry _ z _ _ => landScalar s f z.toNat (BitVec.ofNat 64 (leNat bs))
  | _ => landLane s f lane (loadRegs f.instr f.mode bs)

/-- The registers whose readers a deferred fault of a flight holds (R218, R333). -/
def flightDests (f : Flight) : List Reg := writes f.mode f.instr

/-- Deferred FABRIC_UNCERTAIN of some lanes (13_fabric.md R306). -/
def uncertainFault (f : Flight) (ls : List LaneReq) : DFault :=
  ⟨f.id, Cause.fabricUncertain, f.pc, BitVec.ofNat 64 ((ls.map LaneReq.va).headD 0),
    some (match f.instr with
      | .ldc _ _ _ _ => f.mask
      | .evqry _ _ _ _ => f.mask
      | _ => maskOf (fun l => ls.any (fun x => x.lane == l))),
    .anyWait, flightDests f, f.spl, none, none⟩

/-- The leaf bits R, W, X, U of R172. -/
def leafBits (l : Leaf) : Nat :=
  l.pte / 8 % 2 * 8 + l.pte / 16 % 2 * 4 + l.pte / 32 % 2 * 2 + l.pte / 64 % 2

/-- ATRN's result for one address (R172). -/
def atrnResult (s : State) (g : Agent) (k : Kind) (ea : Nat) : DWord :=
  match check s g k ea 1 with
  | .error (c, _) => BitVec.ofNat 64 (2 ^ 63 + c)
  | .ok r =>
    let pa := (r.parts.map Prod.fst).headD 0
    if r.window then BitVec.ofNat 64 (Config.windowLeaf.toNat * 2 ^ 58 + 2 * 2 ^ 56 + pa)
    else
      match leafOf s g.module g.unit g.vi ea with
      | .error _ => 0
      | .ok l =>
        BitVec.ofNat 64 (leafBits l * 2 ^ 58 + r.attr * 2 ^ 56 + (if g.user then pa / 2 ^ 38 * 2 ^ 38 else pa))

/-- The agent of an ATRN in flight; its mode is scalar 1. -/
def atrnAgent (s : State) (f : Flight) : Agent := agentOf s f (unitCore f.core) (f.scal.getD 1 0 == 1)

/-- The permission that ATRN checks. -/
def atrnKind (w : BitVec 1) : Kind := if w = 1 then .write else .read

/-- The read of one lane: data, ATRN's result, or the index of a poisoned byte. -/
def laneRead (s : State) (f : Flight) (sts : List Flight) (l : LaneReq) : Except Nat (List Byte) :=
  match f.instr with
  | .atrn _ _ _ _ w => .ok (natLe 8 (atrnResult s (atrnAgent s f) (atrnKind w) l.va).toNat)
  | _ =>
    match poisonAt s f sts (usesCopies f l) l.parts with
    | some i => .error i
    | none => .ok (seenBytes s f sts l.parts)

/-- A lane's line is allocated as its q field says (R163). -/
def fillLane (s : State) (f : Flight) (l : LaneReq) : State :=
  match f.instr with
  | .atrn _ _ _ _ _ => touch s (atrnAgent s f) l.va 1
  | _ =>
  if l.a = 0 ∧ (f.scal.headD 0).toNat ≤ 5 then (linesOf l.parts).foldl (fun s x => fillLine s f.core x true) s else s

/-- Return the data of a load: registers, caches, the decrement, and what was consumed (R165, R333). -/
def returnLoad (s : State) (f : Flight) : State :=
  let sts := seenStores s f
  let bad := f.lanes.filter (laneUncertain s f)
  let good := f.lanes.filter (fun l => !laneUncertain s f l)
  let got := good.map (fun l => (l, laneRead s f sts l))
  let s1 := got.foldl (fun s e => match e.2 with | .ok bs => fillLane (writeBack s f e.1.lane bs) f e.1 | .error _ => s) s
  let pois := got.filterMap (fun e => match e.2 with | .error i => some (e.1, i) | .ok _ => none)
  let s2 := trailRead { s1 with reqs := s1.reqs.filter (fun r => r.flight != some f.id) } f
    (readFrom s f sts (good.flatMap LaneReq.parts))
  let s3 := flightDue (resultExists (dropFlight s2 f.id) f) f
  let s4 := if bad.isEmpty then s3 else addFault s3 f.team f.grp (uncertainFault f bad)
  match pois with
  | [] => s4
  | (l, i) :: _ =>
    let m := match f.instr with
      | .ldc _ _ _ _ => f.mask
      | .evqry _ _ _ _ => f.mask
      | _ => maskOf (fun k => pois.any (fun e => e.1.lane == k))
    consume s4 (dieModule f.die) f.vi f.tag f.team f.grp
      ⟨f.id, Cause.poison, f.pc, BitVec.ofNat 64 (l.va + i), some m, .path (f.path.getD 0) f.rise, flightDests f,
        f.spl, none, none⟩

def execLoadDataReturn (flight : Nat) (s : State) :=
  match findFlight s flight with
  | none => runEvent false s id
  | some f => runEvent (loadReady s f) s (fun s => returnLoad s f)

/-! ## Stores (R162, R167, R168) -/

/-- The bytes that a store takes from a lane's registers. -/
def storeBytes (s : State) (d n l : Nat) : List Byte :=
  natLe n ((rv s d l).toNat + (rv s (d + 1) l).toNat * 2 ^ 32 + (rv s (d + 2) l).toNat * 2 ^ 64 +
    (rv s (d + 3) l).toNat * 2 ^ 96)

/-- The digest contributions of a store: its bytes outside the window (15_checking.md R356). -/
def storeContribs (f : Flight) : List DWord :=
  f.lanes.flatMap (fun l =>
    if l.b = 1 then [] else (l.data.zipIdx 0).map (fun e => storeC (l.va + e.2) e.1))

/-- The team runs a Cupping re-run (15_checking.md R362). -/
def rerunning (t : Team) : Bool := match t.job with | some h => h.rerun.isSome | none => false

/-- Release a store to memory: it enters the store queue, contributes, and rises (R161, R166, R356). -/
def releaseStore (s : State) (f : Flight) : State :=
  let s := enterQueue s (flightParts f)
  let s := contribute s s.team.core s.team.bank s.team.slot (storeContribs f)
  let rise := match f.path with | some p => cget (fun _ => 0) s.group.rises p | none => 0
  { s with
    flights := s.flights ++ [{ f with rise := rise, stage := if rerunning s.team then 2 else 0 }]
    group := match f.path with | some p => pathRise s.group p f.id | none => s.group }

/-- Issue a store whose lanes passed; in a fence window it is held (08_ordering.md R184). -/
def issueStore (s : State) (i : Instr) (d q n : Nat) (ok : List LaneOk) : State :=
  let path := if ok.all (fun x => x.grant.window) then 2 else 1
  let ps := ok.flatMap (fun x => x.grant.parts)
  let rel := decide (1 ≤ q) && decide (q ≤ 5)
  let f := { newFlight s .store i (some path) (ok.map (fun x => laneReq x (storeBytes s d n x.lane))) [BitVec.ofNat 64 q]
    (orderAfter s ps rel true) with binds := orderBinds s rel }
  let s := { s with fresh := s.fresh + 1 }
  match s.split.fence with
  | some w => adv { s with split := { s.split with fence := some { w with held := w.held ++ [f] } } }
  | none => adv (releaseStore s f)

/-- The L-format store of R167. A release at module or fabric scope is held at its instruction (08_ordering.md R191). -/
def store (i : Instr) (d a : BitVec 6) (sb : BitVec 5) (q : BitVec 3) (n : Nat) (s : State) :
    Host.Outcome State Fault Refusal :=
  run i s (fun s =>
    if active s = 0 then adv s
    else
      match checkLanes s (me s) .write n (fun _ => none) (lAddrs s a.toNat sb.toNat) with
      | .error f => failing s (if q = 4 ∨ q = 5 then q.toNat else 0) (trapCheck s f.cause f.value f.mask)
      | .ok ok =>
        let go := fun s => issueStore (touchLanes s (me s) n ok) i d.toNat q.toNat n ok
        if q = 4 ∨ q = 5 then releasing s q.toNat [] go else go s)

def execStb (d a : BitVec 6) (sb : BitVec 5) (l : BitVec 4) (q : BitVec 3) (s : State) := store (.stb d a sb l q) d a sb q 1 s
def execSth (d a : BitVec 6) (sb : BitVec 5) (l : BitVec 4) (q : BitVec 3) (s : State) := store (.sth d a sb l q) d a sb q 2 s
def execStw (d a : BitVec 6) (sb : BitVec 5) (l : BitVec 4) (q : BitVec 3) (s : State) := store (.stw d a sb l q) d a sb q 4 s
def execStd (d a : BitVec 6) (sb : BitVec 5) (l : BitVec 4) (q : BitVec 3) (s : State) := store (.std d a sb l q) d a sb q 8 s
def execStq (d a : BitVec 6) (sb : BitVec 5) (l : BitVec 4) (q : BitVec 3) (s : State) := store (.stq d a sb l q) d a sb q 16 s

/-! ## STORE_PERFORM -/

/-- The pieces of a lane with their bytes. -/
def pieces : List (Nat × Nat) → List Byte → List ((Nat × Nat) × List Byte)
  | [], _ => []
  | (pa, n) :: r, bs => ((pa, n), bs.take n) :: pieces r (bs.drop n)

/-- The bytes of a piece with their addresses. -/
def cellsOf (p : (Nat × Nat) × List Byte) : List (Nat × Byte) := (p.2.zipIdx p.1.1).map (fun e => (e.2, e.1))

/-- A lane of a re-run's global store goes to the die's shadow buffer, a ring whose oldest bytes are overwritten first
(15_checking.md R362). -/
def shadowWrite (s : State) (die : Nat) (cells : List (Nat × Byte)) : State :=
  let d := getDie s die
  let all := d.shadow ++ cells
  setDie s die { d with shadow := all.drop (all.length - Config.shadowBytes die) }

/-- Perform one piece of a store at its place; one of another module is left to its line's request. -/
def performPiece (s : State) (f : Flight) (l : LaneReq) (p : (Nat × Nat) × List Byte) : State :=
  if f.stage = 2 ∧ l.b ≠ 1 then shadowWrite s f.die (cellsOf p)
  else if isLocal (dieModule f.die) p.1 then performWrite s f.core [p.1] p.2
  else s

/-- The pieces of a flight on its own module, and those on others. -/
def localParts (f : Flight) : List (Nat × Nat) := (flightParts f).filter (isLocal (dieModule f.die))
def remoteParts (f : Flight) : List (Nat × Nat) := (flightParts f).filter (fun p => !isLocal (dieModule f.die) p)

/-- The bytes that a store leaves in a line, each from its highest lane (R168). -/
def lineCells (f : Flight) (line : Nat) : List (Nat × Byte) :=
  (((partAddrs (remoteParts f)).filter (fun pa => lineOf pa == line)).eraseDups).filterMap (fun pa =>
    (storeByte f pa).map (fun b => (pa, b)))

/-- A line of another module enters the write-through buffer, the die's copies of it are dropped (R162), and the fence
windows of its other cores that track it roll back: they now read otherwise. -/
def bufferLine (s : State) (f : Flight) (line : Nat) : State :=
  let s := leaveLease s f.die line
  newRequest (rollbackAll s (trackers s line (fun t _ _ => coreDie t.core == f.die && t.core != f.core))) f.die (line * 128) (.write (lineCells f line)) (some f.id)
    (BitVec.ofNat 64 (((f.lanes.find? (fun l => (linesOf l.parts).contains line)).map LaneReq.va).getD 0)) f.pc
    (some (f.team, f.grp, f.spl))

/-- A request made for a write-through lane, whose place has ATTR 0, is not answered yet (R163). -/
def throughOpen (s : State) (f : Flight) : Bool :=
  s.reqs.any (fun r => r.flight == some f.id && !r.acked && !r.abandoned &&
    f.lanes.any (fun l => l.a == 0 && meetsLine l.parts r.line))

/-- A store, or a CCTL, can be performed now; a write-through one ends when its requests are answered. -/
def storeReady (s : State) (f : Flight) : Bool :=
  match f.kind with
  | .store =>
    if f.stage = 1 then !throughOpen s f
    else readyAfter s f && !leaseBlocks s (localParts f) && (localParts f).all (fun p => homeReady s p.1)
  | .cctl => readyAfter s f
  | _ => false

/-- The CCTL operation on the lanes' lines (R171). The L2's own contents are not told apart from memory. -/
def performCctl (s : State) (f : Flight) : State :=
  (linesOf (flightParts f)).foldl (fun s line =>
    match f.instr with
    | .cctlL1inv _ _ _ => leaveL1 s f.core line
    | .cctlRdcinv _ _ _ => leaveLease (leaveRdc s f.die line) f.die line
    | _ => s) s

/-- The store that a split made is on its way to other modules: its later releases wait for it (R179). -/
def trailStore (s : State) (f : Flight) : State :=
  updSplit s f.team f.grp f.spl (fun x => { x with trail := (x.trail ++ [f.id]).filter (fun i => !performedAt s 5 i) })

/-- The store's own step. -/
def performStore (s : State) (f : Flight) : State :=
  let s1 := f.lanes.foldl (fun s l => (pieces l.parts l.data).foldl (fun s p => performPiece s f l p) s) s
  let s2 := if f.stage = 2 then s1 else (linesOf (remoteParts f)).foldl (fun s line => bufferLine s f line) (clearPoison s1 (localParts f))
  let s3 := if f.stage = 2 ∨ (remoteParts f).isEmpty then s2 else trailStore s2 f
  if f.scal.headD 0 = 6 ∧ throughOpen s3 f then setFlight s3 { f with stage := 1 }
  else flightDue (dropFlight s3 f.id) f

def execStorePerform (flight : Nat) (s : State) :=
  match findFlight s flight with
  | none => runEvent false s id
  | some f => runEvent (storeReady s f) s (fun s =>
      match f.kind with
      | .cctl => flightDue (dropFlight (performCctl s f) f.id) f
      | _ => if f.stage = 1 then flightDue (dropFlight s f.id) f else performStore s f)

/-- A home directory invalidation reaches a core's L1 (R161, R185). -/
def execL1Invalidate (core line : Nat) (s : State) :=
  runEvent ((getCore s core).l1.contains line || (getCore s core).l1own.contains line) s (fun s => leaveL1 s core line)

/-! ## PREF, CCTL and ATRN (R170 to R172) -/

/-- Fill a line early: one of this module, or one that a lease serves, at once; another is asked for. -/
def prefetchLine (s : State) (va line : Nat) (l1 : Bool) : State :=
  let die := thisDie s
  if paModule (line * 128) = thisModule s ∨ leased s die line then fillLine s s.team.core line l1
  else newRequest s die (line * 128) (.read true (if l1 then some s.team.core else none)) none (BitVec.ofNat 64 va)
    s.split.pc (some (s.team.id, s.group.num, s.split.num))

/-- PREF: lanes that pass, outside the window and with ATTR 0, fill their line; nothing else happens. -/
def execPref (v : BitVec 2) (a : BitVec 6) (sb : BitVec 5) (l : BitVec 4) (s : State) :=
  run (.pref v a sb l) s (fun s =>
    let go := fun (s : State) (e : Nat × Nat) =>
      match check s (me s) .read e.2 1 with
      | .error _ => s
      | .ok g =>
        if g.window || g.attr != 0 then s
        else
          let s := touch s (me s) e.2 1
          (linesOf g.parts).foldl (fun s line => prefetchLine s e.2 line (v == 0)) s
    adv ((lAddrs s a.toNat sb.toNat).foldl go s))

/-- CCTL: checked as a read or a write of one byte; window lanes and ATTR 1 or 2 lanes have no effect. -/
def cctl (i : Instr) (k : Kind) (a : BitVec 6) (sb : BitVec 5) (s : State) : Host.Outcome State Fault Refusal :=
  run i s (fun s =>
    if active s = 0 then adv s
    else
      match checkLanes s (me s) k 1 (fun _ => none) (lAddrs s a.toNat sb.toNat) with
      | .error f => trapCheck s f.cause f.value f.mask
      | .ok ok =>
        let s := touchLanes s (me s) 1 ok
        let ok := ok.filter (fun x => !x.grant.window && x.grant.attr == 0)
        let ps := ok.flatMap (fun x => x.grant.parts)
        adv (launchFlight s (newFlight s .cctl i (some 1) (ok.map (fun x => laneReq x [])) [] (orderAfter s ps false true))))

def execCctlL1inv (a : BitVec 6) (sb : BitVec 5) (l : BitVec 4) (s : State) := cctl (.cctlL1inv a sb l) .read a sb s
def execCctlRdcinv (a : BitVec 6) (sb : BitVec 5) (l : BitVec 4) (s : State) := cctl (.cctlRdcinv a sb l) .read a sb s
def execCctlWb (a : BitVec 6) (sb : BitVec 5) (l : BitVec 4) (s : State) := cctl (.cctlWb a sb l) .write a sb s
def execCctlWbinv (a : BitVec 6) (sb : BitVec 5) (l : BitVec 4) (s : State) := cctl (.cctlWbinv a sb l) .write a sb s

/-- The entries of other modules that a walk of the executing split reads (R156; 13_fabric.md R305). -/
def walkAsks (s : State) (va : Nat) : List (Nat × Nat) :=
  ((walkReads s (thisModule s) (unitCore s.team.core) s.team.vi va).filter (fun e => paModule e != thisModule s)).map
    (fun e => (e, 8))

/-- The attribute under which an entry's line is asked for: only HBM is held in copies (R153). -/
def entryAttr (ps : List (Nat × Nat)) : DWord := if ps.all (fun p => decide (place p.1 = .hbm)) then 0 else 2

/-- ATRN returns as a load does, once the entries of its walk that lie on other modules have been read. -/
def execAtrn (d a : BitVec 6) (sb : BitVec 5) (l : BitVec 4) (w : BitVec 1) (s : State) :=
  run (.atrn d a sb l w) s (fun s =>
    if active s = 0 then adv s
    else
      let lanes := (lAddrs s a.toNat sb.toNat).map (fun e => (⟨e.1, e.2, walkAsks s e.2, entryAttr (walkAsks s e.2), 0, []⟩ : LaneReq))
      let f := newFlight s .load (.atrn d a sb l w) (some 0) lanes [0, if userMode s then 1 else 0] (orderAfter s [] false false)
      adv (askLines (launchFlight s f) f))

/-! ## PIN (R164) -/

/-- The line of a VA that PIN may act on: homed on this module, with ATTR 0, in a page that may be read (log 68). -/
def pinLine (s : State) (va : Nat) : Option Nat :=
  if Config.window ≤ va then none
  else
    match translate s (thisModule s) (unitCore s.team.core) s.team.vi false .read va va with
    | .error _ => none
    | .ok (pa, attr) => if attr = 0 ∧ paModule pa = thisModule s then some (lineOf pa) else none

/-- The VAs of the lines that overlap a range. -/
def rangeLines (a n : Nat) : List Nat :=
  if n = 0 then [] else (List.range ((a + n - 1) / 128 - a / 128 + 1)).map (fun i => (a / 128 + i) * 128)

/-- Ways of a set that a VI may pin. -/
def pinLimit (s : State) : Nat :=
  match getVi s (thisModule s) s.team.vi with
  | some v => min Config.pinWays v.cfg.pinLimit
  | none => Config.pinWays

/-- The slice of its home that a line falls in, and the set of that slice. -/
def l2SetOf (line : Nat) : Nat × Nat := (sliceOf line, Config.l2Set line % Config.l2Sets)

/-- Pin a line for the VI: true when it is pinned now. -/
def pinOne (s : State) (line : Nat) : State × Bool :=
  let die := paHome (line * 128)
  let d := getDie s die
  if d.pins.any (fun p => p.2 == line) then (s, true)
  else
    let held := d.pins.filter (fun p => l2SetOf p.2 == l2SetOf line)
    if Config.pinWays ≤ held.length ∨ pinLimit s ≤ (held.filter (fun p => p.1 == s.team.vi)).length then (s, false)
    else (setDie s die { d with pins := d.pins ++ [(s.team.vi, line)] }, true)

/-- Unpin a line of the VI: true when it was pinned by the VI. -/
def unpinOne (s : State) (line : Nat) : State × Bool :=
  let die := paHome (line * 128)
  let d := getDie s die
  if d.pins.contains (s.team.vi, line) then
    (setDie s die { d with pins := d.pins.filter (fun p => p != (s.team.vi, line)) }, true)
  else (s, false)

/-- Act on each line of the range and count. -/
def pinRange (s : State) (act : State → Nat → State × Bool) (vas : List Nat) : State × Nat :=
  vas.foldl (fun acc va =>
    match pinLine acc.1 va with
    | none => acc
    | some line =>
      let (s1, b) := act acc.1 line
      (s1, if b then acc.2 + 1 else acc.2)) (s, 0)

/-- PIN.set and PIN.clr act once for the split when Active is not empty. -/
def pinForm (i : Instr) (x y z : BitVec 5) (act : State → Nat → State × Bool) (s : State) :
    Host.Outcome State Fault Refusal :=
  runPriv i s (fun s =>
    if 2 ^ 32 ≤ (rs s y.toNat).toNat then illegal s i.word
    else if active s = 0 then adv s
    else
      let (s1, n) := pinRange s act (rangeLines (rs s x.toNat + limOffset s).toNat (rs s y.toNat).toNat)
      adv (ws s1 z.toNat (BitVec.ofNat 64 n)))

def execPinSet (x y z : BitVec 5) (l : BitVec 4) (s : State) := pinForm (.pinSet x y z l) x y z pinOne s
def execPinClr (x y z : BitVec 5) (l : BitVec 4) (s : State) := pinForm (.pinClr x y z l) x y z unpinOne s

def execPinQry (y z : BitVec 5) (l : BitVec 4) (s : State) :=
  runPriv (.pinQry y z l) s (fun s =>
    if active s = 0 then adv s
    else
      let d := getDie s (thisModule s * 16 + (rs s y.toNat).toNat % 16)
      adv (ws s z.toNat (BitVec.ofNat 64 (d.pins.filter (fun p => p.1 == s.team.vi)).length)))

def execPinAll (z : BitVec 5) (l : BitVec 4) (s : State) :=
  runPriv (.pinAll z l) s (fun s =>
    if active s = 0 then adv s
    else
      let dies := (List.range 16).map (fun k => thisModule s * 16 + k)
      let n := dies.foldl (fun n k => n + ((getDie s k).pins.filter (fun p => p.1 == s.team.vi)).length) 0
      let s1 := dies.foldl (fun s k =>
        setDie s k { getDie s k with pins := (getDie s k).pins.filter (fun p => p.1 != s.team.vi) }) s
      adv (ws s1 z.toNat (BitVec.ofNat 64 n)))

/-! ## UNCORRECTABLE_ERROR (R418) -/

/-- An uncorrectable error appears in the granule that holds an address: at its home, which is HBM with the L2, or
scratchpad, or (since R333 has arms consume one) the event table or a mailbox; or in the copy of an L1 or of an RDC. -/
def execUncorrectableError (at_ : ErrorAt) (s : State) :=
  match at_ with
  | .home addr =>
    runEvent (match place addr with | .digest _ _ => false | .reserved => false | _ => true) s (fun s => addPoison s (addr / 32))
  | .l1 core addr =>
    let c := getCore s core
    runEvent (c.l1.contains (lineOf addr) || c.l1own.contains (lineOf addr)) s
      (fun s => setCore s core { c with l1bad := addr / 32 :: c.l1bad })
  | .rdc die addr =>
    let d := getDie s die
    runEvent (d.rdc.contains (lineOf addr) || leased s die (lineOf addr)) s
      (fun s => setDie s die { d with rdcbad := addr / 32 :: d.rdcbad })

end Sys2Proof.Machine
end

