-- ==== Sys2Proof/Machine/Order.lean ====
section
/-! DEFINITION. FENCE, barrier objects, rendezvous points, and the steps that complete a fence and report a wait
timeout (08_ordering.md R183 to R196; 09_atomics.md R215). -/

namespace Sys2Proof.Machine

/-! ## FENCE (R183 to R186) -/

/-- FENCE: complete at once when every earlier access of the split is performed at its scope; otherwise the
split runs on in a speculative window, or, with NS, issues nothing (Machine/Issue.lean). -/
def execFence (n : BitVec 1) (c : BitVec 3) (s : State) :=
  run (.fence n c) s (fun s =>
    let ws := fenceWaits s c.toNat
    let s1 := adv s
    if ws.isEmpty then
      match fenceFault s1 c.toNat with
      | some f => deliver s1 f
      | none => s1
    else { s1 with split := { s1.split with
        fence := some ⟨c.toNat, n == 1, s.fresh, ws, 0, [], [], takeSnap s1, none⟩ } })

/-- Everything a fence waits for is performed. -/
def fenceDone (s : State) (w : FenceWin) : Bool := w.waits.all (performedAt s w.scope)

/-- Commit the log of the executing split's window: the held stores are released in program order (R184). -/
def commitHeld (s : State) (fs : List Flight) : State :=
  fs.foldl (fun s f =>
    let q := (f.scal.headD 0).toNat
    let rel := decide (1 ≤ q) && decide (q ≤ 5)
    releaseStore s { f with after := orderAfter s (flightParts f) rel true, binds := orderBinds s rel }) s

/-- The fence of the executing split completes: an uncertain store's trap is raised here, resuming after the
FENCE (13_fabric.md R306), else the log commits and a held trap is taken (R186). -/
def completeFence (s : State) (w : FenceWin) : State :=
  let cs := (s.group.log.filter (fun e => e.1 == s.split.num)).map Prod.snd
  let s1 := { s with
    split := { s.split with fence := none, entries := 0 }
    group := { s.group with log := s.group.log.filter (fun e => e.1 != s.split.num) } }
  match fenceFault s w.scope with
  | some f =>
    let s2 := putSnap (discardSince s1 w.first) w.snap
    deliver s2 f
  | none =>
    let s2 := commitHeld (contribute s1 s.team.core s.team.bank s.team.slot cs) w.held
    match w.trap with
    | none => s2
    | some t => if t.cause = Cause.poison then takePoison s2 t s2.team.rtag.toNat else takeTrap s2 t

/-- A fence's accesses are performed at its scope. -/
def execFenceComplete (team grp spl : Nat) (s : State) :=
  match findSplit s team grp spl with
  | none => runEvent false s id
  | some sp =>
    match sp.fence with
    | none => runEvent false s id
    | some w => runEvent (fenceDone s w) s (fun s => onSplit s team grp spl (fun s => completeFence s w))

/-! ## Barrier objects (R189 to R191) -/

/-- The object's address: s[sx] plus the LIM offset. -/
def objAddr (s : State) (x : BitVec 5) : DWord := rs s x.toNat + limOffset s

/-- ILLEGAL for a refused operand limit of a barrier instruction: TRAPV is the object's address (R189). -/
def limitTrap (s : State) (a : DWord) : State := trap s Cause.illegal a (active s)

def execBinit (x y : BitVec 5) (l : BitVec 4) (s : State) :=
  run (.binit x y l) s (fun s =>
    let a := objAddr s x
    if active s = 0 then adv s
    else if 2 ^ 16 ≤ (rs s y.toNat).toNat then limitTrap s a
    else withObject s a .write true (fun s pa =>
      if (getBar s pa).armed then trap s Cause.access a (active s)
      else releasing s 0 [(pa, 16)] (fun s =>
        adv (setBar s pa (Bar.start ((rs s y.toNat).setWidth 16) s.team.rtag false)))))

/-- The arrival of BARV on an object, with the target phase. -/
def arriveWith (b : Bar) (bytes : Option Nat) : Bar × DWord :=
  let b1 := b.arrive
  let b2 := match bytes with | some k => b1.add k | none => b1
  (b2.complete, (b.phase + 1).setWidth 64)

/-- BARV and BARV.b. -/
def barrierArrive (s : State) (a : DWord) (bytes : Option Nat) (scope : Nat) (z : BitVec 5) : State :=
  withObjectOr s a .write false (failing s scope) (fun s pa =>
    releasing s scope [(pa, 16)] (fun s =>
      let (b, t) := arriveWith (getBar s pa) bytes
      adv (ws (setBar s pa b) z.toNat t)))

def execBarv (x z : BitVec 5) (l : BitVec 4) (c : BitVec 3) (s : State) :=
  run (.barv x z l c) s (fun s =>
    if active s = 0 then adv s else barrierArrive s (objAddr s x) none c.toNat z)

def execBarvB (x y z : BitVec 5) (l : BitVec 4) (c : BitVec 3) (s : State) :=
  run (.barvB x y z l c) s (fun s =>
    if active s = 0 then adv s
    else if 2 ^ 31 ≤ (rs s y.toNat).toNat then failing s c.toNat (limitTrap s (objAddr s x))
    else barrierArrive s (objAddr s x) (some (rs s y.toNat).toNat) c.toNat z)

def execBexp (x y : BitVec 5) (l : BitVec 4) (s : State) :=
  run (.bexp x y l) s (fun s =>
    let a := objAddr s x
    if active s = 0 then adv s
    else if 2 ^ 31 ≤ (rs s y.toNat).toNat then limitTrap s a
    else withObject s a .write false (fun s pa =>
      releasing s 0 [(pa, 16)] (fun s => adv (setBar s pa ((getBar s pa).add (rs s y.toNat).toNat).complete))))

/-- BTEST is a relaxed read of the object's bytes. -/
def execBtest (x z : BitVec 5) (l : BitVec 4) (h : BitVec 1) (s : State) :=
  run (.btest x z l h) s (fun s =>
    if active s = 0 then adv s
    else withObject s (objAddr s x) .read true (fun s pa =>
      releasing s 0 [(pa, 16)] (fun s => adv (ws s z.toNat (BitVec.ofNat 64 (rdNat s (pa + 8 * h.toNat) 8))))))

/-- The executing split. -/
def here (s : State) : Nat × Nat × Nat := (s.team.id, s.group.num, s.split.num)

/-- No change of an object has woken the executing split. -/
def unwoken (s : State) : State := { s with woken := s.woken.filter (fun w => w != here s) }

/-- BWAIT on an object for a target is satisfied: now, or by a change while it waited (R188, R191). -/
def barrierMet (s : State) (pa : Nat) (t : Word) : Bool :=
  reached (getBar s pa).phase t ||
    (s.woken.contains (here s) &&
      (match s.split.wait with
       | some (.barrier _ p u) => p == pa && u == t
       | some (.performed _ _) => true
       | _ => false))

/-- BWAIT: a due deferred fault, or completion, or the hold until a change of the object satisfies it. -/
def execBwait (x y : BitVec 5) (c : BitVec 3) (s : State) :=
  run (.bwait x y c) s (fun s =>
    let a := objAddr s x
    let t : Word := (rs s y.toNat).setWidth 32
    if active s = 0 then adv s
    else
      let o := match checkObject s a .read true with | .ok pa => Offer.object pa (barrierMet s pa t) | .error _ => .object 0 false
      offering s o (fun s =>
        withObject s a .read true (fun s pa =>
          if barrierMet s pa t then releasing s 0 [(pa, 16)] (fun s => adv (unwoken s))
          else hold (unwoken s) (.barrier a pa t))))

/-! ## Rendezvous points (R192, R193) -/

/-- Write a point of the executing team. -/
def setPoint (s : State) (k : Nat) (b : Bar) : State := { s with team := setTeamPoint s.team k b }

/-- ILLEGAL with TRAPV k when k is not below the header's count. -/
def onPoint (s : State) (k : BitVec 5) (body : State → Bar → State) : State :=
  if rdvCount s ≤ k.toNat then trap s Cause.illegal (k.setWidth 64) (active s) else body s (teamPoint s.team k.toNat)

/-- The same for a point that must be initialised. -/
def onReadyPoint (s : State) (k : BitVec 5) (body : State → Bar → State) : State :=
  onPoint s k (fun s b => if b.init then body s b else trap s Cause.illegal (k.setWidth 64) (active s))

/-- A rendezvous instruction does nothing with no active lane. -/
def withPoint (i : Instr) (s : State) (body : State → State) : Host.Outcome State Fault Refusal :=
  run i s (fun s => if active s = 0 then adv s else body s)

def execRinit (y k : BitVec 5) (s : State) :=
  withPoint (.rinit y k) s (fun s => onPoint s k (fun s b =>
    let n := rs s y.toNat
    if n.toNat < 1 ∨ 97 < n.toNat then trap s Cause.illegal n (active s)
    else if b.init then
      (if b.exp = n.setWidth 16 then adv s else trap s Cause.illegal n (active s))
    else releasing s 0 [] (fun s => adv (setPoint s k.toNat (Bar.start (n.setWidth 16) s.team.rtag true)))))

/-- The team-release arrival on a point. -/
def pointArrive (s : State) (k : BitVec 5) (z : BitVec 5) (next : State → DWord → State) : State :=
  releasing s 1 [] (fun s =>
    let (b, t) := arriveWith (teamPoint s.team k.toNat) none
    next (ws (setPoint s k.toNat b) z.toNat t) t)

def execRarv (z k : BitVec 5) (s : State) :=
  withPoint (.rarv z k) s (fun s => onReadyPoint s k (fun s _ => pointArrive s k z (fun s _ => adv s)))

/-- A point has reached a target. -/
def pointMet (s : State) (k : BitVec 5) (t : Word) : Bool := reached (teamPoint s.team k.toNat).phase t

/-- A wait on a point: a due deferred fault comes first, then the checks of the instruction, then completion or the
hold (00_scope.md R8; 11_copy.md R263). -/
def pointWait (s : State) (k : BitVec 5) (t : Word) (w : WaitCond) : State :=
  offering s (.point k.toNat (pointMet s k t)) (fun s => onReadyPoint s k (fun s _ =>
    if pointMet s k t then releasing s 0 [] adv else hold s w))

def execRwait (y k : BitVec 5) (s : State) :=
  withPoint (.rwait y k) s (fun s =>
    let t : Word := (rs s y.toNat).setWidth 32
    pointWait s k t (.point k.toNat t))

/-- The first half of RSYNC: a fault due at a point that its arrival would not complete comes before that arrival. -/
def syncArrive (s : State) (k z : BitVec 5) : State :=
  let (b, t) := arriveWith (teamPoint s.team k.toNat) none
  offering s (.point k.toNat (reached b.phase (t.setWidth 32))) (fun s => onReadyPoint s k (fun s _ =>
    pointArrive s k z (fun s t =>
      if pointMet s k (t.setWidth 32) then adv s else hold s (.rsync k.toNat (t.setWidth 32)))))

/-- RSYNC: the arrival, then the wait on the target written to s[sz]. Once the arrival is made, the split
resumes at the wait half (R195). -/
def execRsync (z k : BitVec 5) (s : State) :=
  withPoint (.rsync z k) s (fun s =>
    match s.split.wait with
    | some (.rsync _ t) => pointWait s k t (.rsync k.toNat t)
    | _ => syncArrive s k z)

/-! ## WAIT_TIMEOUT (R145, R191, R215, R241) -/

/-- The arm that a barrier object holds. -/
def armOf (s : State) (pa : Nat) : Option Arm := s.dies.findSome? (fun e => e.2.arms.find? (fun a => a.object == pa))

/-- The continuation record of a barrier wait whose object holds a CARM arm. -/
def armRecord (s : State) (pa : Nat) : Option (BitVec 256) :=
  match armOf s pa with
  | some a =>
    (match a.cond with
     | .word c x => some (BitVec.ofNat 256
        (a.va.toNat + x.toNat * 2 ^ 64 + rdNat s a.addr (condBytes c) * 2 ^ 128 + c * 2 ^ 192))
     | _ => none)
  | none => none

/-- Two waits are for the same path, object or point. -/
def sameWait (a b : Option WaitCond) : Bool :=
  match a, b with
  | some (.path p _), some (.path q _) => p == q
  | some (.barrier _ p _), some (.barrier _ q _) => p == q
  | some (.point j _), some (.point k _) => j == k
  | some (.point j _), some (.rsync k _) => j == k
  | some (.rsync j _), some (.point k _) => j == k
  | some (.rsync j _), some (.rsync k _) => j == k
  | _, _ => false

/-- The lowest-numbered split of a group that waits for what a split waits for. -/
def lowestWaiting (g : Group) (sp : Split) : Split :=
  (g.splits.filter (fun x => sameWait x.wait sp.wait)).foldl (fun a x => if x.num < a.num then x else a) sp

/-- The report of a wait: kind and address, the PC of the lowest-numbered waiting split with its group, and the arm's
record. -/
def timeoutReport (s : State) (t : Team) (g : Group) (sp : Split) : Option Report :=
  let mk := fun (kind a : Nat) (e : Option (BitVec 256)) =>
    some (⟨0x0E, 0, t.vi, BitVec.ofNat 64 (kind * 2 ^ 62 + a % 2 ^ 57),
      BitVec.ofNat 64 ((lowestWaiting g sp).pc.toNat % 2 ^ 57 + g.num * 2 ^ 57), e, 0xFFFFFFFF⟩ : Report)
  match sp.wait with
  | some (.path p _) => mk 2 p none
  | some (.barrier va pa _) => mk 0 va.toNat (armRecord s pa)
  | some (.point k _) => mk 1 k none
  | some (.rsync k _) => mk 1 k none
  | _ => none

/-- The wait watchdog expires: WAIT_TIMEOUT goes to firmware and the wait continues. -/
def execWaitTimeout (who : AgentId) (s : State) :=
  match who with
  | .split tid gn sn =>
    match findTeam s tid, findGroup s tid gn, findSplit s tid gn sn with
    | some t, some g, some sp =>
      (match timeoutReport s t g sp with
       | some r => runEvent true s (fun s => report s (coreModule t.core) .owner r)
       | none => runEvent false s id)
    | _, _, _ => runEvent false s id
  | .slot tid =>
    match findTeam s tid with
    | none => runEvent false s id
    | some t =>
      match t.mslot with
      | none => runEvent false s id
      | some m =>
        match m.waiting with
        | none => runEvent false s id
        | some k => runEvent true s (fun s => report s (coreModule t.core) .owner
            ⟨0x0E, 0, t.vi, BitVec.ofNat 64 (3 * 2 ^ 62 + k),
              BitVec.ofNat 64 (m.spc.toNat % 2 ^ 57 + (match m.owner with | some (g, _) => g | none => 0) * 2 ^ 57),
              none, 0xFFFFFFFF⟩)

end Sys2Proof.Machine
end

