-- ==== Sys2Proof/Machine/Atomics.lean ====
section
/-! DEFINITION. Atomics, RED, BUMP, signals, timelines and CARM, with the step that executes an atomic
(09_atomics.md R197 to R219). -/

namespace Sys2Proof.Machine

/-! ## Operations (R200 to R208) -/

/-- Bytes of the operand that MODE.TYPE gives, for integers (R200). -/
def atomInt (m : DWord) : Option Nat :=
  match mType m with
  | 0 => some 4
  | 1 => some 4
  | 2 => some 8
  | 3 => some 8
  | _ => none

/-- Bytes for F32 and F64. -/
def atomFloat (m : DWord) : Option Nat :=
  match mType m with
  | 8 => some 4
  | 9 => some 8
  | _ => none

/-- Bytes for AXCH and ACAS. -/
def atomAny (m : DWord) : Option Nat := (atomInt m).orElse (fun _ => atomFloat m)

/-- AFADD (R203): RNE, without SAT or FTZ. -/
def faddBits (n old x : Nat) : Nat :=
  let f := if n = 8 then Fmt.f64 else Fmt.f32
  roundTo f ⟨0, false, false⟩ 0 (fadd 0 (decodeF f old) (decodeF f x))

/-- The smaller or larger of two operands, signed under I32 and I64. -/
def pickBits (m : DWord) (n old x : Nat) (larger : Bool) : Nat :=
  let sg := mType m == 0 || mType m == 2
  let a := asInt (8 * n) sg old
  let b := asInt (8 * n) sg x
  if larger then (if a < b then x else old) else (if b < a then x else old)

/-- The common operations by RED's codes (R201, R204). -/
def redOp (m : DWord) (n op old x : Nat) : Nat :=
  match op with
  | 0 => (old + x) % 2 ^ (8 * n)
  | 1 => pickBits m n old x false
  | 2 => pickBits m n old x true
  | 3 => old &&& x
  | 4 => old ||| x
  | 5 => old ^^^ x
  | _ => faddBits n old x

/-- BUMP on an object (R206): the object's new bytes and what the lane receives. -/
def bumpOp (o n : Nat) : Nat × Nat :=
  let next := o % 2 ^ 64
  let limit := o / 2 ^ 64 % 2 ^ 63
  if limit < next + n then (o % 2 ^ 127 + 2 ^ 127, 2 ^ 64 - 1)
  else (o - next + (next + n), next)

/-- One lane's operation on the old value: what is written, if anything, and what is returned; or the cause of
a checked atomic that fails. -/
def atomOp (i : Instr) (m : DWord) (n old x c : Nat) : Except Nat (Option Nat × Nat) :=
  let sg := (BitVec.ofNat 64 old).toInt
  match i with
  | .aadd _ _ _ _ _ => .ok (some (redOp m n 0 old x), old)
  | .amin _ _ _ _ _ => .ok (some (redOp m n 1 old x), old)
  | .amax _ _ _ _ _ => .ok (some (redOp m n 2 old x), old)
  | .aand _ _ _ _ _ => .ok (some (redOp m n 3 old x), old)
  | .aor _ _ _ _ _ => .ok (some (redOp m n 4 old x), old)
  | .axor _ _ _ _ _ => .ok (some (redOp m n 5 old x), old)
  | .axch _ _ _ _ _ => .ok (some x, old)
  | .acas _ _ _ _ _ => .ok (if old = x then some c else none, old)
  | .afadd _ _ _ _ _ => .ok (some (redOp m n 6 old x), old)
  | .red o _ _ _ _ => .ok (some (redOp m n o.toNat old x), old)
  | .bump _ _ _ _ _ => let (o, r) := bumpOp old x; .ok (some o, r)
  | .sigi _ _ _ _ =>
    if 2 ^ 63 - 1 < sg + (x : Int) then .error Cause.sigOver else .ok (some (modW 64 (sg + (x : Int))), old)
  | .sigd _ _ _ _ => if sg - (x : Int) < 0 then .error Cause.sigUnder else .ok (some (modW 64 (sg - (x : Int))), old)
  | .tlsig _ _ _ _ =>
    if old = 2 ^ 64 - 1 then .error Cause.tlTop else if x < old then .error Cause.tlBack else .ok (some x, old)
  | _ => .ok (none, old)

/-- SIGI, SIGD and TLSIG (R209). -/
def isChecked (i : Instr) : Bool :=
  match i with
  | .sigi _ _ _ _ => true
  | .sigd _ _ _ _ => true
  | .tlsig _ _ _ _ => true
  | _ => false

/-- A TLSIG that writes 2^64 − 1 satisfies every arm on its bytes (R208). -/
def isTerminal (i : Instr) (v : Nat) : Bool := match i with | .tlsig _ _ _ _ => v == 2 ^ 64 - 1 | _ => false

/-! ## Issue (R201) -/

/-- Launch an atomic whose lanes passed; a checked one holds its split until its outcome is known (R209). -/
def issueAtomic (s : State) (i : Instr) (path : Nat) (ord : Nat) (x c : Nat → DWord) (ok : List LaneOk) : State :=
  let ps := ok.flatMap (fun y => y.grant.parts)
  let lanes := ok.map (fun y => (⟨y.lane, y.va, y.grant.parts, x y.lane, c y.lane, [BitVec.ofNat 8 y.grant.attr]⟩ : LaneReq))
  let f := newFlight s .atomic i (some path) lanes [BitVec.ofNat 64 ord] (orderAfter s ps (decide (2 ≤ ord)) true)
  let f := { f with stage := if rerunning s.team then 2 else 0 }
  let s := adv (launchFlight s f)
  if isChecked i then hold s (.flight f.id) else s

/-- The shared body of R201: `n` bytes, aligned to `n`. A release at module or fabric scope is held at its instruction
(08_ordering.md R191). -/
def atomic (s : State) (i : Instr) (a n path ord : Nat) (x c : Nat → DWord) : State :=
  if active s = 0 then adv s
  else
    match checkLanes s (me s) .atomic n (fun ea => if ea % n ≠ 0 then some Cause.misalign else none) (aAddrs s a) with
    | .error f => failing s (if 2 ≤ ord then mAscope s.split.mode else 0) (trapCheck s f.cause f.value f.mask)
    | .ok ok =>
      let go := fun s => issueAtomic (touchLanes s (me s) n ok) i path ord x c ok
      if 2 ≤ ord ∧ 4 ≤ mAscope s.split.mode then releasing s (mAscope s.split.mode) [] go else go s

/-- An operand of `n` bytes. -/
def atomSrc (s : State) (n r l : Nat) : DWord := if n = 8 then rv2 s r l else (rv s r l).setWidth 64

/-- A common atomic: ILLEGAL where TYPE is not in the instruction's column (R200). -/
def common (i : Instr) (n : Option Nat) (d a b : BitVec 6) (o : BitVec 2) (s : State) : Host.Outcome State Fault Refusal :=
  run i s (fun s =>
    match n with
    | none => illegal s i.word
    | some n => atomic s i a.toNat n 3 o.toNat (atomSrc s n b.toNat) (atomSrc s n d.toNat))

def execAadd (d a b : BitVec 6) (l : BitVec 4) (o : BitVec 2) (s : State) :=
  common (.aadd d a b l o) (atomInt s.split.mode) d a b o s
def execAmin (d a b : BitVec 6) (l : BitVec 4) (o : BitVec 2) (s : State) :=
  common (.amin d a b l o) (atomInt s.split.mode) d a b o s
def execAmax (d a b : BitVec 6) (l : BitVec 4) (o : BitVec 2) (s : State) :=
  common (.amax d a b l o) (atomInt s.split.mode) d a b o s
def execAand (d a b : BitVec 6) (l : BitVec 4) (o : BitVec 2) (s : State) :=
  common (.aand d a b l o) (atomInt s.split.mode) d a b o s
def execAor (d a b : BitVec 6) (l : BitVec 4) (o : BitVec 2) (s : State) :=
  common (.aor d a b l o) (atomInt s.split.mode) d a b o s
def execAxor (d a b : BitVec 6) (l : BitVec 4) (o : BitVec 2) (s : State) :=
  common (.axor d a b l o) (atomInt s.split.mode) d a b o s
def execAxch (d a b : BitVec 6) (l : BitVec 4) (o : BitVec 2) (s : State) :=
  common (.axch d a b l o) (atomAny s.split.mode) d a b o s
def execAcas (d a b : BitVec 6) (l : BitVec 4) (o : BitVec 2) (s : State) :=
  common (.acas d a b l o) (atomAny s.split.mode) d a b o s
def execAfadd (d a b : BitVec 6) (l : BitVec 4) (o : BitVec 2) (s : State) :=
  common (.afadd d a b l o) (atomFloat s.split.mode) d a b o s

/-- RED rises on STG and writes no register (R204); its ord is 0 or 2. -/
def execRed (o : BitVec 3) (a b : BitVec 6) (l : BitVec 4) (r : BitVec 1) (s : State) :=
  run (.red o a b l r) s (fun s =>
    match (if o = 6 then atomFloat s.split.mode else atomInt s.split.mode) with
    | none => illegal s (Instr.red o a b l r).word
    | some n => atomic s (.red o a b l r) a.toNat n 1 (2 * r.toNat) (atomSrc s n b.toNat) (fun _ => 0))

def execBump (d a b : BitVec 6) (l : BitVec 4) (o : BitVec 2) (s : State) :=
  run (.bump d a b l o) s (fun s =>
    atomic s (.bump d a b l o) a.toNat 16 3 o.toNat (fun k => (rv s b.toNat k).setWidth 64) (fun _ => 0))

def execSigi (d a b : BitVec 6) (o : BitVec 2) (s : State) :=
  run (.sigi d a b o) s (fun s =>
    atomic s (.sigi d a b o) a.toNat 8 3 o.toNat (fun k => (rv s b.toNat k).setWidth 64) (fun _ => 0))

def execSigd (d a b : BitVec 6) (o : BitVec 2) (s : State) :=
  run (.sigd d a b o) s (fun s =>
    atomic s (.sigd d a b o) a.toNat 8 3 o.toNat (fun k => (rv s b.toNat k).setWidth 64) (fun _ => 0))

def execTlsig (d a b : BitVec 6) (o : BitVec 2) (s : State) :=
  run (.tlsig d a b o) s (fun s => atomic s (.tlsig d a b o) a.toNat 8 3 o.toNat (rv2 s b.toNat) (fun _ => 0))

/-! ## ATOMIC_EXECUTE (R197 to R199, R216) -/

/-- The predictor's counter index (R197). -/
def predictorIdx (pa : Nat) : Nat := (pa / 128 % 4096) ^^^ (pa / 2 ^ 19 % 4096)

/-- Another core's L1 owns the line. -/
def ownedElsewhere (s : State) (core line : Nat) : Bool := s.cores.any (fun e => e.1 != core && e.2.l1own.contains line)

/-- The line holds an arm of CARM. -/
def armedLine (s : State) (line : Nat) : Bool :=
  s.dies.any (fun e => e.2.arms.any (fun a => lineOf a.addr == line && (match a.cond with | .word _ _ => true | _ => false)))

/-- Another atomic request for the line waits at its slice: of this module, with lanes that have not executed, or of another. -/
def otherWaits (s : State) (id line : Nat) : Bool :=
  s.flights.any (fun f => f.kind == .atomic && f.id != id && f.stage != 1 && readyAfter s f &&
    (linesOf (localParts f)).contains line) ||
  s.reqs.any (fun r => r.flight != some id && r.line == line && r.sent && !r.performed && !r.abandoned &&
    (match r.kind with | .atomic _ => true | _ => false))

/-- The slice's counter for a line (R197): the slices of a die number theirs apart. -/
def predictorKey (pa : Nat) : Nat := sliceOf (lineOf pa) * 4096 + predictorIdx pa

/-- Every core that owns a line gives it back to its home. -/
def recallLine (s : State) (line : Nat) : State :=
  ((s.cores.filter (fun e => e.2.l1own.contains line)).map Prod.fst).foldl (fun s c => leaveL1 s c line) s

/-- The line is granted, owned, to a core's L1. -/
def grantLine (s : State) (core line : Nat) : State := enterL1 s core line true

/-- Lanes whose status is a cause. -/
def failedLanes (ls : List LaneReq) (c : Nat) : List LaneReq := ls.filter (fun l => l.data.headD 0 == BitVec.ofNat 8 c)

def maskOfLanes (ls : List LaneReq) : Word := maskOf (fun k => ls.any (fun l => l.lane == k))

def lowVa (ls : List LaneReq) : DWord := BitVec.ofNat 64 ((ls.map LaneReq.va).headD 0)

/-- Choose the executing unit of a request of a core for a line and update the slice's predictor (R197, R198): a line that a
core owns is recalled before the home executes, and one of attribute 0 on the issuing die that is predicted uncontended
is granted to the issuing core. -/
def steer (s : State) (id core die : Nat) (attr0 : Bool) (pa : Nat) : State :=
  let line := lineOf pa
  let held := armedLine s line
  if place pa ≠ .hbm ∨ (!held && attr0 && (getCore s core).l1own.contains line) then s
  else
    let d := getDie s (paHome pa)
    let k := predictorKey pa
    let c := cget (fun _ => 0) d.predictor k
    let busy := ownedElsewhere s core line || otherWaits s id line
    let s1 := setDie s (paHome pa) { d with
      predictor := cput (fun _ => 0) d.predictor k (if busy then min 3 (c + 1) else c - 1) }
    let s2 := recallLine s1 line
    if die = paHome pa ∧ attr0 ∧ c ≤ 1 ∧ !held then grantLine s2 core line else s2

/-- An atomic reads its location in its core's L1, when that owns the line, and at its home otherwise. -/
def atomPoisoned (s : State) (core pa n : Nat) : Bool :=
  let c := getCore s core
  if c.l1own.contains (lineOf pa) then c.l1bad.contains (pa / 32) else poisoned s pa n

/-- Perform an atomic's write. The home slice, like any writer from outside, takes the line from every L1; a core that owns
it keeps it, and the fence windows of its other splits that track it roll back (08_ordering.md R185). -/
def writeAtom (s : State) (f : Flight) (ps : List (Nat × Nat)) (bs : List Byte) : State :=
  match (linesOf ps).find? (fun line => (getCore s f.core).l1own.contains line) with
  | none => performWrite s noCore ps bs
  | some line =>
    performWrite (rollbackAll s (trackers s line (fun t g x =>
      t.core == f.core && !(t.id == f.team && g.num == f.grp && x.num == f.spl)))) f.core ps bs

/-- Execute one lane: its request now holds its status (0, or a cause) and what it returns. -/
def executeLane (s : State) (f : Flight) (l : LaneReq) : State × LaneReq :=
  match l.parts.head? with
  | none => (s, l)
  | some (pa, n) =>
    if atomPoisoned s f.core pa n then (s, { l with data := [BitVec.ofNat 8 Cause.poison] })
    else
      match atomOp f.instr f.mode n (rdNat s pa n) l.a.toNat l.b.toNat with
      | .error c => (s, { l with data := [BitVec.ofNat 8 c] })
      | .ok (new, ret) =>
        let s1 := match new with
          | none => s
          | some v =>
            if f.stage = 2 ∧ !isSpad pa then s
            else
              let s2 := writeAtom s f [(pa, n)] (natLe n v)
              if isTerminal f.instr v then evalArms s2 [(pa, n)] true else s2
        (s1, { l with data := 0 :: natLe 8 ret })

/-- A lane whose location this module, or a re-run, executes itself. -/
def laneHere (f : Flight) (l : LaneReq) : Bool := l.parts.all (isLocal (dieModule f.die)) || f.stage == 2

/-- The line of an atomic's lane. -/
def laneLine (l : LaneReq) : Nat := lineOf ((l.parts.map Prod.fst).headD 0)

/-- Steer the request that some lanes of a flight make for a line (07_memory.md R160: they share one). -/
def steerLine (s : State) (f : Flight) (here : LaneReq → Bool) (line : Nat) : State :=
  match f.lanes.filter (fun l => here l && laneLine l == line) with
  | [] => s
  | l :: r =>
    steer s f.id f.core f.die ((l :: r).all (fun x => x.data.headD 0 == 0)) ((l.parts.map Prod.fst).headD 0)

/-- Execute some lanes of a flight one after another, in ascending order (R199); the first of a line steers it. -/
def executeHere (s : State) (f : Flight) (here : LaneReq → Bool) : State × List LaneReq :=
  let r := f.lanes.foldl (fun (acc : State × List LaneReq × List Nat) l =>
    if here l then
      let s0 := if acc.2.2.contains (laneLine l) then acc.1 else steerLine acc.1 f here (laneLine l)
      let (s1, l1) := executeLane s0 f l
      (s1, acc.2.1 ++ [l1], laneLine l :: acc.2.2)
    else (acc.1, acc.2.1 ++ [l], acc.2.2)) (s, [], [])
  (r.1, r.2.1)

/-- Ask another module for the lanes that name one of its lines: one request, whose lanes execute together (R199,
R217). -/
def askLanes (s : State) (f : Flight) (line : Nat) : State :=
  let ls := f.lanes.filter (fun l => !laneHere f l && laneLine l == line)
  newRequest s f.die (line * 128) (.atomic (ls.map LaneReq.lane)) (some f.id) (lowVa ls) f.pc (some (f.team, f.grp, f.spl))

/-- Execute the lanes of this module and ask the other modules for theirs. -/
def executeLanes (s : State) (f : Flight) : State × List LaneReq :=
  let (s1, ls) := executeHere s f (laneHere f)
  (((f.lanes.filter (fun l => !laneHere f l)).map laneLine).eraseDups.foldl (fun s line => askLanes s f line) s1, ls)

/-- The registers that a lane of an atomic receives. -/
def atomRegs (i : Instr) (m : DWord) (ret : List Byte) : List (Nat × Word) :=
  let v := leNat ret
  let lo := BitVec.ofNat 32 v
  let hi := BitVec.ofNat 32 (v / 2 ^ 32)
  let sized := fun (d : BitVec 6) => if wide m then [(d.toNat, lo), (d.toNat + 1, hi)] else [(d.toNat, lo)]
  let pair := fun (d : BitVec 6) => [(d.toNat, lo), (d.toNat + 1, hi)]
  match i with
  | .aadd d _ _ _ _ => sized d
  | .amin d _ _ _ _ => sized d
  | .amax d _ _ _ _ => sized d
  | .aand d _ _ _ _ => sized d
  | .aor d _ _ _ _ => sized d
  | .axor d _ _ _ _ => sized d
  | .axch d _ _ _ _ => sized d
  | .acas d _ _ _ _ => sized d
  | .afadd d _ _ _ _ => sized d
  | .bump d _ _ _ _ => pair d
  | .sigi d _ _ _ => pair d
  | .sigd d _ _ _ => pair d
  | .tlsig d _ _ _ => pair d
  | _ => []

/-- A deferred fault of an atomic's lanes (R218). -/
def atomFault (f : Flight) (c : Nat) (ls : List LaneReq) : DFault :=
  ⟨f.id, c, f.pc, lowVa ls, some (maskOfLanes ls), .anyWait, flightDests f, f.spl, none, none⟩

/-- The outcome of a checked atomic with failing lanes: the trap, at the next instruction (R209); in a bank
that is not running it is saved, and raised before the split's first instruction (R219). -/
def checkedOutcome (s : State) (f : Flight) (c : Nat) (ls : List LaneReq) : State :=
  let d := { atomFault f c ls with at_ := .result, dests := [], purge := if c = Cause.poison then some f.tag else none }
  let m := dieModule f.die
  if c = Cause.poison ∧ f.tag = 0 then moduleFatal s m
  else
    let s := if c = Cause.poison then markDead s m f.vi f.tag else s
    match findSplit s f.team f.grp f.spl with
    | none => if c = Cause.poison then startPurge s m f.vi f.tag (some d.value) [] else s
    | some _ =>
      if runningBank s f.core = f.bank then
        onSplit s f.team f.grp f.spl (fun s => deliver { s with split := { s.split with wait := none } } d)
      else
        updSplit (addFault s f.team f.grp d) f.team f.grp f.spl (fun x => { x with outcome := BitVec.ofNat 8 c })

/-- Every lane's outcome is known: write results, let the counter fall, and raise or defer what failed. -/
def finishAtomic (s : State) (f : Flight) : State :=
  let bad := f.lanes.filter (laneUncertain s f)
  let good := f.lanes.filter (fun l => !laneUncertain s f l)
  let s1 := good.foldl (fun s l =>
    if l.data.headD 1 = 0 then
      landLane s f l.lane (atomRegs f.instr f.mode (l.data.drop 1))
    else s) s
  let s2 := { s1 with reqs := s1.reqs.filter (fun r => r.flight != some f.id) }
  let s3 := flightDue (resultExists (dropFlight s2 f.id) f) f
  let pois := failedLanes good Cause.poison
  if isChecked f.instr then
    let causes := [Cause.poison, Cause.sigUnder, Cause.sigOver, Cause.tlBack, Cause.tlTop]
    match causes.find? (fun c => !(failedLanes good c).isEmpty) with
    | some c => checkedOutcome s3 f c (failedLanes good c)
    | none => if bad.isEmpty then s3 else checkedOutcome s3 f Cause.fabricUncertain bad
  else
    let s4 := if bad.isEmpty then s3 else addFault s3 f.team f.grp (atomFault f Cause.fabricUncertain bad)
    if pois.isEmpty then s4
    else consume s4 (dieModule f.die) f.vi f.tag f.team f.grp (atomFault f Cause.poison pois)

/-- A write-through store of the issuing die to one of the lines stands before the atomic. -/
def bufferBlocks (s : State) (f : Flight) : Bool :=
  s.reqs.any (fun r => r.die == f.die && !r.performed && !r.abandoned && r.flight != some f.id &&
    (linesOf (flightParts f)).contains r.line)

/-- An atomic can execute now, or, sent to other modules, has every answer. -/
def atomicReady (s : State) (f : Flight) : Bool :=
  f.kind == .atomic &&
  (if f.stage = 1 then !reqsOpen s f.id
   else readyAfter s f && !bufferBlocks s f && !leaseBlocks s (localParts f) && (localParts f).all (fun p => homeReady s p.1))

/-- A re-run that executed a global atomic is abandoned (15_checking.md R362). -/
def markRerun (s : State) (tid : Nat) : State :=
  match findTeam s tid with
  | none => s
  | some t =>
    match t.job with
    | none => s
    | some h => match h.rerun with | some c => cupAbandon s c 5 | none => s

/-- The atomic's own step. -/
def performAtomic (s : State) (f : Flight) : State :=
  if f.stage = 1 then finishAtomic s f
  else
    let (s1, ls) := executeLanes s f
    let s2 := if f.stage = 2 && (flightParts f).any (fun p => !isSpad p.1) then markRerun s1 f.team else s1
    let f1 := { f with lanes := ls }
    if reqsOpen s2 f.id then setFlight s2 { f1 with stage := 1 } else finishAtomic s2 f1

def execAtomicExecute (flight : Nat) (s : State) :=
  match findFlight s flight with
  | none => runEvent false s id
  | some f => runEvent (atomicReady s f) s (fun s => performAtomic s f)

/-! ## CARM (R210, R211, R194) -/

/-- Arm an object: ARMED and ARMK are set, and the record goes to its unit. -/
def armObject (s : State) (die objpa kind : Nat) (a : Arm) : State :=
  addArm (setBar { s with fresh := s.fresh + 1 } objpa { getBar s objpa with armed := true, armk := BitVec.ofNat 8 kind }) die a

/-- The arm record of the executing split. -/
def mkArm (s : State) (c : ArmCond) (addr : Nat) (va : DWord) (objpa : Nat) (objva : DWord) : Arm :=
  ⟨s.fresh, c, addr, va, objpa, objva, s.team.id, s.group.num, s.split.num, s.split.pc, active s, s.team.core, s.team.vi,
    s.team.rtag.toNat⟩

def execCarm (x y z : BitVec 5) (l : BitVec 4) (c : BitVec 5) (s : State) :=
  run (.carm x y z l c) s (fun s =>
    let m := objAddr s x
    let o := rs s y.toNat
    let n := condBytes c.toNat
    if active s = 0 then adv s
    else if m.toNat % n ≠ 0 then trap s Cause.misalign m (active s)
    else
      match check s (me s) .read m.toNat n with
      | .error (e, _) => trapCheck s e m.toNat (active s)
      | .ok g =>
        let pa := (g.parts.map Prod.fst).headD 0
        withObject (touch s (me s) m.toNat n) o .write true (fun s opa =>
          if (getBar s opa).armed then trap s Cause.access o (active s)
          else if armFull s m.toNat pa then hold s (.room (.arms m.toNat pa))
          else
            let a := mkArm s (.word c.toNat (rs s z.toNat)) pa m opa o
            adv (evalArm (armObject s (armDie pa) opa 2 a) (armDie pa) false a)))

/-- Remove the arm that an object holds, if it has one (R210): the state and whether there was one. -/
def cancelArm (s : State) (opa : Nat) : State × Bool :=
  match s.dies.findSome? (fun e => (e.2.arms.find? (fun a => a.object == opa)).map (fun a => (e.1, a))) with
  | none => (s, false)
  | some (die, a) => (setBar (dropWaiters (removeArm s die a.id) die a.id) opa { getBar s opa with armed := false, armk := 0 }, true)

/-- The shared cancel of CARM, MBXARM and EVARM; the waiter records of an event arm go with it. -/
def cancelForm (i : Instr) (y z : BitVec 5) (s : State) : Host.Outcome State Fault Refusal :=
  run i s (fun s =>
    if active s = 0 then adv s
    else withObject s (rs s y.toNat) .write true (fun s opa =>
      let (s1, b) := cancelArm s opa
      adv (ws s1 z.toNat (if b then 1 else 0))))

def execCarmCancel (y z : BitVec 5) (l : BitVec 4) (s : State) := cancelForm (.carmCancel y z l) y z s

end Sys2Proof.Machine
end

