-- ==== Sys2Proof/Machine/Flags.lean ====
section
/-! DEFINITION. The conditions that compares and predicate logic compute (03_integer.md R83, R84, R86, R90;
04_float.md R108). The machine's flags are the lane predicates and the 0 or 1 that a scalar compare writes. -/

namespace Sys2Proof.Machine

/-- ICMP's condition (R83) on operands read as numbers; `.tst` and `.ntst` act on the bits. -/
def icmpCond (c w : Nat) (x y : Int) : Bool :=
  let a := modW w x &&& modW w y
  match c with
  | 0 => decide (x = y)
  | 1 => decide (x ≠ y)
  | 2 => decide (x < y)
  | 3 => decide (x ≤ y)
  | 4 => decide (y < x)
  | 5 => decide (y ≤ x)
  | 6 => decide (a ≠ 0)
  | _ => decide (a = 0)

/-- SCMP's condition (R90). -/
def scmpCond (c : Nat) (x y : DWord) : Bool :=
  match c with
  | 0 => decide (x = y)
  | 1 => decide (x ≠ y)
  | 2 => decide (x.toInt < y.toInt)
  | 3 => decide (x.toInt ≤ y.toInt)
  | 4 => decide (y.toInt < x.toInt)
  | 5 => decide (y.toInt ≤ x.toInt)
  | 6 => decide (x.toNat < y.toNat)
  | _ => decide (y.toNat ≤ x.toNat)

/-- PLOG's function (R84), on whole masks. -/
def plogFn (c : Nat) (a b : Word) : Word :=
  match c with
  | 0 => a &&& b
  | 1 => a ||| b
  | 2 => a ^^^ b
  | 3 => a &&& ~~~ b
  | 4 => a ||| ~~~ b
  | 5 => ~~~ (a &&& b)
  | 6 => ~~~ (a ||| b)
  | _ => ~~~ (a ^^^ b)

/-- How two numbers stand, or that one of them is NaN. -/
inductive Order where
  | lt | eq | gt | unordered
  deriving DecidableEq, Repr

/-- FCMP's condition (R108). -/
def fcmpCond (c : Nat) (o : Order) : Bool :=
  match c with
  | 0 => o == .eq
  | 1 => o != .eq
  | 2 => o == .lt
  | 3 => o == .lt || o == .eq
  | 4 => o == .gt
  | 5 => o == .gt || o == .eq
  | 6 => o == .unordered
  | _ => o != .unordered

/-- VOTE's outcome for the active lanes `act` of one span (R86). -/
def voteOf (c : Nat) (act p : Word) : Bool :=
  match c with
  | 0 => decide (act &&& ~~~ p = 0)
  | 1 => decide (act &&& p ≠ 0)
  | _ => decide (act &&& ~~~ p = 0) || decide (act &&& p = 0)

/-- The lanes of the half that lane `l` lies in, under C16; all lanes otherwise. -/
def halfMask (m : DWord) (l : Nat) : Word := if mC16 m then (if l < 16 then 0x0000FFFF else 0xFFFF0000) else 0xFFFFFFFF

end Sys2Proof.Machine
end

