-- ==== Sys2Proof/Machine/Integer.lean ====
section
/-! DEFINITION. Integer, index, lane, predicate, scalar and MODE instructions (03_integer.md R69 to R93). -/

namespace Sys2Proof.Machine

/-- A typed instruction (R67): ILLEGAL under a TYPE that is no integer type. -/
def runTyped (i : Instr) (s : State) (f : Nat → Bool → State → State) : Host.Outcome State Fault Refusal :=
  run i s (fun s =>
    match typed s.split.mode with
    | none => illegal s i.word
    | some (w, sg) => f w sg s)

/-- The shared operation of R71: read both operands, compute exactly, write once. -/
def arith2 (s : State) (d a p b q w : Nat) (sg sat : Bool) (op : Int → Int → Int) : State :=
  adv (writeOps s d w sg sat (fun l => op (readOp s a p l w sg) (readOp s b q l w sg)) (actives s))

/-- The same with the old destination as third operand. -/
def arith3 (s : State) (d a p b q w : Nat) (sg sat : Bool) (op : Int → Int → Int → Int) : State :=
  adv (writeOps s d w sg sat
    (fun l => op (readOp s a p l w sg) (readOp s b q l w sg) (asInt w sg (if w = 64 then (rv2 s d l).toNat else (rv s d l).toNat)))
    (actives s))

/-- The same with one operand. -/
def arith1 (s : State) (d a p w : Nat) (sg sat : Bool) (op : Int → Int) : State :=
  adv (writeOps s d w sg sat (fun l => op (readOp s a p l w sg)) (actives s))

def execIadd (d a : BitVec 6) (p : BitVec 3) (b : BitVec 6) (q : BitVec 3) (s : State) :=
  runTyped (.iadd d a p b q) s (fun w sg s =>
    arith2 s d.toNat a.toNat p.toNat b.toNat q.toNat w sg (mSat s.split.mode) (fun x y => x + y))

def execIsub (d a : BitVec 6) (p : BitVec 3) (b : BitVec 6) (q : BitVec 3) (s : State) :=
  runTyped (.isub d a p b q) s (fun w sg s =>
    arith2 s d.toNat a.toNat p.toNat b.toNat q.toNat w sg (mSat s.split.mode) (fun x y => x - y))

def execImul (d a : BitVec 6) (p : BitVec 3) (b : BitVec 6) (q : BitVec 3) (s : State) :=
  runTyped (.imul d a p b q) s (fun w sg s =>
    arith2 s d.toNat a.toNat p.toNat b.toNat q.toNat w sg (mSat s.split.mode) (fun x y => x * y))

/-- IMULH: the floor of the full product by 2^w. -/
def execImulh (d a : BitVec 6) (p : BitVec 3) (b : BitVec 6) (q : BitVec 3) (s : State) :=
  runTyped (.imulh d a p b q) s (fun w sg s =>
    arith2 s d.toNat a.toNat p.toNat b.toNat q.toNat w sg false (fun x y => Int.fdiv (x * y) ((2 ^ w : Nat) : Int)))

def execImad (d a : BitVec 6) (p : BitVec 3) (b : BitVec 6) (q : BitVec 3) (s : State) :=
  runTyped (.imad d a p b q) s (fun w sg s =>
    arith3 s d.toNat a.toNat p.toNat b.toNat q.toNat w sg (mSat s.split.mode) (fun x y c => x * y + c))

def execImin (d a : BitVec 6) (p : BitVec 3) (b : BitVec 6) (q : BitVec 3) (s : State) :=
  runTyped (.imin d a p b q) s (fun w sg s =>
    arith2 s d.toNat a.toNat p.toNat b.toNat q.toNat w sg false (fun x y => if y < x then y else x))

def execImax (d a : BitVec 6) (p : BitVec 3) (b : BitVec 6) (q : BitVec 3) (s : State) :=
  runTyped (.imax d a p b q) s (fun w sg s =>
    arith2 s d.toNat a.toNat p.toNat b.toNat q.toNat w sg false (fun x y => if x < y then y else x))

def execIabs (d a : BitVec 6) (p : BitVec 3) (s : State) :=
  runTyped (.iabs d a p) s (fun w sg s =>
    arith1 s d.toNat a.toNat p.toNat w sg (mSat s.split.mode) (fun x => (x.natAbs : Int)))

def execIneg (d a : BitVec 6) (p : BitVec 3) (s : State) :=
  runTyped (.ineg d a p) s (fun w sg s =>
    arith1 s d.toNat a.toNat p.toNat w sg (mSat s.split.mode) (fun x => -x))

def execIsad (d a : BitVec 6) (p : BitVec 3) (b : BitVec 6) (q : BitVec 3) (s : State) :=
  runTyped (.isad d a p b q) s (fun w sg s =>
    arith3 s d.toNat a.toNat p.toNat b.toNat q.toNat w sg (mSat s.split.mode) (fun x y c => ((x - y).natAbs : Int) + c))

/-- The quotient of R72; Min by minus one leaves Min once it is written modulo 2^w. -/
def quot (x y : Int) : Int := if y = 0 then -1 else Int.tdiv x y

/-- The remainder of R72. -/
def rema (x y : Int) : Int := if y = 0 then x else Int.tmod x y

def execIdiv (d a : BitVec 6) (p : BitVec 3) (b : BitVec 6) (q : BitVec 3) (s : State) :=
  runTyped (.idiv d a p b q) s (fun w sg s => arith2 s d.toNat a.toNat p.toNat b.toNat q.toNat w sg false quot)

def execIrem (d a : BitVec 6) (p : BitVec 3) (b : BitVec 6) (q : BitVec 3) (s : State) :=
  runTyped (.irem d a p b q) s (fun w sg s => arith2 s d.toNat a.toNat p.toNat b.toNat q.toNat w sg false rema)

/-- The immediate of MOVI and IADDI (02_words.md R36): 12 bits, or 36 with LIM in front. -/
def limImm (s : State) (imm : BitVec 12) : Int :=
  match s.lim with
  | some h => (h ++ imm).toInt
  | none => imm.toInt

def execIaddi (d a : BitVec 6) (imm : BitVec 12) (s : State) :=
  runTyped (.iaddi d a imm) s (fun w sg s =>
    arith1 s d.toNat a.toNat 0 w sg (mSat s.split.mode) (fun x => x + limImm s imm))

/-- Element `i` of a packed register (R73). -/
def elemInt (x : Word) (i w : Nat) (sg : Bool) : Int := asInt w sg (x.toNat / 2 ^ (w * i))

/-- The sum of products of R73. -/
def dotInt (x y : Word) (w : Nat) (sg : Bool) : Int :=
  (List.range (32 / w)).foldl (fun t i => t + elemInt x i w sg * elemInt y i w sg) 0

def execIdot4 (d a : BitVec 6) (p : BitVec 3) (b : BitVec 6) (q : BitVec 3) (s : State) :=
  run (.idot4 d a p b q) s (fun s =>
    let ty := mType s.split.mode
    if ty < 4 ∨ 7 < ty then illegal s (Instr.idot4 d a p b q).word
    else
      let w := if ty < 6 then 16 else 8
      let sg := ty % 2 == 0
      adv (writeOps s d.toNat 32 sg (mSat s.split.mode)
        (fun l => asInt 32 sg (rv s d.toNat l).toNat +
          dotInt (src s a.toNat p.toNat l) (src s b.toNat q.toNat l) w sg) (actives s)))

/-! ## Logic (R74) -/

def logic2 (s : State) (d a p b q : Nat) (op : DWord → DWord → DWord) : State :=
  adv (writeSized s d (fun l => op (srcSized s a p l) (srcSized s b q l)) (actives s))

def execAnd (d a : BitVec 6) (p : BitVec 3) (b : BitVec 6) (q : BitVec 3) (s : State) :=
  run (.and d a p b q) s (fun s => logic2 s d.toNat a.toNat p.toNat b.toNat q.toNat (fun x y => x &&& y))

def execOr (d a : BitVec 6) (p : BitVec 3) (b : BitVec 6) (q : BitVec 3) (s : State) :=
  run (.or d a p b q) s (fun s => logic2 s d.toNat a.toNat p.toNat b.toNat q.toNat (fun x y => x ||| y))

def execXor (d a : BitVec 6) (p : BitVec 3) (b : BitVec 6) (q : BitVec 3) (s : State) :=
  run (.xor d a p b q) s (fun s => logic2 s d.toNat a.toNat p.toNat b.toNat q.toNat (fun x y => x ^^^ y))

def execAndn (d a : BitVec 6) (p : BitVec 3) (b : BitVec 6) (q : BitVec 3) (s : State) :=
  run (.andn d a p b q) s (fun s => logic2 s d.toNat a.toNat p.toNat b.toNat q.toNat (fun x y => x &&& ~~~ y))

def execNot (d a : BitVec 6) (p : BitVec 3) (s : State) :=
  run (.not d a p) s (fun s => adv (writeSized s d.toNat (fun l => ~~~ (srcSized s a.toNat p.toNat l)) (actives s)))

/-! ## Shifts and bit fields (R75 to R77) -/

/-- The shifts of R75 on the low `w` bits of `x`. -/
def shlW (w x n : Nat) : Int := if w ≤ n then 0 else ((x * 2 ^ n % 2 ^ w : Nat) : Int)
def shrW (w x n : Nat) : Int := ((x % 2 ^ w / 2 ^ n : Nat) : Int)
def shaW (w x n : Nat) : Int := Int.fdiv (asInt w true x) ((2 ^ n : Nat) : Int)
def rotlW (w x n : Nat) : Int :=
  let v := x % 2 ^ w
  let k := n % w
  (((v * 2 ^ k) % 2 ^ w + v / 2 ^ (w - k) : Nat) : Int)

/-- A shift of each active lane by an amount of its own. -/
def shiftOp (s : State) (d a p w : Nat) (sg : Bool) (n : Nat → Nat) (op : Nat → Nat → Nat → Int) : State :=
  adv (writeOps s d w sg false (fun l => op w (srcNat s w a p l) (n l)) (actives s))

/-- The shift amount in a register: Src(v[b], pb)[l][7:0]. -/
def amount (s : State) (b q : Nat) (l : Nat) : Nat := (src s b q l).toNat % 256

def execShl (d a : BitVec 6) (p : BitVec 3) (b : BitVec 6) (q : BitVec 3) (s : State) :=
  runTyped (.shl d a p b q) s (fun w sg s => shiftOp s d.toNat a.toNat p.toNat w sg (amount s b.toNat q.toNat) shlW)

def execShr (d a : BitVec 6) (p : BitVec 3) (b : BitVec 6) (q : BitVec 3) (s : State) :=
  runTyped (.shr d a p b q) s (fun w sg s => shiftOp s d.toNat a.toNat p.toNat w sg (amount s b.toNat q.toNat) shrW)

def execSha (d a : BitVec 6) (p : BitVec 3) (b : BitVec 6) (q : BitVec 3) (s : State) :=
  runTyped (.sha d a p b q) s (fun w sg s => shiftOp s d.toNat a.toNat p.toNat w sg (amount s b.toNat q.toNat) shaW)

def execRotl (d a : BitVec 6) (p : BitVec 3) (b : BitVec 6) (q : BitVec 3) (s : State) :=
  runTyped (.rotl d a p b q) s (fun w sg s => shiftOp s d.toNat a.toNat p.toNat w sg (amount s b.toNat q.toNat) rotlW)

def execShli (d a n : BitVec 6) (s : State) :=
  runTyped (.shli d a n) s (fun w sg s => shiftOp s d.toNat a.toNat 0 w sg (fun _ => n.toNat) shlW)

def execShri (d a n : BitVec 6) (s : State) :=
  runTyped (.shri d a n) s (fun w sg s => shiftOp s d.toNat a.toNat 0 w sg (fun _ => n.toNat) shrW)

def execShai (d a n : BitVec 6) (s : State) :=
  runTyped (.shai d a n) s (fun w sg s => shiftOp s d.toNat a.toNat 0 w sg (fun _ => n.toNat) shaW)

/-- A function of the unsigned w-bit operand of each active lane. -/
def unaryNat (s : State) (d a p w : Nat) (sg : Bool) (op : Nat → Nat) : State :=
  adv (writeOps s d w sg false (fun l => (op (srcNat s w a p l % 2 ^ w) : Int)) (actives s))

def popcNat (w x : Nat) : Nat := (List.range w).foldl (fun n i => n + x / 2 ^ i % 2) 0
def clzNat (w x : Nat) : Nat := if x = 0 then w else w - 1 - Nat.log2 x
def brevNat (w x : Nat) : Nat := (List.range w).foldl (fun n i => n + x / 2 ^ i % 2 * 2 ^ (w - 1 - i)) 0

def execPopc (d a : BitVec 6) (p : BitVec 3) (s : State) :=
  runTyped (.popc d a p) s (fun w sg s => unaryNat s d.toNat a.toNat p.toNat w sg (popcNat w))

def execClz (d a : BitVec 6) (p : BitVec 3) (s : State) :=
  runTyped (.clz d a p) s (fun w sg s => unaryNat s d.toNat a.toNat p.toNat w sg (clzNat w))

def execBrev (d a : BitVec 6) (p : BitVec 3) (s : State) :=
  runTyped (.brev d a p) s (fun w sg s => unaryNat s d.toNat a.toNat p.toNat w sg (brevNat w))

/-- BFX's field, extended from its top bit when signed (R77). -/
def bfxOf (w x pos len : Nat) (sg : Bool) : Int := if len = 0 then 0 else asInt len sg (x % 2 ^ w / 2 ^ pos)

/-- BFI's insertion (R77). -/
def bfiOf (w old x pos len : Nat) : Int :=
  let o := old % 2 ^ w
  (((o - o / 2 ^ pos % 2 ^ len * 2 ^ pos) + x % 2 ^ len * 2 ^ pos) % 2 ^ w : Nat)

def execBfx (d a l o : BitVec 6) (s : State) :=
  runTyped (.bfx d a l o) s (fun w sg s =>
    adv (writeOps s d.toNat w sg false (fun n => bfxOf w (srcNat s w a.toNat 0 n) o.toNat l.toNat sg) (actives s)))

def execBfi (d a l o : BitVec 6) (s : State) :=
  runTyped (.bfi d a l o) s (fun w sg s =>
    adv (writeOps s d.toNat w sg false
      (fun n => bfiOf w (srcNat s w d.toNat 0 n) (srcNat s w a.toNat 0 n) o.toNat l.toNat) (actives s)))

/-! ## Moves and selection (R78 to R82) -/

def execNop (s : State) := run .nop s adv

def execMov (d a : BitVec 6) (p : BitVec 3) (s : State) :=
  run (.mov d a p) s (fun s => adv (writeSized s d.toNat (fun l => srcSized s a.toNat p.toNat l) (actives s)))

def execMovi (d : BitVec 6) (imm : BitVec 12) (s : State) :=
  run (.movi d imm) s (fun s => adv (writeSized s d.toNat (fun _ => BitVec.ofInt 64 (limImm s imm)) (actives s)))

def execSel (d a : BitVec 6) (p : BitVec 3) (b : BitVec 6) (q : BitVec 3) (s : State) :=
  run (.sel d a p b q) s (fun s =>
    adv (writeSized s d.toNat
      (fun l => if rp s (mSp s.split.mode) l then srcSized s a.toNat p.toNat l else srcSized s b.toNat q.toNat l)
      (actives s)))

def execXshf (d a b : BitVec 6) (q : BitVec 3) (s : State) :=
  run (.xshf d a b q) s (fun s =>
    let w := spanOf s.split.mode
    let from_ := fun l => l - l % w + (src s b.toNat q.toNat l).toNat % w
    adv (writeSized s d.toNat (fun l => srcSized s a.toNat 0 (from_ l)) (actives s)))

/-- One byte of BYSEL's result (R81). -/
def byselByte (a old : Word) (c : Nat) : Nat :=
  let r := if c / 8 % 2 = 1 then old else a
  let x := r.toNat / 2 ^ (8 * (c % 4)) % 256
  match c / 16 % 4 with
  | 0 => x
  | 1 => 0
  | 2 => 255
  | _ => brevNat 8 x

def byselOf (a old ctl : Word) : Word :=
  BitVec.ofNat 32 ((List.range 4).foldl (fun n i => n + byselByte a old (ctl.toNat / 2 ^ (8 * i) % 256) * 2 ^ (8 * i)) 0)

def execBysel (d a : BitVec 6) (p : BitVec 3) (b : BitVec 6) (q : BitVec 3) (s : State) :=
  run (.bysel d a p b q) s (fun s =>
    adv (wvs s d.toNat (fun l => byselOf (src s a.toNat p.toNat l) (rv s d.toNat l) (src s b.toNat q.toNat l)) (actives s)))

def execS2v (d : BitVec 6) (a : BitVec 5) (s : State) :=
  run (.s2v d a) s (fun s => adv (writeSized s d.toNat (fun _ => rs s a.toNat) (actives s)))

def execV2s (d : BitVec 5) (a : BitVec 6) (p : BitVec 3) (l : BitVec 5) (s : State) :=
  run (.v2s d a p l) s (fun s =>
    let ty := mType s.split.mode
    let x := src s a.toNat p.toNat l.toNat
    adv (ws s d.toNat
      (if wide s.split.mode then src2 s a.toNat p.toNat l.toNat
       else if ty = 0 ∨ ty = 4 ∨ ty = 6 then x.signExtend 64 else x.setWidth 64)))

/-! ## The indexed region (R69, R70) -/

/-- INDEX_BOUND's TRAPV. -/
def indexValue (n base bound : Nat) : DWord := BitVec.ofNat 64 (n * 2 ^ 32 + base * 2 ^ 16 + bound)

def execSetx (n : BitVec 3) (a b : BitVec 5) (s : State) :=
  run (.setx n a b) s (fun s =>
    let base : BitVec 16 := (rs s a.toNat).setWidth 16
    let bound : BitVec 16 := (rs s b.toNat).setWidth 16
    if bound.toNat < base.toNat ∨ regionSize s < bound.toNat then
      trap s Cause.indexBound (indexValue n.toNat base.toNat bound.toNat) 0
    else adv (wx s n.toNat ⟨base, bound⟩))

/-- Physical register that an index operand names in lane `l`: the region starts at 64 (R64). -/
def regionReg (s : State) (n a p l : Nat) : Nat := (rx s n).base.toNat + (src s a p l).toNat

/-- The active lanes whose index is out of bounds. -/
def regionBad (s : State) (n a p : Nat) : Word :=
  active s &&& maskOf (fun l => decide ((rx s n).bound.toNat ≤ regionReg s n a p l))

def execMovx (d a : BitVec 6) (p : BitVec 3) (n : BitVec 3) (s : State) :=
  run (.movx d a p n) s (fun s =>
    let bad := regionBad s n.toNat a.toNat p.toNat
    if bad ≠ 0 then
      trap s Cause.indexBound (indexValue n.toNat (rx s n.toNat).base.toNat (rx s n.toNat).bound.toNat) bad
    else
      adv (wvs s d.toNat (fun l => rv s (64 + regionReg s n.toNat a.toNat p.toNat l) l) (actives s)))

/-- Write each active lane's indexed register. -/
def regionPut (s : State) (k : Nat → Nat) (f : Nat → Word) : List Nat → State
  | [] => s
  | l :: r => regionPut (wv s (64 + k l) l (f l)) k f r

def execStx (n : BitVec 3) (a : BitVec 6) (p : BitVec 3) (b : BitVec 6) (q : BitVec 3) (s : State) :=
  run (.stx n a p b q) s (fun s =>
    let bad := regionBad s n.toNat a.toNat p.toNat
    if bad ≠ 0 then
      trap s Cause.indexBound (indexValue n.toNat (rx s n.toNat).base.toNat (rx s n.toNat).bound.toNat) bad
    else
      adv (regionPut s (regionReg s n.toNat a.toNat p.toNat) (fun l => src s b.toNat q.toNat l) (actives s)))

/-! ## Compares and predicates (R83 to R86) -/

/-- Write predicate `d` in the active lanes from a lane test, and go on. -/
def predWrite (s : State) (d : Nat) (f : Nat → Bool) : State := adv (wp s d (active s) (maskOf f))

def execIcmp (d c : BitVec 3) (a : BitVec 6) (p : BitVec 3) (b : BitVec 6) (q : BitVec 3) (s : State) :=
  runTyped (.icmp d c a p b q) s (fun w sg s =>
    predWrite s d.toNat (fun l => icmpCond c.toNat w (readOp s a.toNat p.toNat l w sg) (readOp s b.toNat q.toNat l w sg)))

def execPlog (d c a b : BitVec 3) (s : State) :=
  run (.plog d c a b) s (fun s =>
    adv (wp s d.toNat (active s) (plogFn c.toNat (predMask s.group a.toNat) (predMask s.group b.toNat))))

def execPmovNz (d : BitVec 3) (a : BitVec 6) (p : BitVec 3) (s : State) :=
  run (.pmovNz d a p) s (fun s => predWrite s d.toNat (fun l => decide (src s a.toNat p.toNat l ≠ 0)))

def execPmovBit (d : BitVec 3) (a : BitVec 6) (p : BitVec 3) (k : BitVec 5) (s : State) :=
  run (.pmovBit d a p k) s (fun s => predWrite s d.toNat (fun l => (src s a.toNat p.toNat l).getLsbD k.toNat))

def execPmovSet (d : BitVec 3) (s : State) :=
  run (.pmovSet d) s (fun s => predWrite s d.toNat (fun _ => true))

def execPmovClr (d : BitVec 3) (s : State) :=
  run (.pmovClr d) s (fun s => predWrite s d.toNat (fun _ => false))

def execPmovNot (d a : BitVec 3) (s : State) :=
  run (.pmovNot d a) s (fun s => adv (wp s d.toNat (active s) (~~~ (predMask s.group a.toNat))))

def execPmovFroms (d : BitVec 3) (a : BitVec 5) (s : State) :=
  run (.pmovFroms d a) s (fun s => adv (wp s d.toNat (active s) ((rs s a.toNat).setWidth 32)))

def execVote (d c a : BitVec 3) (s : State) :=
  run (.vote d c a) s (fun s =>
    predWrite s d.toNat (fun l =>
      voteOf c.toNat (active s &&& halfMask s.split.mode l) (predMask s.group a.toNat)))

def execVoteBallot (d a : BitVec 3) (b : BitVec 5) (s : State) :=
  run (.voteBallot d a b) s (fun s =>
    let m := active s &&& predMask s.group a.toNat
    predWrite (ws s b.toNat (m.setWidth 64)) d.toNat (fun _ => decide (m ≠ 0)))

/-! ## Lane reductions (R87) -/

/-- The step operation of R87, brought back to w bits. -/
def iredOp (o w : Nat) (sg sat : Bool) (x y : Int) : Int :=
  match o with
  | 0 => if sat then clampInt (intMin w sg) (intMax w sg) (x + y) else asInt w sg (modW w (x + y))
  | 1 => if y < x then y else x
  | 2 => if x < y then y else x
  | 3 => asInt w sg (modW w x &&& modW w y)
  | 4 => asInt w sg (modW w x ||| modW w y)
  | _ => asInt w sg (modW w x ^^^ modW w y)

/-- The identity of a lane that is not active. -/
def iredId (o w : Nat) (sg : Bool) : Int :=
  match o with
  | 1 => intMax w sg
  | 2 => intMin w sg
  | 3 => asInt w sg (2 ^ w - 1)
  | _ => 0

/-- One butterfly step over 32 lane values. -/
def butterfly {α : Type} (z : α) (op : α → α → α) (t : List α) (k : Nat) : List α :=
  (List.range 32).map (fun l => op (t.getD l z) (t.getD (l ^^^ k) z))

/-- The steps of the butterfly order, largest distance first, within a span. -/
def reduceLanes {α : Type} (m : DWord) (z : α) (op : α → α → α) (t : List α) : List α :=
  (([16, 8, 4, 2, 1] : List Nat).filter (fun k => decide (k < spanOf m))).foldl (butterfly z op) t

def execIred (d a : BitVec 6) (o : BitVec 3) (s : State) :=
  runTyped (.ired d a o) s (fun w sg s =>
    let act := active s
    let t := (List.range 32).map (fun l => if laneBit act l then readOp s a.toNat 0 l w sg else iredId o.toNat w sg)
    let r := reduceLanes s.split.mode 0 (iredOp o.toNat w sg (mSat s.split.mode)) t
    adv (writeOps s d.toNat w sg false (fun l => r.getD l 0) (actives s)))

/-! ## Scalars (R88 to R92) -/

def scalar (s : State) (d a : Nat) (y : DWord) (op : DWord → DWord → DWord) : State := adv (ws s d (op (rs s a) y))

def shlS (x y : DWord) : DWord := x <<< (y.toNat % 64)
def shrS (x y : DWord) : DWord := x >>> (y.toNat % 64)

def execSadd (d a b : BitVec 5) (s : State) :=
  run (.sadd d a b) s (fun s => scalar s d.toNat a.toNat (rs s b.toNat) (fun x y => x + y))
def execSaddImm (d a : BitVec 5) (imm : BitVec 8) (s : State) :=
  run (.saddImm d a imm) s (fun s => scalar s d.toNat a.toNat (imm.signExtend 64) (fun x y => x + y))
def execSsub (d a b : BitVec 5) (s : State) :=
  run (.ssub d a b) s (fun s => scalar s d.toNat a.toNat (rs s b.toNat) (fun x y => x - y))
def execSsubImm (d a : BitVec 5) (imm : BitVec 8) (s : State) :=
  run (.ssubImm d a imm) s (fun s => scalar s d.toNat a.toNat (imm.signExtend 64) (fun x y => x - y))
def execSmul (d a b : BitVec 5) (s : State) :=
  run (.smul d a b) s (fun s => scalar s d.toNat a.toNat (rs s b.toNat) (fun x y => x * y))
def execSmulImm (d a : BitVec 5) (imm : BitVec 8) (s : State) :=
  run (.smulImm d a imm) s (fun s => scalar s d.toNat a.toNat (imm.signExtend 64) (fun x y => x * y))
def execSand (d a b : BitVec 5) (s : State) :=
  run (.sand d a b) s (fun s => scalar s d.toNat a.toNat (rs s b.toNat) (fun x y => x &&& y))
def execSandImm (d a : BitVec 5) (imm : BitVec 8) (s : State) :=
  run (.sandImm d a imm) s (fun s => scalar s d.toNat a.toNat (imm.signExtend 64) (fun x y => x &&& y))
def execSor (d a b : BitVec 5) (s : State) :=
  run (.sor d a b) s (fun s => scalar s d.toNat a.toNat (rs s b.toNat) (fun x y => x ||| y))
def execSorImm (d a : BitVec 5) (imm : BitVec 8) (s : State) :=
  run (.sorImm d a imm) s (fun s => scalar s d.toNat a.toNat (imm.signExtend 64) (fun x y => x ||| y))
def execSxor (d a b : BitVec 5) (s : State) :=
  run (.sxor d a b) s (fun s => scalar s d.toNat a.toNat (rs s b.toNat) (fun x y => x ^^^ y))
def execSxorImm (d a : BitVec 5) (imm : BitVec 8) (s : State) :=
  run (.sxorImm d a imm) s (fun s => scalar s d.toNat a.toNat (imm.signExtend 64) (fun x y => x ^^^ y))
def execSshl (d a b : BitVec 5) (s : State) :=
  run (.sshl d a b) s (fun s => scalar s d.toNat a.toNat (rs s b.toNat) shlS)
def execSshlImm (d a : BitVec 5) (imm : BitVec 8) (s : State) :=
  run (.sshlImm d a imm) s (fun s => scalar s d.toNat a.toNat (imm.signExtend 64) shlS)
def execSshr (d a b : BitVec 5) (s : State) :=
  run (.sshr d a b) s (fun s => scalar s d.toNat a.toNat (rs s b.toNat) shrS)
def execSshrImm (d a : BitVec 5) (imm : BitVec 8) (s : State) :=
  run (.sshrImm d a imm) s (fun s => scalar s d.toNat a.toNat (imm.signExtend 64) shrS)

def execScmp (d a b : BitVec 5) (c : BitVec 3) (s : State) :=
  run (.scmp d a b c) s (fun s =>
    adv (ws s d.toNat (if scmpCond c.toNat (rs s a.toNat) (rs s b.toNat) then 1 else 0)))

def execSmovi (d : BitVec 5) (imm : BitVec 19) (s : State) :=
  run (.smovi d imm) s (fun s => adv (ws s d.toNat (imm.signExtend 64)))

/-- The readiness word of a die (R92, code 11). -/
def readyWord (s : State) (die : Nat) : DWord :=
  let bit := fun (b : Bool) (k : Nat) => if b then 2 ^ k else 0
  BitVec.ofNat 64
    ((List.range 48).foldl (fun n c => n + bit (getCore s (die * 64 + c)).ready c) 0 +
      bit (getDie s die).hbmReady 48 +
      (List.range 4).foldl (fun n k =>
        n + bit ((getPort s (die / 16 * 64 + die % 16 * 4 + k)).state != 0) (49 + k)) 0 +
      bit (getDie s die).ready 53)

/-- JOBSEQ: the held job's number once it has been taken (12_work.md R283). -/
def sregJobSeq (s : State) : Word :=
  match s.team.job with
  | some j => if j.taken then j.seq else 0
  | none => 0

/-- The special registers of R92, but for LANE. -/
def sregValue (s : State) (n : Nat) : DWord :=
  match n with
  | 1 => BitVec.ofNat 64 s.group.num
  | 2 => BitVec.ofNat 64 s.split.num
  | 3 => BitVec.ofNat 64 s.team.teamix
  | 4 => BitVec.ofNat 64 s.group.role
  | 5 => BitVec.ofNat 64 (s.team.core % 64)
  | 6 => BitVec.ofNat 64 (thisDie s % 16)
  | 7 => BitVec.ofNat 64 (thisModule s)
  | 8 => Config.clk (thisDie s) s.tick
  | 9 => s.team.rtag.setWidth 64
  | 10 => BitVec.ofNat 64 (getCore s s.team.core).capreg
  | 11 => readyWord s (thisDie s)
  | 12 => (sregJobSeq s).setWidth 64
  | 13 => s.split.frame.trapc.setWidth 64
  | 14 => s.split.frame.trappc
  | 15 => s.split.frame.defpc
  | 16 => s.split.frame.trapv
  | 17 => s.split.frame.trapm.setWidth 64
  | 18 => (getCore s s.team.core).susp.setWidth 64
  | _ => s.split.mode

/-- SREG: PRIV of a privileged code is a check of the instruction's own, after R35's (log 104). -/
def execSreg (d : BitVec 5) (n : BitVec 9) (s : State) :=
  run (.sreg d n) s (fun s =>
    if 13 ≤ n.toNat ∧ n.toNat ≤ 18 ∧ userMode s then
      trap s Cause.priv ((Instr.sreg d n).word.setWidth 64) (active s)
    else if n.toNat = 0 then
      adv (wvs s d.toNat (fun l => BitVec.ofNat 32 (laneNo s.split.mode l)) (actives s))
    else adv (ws s d.toNat (sregValue s n.toNat)))

/-! ## MODE (R41, R93) -/

/-- Write MODE, or raise ILLEGAL and leave it. -/
def setMode (s : State) (w : Word) (ok : Bool) (m : DWord) : State :=
  if ok && modeOk m then adv { s with split := { s.split with mode := m } } else illegal s w

def execSetm (a : BitVec 5) (s : State) :=
  run (.setm a) s (fun s =>
    setMode s (Instr.setm a).word true (putBits (rs s a.toNat) 42 1 (bitsOf s.split.mode 42 1)))

def execModi (f : BitVec 4) (v : BitVec 12) (s : State) :=
  run (.modi f v) s (fun s =>
    match modiField f.toNat with
    | none => illegal s (Instr.modi f v).word
    | some (lo, w) =>
      setMode s (Instr.modi f v).word (decide (v.toNat < 2 ^ w)) (putBits s.split.mode lo w v.toNat))

end Sys2Proof.Machine
end

