-- ==== Sys2Proof/Machine/Transc.lean ====
section
/-! DEFINITION. The exact mathematical values behind FEXP2, FLOG2, FSIN, FCOS and FTANH (04_float.md R111).
Each function is evaluated in integer arithmetic at a precision `p`, with an error far below `slack`; the floor
of the value at a scale is read off once the error can no longer change it, and the precision doubles until
then (log 14). Arguments at which a value is a binary fraction are answered exactly. -/

namespace Sys2Proof.Machine

/-- Extra bits carried, and the error allowed for, in units of the last bit carried. -/
def guardBits : Nat := 64
def slack : Nat := 2 ^ 40

/-- ln 2 times 2^p. -/
def ln2At (p : Nat) : Nat := (List.range (p + 8)).foldl (fun a k => a + 2 ^ p / ((k + 1) * 2 ^ (k + 1))) 0

/-- arctan(1/n) times 2^p. -/
def atanInv (p n : Nat) : Int :=
  (List.range (p / 4 + 4)).foldl
    (fun a k =>
      let t : Int := ((2 ^ p / ((2 * k + 1) * n ^ (2 * k + 1)) : Nat) : Int)
      if k % 2 = 0 then a + t else a - t) 0

/-- 2π times 2^p, by Machin's formula. -/
def twoPiAt (p : Nat) : Nat := (32 * atanInv p 5 - 8 * atanInv p 239).toNat

/-- The sum of y^n / n! over `n` from 0, for y times 2^p. -/
def expSeries (p y : Nat) : Nat :=
  ((List.range (p + 4)).foldl (fun (a : Nat × Nat) n => (a.1 + a.2, a.2 * y / 2 ^ p / (n + 1))) (0, 2 ^ p)).1

/-- The sine and cosine of y times 2^p, y at most π/2. -/
def sinSeries (p y : Nat) : Int :=
  ((List.range (p + 4)).foldl
    (fun (a : Int × Nat) n =>
      (if n % 2 = 0 then a.1 + (a.2 : Int) else a.1 - (a.2 : Int),
        a.2 * y / 2 ^ p * y / 2 ^ p / ((2 * n + 2) * (2 * n + 3)))) (0, y)).1

def cosSeries (p y : Nat) : Int :=
  ((List.range (p + 4)).foldl
    (fun (a : Int × Nat) n =>
      (if n % 2 = 0 then a.1 + (a.2 : Int) else a.1 - (a.2 : Int),
        a.2 * y / 2 ^ p * y / 2 ^ p / ((2 * n + 1) * (2 * n + 2)))) (0, 2 ^ p)).1

/-- 2 artanh t times 2^p, for t times 2^p at most a third. -/
def atanhSeries (p t : Nat) : Nat :=
  2 * ((List.range (p / 3 + 4)).foldl
    (fun (a : Nat × Nat) k => (a.1 + a.2 / (2 * k + 1), a.2 * t / 2 ^ p * t / 2 ^ p)) (0, t)).1

/-- The floor of a value at scale `k` from approximations at rising precision. -/
def floorAt (ap : Nat → Nat) (k : Int) : (fuel p : Nat) → Nat
  | 0, p => scaleNat (ap (p + guardBits)) (k - (p + guardBits : Nat))
  | fuel + 1, p =>
    let w := p + guardBits
    let a := ap w
    let lo := scaleNat (a - slack) (k - (w : Nat))
    let hi := scaleNat (a + slack) (k - (w : Nat))
    if slack < a ∧ lo = hi then lo else floorAt ap k fuel (2 * p)

/-- The exponent from approximations at rising precision, as a guess. -/
def lgAt (ap : Nat → Nat) : (fuel p : Nat) → Int
  | 0, p => (Nat.log2 (ap (p + guardBits)) : Int) - (p + guardBits : Nat)
  | fuel + 1, p =>
    let w := p + guardBits
    let a := ap w
    if slack * 4 < a then (Nat.log2 a : Int) - (w : Nat) else lgAt ap fuel (2 * p)

/-- An irrational magnitude from its approximations, scaled by 2^e. -/
def Mag.approx (ap : Nat → Nat) (e : Int) : Mag :=
  let fl := fun (k : Int) => floorAt ap (k + e) Config.transcFuel ((k + e).toNat + 64)
  ⟨fl, fun _ => false, lgFrom fl (lgAt ap Config.transcFuel 64 + e)⟩

/-- |x| for m × 2^e, as a fixed-point number of p fraction bits. -/
def fixedAt (m : Nat) (e : Int) (p : Nat) : Nat := scaleNat m (e + p)

/-- 2^x. -/
def exp2Exact : FVal → Exact
  | .nan => .nan
  | .inf neg => if neg then .zero false else .inf false
  | .zero _ => .real false (Mag.dyadic 1 0)
  | .num neg m e =>
    if 0 ≤ e ∨ m % 2 ^ (-e).toNat = 0 then
      let n : Nat := min (scaleNat m e) 4000
      .real false (Mag.dyadic 1 (if neg then -(n : Int) else n))
    else if 4000 ≤ scaleNat m e then .real false (Mag.dyadic 1 (if neg then -4000 else 4000))
    else
      let i : Int := if neg then -(scaleNat m e : Int) - 1 else scaleNat m e
      let d := 2 ^ (-e).toNat
      let fr := if neg then d - m % d else m % d
      .real false (Mag.approx (fun p => expSeries p (fr * ln2At p / d)) i)

/-- log2 x, for x > 0. -/
def log2Exact : FVal → Exact
  | .nan => .nan
  | .inf neg => if neg then .nan else .inf false
  | .zero _ => .inf true
  | .num true _ _ => .nan
  | .num false m e =>
    let l := Nat.log2 m
    let i : Int := (l : Int) + e
    if m = 2 ^ l then exactInt i 0 false
    else
      -- z = m / 2^l in (1, 2); t = (z - 1) / (z + 1)
      let frac := fun p => atanhSeries p ((m - 2 ^ l) * 2 ^ p / (m + 2 ^ l)) * 2 ^ p / ln2At p
      if 0 ≤ i then .real false (Mag.approx (fun p => i.toNat * 2 ^ p + frac p) 0)
      else .real true (Mag.approx (fun p => (-i).toNat * 2 ^ p - frac p) 0)

/-- Turns modulo 1, as a numerator over 2^j with j at least 2. -/
def turnsOf (m : Nat) (e : Int) : Nat × Nat :=
  let j := max (-e).toNat 2
  (scaleNat m (e + j) % 2 ^ j, j)

/-- sin(2π n / 2^j) or cos, for a numerator within one turn: sign and magnitude; none at a multiple of a
quarter turn where the value is 0. -/
def trigExact (cos : Bool) (n j : Nat) : Option (Bool × Mag) :=
  let quarter := 2 ^ (j - 2)
  let n := if cos then (n + quarter) % 2 ^ j else n
  let neg := decide (2 * quarter ≤ n)
  let h := n % (2 * quarter)
  let a := if quarter < h then 2 * quarter - h else h
  if a = 0 then none
  else if a = quarter then some (neg, Mag.dyadic 1 0)
  else if 2 * a ≤ quarter then some (neg, Mag.approx (fun p => (sinSeries p (a * twoPiAt p / 2 ^ j)).toNat) 0)
  else some (neg, Mag.approx (fun p => (cosSeries p ((quarter - a) * twoPiAt p / 2 ^ j)).toNat) 0)

/-- sin(2πx), x in turns; a zero takes the sign of x. -/
def sinExact : FVal → Exact
  | .nan => .nan
  | .inf _ => .nan
  | .zero neg => .zero neg
  | .num neg m e =>
    let t := turnsOf m e
    match trigExact false t.1 t.2 with
    | none => .zero neg
    | some (ng, mg) => .real (ng != neg) mg

/-- cos(2πx), x in turns; a zero is +0. -/
def cosExact : FVal → Exact
  | .nan => .nan
  | .inf _ => .nan
  | .zero _ => .real false (Mag.dyadic 1 0)
  | .num _ m e =>
    let t := turnsOf m e
    match trigExact true t.1 t.2 with
    | none => .zero false
    | some (ng, mg) => .real ng mg

/-- e^y times 2^p divided by 2^i, with i the whole powers of two in it, for y times 2^p. -/
def expParts (p y : Nat) : Nat × Nat :=
  let l := ln2At p
  (expSeries p (y % l), y / l)

/-- tanh x; from 64 on it is closer to 1 than any rounding of R99 to R102 can see. -/
def tanhExact : FVal → Exact
  | .nan => .nan
  | .inf neg => .real neg (Mag.dyadic 1 0)
  | .zero neg => .zero neg
  | .num neg m e =>
    if 64 ≤ scaleNat m e then
      .real neg ⟨fun k => if 0 ≤ k then 2 ^ k.toNat - 1 else 0, fun _ => false, -1⟩
    else
      .real neg (Mag.approx (fun p =>
        let x := expParts p (2 * fixedAt m e p)
        let n := x.1 * 2 ^ x.2
        (n - 2 ^ p) * 2 ^ p / (n + 2 ^ p)) 0)

end Sys2Proof.Machine
end

