-- ==== Sys2Proof/Machine/FloatOps.lean ====
section
/-! DEFINITION. Floating-point lane instructions (04_float.md R104 to R114). -/

namespace Sys2Proof.Machine

/-- A floating-point word: ILLEGAL under a TYPE outside R104's list (R115). -/
def runFloat (i : Instr) (s : State) (f : Fmt → State → State) : Host.Outcome State Fault Refusal :=
  run i s (fun s =>
    match laneFmt s.split.mode with
    | none => illegal s i.word
    | some fm => f fm s)

/-- The encoding that a source holds: the pair for F64, else the low bits (R104). -/
def srcEnc (s : State) (f : Fmt) (n pat l : Nat) : Nat :=
  if f = .f64 then (src2 s n pat l).toNat else (src s n pat l).toNat % 2 ^ f.width

/-- The encoding with a flushed subnormal replaced by its zero (R103, R106). -/
def flushEnc (f : Fmt) (ftz : Bool) (x : Nat) : Nat :=
  if ftz && f.ftz && isSubnormal f x then f.sign (x / 2 ^ (f.width - 1) % 2 == 1) else x

/-- ReadF(Src(v[n], pat), l). -/
def srcF (s : State) (f : Fmt) (n pat l : Nat) : FVal := readF f (mFtz s.split.mode) (srcEnc s f n pat l)

/-- WriteF in the lanes of a list. -/
def writeF (s : State) (f : Fmt) (n : Nat) (v : Nat → Nat) (ls : List Nat) : State :=
  if f = .f64 then wv2s s n (fun l => BitVec.ofNat 64 (v l)) ls else wvs s n (fun l => BitVec.ofNat 32 (v l)) ls

/-- The word that lane `l` draws for its `k`-th call of RoundTo in an instruction. -/
def draw (s : State) (l k : Nat) : Word := genAfter (genOf s.group l) (k + 1)

/-- Under SR, every active lane has drawn `n` words. -/
def drawn (s : State) (n : Nat) : State := if mRnd s.split.mode = 5 then advanceGens s n (actives s) else s

/-- Round an exact value in each active lane, once, and go on. -/
def roundLanes (s : State) (f : Fmt) (d : Nat) (z : Nat → Exact) : State :=
  adv (drawn (writeF s f d (fun l => roundTo f (rmode s.split.mode) (draw s l 0) (z l)) (actives s)) 1)

/-- The shared description of R105. -/
def farith (s : State) (f : Fmt) (d a p b q : Nat) (op : Nat → FVal → FVal → FVal → Exact) : State :=
  roundLanes s f d (fun l =>
    op (mRnd s.split.mode) (srcF s f a p l) (srcF s f b q l) (srcF s f d 0 l))

def execFadd (d a : BitVec 6) (p : BitVec 3) (b : BitVec 6) (q : BitVec 3) (s : State) :=
  runFloat (.fadd d a p b q) s (fun f s =>
    farith s f d.toNat a.toNat p.toNat b.toNat q.toNat (fun r x y _ => fadd r x y))

def execFsub (d a : BitVec 6) (p : BitVec 3) (b : BitVec 6) (q : BitVec 3) (s : State) :=
  runFloat (.fsub d a p b q) s (fun f s =>
    farith s f d.toNat a.toNat p.toNat b.toNat q.toNat (fun r x y _ => fadd r x (fneg y)))

def execFmul (d a : BitVec 6) (p : BitVec 3) (b : BitVec 6) (q : BitVec 3) (s : State) :=
  runFloat (.fmul d a p b q) s (fun f s =>
    farith s f d.toNat a.toNat p.toNat b.toNat q.toNat (fun _ x y _ => (fmul x y).exact))

def execFma (d a : BitVec 6) (p : BitVec 3) (b : BitVec 6) (q : BitVec 3) (s : State) :=
  runFloat (.fma d a p b q) s (fun f s =>
    farith s f d.toNat a.toNat p.toNat b.toNat q.toNat (fun r x y c => fadd r (fmul x y) c))

def execFms (d a : BitVec 6) (p : BitVec 3) (b : BitVec 6) (q : BitVec 3) (s : State) :=
  runFloat (.fms d a p b q) s (fun f s =>
    farith s f d.toNat a.toNat p.toNat b.toNat q.toNat (fun r x y c => fadd r (fmul x y) (fneg c)))

def execFnma (d a : BitVec 6) (p : BitVec 3) (b : BitVec 6) (q : BitVec 3) (s : State) :=
  runFloat (.fnma d a p b q) s (fun f s =>
    farith s f d.toNat a.toNat p.toNat b.toNat q.toNat (fun r x y c => fadd r (fneg (fmul x y)) c))

/-! ## Minimum, maximum and signs (R106, R107) -/

/-- An encoding is a NaN. -/
def encNan (f : Fmt) (x : Nat) : Bool := decodeF f x == .nan

def encNeg (f : Fmt) (x : Nat) : Bool := x / 2 ^ (f.width - 1) % 2 == 1

/-- x stands below y, with −0 below +0; both are numbers. -/
def encBelow (f : Fmt) (x y : Nat) : Bool :=
  match fcompare (decodeF f x) (decodeF f y) with
  | some .lt => true
  | some .eq => encNeg f x && !encNeg f y
  | _ => false

/-- minimumNumber and maximumNumber on encodings already flushed. -/
def encMin (f : Fmt) (x y : Nat) : Nat :=
  if encNan f x then (if encNan f y then f.nan else y)
  else if encNan f y then x else if encBelow f y x then y else x

def encMax (f : Fmt) (x y : Nat) : Nat :=
  if encNan f x then (if encNan f y then f.nan else y)
  else if encNan f y then x else if encBelow f x y then y else x

/-- A function of two encodings, as FTZ shows them, in each active lane. -/
def encOp2 (s : State) (f : Fmt) (d a p b q : Nat) (op : Nat → Nat → Nat) : State :=
  let z := mFtz s.split.mode
  adv (writeF s f d (fun l => op (flushEnc f z (srcEnc s f a p l)) (flushEnc f z (srcEnc s f b q l))) (actives s))

def execFmin (d a : BitVec 6) (p : BitVec 3) (b : BitVec 6) (q : BitVec 3) (s : State) :=
  runFloat (.fmin d a p b q) s (fun f s => encOp2 s f d.toNat a.toNat p.toNat b.toNat q.toNat (encMin f))

def execFmax (d a : BitVec 6) (p : BitVec 3) (b : BitVec 6) (q : BitVec 3) (s : State) :=
  runFloat (.fmax d a p b q) s (fun f s => encOp2 s f d.toNat a.toNat p.toNat b.toNat q.toNat (encMax f))

/-- An encoding with its sign replaced; a NaN becomes canonical. -/
def withNewSign (f : Fmt) (x : Nat) (neg : Bool) : Nat :=
  if encNan f x then f.nan else f.sign neg + x % 2 ^ (f.width - 1)

def execFabs (d a : BitVec 6) (p : BitVec 3) (s : State) :=
  runFloat (.fabs d a p) s (fun f s =>
    adv (writeF s f d.toNat (fun l => withNewSign f (srcEnc s f a.toNat p.toNat l) false) (actives s)))

def execFneg (d a : BitVec 6) (p : BitVec 3) (s : State) :=
  runFloat (.fneg d a p) s (fun f s =>
    adv (writeF s f d.toNat
      (fun l => withNewSign f (srcEnc s f a.toNat p.toNat l) (!encNeg f (srcEnc s f a.toNat p.toNat l))) (actives s)))

def execFsgn (d a : BitVec 6) (p : BitVec 3) (b : BitVec 6) (q : BitVec 3) (s : State) :=
  runFloat (.fsgn d a p b q) s (fun f s =>
    adv (writeF s f d.toNat
      (fun l => withNewSign f (srcEnc s f a.toNat p.toNat l) (encNeg f (srcEnc s f b.toNat q.toNat l))) (actives s)))

/-! ## Compare and class (R108, R109) -/

def orderOf (x y : FVal) : Order :=
  match fcompare x y with
  | none => .unordered
  | some .lt => .lt
  | some .eq => .eq
  | some .gt => .gt

def execFcmp (d c : BitVec 3) (a : BitVec 6) (p : BitVec 3) (b : BitVec 6) (q : BitVec 3) (s : State) :=
  runFloat (.fcmp d c a p b q) s (fun f s =>
    predWrite s d.toNat (fun l =>
      fcmpCond c.toNat (orderOf (srcF s f a.toNat p.toNat l) (srcF s f b.toNat q.toNat l))))

/-- The class bit of R109. -/
def classBit (f : Fmt) (x : Nat) : Nat :=
  let neg := encNeg f x
  match decodeF f x with
  | .nan => if x / 2 ^ (f.m - 1) % 2 = 1 then 9 else 8
  | .inf _ => if neg then 0 else 7
  | .zero _ => if neg then 3 else 4
  | .num _ _ _ => if isSubnormal f x then (if neg then 2 else 5) else if neg then 1 else 6

def execFclass (d a : BitVec 6) (p : BitVec 3) (s : State) :=
  runFloat (.fclass d a p) s (fun f s =>
    adv (wvs s d.toNat (fun l => BitVec.ofNat 32 (2 ^ classBit f (srcEnc s f a.toNat p.toNat l))) (actives s)))

/-! ## Exponents (R110) -/

/-- FRINT's result: rounded to an integer with unit 1. -/
def frint (f : Fmt) (r : RMode) (g : Word) (x : FVal) : Nat :=
  match x with
  | .num neg m e =>
    let n := roundInt r.rnd neg (Mag.dyadic m e) g
    if n = 0 then f.sign neg else roundTo f r 0 (.real neg (Mag.dyadic n 0))
  | v => roundTo f r 0 v.exact

def execFrint (d a : BitVec 6) (p : BitVec 3) (s : State) :=
  runFloat (.frint d a p) s (fun f s =>
    adv (drawn (writeF s f d.toNat
      (fun l => frint f (rmode s.split.mode) (draw s l 0) (srcF s f a.toNat p.toNat l)) (actives s)) 1))

/-- x × 2^n. Beyond ±6,000 every format overflows, or rounds as it does at the bound. -/
def scaleBy (x : FVal) (n : Int) : Exact :=
  match x with
  | .num neg m e => .real neg (Mag.dyadic m (e + clampInt (-6000) 6000 n))
  | v => v.exact

def execFscale (d a : BitVec 6) (p : BitVec 3) (b : BitVec 6) (q : BitVec 3) (s : State) :=
  runFloat (.fscale d a p b q) s (fun f s =>
    roundLanes s f d.toNat (fun l => scaleBy (srcF s f a.toNat p.toNat l) (src s b.toNat q.toNat l).toInt))

/-- FGETEXP's result. -/
def getExp (x : FVal) : Word :=
  match x with
  | .nan => 0x80000001
  | .inf _ => 0x7FFFFFFF
  | .zero _ => 0x80000000
  | .num _ m e => BitVec.ofInt 32 ((Nat.log2 m : Int) + e)

def execFgetexp (d a : BitVec 6) (p : BitVec 3) (s : State) :=
  runFloat (.fgetexp d a p) s (fun f s =>
    adv (wvs s d.toNat (fun l => getExp (srcF s f a.toNat p.toNat l)) (actives s)))

/-! ## Division, roots and transcendentals (R111) -/

def execFdiv (d a : BitVec 6) (p : BitVec 3) (b : BitVec 6) (q : BitVec 3) (s : State) :=
  runFloat (.fdiv d a p b q) s (fun f s =>
    farith s f d.toNat a.toNat p.toNat b.toNat q.toNat (fun _ x y _ => fdiv x y))

/-- √x. -/
def sqrtExact : FVal → Exact
  | .nan => .nan
  | .inf neg => if neg then .nan else .inf false
  | .zero neg => .zero neg
  | .num true _ _ => .nan
  | .num false m e => .real false (Mag.sqrt m e)

/-- 1/√x. -/
def rsqrtExact : FVal → Exact
  | .nan => .nan
  | .inf neg => if neg then .nan else .zero false
  | .zero neg => .inf neg
  | .num true _ _ => .nan
  | .num false m e => .real false (Mag.rsqrt m e)

/-- A function of one value in each active lane, rounded once. -/
def funary (s : State) (f : Fmt) (d a p : Nat) (op : FVal → Exact) : State :=
  roundLanes s f d (fun l => op (srcF s f a p l))

def execFsqrt (d a : BitVec 6) (p : BitVec 3) (s : State) :=
  runFloat (.fsqrt d a p) s (fun f s => funary s f d.toNat a.toNat p.toNat sqrtExact)
def execFrcp (d a : BitVec 6) (p : BitVec 3) (s : State) :=
  runFloat (.frcp d a p) s (fun f s => funary s f d.toNat a.toNat p.toNat (fdiv (.num false 1 0)))
def execFrsq (d a : BitVec 6) (p : BitVec 3) (s : State) :=
  runFloat (.frsq d a p) s (fun f s => funary s f d.toNat a.toNat p.toNat rsqrtExact)
def execFexp2 (d a : BitVec 6) (p : BitVec 3) (s : State) :=
  runFloat (.fexp2 d a p) s (fun f s => funary s f d.toNat a.toNat p.toNat exp2Exact)
def execFlog2 (d a : BitVec 6) (p : BitVec 3) (s : State) :=
  runFloat (.flog2 d a p) s (fun f s => funary s f d.toNat a.toNat p.toNat log2Exact)
def execFsin (d a : BitVec 6) (p : BitVec 3) (s : State) :=
  runFloat (.fsin d a p) s (fun f s => funary s f d.toNat a.toNat p.toNat sinExact)
def execFcos (d a : BitVec 6) (p : BitVec 3) (s : State) :=
  runFloat (.fcos d a p) s (fun f s => funary s f d.toNat a.toNat p.toNat cosExact)
def execFtanh (d a : BitVec 6) (p : BitVec 3) (s : State) :=
  runFloat (.ftanh d a p) s (fun f s => funary s f d.toNat a.toNat p.toNat tanhExact)

/-! ## Dot products (R112) -/

/-- The exact sum of two values, kept as a value; an exact zero has the sign that R105 gives it (log 105). -/
def addV (rnd : Nat) : FVal → FVal → FVal
  | .nan, _ => .nan
  | _, .nan => .nan
  | .inf a, .inf b => if a == b then .inf a else .nan
  | .inf a, _ => .inf a
  | _, .inf b => .inf b
  | .zero a, .zero b => .zero (zeroSign rnd a b)
  | .zero _, y => y
  | x, .zero _ => x
  | .num a m e, .num b n k =>
    let lo := min e k
    let t := numAt a m e lo + numAt b n k lo
    if t = 0 then .zero (rnd == 3) else .num (decide (t < 0)) t.natAbs lo

/-- z plus the products of the elements of two registers; FTZ does not flush an element (log 72). -/
def fdot (rnd : Nat) (f : Fmt) (w n : Nat) (x y : Word) (z : FVal) : FVal :=
  (List.range n).foldl
    (fun z i => addV rnd z (fmul (decodeF f (x.toNat / 2 ^ (w * i) % 2 ^ f.width)) (decodeF f (y.toNat / 2 ^ (w * i) % 2 ^ f.width)))) z

/-- The shared body of FDOT2 and FDOT4. -/
def dotLanes (s : State) (f : Fmt) (w n d a p b q : Nat) : State :=
  roundLanes s .f32 d (fun l =>
    (fdot (mRnd s.split.mode) f w n (src s a p l) (src s b q l) (srcF s .f32 d 0 l)).exact)

def execFdot2 (d a : BitVec 6) (p : BitVec 3) (b : BitVec 6) (q : BitVec 3) (s : State) :=
  run (.fdot2 d a p b q) s (fun s =>
    match mType s.split.mode with
    | 10 => dotLanes s .f16 16 2 d.toNat a.toNat p.toNat b.toNat q.toNat
    | 11 => dotLanes s .bf16 16 2 d.toNat a.toNat p.toNat b.toNat q.toNat
    | _ => illegal s (Instr.fdot2 d a p b q).word)

def execFdot4 (d a : BitVec 6) (p : BitVec 3) (b : BitVec 6) (q : BitVec 3) (s : State) :=
  run (.fdot4 d a p b q) s (fun s =>
    match mType s.split.mode with
    | 12 => dotLanes s .e4m3 8 4 d.toNat a.toNat p.toNat b.toNat q.toNat
    | 13 => dotLanes s .e5m2 8 4 d.toNat a.toNat p.toNat b.toNat q.toNat
    | 14 => dotLanes s .e3m2 8 4 d.toNat a.toNat p.toNat b.toNat q.toNat
    | 15 => dotLanes s .e2m1 8 4 d.toNat a.toNat p.toNat b.toNat q.toNat
    | _ => illegal s (Instr.fdot4 d a p b q).word)

/-! ## Lane reductions (R113, R114) -/

/-- FRED's step on encodings. -/
def fredOp (f : Fmt) (r : RMode) (o : Nat) (x y : Nat) : Nat :=
  match o with
  | 0 => roundTo f r 0 (fadd r.rnd (decodeF f x) (decodeF f y))
  | 1 => encMin f x y
  | _ => encMax f x y

def execFred (d a : BitVec 6) (o : BitVec 3) (s : State) :=
  runFloat (.fred d a o) s (fun f s =>
    let m := s.split.mode
    let r : RMode := { rmode m with rnd := if mRnd m = 5 then 0 else mRnd m }
    let id := if o.toNat = 0 then f.sign true else f.nan
    let act := active s
    let t := (List.range 32).map (fun l => if laneBit act l then flushEnc f (mFtz m) (srcEnc s f a.toNat 0 l) else id)
    let res := reduceLanes m id (fredOp f r o.toNat) t
    adv (writeF s f d.toNat (fun l => res.getD l 0) (actives s)))

/-- (value, payload) `x` ranks above `y` (R114). -/
def ranksAbove (f : Fmt) (x y : Nat × Nat) : Bool :=
  match encNan f x.1, encNan f y.1 with
  | false, true => true
  | true, false => false
  | true, true => decide (x.2 < y.2)
  | false, false =>
    if encBelow f y.1 x.1 then true else if encBelow f x.1 y.1 then false else decide (x.2 < y.2)

/-- The top-ranked lane of a list. -/
def topLane (f : Fmt) (v : Nat → Nat × Nat) : List Nat → Option (Nat × Nat)
  | [] => none
  | l :: r =>
    match topLane f v r with
    | none => some (v l)
    | some t => some (if ranksAbove f t (v l) then t else v l)

def execArgmx (d a : BitVec 6) (p : BitVec 3) (b : BitVec 6) (q : BitVec 3) (s : State) :=
  runFloat (.argmx d a p b q) s (fun f s =>
    if d.toNat % (if f = .f64 then 4 else 2) ≠ 0 then illegal s (Instr.argmx d a p b q).word
    else
      let v := fun l => (flushEnc f (mFtz s.split.mode) (srcEnc s f a.toNat p.toNat l), (src s b.toNat q.toNat l).toNat)
      let best := fun l => (topLane f v (lanesOf (active s &&& halfMask s.split.mode l))).getD (0, 0)
      let val := fun l => if encNan f (best l).1 then f.nan else (best l).1
      let s' := writeF s f d.toNat val (actives s)
      adv (wvs s' (d.toNat + (if f = .f64 then 2 else 1)) (fun l => BitVec.ofNat 32 (best l).2) (actives s)))

end Sys2Proof.Machine
end

