-- ==== Sys2Proof/Machine/Convert.lean ====
section
/-! DEFINITION. Conversion, quantisation and random-number instructions (05_convert.md R117 to R127). -/

namespace Sys2Proof.Machine

/-- An element format of CVT: floating, or an integer of a width and signedness. -/
inductive Elem where
  | flt (f : Fmt)
  | int (w : Nat) (sg : Bool)
  deriving DecidableEq, Repr

/-- The format of a TYPE code (R40). -/
def typeElem (t : Nat) : Elem :=
  match t with
  | 0 => .int 32 true
  | 1 => .int 32 false
  | 2 => .int 64 true
  | 3 => .int 64 false
  | 4 => .int 16 true
  | 5 => .int 16 false
  | 6 => .int 8 true
  | 7 => .int 8 false
  | 8 => .flt .f32
  | 9 => .flt .f64
  | 10 => .flt .f16
  | 11 => .flt .bf16
  | 12 => .flt .e4m3
  | 13 => .flt .e5m2
  | 14 => .flt .e3m2
  | _ => .flt .e2m1

/-- Container width (R117). -/
def Elem.container : Elem → Nat
  | .int w _ => w
  | .flt .f64 => 64
  | .flt .f32 => 32
  | .flt .f16 => 16
  | .flt .bf16 => 16
  | .flt .e2m1 => 4
  | .flt _ => 8

/-- Element bits within the container. -/
def Elem.bits : Elem → Nat
  | .int w _ => w
  | .flt f => f.width

/-- SUB is in the element's range (R117). -/
def subOk (e : Elem) (sub : Nat) : Bool := decide (32 ≤ e.container) || decide (sub < 32 / e.container)

/-- The element at position `i` of a lane operand. -/
def elemAt (s : State) (e : Elem) (n pat i l : Nat) : Nat :=
  if e.container = 64 then (src2 s n pat l).toNat
  else if e.container = 32 then (src s n pat l).toNat
  else (src s n pat l).toNat / 2 ^ (e.container * i) % 2 ^ e.bits

/-- Place(v, fmt, position, enc): the container is replaced, the rest of the register stays (R117). -/
def place32 (old : Nat) (w i enc : Nat) : Nat :=
  old - old / 2 ^ (w * i) % 2 ^ w * 2 ^ (w * i) + enc % 2 ^ w * 2 ^ (w * i)

/-- Write an element at position `i` in each lane of a list. -/
def writeElem (s : State) (e : Elem) (n i : Nat) (v : Nat → Nat) (ls : List Nat) : State :=
  if e.container = 64 then wv2s s n (fun l => BitVec.ofNat 64 (v l)) ls
  else if e.container = 32 then wvs s n (fun l => BitVec.ofNat 32 (v l)) ls
  else wvs s n (fun l => BitVec.ofNat 32 (place32 (rv s n l).toNat e.container i (v l))) ls

/-- Float to integer (R124). -/
def toInt (rnd : Nat) (g : Word) (w : Nat) (sg : Bool) (x : FVal) : Int :=
  match x with
  | .nan => 0
  | .zero _ => 0
  | .inf neg => if neg then intMin w sg else intMax w sg
  | .num neg m e =>
    -- beyond 2^80 the clamp decides
    if 80 ≤ (Nat.log2 m : Int) + e then (if neg then intMin w sg else intMax w sg)
    else
      let n : Int := roundInt rnd neg (Mag.dyadic m e) g
      clampInt (intMin w sg) (intMax w sg) (if neg then -n else n)

/-- One element converted (R123). -/
def convert (src dst : Elem) (r : RMode) (g : Word) (x : Nat) : Nat :=
  match src, dst with
  | .flt f, .flt t => roundTo t r g (readF f r.ftz x).exact
  | .int w sg, .flt t => roundTo t r g (exactInt (asInt w sg x) 0 false)
  | .flt f, .int w sg => modW w (toInt r.rnd g w sg (readF f r.ftz x))
  | .int w sg, .int w' sg' =>
    let n := asInt w sg x
    modW w' (if r.sat then clampInt (intMin w' sg') (intMax w' sg') n else n)

/-- Draws that a conversion makes under SR. -/
def convertDraws (src dst : Elem) : Nat :=
  match src, dst with
  | .int _ _, .int _ _ => 0
  | _, _ => 1

/-- CVT's source and destination formats, when its XS condition holds (R122). -/
def cvtFormats (m : DWord) (x t : Nat) : Option (Elem × Elem) :=
  match x with
  | 0 => some (typeElem t, typeElem (mType m))
  | 1 => if t = 6 then some (.flt .mxint8, typeElem (mType m)) else none
  | 2 => if mType m = 6 then some (typeElem t, .flt .mxint8) else none
  | _ => if t = 7 then some (.flt .e8m0, typeElem (mType m)) else none

def execCvt (d a : BitVec 6) (p : BitVec 3) (x : BitVec 2) (t : BitVec 4) (s : State) :=
  run (.cvt d a p x t) s (fun s =>
    let m := s.split.mode
    match cvtFormats m x.toNat t.toNat with
    | none => illegal s (Instr.cvt d a p x t).word
    | some (fs, ft) =>
      if !subOk fs (mSub m) || !subOk ft (mSub m) then illegal s (Instr.cvt d a p x t).word
      else
        let s' := writeElem s ft d.toNat (mSub m)
          (fun l => convert fs ft (rmode m) (draw s l 0) (elemAt s fs a.toNat p.toNat (mSub m) l)) (actives s)
        adv (drawn s' (convertDraws fs ft)))

/-- CVTP's destination, when TYPE and SUB are accepted (R125). -/
def cvtpFmt (m : DWord) : Option Fmt :=
  match mType m with
  | 10 => if mSub m = 0 then some .f16 else none
  | 11 => if mSub m = 0 then some .bf16 else none
  | 12 => if mSub m ≤ 1 then some .e4m3 else none
  | 13 => if mSub m ≤ 1 then some .e5m2 else none
  | 14 => if mSub m ≤ 1 then some .e3m2 else none
  | 15 => if mSub m ≤ 3 then some .e2m1 else none
  | _ => none

def execCvtp (d a : BitVec 6) (p : BitVec 3) (b : BitVec 6) (q : BitVec 3) (s : State) :=
  run (.cvtp d a p b q) s (fun s =>
    let m := s.split.mode
    match cvtpFmt m with
    | none => illegal s (Instr.cvtp d a p b q).word
    | some f =>
      let w := (Elem.flt f).container
      let one := fun k n pat l => roundTo f (rmode m) (draw s l k) (srcF s .f32 n pat l).exact
      let s' := wvs s d.toNat (fun l => BitVec.ofNat 32
        (place32 (place32 (rv s d.toNat l).toNat w (2 * mSub m) (one 0 a.toNat p.toNat l)) w (2 * mSub m + 1)
          (one 1 b.toNat q.toNat l))) (actives s)
      adv (drawn s' 2))

/-! ## The generator (R118 to R121) -/

/-- Set the generators of the lanes of a list; a zero state becomes 1. -/
def setGens (s : State) (f : Nat → Word) : List Nat → State
  | [] => s
  | l :: r => setGens
      { s with group := { s.group with gens := cput genInit s.group.gens l (if f l = 0 then 1 else f l) } } f r

def execSeed (a : BitVec 5) (s : State) :=
  run (.seed a) s (fun s =>
    let k : Word := (rs s a.toNat).setWidth 32
    adv (setGens s (fun l => k ^^^ BitVec.ofNat 32 (laneNo s.split.mode l * 0x9E3779B9)) (actives s)))

def execRngU32 (d : BitVec 6) (s : State) :=
  run (.rngU32 d) s (fun s => adv (advanceGens (wvs s d.toNat (fun l => draw s l 0) (actives s)) 1 (actives s)))

/-- g[31:8] × 2^-24 in F32; exact, so no rounding acts. -/
def unitF32 (g : Word) : Nat := roundTo .f32 ⟨0, false, false⟩ 0 (exactInt (g.toNat / 256 : Nat) (-24) false)

def execRngUnit (d : BitVec 6) (s : State) :=
  run (.rngUnit d) s (fun s =>
    adv (advanceGens (wvs s d.toNat (fun l => BitVec.ofNat 32 (unitF32 (draw s l 0))) (actives s)) 1 (actives s)))

def execRngGet (d : BitVec 6) (s : State) :=
  run (.rngGet d) s (fun s => adv (wvs s d.toNat (fun l => genOf s.group l) (actives s)))

def execRngSet (a : BitVec 6) (p : BitVec 3) (s : State) :=
  run (.rngSet a p) s (fun s => adv (setGens s (fun l => src s a.toNat p.toNat l) (actives s)))

/-! ## MX blocks (R126, R127) -/

/-- The element format of QMX and QMXA, with its emax. -/
def mxFmt (m : DWord) : Option (Fmt × Int) :=
  if mC16 m then none
  else
    match mType m with
    | 6 => some (.mxint8, 0)
    | 12 => some (.e4m3, 8)
    | 13 => some (.e5m2, 15)
    | 14 => some (.e3m2, 4)
    | 15 => some (.e2m1, 2)
    | _ => none

/-- A NaN or an infinity among the values. -/
def special : FVal → Bool
  | .nan => true
  | .inf _ => true
  | _ => false

/-- Floor(Log2) of a number; none for zero and the rest. -/
def lgOf : FVal → Option Int
  | .num _ m e => some ((Nat.log2 m : Int) + e)
  | _ => none

/-- The shared scale of R126. -/
def qmxScale (emax : Int) (vals : List FVal) : Nat :=
  if vals.any special then 0xFF
  else
    match (vals.filterMap lgOf).foldl
        (fun (b : Option Int) x => match b with
          | none => some x
          | some y => some (max x y)) none with
    | none => 0x7F
    | some l => (clampInt 0 254 (l - emax + 127)).toNat

def execQmx (d a : BitVec 6) (p : BitVec 3) (s : State) :=
  run (.qmx d a p) s (fun s =>
    match mxFmt s.split.mode with
    | none => illegal s (Instr.qmx d a p).word
    | some (_, emax) =>
      let e := qmxScale emax ((actives s).map (fun l => srcF s .f32 a.toNat p.toNat l))
      adv (wvs s d.toNat (fun _ => BitVec.ofNat 32 e) (actives s)))

/-- One element of QMXA. -/
def qmxaElem (f : Fmt) (r : RMode) (g : Word) (x : FVal) (e : Nat) : Nat :=
  if e = 0xFF then f.nan else roundTo f { r with sat := true } g (scaleBy x (127 - (e : Int)))

def execQmxa (d a : BitVec 6) (p : BitVec 3) (b : BitVec 6) (q : BitVec 3) (s : State) :=
  run (.qmxa d a p b q) s (fun s =>
    let m := s.split.mode
    match mxFmt m with
    | none => illegal s (Instr.qmxa d a p b q).word
    | some (f, _) =>
      if !subOk (.flt f) (mSub m) then illegal s (Instr.qmxa d a p b q).word
      else
        let s' := writeElem s (.flt f) d.toNat (mSub m)
          (fun l => qmxaElem f (rmode m) (draw s l 0) (srcF s .f32 a.toNat p.toNat l)
            ((src s b.toNat q.toNat l).toNat % 256)) (actives s)
        adv (drawn s' 1))

end Sys2Proof.Machine
end

