-- ==== Sys2Proof/Machine/Descriptor.lean ====
section
/-! DEFINITION. Handle descriptors (11_copy.md R249 to R252) and the reads and writes that the engines share
(07_memory.md R162, R418; 10_matrix.md R235; 11_copy.md R259). -/

namespace Sys2Proof.Machine

/-! ## The fields (R249) -/

/-- A field read as two's complement. -/
def sField (d : BitVec 512) (lo wd : Nat) : Int := asInt wd true (dField d lo wd)

def hdBase (d : BitVec 512) : Nat := dField d 0 57
def hdRank (d : BitVec 512) : Nat := dField d 57 3 + 1
def hdSwz (d : BitVec 512) : Nat := dField d 60 3
def hdType (d : BitVec 512) : Nat := dField d 448 5
def hdFill (d : BitVec 512) : Nat := dField d 453 16

/-- An element as it is written: bits [7:6] of an E3M2 byte are zero (04_float.md R97). -/
def stored (ty x : Nat) : Nat := if ty = 14 then x % 64 else x
def hdSkd (d : BitVec 512) : Nat := dField d 444 1
def hdSoff (d : BitVec 512) : Int := sField d 469 21
def hdMoff (d : BitVec 512) : Int := sField d 490 21

/-- Low bit and width of DIM and of ORG. -/
def dimAt (k : Nat) : Nat × Nat :=
  match k with | 0 => (64, 32) | 1 => (96, 32) | 2 => (192, 16) | 3 => (208, 16) | _ => (224, 16)
def orgAt (k : Nat) : Nat × Nat :=
  match k with | 0 => (128, 32) | 1 => (160, 32) | 2 => (240, 16) | 3 => (256, 16) | _ => (272, 16)
def boxAt (k : Nat) : Nat × Nat :=
  match k with | 0 => (416, 8) | 1 => (424, 8) | 2 => (432, 4) | 3 => (436, 4) | _ => (440, 4)

def hdDim (d : BitVec 512) (k : Nat) : Nat := dField d (dimAt k).1 (dimAt k).2
def hdOrg (d : BitVec 512) (k : Nat) : Int := sField d (orgAt k).1 (orgAt k).2
def hdBox (d : BitVec 512) (k : Nat) : Nat := dField d (boxAt k).1 (boxAt k).2 + 1
def hdStr (d : BitVec 512) (k : Nat) : Nat := if k = 0 then 0 else dField d (256 + 32 * k) 32

/-- Replace a field. -/
def hdPut (d : BitVec 512) (lo wd v : Nat) : BitVec 512 :=
  BitVec.ofNat 512 (d.toNat - dField d lo wd * 2 ^ lo + v % 2 ^ wd * 2 ^ lo)

/-! ## Addresses, fill and planes (R250, R252) -/

/-- ESize in half bytes. -/
def halfBytes (ty : Nat) : Nat :=
  match ty with
  | 2 => 16 | 3 => 16 | 9 => 16
  | 0 => 8 | 1 => 8 | 8 => 8
  | 4 => 4 | 5 => 4 | 10 => 4 | 11 => 4
  | 15 => 1
  | _ => 2

/-- A coordinate: the five components. -/
abbrev Coord := List Int

def comp (c : Coord) (k : Nat) : Int := c.getD k 0

/-- The extent of a dimension; 1 beyond the rank. -/
def hdExtent (d : BitVec 512) (k : Nat) : Nat := if k < hdRank d then hdDim d k else 1

/-- InTensor(c). -/
def inTensor (d : BitVec 512) (c : Coord) : Bool :=
  (List.range (min 5 (hdRank d))).all (fun k => decide (0 ≤ comp c k) && decide (comp c k < (hdDim d k : Int)))

/-- Addr(c), with the nibble of an E2M1 element. -/
def hdAddr (d : BitVec 512) (c : Coord) : Nat × Nat :=
  let half := comp c 0 * (halfBytes (hdType d) : Int)
  let rest := [1, 2, 3, 4].foldl (fun (a : Int) k => if k < hdRank d then a + comp c k * (hdStr d k : Int) else a) 0
  (((hdBase d : Int) + half / 2 + 16 * rest).toNat, (half % 2).toNat)

/-- The coordinate of box position b. -/
def hdCoord (d : BitVec 512) (b : List Nat) : Coord :=
  (List.range 5).map (fun k => hdOrg d k + (b.getD k 0 : Nat))

/-- Box positions in box order, b[0] fastest, for the given extents. -/
def boxOrder (n0 n1 n2 n3 n4 : Nat) : List (List Nat) :=
  (List.range n4).flatMap (fun b4 => (List.range n3).flatMap (fun b3 => (List.range n2).flatMap (fun b2 =>
    (List.range n1).flatMap (fun b1 => (List.range n0).map (fun b0 => [b0, b1, b2, b3, b4])))))

/-- ImgOff in half bytes, for the box extents of the descriptor. -/
def imgHalf (d : BitVec 512) (b : List Nat) : Nat :=
  let g := fun (k : Nat) => b.getD k 0
  halfBytes (hdType d) *
    (g 0 + hdBox d 0 * (g 1 + hdBox d 1 * (g 2 + hdBox d 2 * (g 3 + hdBox d 3 * g 4))))

/-- Swz(x). -/
def swizzle (swz x : Nat) : Nat :=
  if swz = 0 then x
  else
    let span := 16 * 2 ^ swz
    let row := x / span
    row * span + 16 * ((x % span / 16) ^^^ (row % (span / 16))) + x % 16

/-- The format of a floating, MX or scale element. -/
def elemFmt (ty : Nat) : Option Fmt :=
  match ty with
  | 8 => some .f32 | 9 => some .f64 | 10 => some .f16 | 11 => some .bf16
  | 12 => some .e4m3 | 13 => some .e5m2 | 14 => some .e3m2 | 15 => some .e2m1
  | 16 => some .mxint8 | 17 => some .e8m0
  | _ => none

/-- RNE without SAT or FTZ: how the engines round (R236, R239, R292). -/
def plainRound : RMode := ⟨0, false, false⟩

/-- An element's encoding in another format, exactly or rounded. -/
def refmt (src dst : Fmt) (r : RMode) (x : Nat) : Nat := roundTo dst r 0 (decodeF src x).exact

/-- The fill value of an element. -/
def fillOf (d : BitVec 512) : Nat :=
  let h := halfBytes (hdType d)
  if h ≤ 4 then stored (hdType d) (hdFill d % 2 ^ (4 * h))
  else
    match hdType d with
    | 8 => refmt .bf16 .f32 plainRound (hdFill d)
    | 9 => refmt .bf16 .f64 plainRound (hdFill d)
    | 0 => modW 32 (asInt 16 true (hdFill d))
    | 2 => modW 64 (asInt 16 true (hdFill d))
    | _ => hdFill d

/-- A plane base. -/
def planeBase (d : BitVec 512) (x : Int) : Int := (((hdBase d / 2 ^ 16 : Nat) : Int) + x) * 2 ^ 16

def planeOk (d : BitVec 512) (x : Int) : Bool := decide (0 ≤ planeBase d x) && decide (planeBase d x < 2 ^ 57)

/-- Linear position in a packed tensor, dimension 0 fastest. -/
def packed (ext : Nat → Nat) (c : Coord) : Int :=
  comp c 0 + (ext 0 : Int) * (comp c 1 + (ext 1 : Int) * (comp c 2 + (ext 2 : Int) * (comp c 3 + (ext 3 : Int) * comp c 4)))

/-- The address of the scale of element c. -/
def scaleAddr (d : BitVec 512) (c : Coord) : Nat :=
  let k := hdSkd d
  let ext := fun j => if j = k then (hdExtent d j + 31) / 32 else hdExtent d j
  (planeBase d (hdSoff d) + packed ext (c.set k (comp c k / 32))).toNat

/-- The address of the metadata byte of the logical group that holds element c. -/
def metaAddr (d : BitVec 512) (c : Coord) : Nat :=
  let ext := fun j => if j = 0 then hdDim d 0 / 8 else hdExtent d j
  (planeBase d (hdMoff d) + packed ext (c.set 0 (comp c 0 / 8))).toNat

/-! ## Reason codes (R251) -/

def reason (d : BitVec 512) : Nat :=
  let k := hdRank d
  let h := halfBytes (hdType d)
  let ty := hdType d
  if 5 < k then 1
  else if 18 ≤ ty then 2
  else if (List.range 5).any (fun j =>
      if j < k then hdDim d j == 0
      else hdDim d j != 0 || hdOrg d j != 0 || hdStr d j != 0 || hdBox d j != 1) then 3
  else if ty != 15 && hdBase d * 2 % h != 0 then 4
  else if 4 ≤ hdSwz d ∨ (hdSwz d ≠ 0 ∧ hdBox d 0 * h ≠ 32 * 2 ^ hdSwz d) then 5
  else if ty = 15 ∧ hdBox d 0 % 2 = 1 then 6
  else if (hdSoff d ≠ 0 ∧ (ty < 12 ∨ 16 < ty ∨ hdOrg d (hdSkd d) % 32 ≠ 0 ∨ !planeOk d (hdSoff d))) ∨
      (hdSkd d = 1 ∧ k = 1) then 7
  else if hdMoff d ≠ 0 ∧ (!(([10, 11, 12, 13, 16] : List Nat).contains ty) ∨ hdDim d 0 % 8 ≠ 0 ∨ hdOrg d 0 % 8 ≠ 0 ∨
      !planeOk d (hdMoff d)) then 8
  else if dField d 63 1 ≠ 0 ∨ dField d 445 3 ≠ 0 ∨ dField d 511 1 ≠ 0 then 9
  else 0

/-! ## What the engines read and write -/

/-- A byte of memory, or of a lease that serves it, that an engine reads is lost to an uncorrectable error. -/
def engineLost (s : State) (die pa : Nat) : Bool := (bufferByte s die pa).isNone && poisonRead s noCore die true pa

/-- Some bytes, or the index of the first one lost to an uncorrectable error. -/
def engineRead (s : State) (die : Nat) (ps : List (Nat × Nat)) : Except Nat (List Byte) :=
  let as := partAddrs ps
  match as.findIdx? (engineLost s die) with
  | some i => .error i
  | none => .ok (as.map (dieByte s die))

/-- Why an engine's access fails: a cause of R159 with its address; POISON for a lost byte or walk. -/
structure EngineFail where
  cause : Nat
  va : Nat
  deriving DecidableEq, Repr

/-- The home of a line takes accesses, and is of the die's module or can be asked (13_fabric.md R301; 16_frontend.md
R381). -/
def homeNear (s : State) (die line : Nat) : Bool :=
  homeReady s (line * 128) &&
    (paModule (line * 128) == dieModule die || reach s (dieModule die) (paModule (line * 128)) (line % 8))

/-- A line can be read from a die: a lease serves it (R307), or its home does. An engine that must read another line waits
(log 79). -/
def lineNear (s : State) (die line : Nat) : Bool := leased s die line || homeNear s die line

def partsNear (s : State) (die : Nat) (ps : List (Nat × Nat)) : Bool := (linesOf ps).all (lineNear s die)

/-- The entries that the translation of some bytes reads (07_memory.md R156). -/
def walkOf (s : State) (g : Agent) (va n : Nat) : List Nat :=
  (walkReads s g.module g.unit g.vi va ++ walkReads s g.module g.unit g.vi (va + n - 1)).eraseDups

/-- An engine can have some bytes translated now: the lines of the entries can be read (log 79). -/
def walksNear (s : State) (g : Agent) (va n : Nat) : Bool :=
  (walkOf s g va n).all (fun a => lineNear s (unitHome g.unit) (lineOf a))

/-- A local place of a checked access takes it now. -/
def placesReady (s : State) (die : Nat) (ps : List (Nat × Nat)) : Bool :=
  ps.all (fun p => !isLocal (dieModule die) p || homeReady s p.1)

/-- A local write may be performed now: its places take it, and no lease that cannot be recalled covers it (R307). -/
def destsFree (s : State) (die : Nat) (ps : List (Nat × Nat)) : Bool :=
  placesReady s die ps && !leaseBlocks s (ps.filter (isLocal (dieModule die)))

/-- The lines of attribute 0 of other modules that an engine has read are leased to its die (07_memory.md R161). -/
def takeLeases (s : State) (die attr : Nat) (ps : List (Nat × Nat)) : State :=
  if attr ≠ 0 then s
  else (linesOf ps).foldl (fun s line => if paModule (line * 128) = dieModule die then s else grantLease s die line) s

/-- Remember the translations of some addresses in a unit, with leases on the entries' lines of other modules; an address
whose entries cannot be read now is left out. -/
def rememberPages (s : State) (g : Agent) (vas : List Nat) : State :=
  ((vas.map (fun va => va / 65536)).eraseDups).foldl (fun s p =>
    if p * 65536 < Config.window ∧ walksNear s g (p * 65536) 1 = true then
      remember (takeLeases s (unitHome g.unit) 0 ((walkOf s g (p * 65536) 1).map (fun a => (a, 8)))) g.module g.unit g.vi (p * 65536)
    else s) s

/-- The accesses that a new engine operation of the executing split follows: the accesses of its group (R259,
rule 1; R242), those before a merge, and the stores queued in the core. -/
def engineAfter (s : State) : List Nat :=
  (s.flights.filter (fun f =>
    (isAccess f && f.team == s.team.id && f.grp == s.group.num) || (inQueue f && f.core == s.team.core))).map Flight.id ++
    s.split.order

/-- The pieces that share a granule with an uncorrectable error, of which the writes of one operation may together replace
a whole one (07_memory.md R418). -/
def nearPoison (s : State) (ps : List (Nat × Nat)) : List (Nat × Nat) :=
  ps.filter (fun p => s.poison.any (fun g => decide (g * 32 < p.1 + p.2) && decide (p.1 < g * 32 + 32)))

/-- A checked store of an engine: address, pieces, bytes, whether it lies in the window, and its digest contributions
(15_checking.md R356). -/
structure EngineStore where
  va : Nat
  parts : List (Nat × Nat)
  data : List Byte
  window : Bool
  contribs : List DWord
  deriving DecidableEq, Repr

/-- The bytes that a store writes on other modules, with their addresses. -/
def EngineStore.away (die : Nat) (x : EngineStore) : List (Nat × Byte) :=
  ((pieces x.parts x.data).filter (fun p => !isLocal (dieModule die) p.1)).flatMap cellsOf

/-- A store that goes to another module. -/
def EngineStore.goes (die : Nat) (x : EngineStore) : Bool := !(x.away die).isEmpty

/-- What the stores performed on the die's own module contribute. -/
def localContribs (die : Nat) (xs : List EngineStore) : List DWord :=
  (xs.filter (fun x => !x.goes die)).flatMap EngineStore.contribs

/-- Perform the stores of an engine of a die: at once on its own module, and on another by one request for each line,
which enters the die's write-through buffer (07_memory.md R162) and contributes where it is performed. -/
def engineWrites (s : State) (die : Nat) (flight : Option Nat) (pc : DWord) (who : Option (Nat × Nat × Nat))
    (xs : List EngineStore) : State :=
  let s1 := xs.foldl (fun s x => (pieces x.parts x.data).foldl (fun s p =>
    if isLocal (dieModule die) p.1 then performWrite s noCore [p.1] p.2 else s) s)
    (clearPoison s ((xs.flatMap EngineStore.parts).filter (isLocal (dieModule die))))
  let lines := ((xs.flatMap (EngineStore.away die)).map (fun c => lineOf c.1)).eraseDups
  lines.foldl (fun s line =>
    let on := fun (x : EngineStore) => (x.away die).filter (fun c => lineOf c.1 == line)
    let va := ((xs.find? (fun x => !(on x).isEmpty)).map EngineStore.va).getD 0
    let first := fun (x : EngineStore) => ((x.away die).head?).any (fun c => lineOf c.1 == line)
    let cs := (xs.filter first).flatMap EngineStore.contribs
    let s2 := newRequest (leaveLease s die line) die (line * 128) (.write (xs.flatMap on)) flight (BitVec.ofNat 64 va) pc who
    { s2 with reqs := s2.reqs.map (fun r => if r.id = s.fresh then { r with contribs := cs } else r) }) s1

/-- One such store. -/
def engineWrite (s : State) (die : Nat) (flight : Option Nat) (va : Nat) (pc : DWord) (who : Option (Nat × Nat × Nat))
    (ps : List (Nat × Nat)) (bs : List Byte) : State := engineWrites s die flight pc who [⟨va, ps, bs, false, []⟩]

/-- The requests that are still to write a line of some pieces. -/
def lineWrites (s : State) (ps : List (Nat × Nat)) : List Nat :=
  (s.reqs.filter (fun r => !r.performed && !r.abandoned && (match r.kind with | .write _ => true | _ => false) &&
    (linesOf ps).contains r.line)).map Request.id

/-- A write of a die that is not performed before some accesses, nor before an earlier write of its lines: at once when
none is left, and otherwise by requests that wait for them. -/
def engineWriteAfter (s : State) (die : Nat) (flight : Option Nat) (va : Nat) (pc : DWord) (who : Option (Nat × Nat × Nat))
    (ps : List (Nat × Nat)) (bs : List Byte) (after : List Nat) : State :=
  let left := after.filter (fun i => !performedAt s 5 i)
  if left.isEmpty && (lineWrites s ps).isEmpty then engineWrite s die flight va pc who ps bs
  else (linesOf ps).foldl (fun s line =>
    requestAfter (leaveLease s die line) die (line * 128)
      (.write (((pieces ps bs).flatMap cellsOf).filter (fun c => lineOf c.1 == line))) flight (BitVec.ofNat 64 va) pc who left) s

end Sys2Proof.Machine
end

