-- ==== Sys2Proof/Machine/Matrix.lean ====
section
/-! DEFINITION. MSQ and the matrix streams (06_control.md R147; 10_matrix.md R221 to R245). A step of a word
that moves slabs does one slab, and the word completes with its last one (R227; log 18). -/

namespace Sys2Proof.Machine

/-! ## The slot -/

/-- The team whose slot runs the M word in hand, with its slot. -/
def slotNow (s : State) : Option (Team × MSlot) :=
  match (match s.mteam with | some t => findTeam s t | none => if s.live then some (fullTeam s) else none) with
  | none => none
  | some t => t.mslot.map (fun m => (t, m))

def putSlot (s : State) (tid : Nat) (m : MSlot) : State := updTeam s tid (fun t => { t with mslot := some m })

/-- Why a word stops its slot: a KIND of R243 with TRAPV, or an uncorrectable error at an address. `away` is no stop:
a line of another module cannot be asked for now, and the word waits. -/
inductive Stop where
  | kind (k value : Nat)
  | poison (va : Nat)
  | away
  deriving DecidableEq, Repr

/-- The stop that a failing access gives (R235, R243). -/
def EngineFail.stop (e : EngineFail) : Stop :=
  if e.cause = Cause.poison then .poison e.va
  else if e.cause = Cause.pageFault then .kind 1 e.va
  else .kind 2 e.va

/-- The owner split as R225 and R245 name it; one that has ended while its group goes on gives way to the first split of
that group (log 77). -/
def slotOwner (t : Team) (m : MSlot) : Option (Nat × Nat) :=
  let first := fun (g : Group) => (g.splits.head?).map (fun x => (g.num, x.num))
  match m.owner with
  | none => none
  | some (gn, sn) =>
    match t.groups.find? (fun g => g.num == gn) with
    | some g => if g.splits.any (fun x => x.num == sn) then some (gn, sn) else first g
    | none => (t.groups.head?).bind first

/-- The stream runs in its owner split's mode, and in user mode once no split of its team is left (log 77). -/
def slotUser (t : Team) (m : MSlot) : Bool :=
  match slotOwner t m with
  | none => true
  | some (gn, sn) =>
    match (t.groups.find? (fun g => g.num == gn)).bind (fun g => g.splits.find? (fun x => x.num == sn)) with
    | some sp => bitsOf sp.tstat 0 1 == 0
    | none => true

/-- The engine as an accessing agent (R235). -/
def slotAgent (t : Team) (m : MSlot) : Agent :=
  ⟨coreModule t.core, unitMatrix t.core, t.vi, slotUser t m, teamSpad t, t.spadBytes⟩

/-- The slot stops by a fault (R243), or is idle at once when its team has no group left (R245). Among deferred faults it
ranks by the start of its stream (00_scope.md R8). -/
def stopSlot (s : State) (t : Team) (m : MSlot) (w : Stop) : State :=
  let mk := fun (c v : Nat) => (⟨c, 0, BitVec.ofNat 64 v, 0, m.spc⟩ : TrapInfo)
  let put := fun (s : State) (m : MSlot) (f : TrapInfo) =>
    if t.groups.isEmpty then finishTeam (putSlot (orphanFault s t m f) t.id (idleSlot m)) t.id
    else putSlot s t.id { m with owner := slotOwner t m, waiting := none, fault := some (m.began, f) }
  match w with
  | .away => s
  | .kind k v =>
    put s { m with mstat := putBits (putBits m.mstat 0 2 2) 7 3 k } (mk Cause.matrixFault v)
  | .poison va =>
    let tag := t.rtag.toNat
    let module := coreModule t.core
    if tag = 0 then moduleFatal (putSlot s t.id { m with mstat := putBits m.mstat 0 2 0 }) module
    else put (markDead s module t.vi tag) { m with mstat := putBits m.mstat 0 2 0, purge := some tag } (mk Cause.poison va)

/-- The word at SPC is done. -/
def slotNext (m : MSlot) : MSlot := { m with spc := m.spc + 4, mrp := 0, ranged := false, wrote := [] }

/-- Run an M word's body on the slot it belongs to; without one the machine takes no such step. -/
def onSlot (s : State) (body : State → Team → MSlot → Except Stop State) : Host.Outcome State Fault Refusal :=
  match slotNow s with
  | none => .fault .notEnabled
  | some (t, m) =>
    .next (match body s t m with | .ok s1 => s1 | .error w => stopSlot s t m w)

/-! ## Accumulator storage (R223) -/

/-- The view accepts the tile. -/
def tileOk (view m : Nat) : Bool := view == 1 || decide (m < 2)

/-- Rows and columns of a tile. -/
def tileSize (view : Nat) : Nat := if view = 1 then 64 else 128

def tileFmt (view : Nat) : Fmt := if view = 1 then .f64 else .f32

/-- Row `i` of a tile as a row of 512 bytes. -/
def tileRow (view m i : Nat) : Nat := tileSize view * m + i

def accRow (m : MSlot) (r : Nat) : BitVec 4096 := cget (fun _ => 0) m.acc r

def setAccRow (m : MSlot) (r : Nat) (v : BitVec 4096) : MSlot := { m with acc := cput (fun _ => 0) m.acc r v }

/-- Bits of an accumulator element. -/
def accBits (view : Nat) : Nat := if view = 1 then 64 else 32

/-- The elements of a row, and a row of elements. -/
def rowElems (view : Nat) (r : BitVec 4096) : List Nat :=
  (List.range (tileSize view)).map (fun j => r.toNat / 2 ^ (accBits view * j) % 2 ^ accBits view)

def packRow (view : Nat) : List Nat → Nat
  | [] => 0
  | x :: r => x + 2 ^ accBits view * packRow view r

def setRow (m : MSlot) (view tile i : Nat) (xs : List Nat) : MSlot :=
  setAccRow m (tileRow view tile i) (BitVec.ofNat 4096 (packRow view xs))

/-- Write several rows of a tile from row `i` on. -/
def setRows (m : MSlot) (view tile i : Nat) : List (List Nat) → MSlot
  | [] => m
  | xs :: r => setRows (setRow m view tile i xs) view tile (i + 1) r

def tileElems (m : MSlot) (view tile i : Nat) : List Nat := rowElems view (accRow m (tileRow view tile i))

/-- The SUS bit of a tile (R226). -/
def susBit (view tile : Nat) : Nat := if view = 1 then 4 + tile / 2 else 4 + tile

def setSus (m : MSlot) (view tile v : Nat) : MSlot := { m with mstat := putBits m.mstat (susBit view tile) 1 v }

/-! ## Row progress (R227) -/

/-- Repetitions, k-blocks and slabs done. -/
def progress (m : MSlot) : Nat × Nat × Nat :=
  if bitsOf m.mrp 11 1 = 1 then (bitsOf m.mrp 5 6, bitsOf m.mrp 3 2, bitsOf m.mrp 0 3) else (0, 0, 0)

def setProgress (m : MSlot) (rep kb slab : Nat) : MSlot :=
  { m with mrp := BitVec.ofNat 64 (2 ^ 11 + rep * 2 ^ 5 + kb * 2 ^ 3 + slab) }

/-! ## Handles (R225, R232, R234) -/

def handleOf (m : MSlot) (h : Nat) : Option (BitVec 512) := lookup m.handles h

def koffOf (m : MSlot) (h : Nat) : Word := cget (fun _ => 0) m.koff h

def setKoff (m : MSlot) (h : Nat) (v : Word) : MSlot := { m with koff := cput (fun _ => 0) m.koff h v }

/-- KOFF of both handles rises, once when they are one. -/
def bumpKoff (m : MSlot) (a b ks : Nat) : MSlot :=
  let m := setKoff m a (koffOf m a + BitVec.ofNat 32 ks)
  if a = b then m else setKoff m b (koffOf m b + BitVec.ofNat 32 ks)

/-- The box has exactly this shape, with extent 1 in dimensions 2 to 4. -/
def flatBox (d : BitVec 512) : Bool := hdBox d 2 == 1 && hdBox d 3 == 1 && hdBox d 4 == 1

def shapeOk (d : BitVec 512) (n0 n1 : Nat) : Bool := hdBox d 0 == n0 && hdBox d 1 == n1 && flatBox d

/-- The coordinate at row `i` and position `k` along dimension `kd`, with an offset along it. -/
def operandCoord (d : BitVec 512) (kd koff i k : Nat) : Coord :=
  let a : Int := ((koff + k : Nat) : Int)
  let b : Int := (i : Int)
  [hdOrg d 0 + (if kd = 0 then a else b), hdOrg d 1 + (if kd = 0 then b else a), hdOrg d 2, hdOrg d 3, hdOrg d 4]

/-! ## Reading operands (R234, R235) -/

/-- Remember the pages of some addresses in the engine's TLB, and lease their lines of other modules to its die. -/
def touchPages (s : State) (g : Agent) (vas : List Nat) : State :=
  let s1 := rememberPages s g vas
  ((vas.map (fun va => va / 128)).eraseDups).foldl (fun s l =>
    match (if walksNear s1 g (l * 128) 1 then check s1 g .read (l * 128) 1 else .error (0, 0)) with
    | .ok gr => if partsNear s (unitHome g.unit) gr.parts then takeLeases s (unitHome g.unit) gr.attr gr.parts else s
    | .error _ => s) s1

/-- Read bytes for the matrix engine: a place of ATTR 2 other than the window is KIND 2, before its bytes are read. -/
def operandRead (s : State) (g : Agent) (die va n : Nat) : Except Stop Nat :=
  match (if walksNear s g va n then check s g .read va n else .error (0, 0)) with
  | .error (0, _) => .error .away
  | .error (c, v) => .error (EngineFail.stop ⟨c, v⟩)
  | .ok gr =>
    if gr.attr = 2 && !gr.window then .error (.kind 2 va)
    else if !partsNear s die gr.parts then .error .away
    else
      match engineRead s die gr.parts with
      | .error i => .error (.poison (va + i))
      | .ok bs => .ok (leNat bs)

/-- An element of a type at a place named by Addr. -/
def elemRead (s : State) (g : Agent) (die ty : Nat) (at_ : Nat × Nat) : Except Stop Nat :=
  let h := halfBytes ty
  match operandRead s g die at_.1 ((h + 1) / 2) with
  | .error e => .error e
  | .ok v => .ok (if h = 1 then v / 2 ^ (4 * at_.2) % 16 else v)

/-- An element of the tensor, or its fill value. -/
def tensorRead (s : State) (g : Agent) (die : Nat) (d : BitVec 512) (c : Coord) : Except Stop Nat :=
  if inTensor d c then elemRead s g die (hdType d) (hdAddr d c) else .ok (fillOf d)

/-- Some elements, in order. -/
def tensorReads (s : State) (g : Agent) (die : Nat) (d : BitVec 512) : List Coord → Except Stop (List Nat)
  | [] => .ok []
  | c :: r =>
    match tensorRead s g die d c with
    | .error e => .error e
    | .ok x =>
      match tensorReads s g die d r with
      | .error e => .error e
      | .ok xs => .ok (x :: xs)

/-- The E8M0 scale of the block that starts at a coordinate; 127 without a plane and beyond the tensor. -/
def scaleRead (s : State) (g : Agent) (die : Nat) (d : BitVec 512) (c : Coord) : Except Stop Nat :=
  if hdSoff d = 0 ∨ !inTensor d c then .ok 127 else operandRead s g die (scaleAddr d c) 1

/-- The elements of A or B that take part in a block: position in the block and value. -/
structure Block where
  elems : List (Nat × FVal)
  bad : Bool
  scale : Nat
  deriving DecidableEq, Repr

def elemVal (d : BitVec 512) (x : Nat) : FVal := decodeF ((elemFmt (hdType d)).getD .f32) x

/-- A dense block of `n` elements. -/
def denseBlock (s : State) (g : Agent) (die : Nat) (d : BitVec 512) (kd koff i k0 n : Nat) : Except Stop Block :=
  match tensorReads s g die d ((List.range n).map (fun k => operandCoord d kd koff i (k0 + k))) with
  | .error e => .error e
  | .ok xs =>
    match scaleRead s g die d (operandCoord d kd koff i k0) with
    | .error e => .error e
    | .ok sc => .ok ⟨(xs.zipIdx 0).map (fun e => (e.2, elemVal d e.1)), false, sc⟩

/-- The two kept elements of a sparse group that starts at coordinate c, with their indices (R240, R252). A
group outside the tensor reads as four fill values. -/
def sparseGroup (s : State) (g : Agent) (die : Nat) (d : BitVec 512) (c : Coord) :
    Except Stop (List (Nat × FVal) × Bool) :=
  if !inTensor d c then .ok ([0, 1, 2, 3].map (fun k => (k, elemVal d (fillOf d))), false)
  else
    let grp := comp c 0 / 4
    match operandRead s g die (metaAddr d c) 1 with
    | .error e => .error e
    | .ok b =>
      let nib := b / 2 ^ (4 * (grp % 2).toNat) % 16
      match elemRead s g die (hdType d) (hdAddr d (c.set 0 (2 * grp))) with
      | .error e => .error e
      | .ok x =>
        match elemRead s g die (hdType d) (hdAddr d (c.set 0 (2 * grp + 1))) with
        | .error e => .error e
        | .ok y => .ok ([(nib % 4, elemVal d x), (nib / 4, elemVal d y)], decide (nib / 4 ≤ nib % 4))

/-- A sparse block, group by group. -/
def sparseGroups (s : State) (g : Agent) (die : Nat) (d : BitVec 512) (koff i k0 : Nat) :
    List Nat → Except Stop (List (Nat × FVal) × Bool)
  | [] => .ok ([], false)
  | q :: r =>
    match sparseGroup s g die d (operandCoord d 0 koff i (k0 + 4 * q)) with
    | .error e => .error e
    | .ok (xs, b) =>
      match sparseGroups s g die d koff i k0 r with
      | .error e => .error e
      | .ok (ys, b') => .ok (xs.map (fun e => (4 * q + e.1, e.2)) ++ ys, b || b')

def sparseBlock (s : State) (g : Agent) (die : Nat) (d : BitVec 512) (koff i k0 n : Nat) : Except Stop Block :=
  match sparseGroups s g die d koff i k0 (List.range (n / 4)) with
  | .error e => .error e
  | .ok (xs, b) =>
    match scaleRead s g die d (operandCoord d 0 koff i k0) with
    | .error e => .error e
    | .ok sc => .ok ⟨xs, b, sc⟩

/-- The blocks of several rows or columns. -/
def blocks (f : Nat → Except Stop Block) : List Nat → Except Stop (List Block)
  | [] => .ok []
  | i :: r =>
    match f i with
    | .error e => .error e
    | .ok b =>
      match blocks f r with
      | .error e => .error e
      | .ok bs => .ok (b :: bs)

/-! ## The fixed summation order (R236) -/

/-- The exact sum of a block's products: NaN, an infinity, or t × 2^e. -/
inductive BlockSum where
  | nan
  | inf (neg : Bool)
  | fin (t : Int) (e : Int)
  deriving DecidableEq, Repr

/-- Sum of numbers over a common exponent. -/
def sumAt (lo : Int) : List FVal → Int
  | [] => 0
  | .num n m e :: r => numAt n m e lo + sumAt lo r
  | _ :: r => sumAt lo r

def sumProducts (qs : List FVal) : BlockSum :=
  if qs.contains .nan || (qs.contains (.inf false) && qs.contains (.inf true)) then .nan
  else if qs.contains (.inf false) then .inf false
  else if qs.contains (.inf true) then .inf true
  else
    let lo := qs.foldl (fun (a : Int) q => match q with | .num _ _ e => min a e | _ => a) 0
    .fin (sumAt lo qs) lo

/-- A block of A against a block of B. -/
def blockSum (a b : Block) : BlockSum :=
  if a.bad || b.bad || a.scale == 255 || b.scale == 255 || a.elems.any (fun e => e.2 == .nan) ||
      b.elems.any (fun e => e.2 == .nan) then .nan
  else sumProducts (a.elems.map (fun e => fmul e.2 ((b.elems.map Prod.snd).getD e.1 .nan)))

/-- The two roundings of a block: t, then C + t. -/
def mulAdd (acc : Fmt) (neg : Bool) (sh : Int) (c : Nat) (x : BlockSum) : Nat :=
  let t := match x with
    | .nan => acc.nan
    | .inf n => roundTo acc plainRound 0 (.inf (n != neg))
    | .fin t e => roundTo acc plainRound 0 (exactInt (if neg then -t else t) (e + sh) false)
  roundTo acc plainRound 0 (fadd 0 (decodeF acc c) (decodeF acc t))

/-- The exponent shift of two scales. -/
def scaleShift (a b : Block) : Int := ((a.scale : Int) - 127) + ((b.scale : Int) - 127)

/-- One row of a slab: every element of C takes its block. -/
def mulRow (acc : Fmt) (neg : Bool) (a : Block) : List Block → List Nat → List Nat
  | b :: bs, c :: cs => mulAdd acc neg (scaleShift a b) c (blockSum a b) :: mulRow acc neg a bs cs
  | _, _ => []

/-! ## The multiply words (R233, R234, R237, R238) -/

/-- A class: tile view, dense K per step, block, and whether it has a sparse column. -/
structure MulClass where
  view : Nat
  ks : Nat
  n : Nat
  sparse : Bool
  deriving DecidableEq, Repr

def typeClass (ty : Nat) : Option Nat :=
  match ty with
  | 9 => some 0 | 10 => some 1 | 11 => some 2 | 12 => some 3 | 13 => some 3 | 16 => some 3 | 14 => some 4 | 15 => some 4
  | _ => none

def mulClass (a b : Nat) : Option MulClass :=
  match typeClass a, typeClass b with
  | some x, some y =>
    if x ≠ y then none
    else match x with
      | 0 => some ⟨1, 8, 4, false⟩
      | 1 => some ⟨0, 32, 16, true⟩
      | 2 => some ⟨0, 32, 16, true⟩
      | 3 => some ⟨0, 64, 32, true⟩
      | _ => some ⟨0, 128, 32, false⟩
  | _, _ => none

/-- What a multiply word names. -/
structure MulWord where
  tile : Nat
  a : Nat
  b : Nat
  n : Nat
  ta : Bool
  tb : Bool
  neg : Bool
  sparse : Bool
  range : Bool
  deriving DecidableEq, Repr

/-- The descriptors and the class of a multiply word, when its operands pass (R233, R234). -/
def mulOperands (m : MSlot) (w : MulWord) : Option (BitVec 512 × BitVec 512 × MulClass) :=
  match handleOf m w.a, handleOf m w.b with
  | some da, some db =>
    match mulClass (hdType da) (hdType db) with
    | none => none
    | some c =>
      let ks := if w.sparse then 2 * c.ks else c.ks
      let t := tileSize c.view
      let aOk := if w.sparse then c.sparse && hdMoff da != 0 && shapeOk da (ks / 2) t
        else hdMoff da == 0 && (if w.ta then shapeOk da t ks else shapeOk da ks t)
      let bOk := hdMoff db == 0 && (if w.tb then shapeOk db ks t else shapeOk db t ks)
      if tileOk c.view w.tile && aOk && bOk then some (da, db, c) else none
  | _, _ => none

/-- emax of an element format (R238). -/
def rangeMax (ty : Nat) : Int :=
  match ty with
  | 12 => 8 | 13 => 15 | 14 => 4 | 15 => 2 | 16 => 0 | 10 => 15 | 11 => 127 | _ => 1023

/-- A block sum is larger than any operands of its types can produce. -/
def outOfRange (lim : Int) (a b : Block) : Bool :=
  match blockSum a b with
  | .fin t e => t != 0 && decide (lim < (Nat.log2 t.natAbs : Int) + e)
  | _ => false

/-- Progress after a slab: the next one, the next k-block, the next repetition, or the word is done. -/
def mulAdvance (m : MSlot) (w : MulWord) (slabs kbs ks : Nat) : MSlot :=
  let (rep, kb, slab) := progress m
  if slab + 1 < slabs then setProgress m rep kb (slab + 1)
  else if kb + 1 < kbs then setProgress m rep (kb + 1) 0
  else
    let m := bumpKoff m w.a w.b ks
    if rep + 1 < w.n then setProgress m (rep + 1) 0 0 else slotNext m

/-- The blocks of A for a slab and of B for every column of a repetition's k-block. -/
def mulBlocks (s : State) (t : Team) (m : MSlot) (w : MulWord) (da db : BitVec 512) (c : MulClass) :
    Except Stop (List Block × List Block) :=
  let g := slotAgent t m
  let die := coreDie t.core
  let (_, kb, slab) := progress m
  let ka := (koffOf m w.a).toNat
  let kB := (koffOf m w.b).toNat
  let fa := fun i => if w.sparse then sparseBlock s g die da ka i (kb * c.n) c.n
    else denseBlock s g die da (if w.ta then 1 else 0) ka i (kb * c.n) c.n
  match blocks fa ((List.range 16).map (fun i => 16 * slab + i)) with
  | .error e => .error e
  | .ok as =>
    match blocks (fun j => denseBlock s g die db (if w.tb then 0 else 1) kB j (kb * c.n) c.n) (List.range (tileSize c.view)) with
    | .error e => .error e
    | .ok bs => .ok (as, bs)

/-- The addresses that the operands of a slab lie at, for the TLB. -/
def mulPages (m : MSlot) (w : MulWord) (da db : BitVec 512) (c : MulClass) : List Nat :=
  let (_, kb, slab) := progress m
  let va := fun (d : BitVec 512) (kd koff i k : Nat) =>
    let x := operandCoord d kd koff i k
    if inTensor d x then [(hdAddr d x).1] else []
  ((List.range 16).flatMap (fun i => va da (if w.ta then 1 else 0) (koffOf m w.a).toNat (16 * slab + i) (kb * c.n))) ++
    ((List.range (tileSize c.view)).flatMap (fun j => va db (if w.tb then 0 else 1) (koffOf m w.b).toNat j (kb * c.n)))

/-- One slab of a multiply word. -/
def mulSlab (w : MulWord) (s : State) (t : Team) (m : MSlot) : Except Stop State :=
  match mulOperands m w with
  | none => .error (.kind 4 w.a)
  | some (da, db, c) =>
    let s := touchPages s (slotAgent t m) (mulPages m w da db c)
    match mulBlocks s t m w da db c with
    | .error e => .error e
    | .ok (as, bs) =>
      let (_, _, slab) := progress m
      let rows := (as.zipIdx (16 * slab)).map (fun e => mulRow (tileFmt c.view) w.neg e.1 bs (tileElems m c.view w.tile e.2))
      let lim := rangeMax (hdType da) + rangeMax (hdType db) + 2 + Nat.log2 c.n
      let past := w.range && as.any (fun a => bs.any (outOfRange lim a))
      let m1 := setRows m c.view w.tile (16 * slab) rows
      let m2 := if past then { setSus m1 c.view w.tile 1 with ranged := true } else m1
      let ks := if w.sparse then 2 * c.ks else c.ks
      let m3 := mulAdvance m2 w (tileSize c.view / 16) (ks / c.n) ks
      let s1 := putSlot s t.id m3
      .ok (if past && !m.ranged then suspect s1 t.core 2 else s1)

def execMma (m : BitVec 2) (a b : BitVec 5) (k : BitVec 6) (n u t : BitVec 1) (s : State) :=
  onSlot s (mulSlab ⟨m.toNat, a.toNat, b.toNat, k.toNat + 1, t == 1, u == 1, n == 1, false, false⟩)

def execMmas (m : BitVec 2) (a b : BitVec 5) (k : BitVec 6) (n u : BitVec 1) (s : State) :=
  onSlot s (mulSlab ⟨m.toNat, a.toNat, b.toNat, k.toNat + 1, false, u == 1, n == 1, true, false⟩)

def execMmax (m : BitVec 2) (a b : BitVec 5) (k : BitVec 6) (n u t : BitVec 1) (s : State) :=
  onSlot s (mulSlab ⟨m.toNat, a.toNat, b.toNat, k.toNat + 1, t == 1, u == 1, n == 1, false, true⟩)

/-! ## Tile words (R239) -/

def execMzero (m : BitVec 2) (v : BitVec 1) (s : State) :=
  onSlot s (fun s t sl =>
    if !tileOk v.toNat m.toNat then .error (.kind 4 0)
    else
      let sl := setRows sl v.toNat m.toNat 0 (List.replicate (tileSize v.toNat) (List.replicate (tileSize v.toNat) 0))
      .ok (putSlot s t.id (slotNext (setSus sl v.toNat m.toNat 0))))

/-- Rows to columns. -/
def transpose (xs : List (List Nat)) : List (List Nat) :=
  (List.range xs.length).map (fun j => xs.map (fun r => r.getD j 0))

def execMtrn (m t : BitVec 2) (v c : BitVec 1) (s : State) :=
  onSlot s (fun s tm sl =>
    if !tileOk v.toNat m.toNat || !tileOk v.toNat t.toNat then .error (.kind 4 t.toNat)
    else
      let src := (List.range (tileSize v.toNat)).map (tileElems sl v.toNat t.toNat)
      let sl1 := setRows sl v.toNat m.toNat 0 (if c = 1 then src else transpose src)
      .ok (putSlot s tm.id (slotNext (setSus sl1 v.toNat m.toNat (bitsOf sl.mstat (susBit v.toNat t.toNat) 1)))))

/-- The box of a tile load or store: (T, T), dense, of an accepted type (R234, R239). -/
def tileBox (m : MSlot) (view tile h : Nat) (types : List Nat) : Option (BitVec 512) :=
  match handleOf m h with
  | none => none
  | some d =>
    let t := tileSize view
    if tileOk view tile && types.contains (hdType d) && hdMoff d == 0 && shapeOk d t t then some d else none

/-- The coordinates of the rows of the slab in progress. -/
def slabCoords (m : MSlot) (d : BitVec 512) (view : Nat) (ta : Bool) : List (Nat × List Coord) :=
  let (_, _, slab) := progress m
  (List.range 16).map (fun i =>
    (16 * slab + i, (List.range (tileSize view)).map (fun j => operandCoord d (if ta then 1 else 0) 0 (16 * slab + i) j)))

/-- Progress of a word that only counts slabs. -/
def slabAdvance (m : MSlot) (slabs : Nat) : MSlot :=
  let (_, _, slab) := progress m
  if slab + 1 < slabs then setProgress m 0 0 (slab + 1) else slotNext m

/-- The addresses of the elements in the tensor. -/
def coordPages (d : BitVec 512) (cs : List Coord) : List Nat :=
  cs.filterMap (fun c => if inTensor d c then some (hdAddr d c).1 else none)

/-- Read several rows. -/
def rowReads (s : State) (g : Agent) (die : Nat) (d : BitVec 512) : List (Nat × List Coord) → Except Stop (List (List Nat))
  | [] => .ok []
  | e :: r =>
    match tensorReads s g die d e.2 with
    | .error x => .error x
    | .ok xs =>
      match rowReads s g die d r with
      | .error x => .error x
      | .ok ys => .ok (xs :: ys)

def execMlda (m : BitVec 2) (a : BitVec 5) (v t : BitVec 1) (s : State) :=
  onSlot s (fun s tm sl =>
    let view := v.toNat
    match tileBox sl view m.toNat a.toNat (if view = 1 then [9] else [8, 10, 11]) with
    | none => .error (.kind 4 a.toNat)
    | some d =>
      let cs := slabCoords sl d view (t == 1)
      let s := touchPages s (slotAgent tm sl) (coordPages d (cs.flatMap Prod.snd))
      match rowReads s (slotAgent tm sl) (coreDie tm.core) d cs with
      | .error e => .error e
      | .ok rows =>
        let wide := rows.map (fun r => r.map (fun x =>
          if hdType d = 8 ∨ hdType d = 9 then x else refmt ((elemFmt (hdType d)).getD .f32) .f32 plainRound x))
        let (_, _, slab) := progress sl
        let sl1 := slabAdvance (setRows sl view m.toNat (16 * slab) wide) (tileSize view / 16)
        .ok (putSlot s tm.id (if slab + 1 < tileSize view / 16 then sl1 else setSus sl1 view m.toNat 0)))

/-- Check the stores of a slab; one whose place takes no write yet makes the word wait (R307). -/
def checkStores (s : State) (g : Agent) : List (Nat × List Byte) → Except Stop (List EngineStore)
  | [] => .ok []
  | (va, bs) :: r =>
    match (if walksNear s g va bs.length then check s g .write va bs.length else .error (0, 0)) with
    | .error (0, _) => .error .away
    | .error (c, v) => .error (EngineFail.stop ⟨c, v⟩)
    | .ok gr =>
      if gr.attr = 2 && !gr.window then .error (.kind 2 va)
      else if !destsFree s (unitHome g.unit) gr.parts then .error .away
      else
        match checkStores s g r with
        | .error e => .error e
        | .ok xs => .ok (⟨va, gr.parts, bs, gr.window, []⟩ :: xs)

/-- What a word has replaced of granules that are poisoned, over its slabs: they may together replace a whole one
(07_memory.md R418). -/
def wroteOf (s : State) (t : Team) (m : MSlot) (xs : List EngineStore) : List (Nat × Nat) :=
  m.wrote ++ nearPoison s ((xs.filter (fun x => !(rerunning t && !x.window))).flatMap (fun x =>
    x.parts.filter (isLocal (coreModule t.core))))

/-- Perform the stores of a slab; those of a re-run outside the window are diverted (15_checking.md R362). -/
def slotStores (s : State) (t : Team) (m : MSlot) (xs : List EngineStore) : State :=
  let die := coreDie t.core
  let s := clearPoison s (wroteOf s t m xs)
  let who := match slotOwner t m with | some (g, n) => some (t.id, g, n) | none => none
  let aside := fun (x : EngineStore) => rerunning t && !x.window
  let s := (xs.filter aside).foldl (fun s x => shadowWrite s die ((pieces x.parts x.data).flatMap cellsOf)) s
  let s := contribute s t.core t.bank t.slot ((xs.filter aside).flatMap EngineStore.contribs ++
    localContribs die (xs.filter (fun x => !aside x)))
  engineWrites s die none m.spc who (xs.filter (fun x => !aside x))

/-- A store with its digest contributions: those of its bytes outside the window (15_checking.md R356). -/
def EngineStore.counted (x : EngineStore) : EngineStore :=
  { x with contribs := if x.window then [] else (x.data.zipIdx 0).map (fun e => storeC (x.va + e.2) e.1) }

def execMsta (m : BitVec 2) (a : BitVec 5) (v sb : BitVec 1) (r : BitVec 2) (t : BitVec 1) (s : State) :=
  onSlot s (fun s tm sl =>
    let view := v.toNat
    match tileBox sl view m.toNat a.toNat (if view = 1 then [9, 8] else [8, 11, 10, 12, 13]) with
    | none => .error (.kind 4 a.toNat)
    | some d =>
      let cs := slabCoords sl d view (t == 1)
      let g := slotAgent tm sl
      let s := touchPages s g (coordPages d (cs.flatMap Prod.snd))
      let mode : RMode := ⟨match r.toNat with | 0 => 0 | 1 => 1 | _ => 6, sb == 1, false⟩
      let outs := cs.flatMap (fun e => (e.2.zip (tileElems sl view m.toNat e.1)).filterMap (fun p =>
        if inTensor d p.1 then
          some ((hdAddr d p.1).1, natLe (halfBytes (hdType d) / 2)
            (refmt (tileFmt view) ((elemFmt (hdType d)).getD .f32) mode p.2))
        else none))
      match checkStores s g outs with
      | .error e => .error e
      | .ok xs =>
        .ok (putSlot (slotStores s tm sl (xs.map EngineStore.counted)) tm.id (slabAdvance { sl with wrote := wroteOf s tm sl xs } (tileSize view / 16))))

/-! ## Compression (R240) -/

/-- Rank of an element: NaN above every number, then magnitude. -/
def rankLe (x y : FVal) : Bool :=
  match x, y with
  | _, .nan => true
  | .nan, _ => false
  | _, .inf _ => true
  | .inf _, _ => false
  | .zero _, _ => true
  | _, .zero _ => false
  | .num _ m e, .num _ n k => let lo := min e k; decide (numAt false m e lo ≤ numAt false n k lo)

/-- The position of the largest element, the lower on a tie; `skip` is left out. -/
def largest (xs : List FVal) (skip : Option Nat) : Nat :=
  ((List.range 4).filter (fun i => some i != skip)).foldl (fun b i =>
    if b = 4 then i else if rankLe (xs.getD i .nan) (xs.getD b .nan) then b else i) 4

/-- A group compressed: the two values in ascending index order, and the nibble. -/
def compress (f : Fmt) (xs : List Nat) : Nat × Nat × Nat :=
  let vs := xs.map (decodeF f)
  let i := largest vs none
  let j := largest vs (some i)
  let (a, b) := if i < j then (i, j) else (j, i)
  (xs.getD a 0, xs.getD b 0, a + 4 * b)

/-- What one row of a slab stores: values and metadata bytes, for the groups inside the destination. -/
def compressRow (d : BitVec 512) (f : Fmt) (koff i : Nat) (xs : List Nat) : List (Nat × List Byte) :=
  let n := halfBytes (hdType d) / 2
  let pair := fun (k : Nat) => compress f ((xs.drop (8 * k)).take 4)
  let pair' := fun (k : Nat) => compress f ((xs.drop (8 * k + 4)).take 4)
  (List.range (xs.length / 8)).flatMap (fun k =>
    let c := operandCoord d 0 koff i (8 * k)
    if !inTensor d c then []
    else
      let g := comp c 0 / 4
      let at_ := fun (p : Int) => (hdAddr d (c.set 0 p)).1
      let (a, b, x) := pair k
      let (a', b', y) := pair' k
      [(at_ (2 * g), natLe n a), (at_ (2 * g + 1), natLe n b), (at_ (2 * g + 2), natLe n a'),
        (at_ (2 * g + 3), natLe n b'), (metaAddr d c, [BitVec.ofNat 8 (x + 16 * y)])])

/-- The operands of MCMP: one type of class 16-bit or 8-bit, a dense source box and a sparse destination. -/
def mcmpOperands (m : MSlot) (hs hd : Nat) : Option (BitVec 512 × BitVec 512 × MulClass) :=
  match handleOf m hs, handleOf m hd with
  | some ds, some dd =>
    match mulClass (hdType ds) (hdType dd) with
    | some c =>
      if hdType ds == hdType dd && c.sparse && hdMoff ds == 0 && hdMoff dd != 0 && shapeOk ds c.ks 128 && flatBox dd
      then some (ds, dd, c) else none
    | none => none
  | _, _ => none

def execMcmp (a b : BitVec 5) (k : BitVec 6) (s : State) :=
  onSlot s (fun s tm sl =>
    match mcmpOperands sl a.toNat b.toNat with
    | none => .error (.kind 4 a.toNat)
    | some (ds, dd, c) =>
      let g := slotAgent tm sl
      let (rep, _, slab) := progress sl
      let rows := (List.range 16).map (fun i =>
        (16 * slab + i, (List.range c.ks).map (fun k => operandCoord ds 0 (koffOf sl a.toNat).toNat (16 * slab + i) k)))
      let s := touchPages s g (coordPages ds (rows.flatMap Prod.snd))
      match rowReads s g (coreDie tm.core) ds rows with
      | .error e => .error e
      | .ok vals =>
        let f := (elemFmt (hdType ds)).getD .f32
        let outs := (vals.zipIdx (16 * slab)).flatMap (fun e => compressRow dd f (koffOf sl b.toNat).toNat e.2 e.1)
        let s := touchPages s g (outs.map Prod.fst)
        match checkStores s g outs with
        | .error e => .error e
        | .ok xs =>
          let s1 := slotStores s tm sl xs
          let sl := { sl with wrote := wroteOf s tm sl xs }
          let sl1 :=
            if slab + 1 < 8 then setProgress sl rep 0 (slab + 1)
            else
              let sl := bumpKoff sl a.toNat b.toNat c.ks
              if rep + 1 < k.toNat + 1 then setProgress sl (rep + 1) 0 0 else slotNext sl
          .ok (putSlot s1 tm.id sl1))

/-! ## Handles, points and control (R230 to R232, R241, R242) -/

def execMhdl (h : BitVec 5) (imm : BitVec 17) (s : State) :=
  onSlot s (fun s t sl =>
    let o := 64 * imm.toNat
    if t.spadBytes < o + 64 then .error (.kind 4 h.toNat)
    else
      match engineRead s (coreDie t.core) [(teamSpad t + o, 64)] with
      | .error i => .error (.poison (Config.window + o + i))
      | .ok bs =>
        let d := BitVec.ofNat 512 (leNat bs)
        if reason d ≠ 0 then .error (.kind 4 h.toNat)
        else .ok (putSlot s t.id (slotNext (setKoff { sl with handles := bind sl.handles h.toNat d } h.toNat 0))))

/-- Run with a point of the team; KIND 4 when it is absent or not initialised. -/
def slotPoint (k : BitVec 5) (s : State) (body : State → Team → MSlot → Bar → State) :
    Host.Outcome State Fault Refusal :=
  onSlot s (fun s t sl =>
    let b := teamPoint t k.toNat
    if hdrField t 12 5 ≤ k.toNat || !b.init then .error (.kind 4 k.toNat) else .ok (body s t sl b))

/-- Wait target of a point. -/
def targetOf (m : MSlot) (k : Nat) : Word := cget (fun _ => 0) m.targets k

def setTarget (m : MSlot) (k : Nat) (v : Word) : MSlot := { m with targets := cput (fun _ => 0) m.targets k v }

/-- MARV: the stores of earlier words are performed with their words, so the release adds no wait. -/
def execMarv (k : BitVec 5) (s : State) :=
  slotPoint k s (fun s t sl b =>
    let (b1, tgt) := arriveWith b none
    let s := updTeam s t.id (fun t => setTeamPoint t k.toNat b1)
    putSlot s t.id (slotNext (setTarget sl k.toNat (tgt.setWidth 32))))

/-- MWAT: the hold, or the acquire, after which the stream follows the stores queued in the core. -/
def execMwat (k : BitVec 5) (s : State) :=
  slotPoint k s (fun s t sl b =>
    if reached b.phase (targetOf sl k.toNat) then
      let sl := setTarget sl k.toNat (targetOf sl k.toNat + 1)
      let q := (s.flights.filter (fun f => inQueue f && f.core == t.core)).map Flight.id
      putSlot s t.id (slotNext { sl with waiting := none, after := q })
    else putSlot s t.id { sl with waiting := some k.toNat })

def execMjmp (imm : BitVec 24) (s : State) :=
  onSlot s (fun s t sl => .ok (putSlot s t.id { sl with spc := sl.spc + imm.signExtend 64 * 4, mrp := 0 }))

/-- MLOOP (R231); the top of the loop stack is the head of the list. -/
def execMloop (n : BitVec 12) (imm : BitVec 12) (s : State) :=
  onSlot s (fun s t sl =>
    let x := sl.spc
    let tgt := x + imm.signExtend 64 * 4
    let push :=
      if n = 0 then .ok (putSlot s t.id (slotNext sl))
      else if 4 ≤ sl.loops.length then .error (.kind 5 x.toNat)
      else .ok (putSlot s t.id { sl with spc := tgt, loops := (x, n.toNat - 1) :: sl.loops })
    match sl.loops with
    | [] => push
    | (a, c) :: r =>
      if a = x then
        (if c = 0 then .ok (putSlot s t.id (slotNext { sl with loops := r }))
         else .ok (putSlot s t.id { sl with spc := tgt, loops := (a, c - 1) :: r }))
      else push)

/-- MEND empties the loop stack; MEND_COMPLETE makes the slot idle. -/
def execMend (s : State) := onSlot s (fun s t sl => .ok (putSlot s t.id { sl with loops := [], ending := true }))

/-- Every store of the stream is performed at die scope: STATE 0. A slot of the other bank does nothing (R221). -/
def execMendComplete (team : Nat) (s : State) :=
  match (findTeam s team).bind (fun t => t.mslot) with
  | none => runEvent false s id
  | some sl =>
    runEvent (sl.ending && (match findTeam s team with | some t => t.bank == runningBank s t.core | none => false)) s (fun s =>
      finishTeam (putSlot s team { sl with ending := false, mstat := putBits sl.mstat 0 2 0 }) team)

/-- A word that is no instruction of the stream (R34, R229). -/
def execMWordNotInstruction (w : Word) (s : State) : Host.Outcome State Fault Refusal :=
  onSlot s (fun _ _ _ => .error (.kind 0 w.toNat))

/-! ## MSQ (R147) -/

/-- A team without a slot raises ILLEGAL. -/
def msq (i : Instr) (s : State) (body : State → MSlot → State) : Host.Outcome State Fault Refusal :=
  run i s (fun s => match s.team.mslot with | none => illegal s i.word | some m => body s m)

/-- The stream starts (R225). -/
def startSlot (s : State) (m : MSlot) (a : DWord) : MSlot :=
  { m with
    spc := a
    mstat := putBits (putBits (putBits m.mstat 0 2 1) 6 1 0) 7 3 0
    mrp := 0
    loops := []
    targets := (List.range (rdvCount s)).foldl (fun c k => cput (fun _ => 0) c k ((teamPoint s.team k).phase + 1)) []
    owner := some (s.group.num, s.split.num)
    fault := none
    purge := none
    waiting := none
    after := engineAfter s
    ranged := false
    wrote := []
    ending := false
    began := s.fresh }

/-- A poison that the slot's earlier owner has not been told of stays with that split: no rule says so (log 102). -/
def keepPoison (s : State) (m : MSlot) : State :=
  match m.fault, slotOwner (fullTeam s) m with
  | some (id, t), some (gn, sn) =>
    addFault s s.team.id gn ⟨id, t.cause, t.defpc, t.value, none, .slot, [], sn, m.purge, none⟩
  | _, _ => s

/-- MSQ.start delivers what is due there first (00_scope.md R8). A split that is not the owner of a stopped slot has its command
discarded (log 94). -/
def execMsqStart (x : BitVec 5) (l : BitVec 4) (s : State) :=
  msq (.msqStart x l) s (fun s m => offering s .msq (fun s =>
    let a := rs s x.toNat + limOffset s
    if a.toNat % 4 ≠ 0 then trap s Cause.misalign a (active s)
    else if bitsOf m.mstat 0 2 ≠ 0 then adv s
    else
      let s := keepPoison s m
      adv { s with fresh := s.fresh + 1, team := { s.team with mslot := some (startSlot s m a) } }))

/-- MSQ.qry reads the state, also of a stream that a fault has stopped: the fault is delivered at MSQ.start
(20_programs_system.md R414; log 94). -/
def execMsqQry (z : BitVec 5) (l : BitVec 4) (s : State) :=
  msq (.msqQry z l) s (fun s m => adv (ws s z.toNat (BitVec.ofNat 64 (bitsOf m.mstat 0 2))))

/-! ## Fetching a stream word (R235) -/

def slotFetch (s : State) (t : Team) (m : MSlot) : Except Stop Word :=
  let g := slotAgent t m
  match (if walksNear s g m.spc.toNat 4 then check s g .exec m.spc.toNat 4 else .error (0, 0)) with
  | .error (0, _) => .error .away
  | .error (c, v) => .error (EngineFail.stop ⟨c, v⟩)
  | .ok gr =>
    if gr.window then .error (.kind 2 m.spc.toNat)
    else if !partsNear s (coreDie t.core) gr.parts then .error .away
    else
      match engineRead s (coreDie t.core) gr.parts with
      | .error i => .error (.poison (m.spc.toNat + i))
      | .ok bs => .ok (BitVec.ofNat 32 (leNat bs))

end Sys2Proof.Machine
end

