-- ==== Sys2Proof/Machine/Copy.lean ====
section
/-! DEFINITION. CPA, descriptors' edits, the tile operations and completion records, with the steps that land
and complete them (11_copy.md R247 to R265). -/

namespace Sys2Proof.Machine

/-! ## Scratchpad at issue -/

/-- The executing team's own scratchpad bytes at an offset. -/
def ownSpad (s : State) (o n : Nat) : List (Nat × Nat) := [(teamSpad s.team + o, n)]

/-! ## HDEF (R253) -/

/-- The shared checks: the descriptor's index and its bytes. -/
def withDesc (s : State) (y : BitVec 5) (body : State → Nat → BitVec 512 → State) : State :=
  let v := rs s y.toNat
  let i := v.toNat
  if active s = 0 then adv s
  else if 2 ^ 16 ≤ i then trap s Cause.illegal v (active s)
  else if s.team.spadBytes < 64 * i + 64 then trap s Cause.access (BitVec.ofNat 64 i) (active s)
  else inOrder s (ownSpad s (64 * i) 64) (fun s => body s i (BitVec.ofNat 512 (rdNat s (teamSpad s.team + 64 * i) 64)))

/-- Write a descriptor back. -/
def putDesc (s : State) (i : Nat) (d : BitVec 512) : State :=
  performWrite s s.team.core (ownSpad s (64 * i) 64) (natLe 64 d.toNat)

/-- The operand s[sx] with LIM (R36). -/
def xValue (s : State) (x : BitVec 5) : DWord := rs s x.toNat + limOffset s

def execHdefChk (y z : BitVec 5) (l : BitVec 4) (s : State) :=
  run (.hdefChk y z l) s (fun s => withDesc s y (fun s _ d => adv (ws s z.toNat (BitVec.ofNat 64 (reason d)))))

def execHdefBase (x y : BitVec 5) (l : BitVec 4) (s : State) :=
  run (.hdefBase x y l) s (fun s => withDesc s y (fun s i d =>
    let v := xValue s x
    if 2 ^ 57 ≤ v.toNat then trap s Cause.illegal v (active s) else adv (putDesc s i (hdPut d 0 57 v.toNat))))

/-- ORG0 and ORG1 from the halves of a value. -/
def putOrg (d : BitVec 512) (o0 o1 : Nat) : BitVec 512 := hdPut (hdPut d 128 32 o0) 160 32 o1

def execHdefOrg (x y : BitVec 5) (l : BitVec 4) (s : State) :=
  run (.hdefOrg x y l) s (fun s => withDesc s y (fun s i d =>
    let v := (xValue s x).toNat
    adv (putDesc s i (putOrg d v (v / 2 ^ 32)))))

def execHdefAdv (x y : BitVec 5) (l : BitVec 4) (s : State) :=
  run (.hdefAdv x y l) s (fun s => withDesc s y (fun s i d =>
    let v := (xValue s x).toNat
    adv (putDesc s i (putOrg d (dField d 128 32 + v % 2 ^ 32) (dField d 160 32 + v / 2 ^ 32)))))

def execHdefOrgh (x y : BitVec 5) (l : BitVec 4) (s : State) :=
  run (.hdefOrgh x y l) s (fun s => withDesc s y (fun s i d =>
    let v := (xValue s x).toNat
    adv (putDesc s i (hdPut (hdPut (hdPut d 240 16 v) 256 16 (v / 2 ^ 16)) 272 16 (v / 2 ^ 32)))))

/-! ## Completion records (R260 to R262) -/

def execCrset (x y : BitVec 5) (l : BitVec 4) (s : State) :=
  run (.crset x y l) s (fun s =>
    let base := xValue s x
    let n := (rs s y.toNat).toNat
    if active s = 0 then adv s
    else if n ≠ 0 ∧ !(List.range 12).any (fun k => n == 2 ^ (k + 1)) then trap s Cause.illegal (rs s y.toNat) (active s)
    else if base.toNat % 32 ≠ 0 then trap s Cause.misalign base (active s)
    else if s.team.spadBytes < base.toNat + 32 * n then trap s Cause.access base (active s)
    else adv { s with group := { s.group with
      ringBase := base.setWidth 32, ringSize := BitVec.ofNat 32 n, ringHead := 0, ringTail := 0, ringDrop := 0 } })

/-- Offset of a record of a group's ring. -/
def recordOffset (g : Group) (k : Word) : Nat := g.ringBase.toNat + 32 * (k.toNat % g.ringSize.toNat)

def execCrpop (z : BitVec 5) (l : BitVec 4) (s : State) :=
  run (.crpop z l) s (fun s =>
    let put := fun (s : State) (x : Nat) =>
      [0, 1, 2, 3].foldl (fun s k => ws s (z.toNat + k) (BitVec.ofNat 64 (x / 2 ^ (64 * k)))) s
    if active s = 0 then adv s
    else if s.group.ringTail = s.group.ringHead then adv (put s 0)
    else
      let o := recordOffset s.group s.group.ringHead
      inOrder s (ownSpad s o 32) (fun s =>
        let s1 := put s (rdNat s (teamSpad s.team + o) 32)
        adv { s1 with group := { s1.group with ringHead := s1.group.ringHead + 1 } }))

def execCrpopSeq (z : BitVec 5) (l : BitVec 4) (s : State) :=
  run (.crpopSeq z l) s (fun s => if active s = 0 then adv s else adv (ws s z.toNat (s.group.seq.setWidth 64)))

def execCrpopDrop (z : BitVec 5) (l : BitVec 4) (s : State) :=
  run (.crpopDrop z l) s (fun s =>
    if active s = 0 then adv s
    else
      let s1 := ws s z.toNat (s.group.ringDrop.setWidth 64)
      adv { s1 with group := { s1.group with ringDrop := 0 } })

/-- The scalars that every copy flight carries: sequence number, mode bit with the team's slot in its bank above it,
scratchpad place and size. -/
def copyScal (s : State) (seq : DWord) : List DWord :=
  [seq, BitVec.ofNat 64 (2 * s.team.slot + (userMode s).toNat), BitVec.ofNat 64 (teamSpad s.team),
    BitVec.ofNat 64 s.team.spadBytes]

def fsc (f : Flight) (k : Nat) : Nat := (f.scal.getD k 0).toNat

/-- A record in the layout of R261. -/
def recordOf (f : Flight) (addr opnd bytes op cause status : Nat) : BitVec 256 :=
  BitVec.ofNat 256 (status + cause * 2 ^ 8 + f.grp * 2 ^ 16 + f.issuer * 2 ^ 21 + op * 2 ^ 24 + bytes % 2 ^ 32 * 2 ^ 32 +
    f.pc.toNat % 2 ^ 57 * 2 ^ 64 + fsc f 1 / 2 % 16 * 2 ^ 121 + fsc f 0 % 2 ^ 32 * 2 ^ 128 +
    opnd % 2 ^ 32 * 2 ^ 160 + addr % 2 ^ 64 * 2 ^ 192)

/-- Write a record to the ring of its group, or drop it: the window address of the record, or 0. -/
def writeRecord (s : State) (tid gn : Nat) (r : BitVec 256) : State × DWord :=
  match findTeam s tid, findGroup s tid gn with
  | some t, some g =>
    if g.ringSize.toNat ≤ (g.ringTail - g.ringHead).toNat then
      (updGroup s tid gn (fun g => { g with ringDrop := g.ringDrop + 1 }), 0)
    else
      let o := recordOffset g g.ringTail
      let s1 := updGroup s tid gn (fun g => { g with ringTail := g.ringTail + 1 })
      (performWrite s1 noCore [(teamSpad t + o, 32)] (natLe 32 r.toNat), BitVec.ofNat 64 (Config.window + o))
  | _, _ => (s, 0)

/-- COPY_ORPHAN (R264, 16_frontend.md R378). -/
def copyOrphan (s : State) (f : Flight) (r : BitVec 256) : State :=
  report s (dieModule f.die) .owner
    ⟨0x1A, 0, f.vi, f.scal.headD 0, 0, some r, 0xFFFFFFFF⟩

/-- Write an operation's fault record and defer its fault (R263, R333). -/
def copyFault (s : State) (f : Flight) (at_ : DeliverAt) (mask : Option Word) (cause va opnd bytes op : Nat) : State :=
  let r := recordOf f va opnd bytes op cause 2
  let (s1, w) := writeRecord s f.team f.grp r
  let d : DFault := ⟨f.id, Cause.deferredCopy, f.pc, w, mask, at_, [], f.spl, none, some (r, w)⟩
  if cause = Cause.poison then
    consume s1 (dieModule f.die) f.vi f.tag f.team f.grp { d with cause := Cause.poison, value := BitVec.ofNat 64 va }
  else
    let here := (findGroup s1 f.team f.grp).isSome
    let waiters := match findTeam s1 f.team with | some t => !t.groups.isEmpty | none => false
    let kept := here || (waiters && (match at_ with | .object _ => true | .point _ => true | _ => false))
    if kept then addFault s1 f.team f.grp d
    else if writesGlobal f.instr then copyOrphan s1 f r
    else s1

/-! ## CPA (R247, R248) -/

/-- Take the group's sequence number. -/
def takeSeq (s : State) : DWord × State :=
  (s.group.seq.setWidth 64, { s with group := { s.group with seq := s.group.seq + 1 } })

/-- The destination check of a lane, joined into what failed. -/
def cpaCheck (s : State) (o : Nat) : Option Nat :=
  if o % 16 ≠ 0 then some Cause.misalign else if s.team.spadBytes < o + 32 then some Cause.access else none

/-- The copy engine as an accessing agent for a flight. -/
def copyAgent (f : Flight) : Agent :=
  ⟨coreModule f.core, unitCopy f.core, f.vi, fsc f 1 % 2 == 1, fsc f 2, fsc f 3⟩

def execCpa (d a : BitVec 6) (sb : BitVec 5) (l : BitVec 4) (tg : BitVec 2) (s : State) :=
  run (.cpa d a sb l tg) s (fun s =>
    if active s = 0 then adv s
    else
      let off := fun (k : Nat) => (rv s d.toNat k).toNat
      let bad := (actives s).foldl (fun (f : Option Failing) k =>
        match cpaCheck s (off k) with | some c => joinFail f k c (off k) | none => f) none
      match bad with
      | some f => trap s f.cause (BitVec.ofNat 64 f.value) f.mask
      | none =>
        let lanes := (lAddrs s a.toNat sb.toNat).map (fun e =>
          (⟨e.1, e.2, [(teamSpad s.team + off e.1, 32)], BitVec.ofNat 64 (min (rv s (d.toNat + 1) e.1).toNat 32), 0, []⟩ : LaneReq))
        let (q, s1) := takeSeq s
        let f := newFlight s1 .cpa (.cpa d a sb l tg) (some (4 + tg.toNat)) lanes (copyScal s q) (engineAfter s)
        adv (launchFlight s1 { f with home := true }))

/-- A request made for a flight on one of the lines was abandoned. -/
def lostLines (s : State) (f : Flight) (ps : List (Nat × Nat)) : Bool :=
  s.reqs.any (fun r => r.flight == some f.id && r.abandoned && (linesOf ps).contains r.line)

/-- The lines of what an engine is granted to read, each once, with the attribute and the address asked for. -/
def grantLines (gs : List (Nat × Granted)) : List (Nat × Nat × Nat) :=
  ((gs.flatMap (fun g => linesOf g.2.parts)).eraseDups).filterMap (fun line =>
    (gs.find? (fun g => (linesOf g.2.parts).contains line)).map (fun g => (line, g.2.attr, g.1)))

/-- The lines of other dies of the module that an engine's reads bring into its die's RDC, unless they are non-temporal
(07_memory.md R161, R163). -/
def fillGrants (s : State) (die q : Nat) (gs : List (Nat × Granted)) : State :=
  if q = 7 then s
  else (gs.filter (fun g => g.2.attr == 0)).foldl (fun s g => (linesOf g.2.parts).foldl (fun s x => fillRdc s die x) s) s

/-- Ask for what an engine is granted to read on other modules. -/
def askGrants (s : State) (f : Flight) (q : Nat) (gs : List (Nat × Granted)) : State := askEach s f q (grantLines gs)

/-- The source of a CPA lane: its bytes, or why it fails. -/
def cpaSource (s : State) (f : Flight) (l : LaneReq) : Except EngineFail (List Byte) :=
  let n := l.a.toNat
  if n = 0 then .ok []
  else
    match check s (copyAgent f) .read l.va n with
    | .error (c, v) => .error ⟨c, v⟩
    | .ok g =>
      if lostLines s f g.parts then .error ⟨Cause.fabricUncertain, l.va⟩
      else
        match engineRead s f.die g.parts with
        | .error i => .error ⟨Cause.poison, l.va + i⟩
        | .ok bs => .ok bs

/-- What the sources of a CPA are granted. -/
def cpaGrants (s : State) (f : Flight) : List (Nat × Granted) :=
  f.lanes.filterMap (fun (l : LaneReq) =>
    if l.a = 0 then none
    else match check s (copyAgent f) .read l.va l.a.toNat with
      | .error _ => none
      | .ok g => some (l.va, g))

/-- Stop the lanes of a CPA that failed, with the lowest of their causes. -/
def cpaStop (s : State) (f : Flight) (bytes : Nat) (fails : List (Nat × EngineFail)) : State :=
  match fails.foldl (fun (a : Option Failing) e => joinFail a e.1 e.2.cause e.2.va) none with
  | none => s
  | some x =>
    let m := maskOf (fun k => fails.any (fun e => e.1 == k))
    copyFault s f (.path (f.path.getD 4) f.rise) (some m) x.cause x.value m.toNat bytes 0xC0

/-- Land every lane that can be read, in ascending order, and raise what failed: an uncorrectable error is no copy
fault, and the lanes that read one are raised apart (R263). -/
def landCpa (s : State) (f : Flight) : State :=
  let got := f.lanes.map (fun l => (l, cpaSource s f l))
  let s1 := got.foldl (fun s e =>
    match e.2 with
    | .ok bs => performWrite s noCore e.1.parts (bs ++ List.replicate (32 - bs.length) 0)
    | .error _ => s) (fillGrants s f.die 0 (cpaGrants s f))
  let okParts := got.flatMap (fun e => match e.2 with | .ok _ => e.1.parts | .error _ => [])
  let s2 := clearPoison s1 okParts
  let fails := got.filterMap (fun e => match e.2 with | .ok _ => none | .error x => some (e.1.lane, x))
  let s3 := { s2 with reqs := s2.reqs.filter (fun r => r.flight != some f.id) }
  let s4 := flightDue (resultExists (dropFlight s3 f.id) f) f
  let n := 32 * okParts.length
  let s5 := cpaStop s4 f n (fails.filter (fun e => e.2.cause == Cause.poison))
  let s6 := cpaStop s5 f n (fails.filter (fun e => e.2.cause != Cause.poison))
  finishTeam s6 f.team

/-- A CPA can go on: what it follows is done, its requests are answered, and its sources answer. -/
def cpaReady (s : State) (f : Flight) : Bool :=
  f.kind == .cpa && readyAfter s f && !reqsOpen s f.id &&
    f.lanes.all (fun (l : LaneReq) => l.a == 0 || walksNear s (copyAgent f) l.va l.a.toNat) &&
    (cpaGrants s f).all (fun g => placesReady s f.die g.2.parts)

/-- Ask for the lines on other modules, or land. -/
def stepCpa (s : State) (f : Flight) : State :=
  let s := rememberPages s (copyAgent f) ((f.lanes.filter (fun (l : LaneReq) => l.a != 0)).map LaneReq.va)
  let s1 := if f.stage = 0 then askGrants s f 0 (cpaGrants s f) else s
  if reqsOpen s1 f.id then setFlight s1 { f with stage := 1 } else landCpa s1 f

def execCpaLand (flight : Nat) (s : State) :=
  match findFlight s flight with
  | none => runEvent false s id
  | some f => runEvent (cpaReady s f) s (fun s => stepCpa s f)

/-! ## Tile operations at issue (R254, R255) -/

/-- What the issue of a tile operation reads: the descriptor index, lists, count, turn or bin, and
bits. -/
structure TileArgs where
  op : Nat
  i : Nat
  list : Option Nat
  n : Nat
  aux : Nat
  note : Bool
  turn : Bool
  point : Option Nat
  rows : Bool
  nt : Bool
  deriving DecidableEq, Repr

/-- Image bytes that an operation covers. -/
def imageBytes (d : BitVec 512) (a : TileArgs) : Nat :=
  let els := if a.rows then hdBox d 0 * a.n else hdBox d 0 * hdBox d 1 * hdBox d 2 * hdBox d 3 * hdBox d 4
  (els * halfBytes (hdType d) + 1) / 2

/-- TRED's element types (R257). -/
def tredType (ty : Nat) : Bool := [0, 1, 2, 3, 8, 9, 10, 11].contains ty

/-- The reason code for a tile operation, 10 to 12 included (R251). -/
def tileReason (d : BitVec 512) (a : TileArgs) : Nat :=
  if reason d ≠ 0 then reason d
  else if hdMoff d ≠ 0 then 10
  else if a.op = 0xC4 ∧ !tredType (hdType d) then 11
  else if a.rows ∧ hdRank d < 2 then 12
  else 0

/-- Check 6 of R255 on s[sz]: the object's place where there is one, or the cause. -/
def tileTarget (s : State) (a : TileArgs) (z : DWord) : Except Nat Nat :=
  if a.turn then (if z.toNat % 4 ≠ 0 then .error Cause.misalign else .ok 0)
  else if a.op = 0xC5 then (if z.toNat % 16 ≠ 0 then .error Cause.misalign else .ok 0)
  else if z = 0 then .ok 0
  else
    match checkObject s z .write false with
    | .error c => .error c
    | .ok pa =>
      if teamSpad s.team ≤ pa ∧ pa + 16 ≤ teamSpad s.team + s.team.spadBytes then .ok pa else .error Cause.access

/-- The copy engine of a core is full (R255). -/
def engineFull (s : State) : Bool :=
  decide (128 ≤ (s.flights.filter (fun f => f.core == s.team.core && (f.kind == .tile || f.kind == .fixup))).length)

/-- Flags of a tile flight: NOTE, TURN, an object, a point, a re-run, a purge that ended it, NT. -/
def tileFlags (s : State) (a : TileArgs) (obj : Bool) : Nat :=
  a.note.toNat + 2 * a.turn.toNat + 4 * obj.toNat + 8 * a.point.isSome.toNat + 16 * (rerunning s.team).toNat + 64 * a.nt.toNat

/-- An operation into the team's own scratchpad (R264): its image, its tensor or its bins are there. -/
def landsHome (a : TileArgs) (d : BitVec 512) (z : DWord) : Bool :=
  a.op == 0xC2 || a.op == 0xC6 || decide (Config.window ≤ hdBase d) || (a.op == 0xC5 && decide (Config.window ≤ z.toNat))

def tileDesc (f : Flight) : BitVec 512 := f.blob.headD 0
def tileImage (f : Flight) : Nat := fsc f 4
def tileOver (f : Flight) : Nat := fsc f 6
def tileFlag (f : Flight) (k : Nat) : Bool := (fsc f 7).testBit k
def tileRows (f : Flight) : Nat := fsc f 8

/-- The treatment of q that NT gives an operation's reads and writes (R254). -/
def tileQ (f : Flight) : Nat := if tileFlag f 6 then 7 else 0

/-- Where an operation's bytes are counted. -/
def tileCount (f : Flight) : CountTo :=
  if tileFlag f 2 then .object (fsc f 5) else if tileFlag f 3 then .point f.team (fsc f 9) else .none

def tileAt (f : Flight) : DeliverAt :=
  if tileFlag f 2 then .object (fsc f 5) else if tileFlag f 3 then .point (fsc f 9) else .anyWait

/-- The words of a list in the team's scratchpad. -/
def listWords (s : State) (o n : Nat) : List Nat := (List.range n).map (fun j => rdNat s (teamSpad s.team + o + 4 * j) 4)

/-- Scratchpad bytes that the issue itself reads. -/
def issueReads (s : State) (a : TileArgs) : List (Nat × Nat) :=
  ownSpad s (64 * a.i) 64 ++ (match a.list with | some o => ownSpad s o (4 * a.n) | none => [])

/-- The window address of the first byte that the issue would read and an uncorrectable error has taken. -/
def issueLost (s : State) (ps : List (Nat × Nat)) : Option Nat :=
  ((partAddrs ps).find? (engineLost s (thisDie s))).map (fun pa => Config.window + (pa - teamSpad s.team))

/-- The checks of R255 in order, then the sequence number and the engine. An operation whose descriptor or list an error has
taken ends at once, with the checks that need neither (R263). -/
def issueTile (s : State) (ins : Instr) (a : TileArgs) (x z : DWord) : State :=
  let img := x.toNat
  let m := active s
  if s.team.spadBytes < 64 * a.i + 64 then trap s Cause.access (BitVec.ofNat 64 a.i) m
  else inOrder s (issueReads s a) (fun s =>
    let d := BitVec.ofNat 512 (rdNat s (teamSpad s.team + 64 * a.i) 64)
    let gone := issueLost s (ownSpad s (64 * a.i) 64)
    let c := tileReason d a
    let lo := a.list.getD 0
    if gone.isNone ∧ c ≠ 0 then trap s Cause.illegal (BitVec.ofNat 64 (c * 2 ^ 32 + a.i)) m
    else if img % 16 ≠ 0 ∨ (gone.isNone ∧ hdSwz d ≠ 0 ∧ img % 128 ≠ 0) then trap s Cause.misalign x m
    else if lo % 4 ≠ 0 then trap s Cause.misalign (BitVec.ofNat 64 lo) m
    else if gone.isNone ∧ s.team.spadBytes < img + imageBytes d a then trap s Cause.access x m
    else if a.list.isSome ∧ s.team.spadBytes < lo + 4 * a.n then trap s Cause.access (BitVec.ofNat 64 lo) m
    else
      match tileTarget s a z with
      | .error e => trapCheck s e z.toNat m
      | .ok pa =>
        if engineFull s then hold s (.room .engine)
        else
          let (q, s1) := takeSeq s
          let obj := !a.turn && a.op != 0xC5 && z != 0
          let words := match a.list with | some o => listWords s o a.n | none => []
          let lanes := (words.zipIdx 0).map (fun e => (⟨e.2, e.1, [], 0, 0, []⟩ : LaneReq))
          let sc := copyScal s q ++ [x, if a.turn || a.op == 0xC5 then z else BitVec.ofNat 64 pa,
            BitVec.ofNat 64 a.aux, BitVec.ofNat 64 (tileFlags s a obj), BitVec.ofNat 64 a.n,
            BitVec.ofNat 64 (a.point.getD 0), BitVec.ofNat 64 a.i, BitVec.ofNat 64 (imageBytes d a)]
          let f := newFlight s1 .tile ins none lanes sc (engineAfter s ++ (if a.turn then s.split.trail else []))
          let f1 := { f with blob := [d], home := landsHome a d z }
          match issueLost s (issueReads s a) with
          | some va =>
            adv (copyFault { s1 with fresh := s1.fresh + 1 } f1 (tileAt f1) none Cause.poison va (if a.op = 0xC5 then 0 else a.i) 0 a.op)
          | none => adv (launchFlight s1 f1))

/-- A tile operation whose s[sy] has its reserved bits clear; `hi` is the first bit that must be 0. -/
def tileForm (i : Instr) (y : BitVec 5) (ok : Nat → Bool) (mk : Nat → TileArgs) (x z : BitVec 5) (s : State) :
    Host.Outcome State Fault Refusal :=
  run i s (fun s =>
    let v := rs s y.toNat
    if active s = 0 then adv s
    else if !ok v.toNat then trap s Cause.illegal v (active s)
    else issueTile s i (mk v.toNat) (xValue s x) (rs s z.toNat))

def execTcpy (x y z : BitVec 5) (l : BitVec 4) (u n : BitVec 1) (s : State) :=
  tileForm (.tcpy x y z l u n) y (fun v => decide (v < 2 ^ 16))
    (fun v => ⟨0xC2, v, none, 0, 0, n == 1, false, none, false, u == 1⟩) x z s

def execTsto (x y z : BitVec 5) (l : BitVec 4) (u n : BitVec 1) (s : State) :=
  tileForm (.tsto x y z l u n) y (fun v => decide (v < 2 ^ 16))
    (fun v => ⟨0xC3, v, none, 0, 0, n == 1, false, none, false, u == 1⟩) x z s

def execTred (x y z : BitVec 5) (l : BitVec 4) (u n : BitVec 1) (s : State) :=
  tileForm (.tred x y z l u n) y (fun v => decide (v < 2 ^ 48) && (u == 1 || decide (v < 2 ^ 16)))
    (fun v => ⟨0xC4, v % 2 ^ 16, none, 0, v / 2 ^ 16, n == 1, u == 1, none, false, false⟩) x z s

def execTgth (x y z : BitVec 5) (l : BitVec 4) (u n : BitVec 1) (s : State) :=
  tileForm (.tgth x y z l u n) y (fun v => decide (v < 2 ^ 43))
    (fun v => ⟨0xC6, v % 2 ^ 16, some (v / 2 ^ 16 % 2 ^ 19), v / 2 ^ 35 % 2 ^ 8 + 1, 0, n == 1, false, none, true, u == 1⟩) x z s

def execTsct (x y z : BitVec 5) (l : BitVec 4) (k : BitVec 5) (s : State) :=
  tileForm (.tsct x y z l k) y (fun v => decide (v < 2 ^ 59) && (k == 31 || decide (k.toNat < rdvCount s)))
    (fun v => ⟨0xC5, v % 2 ^ 16, some (v / 2 ^ 16 % 2 ^ 19), v / 2 ^ 35 % 2 ^ 8 + 1, v / 2 ^ 43, true, false,
      if k = 31 then none else some k.toNat, true, false⟩) x z s

/-! ## The work of a tile operation (R256 to R258)

Scalars beside those of every copy: 4 the image, 5 the object, turn word or bin table, 6 the turn or overflow bin, 7 the
flags, 8 the rows, 9 the point, 10 the descriptor, 11 the image's bytes; and what is done: 12 the bytes, 13 and 14 the
failure, 15 TSCT's counts, 16 its first dropped row. The lanes are the list words of TGTH, the rows of TSCT that remain,
and the adds that TRED has asked other modules for. -/

/-- What a tile operation has done so far; `stop` is the row at which TSCT waits, and whether it asks for its bin. -/
structure TileAcc where
  s : State
  half : Nat
  contribs : List DWord
  remote : List EngineStore
  adds : List LaneReq
  parts : List (Nat × Nat)
  fail : Option EngineFail
  ovf : Nat
  drops : Nat
  first : Option Nat
  stop : Option (LaneReq × Bool)

/-- Nothing more is done once something failed or waits. -/
def TileAcc.halted (a : TileAcc) : Bool := a.fail.isSome || a.stop.isSome

/-- The bytes and nibble of an image element. -/
def imagePlace (f : Flight) (b : List Nat) : Nat × Nat :=
  let h := imgHalf (tileDesc f) b
  (fsc f 2 + tileImage f + swizzle (hdSwz (tileDesc f)) (h / 2), h % 2)

/-- Bytes of an element. -/
def elemBytes (f : Flight) : Nat := (halfBytes (hdType (tileDesc f)) + 1) / 2

/-- Pick or replace the nibble of a byte that an E2M1 element takes. -/
def nibOf (h nib v : Nat) : Nat := if h = 1 then v / 2 ^ (4 * nib) % 16 else v
def nibPut (h nib old v : Nat) : Nat := if h = 1 then old - nibOf 1 nib old * 2 ^ (4 * nib) + v % 16 * 2 ^ (4 * nib) else v

/-- The element that some bytes hold, as it is moved. -/
def elemOf (d : BitVec 512) (nib : Nat) (bs : List Byte) : Nat :=
  stored (hdType d) (nibOf (halfBytes (hdType d)) nib (leNat bs))

/-- Bytes of the image: those in scratchpad, or those kept from it; or the index of a lost one. -/
def imageBytesAt (s : State) (f : Flight) (pa n : Nat) : Except Nat (List Byte) :=
  if f.frozen.isEmpty then engineRead s f.die [(pa, n)]
  else
    let bs := (f.frozen.drop (pa - (fsc f 2 + tileImage f))).take n
    match bs.findIdx? Option.isNone with
    | some i => .error i
    | none => .ok (bs.filterMap id)

/-- An element of the image; the address of a lost byte is its window address. -/
def imageRead (s : State) (f : Flight) (b : List Nat) : Except EngineFail Nat :=
  let (pa, nib) := imagePlace f b
  match imageBytesAt s f pa (elemBytes f) with
  | .error i => .error ⟨Cause.poison, Config.window + (pa - fsc f 2) + i⟩
  | .ok bs => .ok (elemOf (tileDesc f) nib bs)

/-- An element of the tensor, with the check of R159 and the reach of its line. -/
def tensorElem (s : State) (f : Flight) (c : Coord) : Except EngineFail Nat :=
  let d := tileDesc f
  let (va, nib) := hdAddr d c
  match check s (copyAgent f) .read va (elemBytes f) with
  | .error (e, v) => .error ⟨e, v⟩
  | .ok g =>
    if lostLines s f g.parts then .error ⟨Cause.fabricUncertain, va⟩
    else
      match engineRead s f.die g.parts with
      | .error i => .error ⟨Cause.poison, va + i⟩
      | .ok bs => .ok (elemOf d nib bs)

/-- Write an image element. -/
def imageWrite (a : TileAcc) (f : Flight) (b : List Nat) (v : Nat) : TileAcc :=
  let (pa, nib) := imagePlace f b
  let h := halfBytes (hdType (tileDesc f))
  let n := elemBytes f
  { a with
    s := performWrite a.s noCore [(pa, n)] (natLe n (nibPut h nib (rdNat a.s pa n) v))
    half := a.half + h
    parts := (pa, n) :: a.parts }

/-- TCPY and TGTH: one element of the image. -/
def copyIn (f : Flight) (a : TileAcc) (e : List Nat × Coord) : TileAcc :=
  if a.fail.isSome then a
  else if !inTensor (tileDesc f) e.2 then imageWrite a f e.1 (fillOf (tileDesc f))
  else
    match tensorElem a.s f e.2 with
    | .error x => { a with fail := some x }
    | .ok v => imageWrite a f e.1 v

/-- A byte as the operation's own earlier stores left it. -/
def cellByte (a : TileAcc) (die pa : Nat) : Byte :=
  (a.remote.findSome? (fun e => partsByte e.parts e.data pa)).getD (dieByte a.s die pa)

/-- The contributions of an element stored or added (15_checking.md R356): none in the window. -/
def elemContribs (h nib va v : Nat) (window : Bool) : List DWord :=
  if window then [] else if h = 1 then [nibC va nib v] else ((natLe (h / 2) v).zipIdx 0).map (fun e => storeC (va + e.2) e.1)

/-- The opcode of the operation. -/
def tileOp (i : Instr) : Nat := i.word.toNat / 2 ^ 24

/-- Store an element at its address: in memory, in requests to other modules, or in the shadow of a re-run. -/
def storeElem (f : Flight) (a : TileAcc) (c : Coord) (v : Nat) : TileAcc :=
  if a.fail.isSome then a
  else
    let d := tileDesc f
    let h := halfBytes (hdType d)
    let n := elemBytes f
    let (va, nib) := hdAddr d c
    match check a.s (copyAgent f) .write va n with
    | .error (e, x) => { a with fail := some ⟨e, x⟩ }
    | .ok g =>
      let old := leNat ((partAddrs g.parts).map (cellByte a f.die))
      let bs := natLe n (nibPut h nib old v)
      let cs := if tileOp f.instr = 0xC5 then [] else elemContribs h nib va v g.window
      let a' := { a with half := a.half + h, contribs := cs ++ a.contribs }
      if tileFlag f 4 && !g.window then { a' with s := shadowWrite a.s f.die ((pieces g.parts bs).flatMap cellsOf) }
      else if g.parts.all (isLocal (dieModule f.die)) then
        { a' with s := performWrite a.s noCore g.parts bs, parts := g.parts ++ a.parts }
      else { a with half := a.half + h, remote := ⟨va, g.parts, bs, g.window, cs⟩ :: a.remote }

/-- TSTO: one element. -/
def copyOut (f : Flight) (a : TileAcc) (e : List Nat × Coord) : TileAcc :=
  if a.fail.isSome || !inTensor (tileDesc f) e.2 then a
  else
    match imageRead a.s f e.1 with
    | .error x => { a with fail := some x }
    | .ok v => storeElem f a e.2 v

/-- The sum of two elements (R257). -/
def elemAdd (ty old x : Nat) : Nat :=
  match elemFmt ty with
  | some fm => roundTo fm plainRound 0 (fadd 0 (decodeF fm old) (decodeF fm x))
  | none => (old + x) % 2 ^ (4 * halfBytes ty)

/-- The home of a place takes an add or a BUMP of a copy engine, as it takes an atomic (09_atomics.md R198). -/
def steerCopy (s : State) (f : Flight) (pa : Nat) : State := steer s f.id f.core f.die false pa

/-- TRED: one indivisible add at the element's home. -/
def addOut (f : Flight) (a : TileAcc) (e : List Nat × Coord) : TileAcc :=
  if a.fail.isSome || !inTensor (tileDesc f) e.2 then a
  else
    let d := tileDesc f
    let h := halfBytes (hdType d)
    let n := elemBytes f
    let (va, _) := hdAddr d e.2
    match imageRead a.s f e.1 with
    | .error x => { a with fail := some x }
    | .ok v =>
      match check a.s (copyAgent f) .atomic va n with
      | .error (x, w) => { a with fail := some ⟨x, w⟩ }
      | .ok g =>
        let pa := (g.parts.map Prod.fst).headD 0
        let a' := { a with half := a.half + 2, contribs := elemContribs h 0 va v g.window ++ a.contribs }
        if tileFlag f 4 && !g.window then
          { a' with s := shadowWrite a.s f.die (cellsOf ((pa, n), natLe n v)) }
        else if !isLocal (dieModule f.die) (pa, n) then
          { a with adds := a.adds ++ [⟨a.adds.length, va, g.parts, BitVec.ofNat 64 v, 0, []⟩] }
        else
          let s1 := steerCopy a.s f pa
          if poisoned s1 pa n then { a with s := s1, fail := some ⟨Cause.poison, va⟩ }
          else { a' with s := performWrite s1 noCore g.parts (natLe n (elemAdd (hdType d) (rdNat s1 pa n) v)) }

/-- The bin of a row: its expert's, then the overflow bin. -/
def rowBin (f : Flight) (l : LaneReq) (spill : Bool) : Nat := if spill then tileOver f else l.va % 2 ^ 16

/-- What a BUMP of 1 gave: a row or all ones, a failure, or nothing yet, as it is asked of another module or its bin takes no
write now. -/
inductive Bumped where
  | got (row : Nat) | fails (e : EngineFail) | asks (parts : List (Nat × Nat)) | waits
  deriving DecidableEq, Repr

/-- What stands in a row that waits for its bin. -/
def binMark : List Byte := [255]

/-- The place of a row's bin takes a BUMP now, and its translation can be made. -/
def binFree (s : State) (f : Flight) (va : Nat) : Bool :=
  walksNear s (copyAgent f) va 16 &&
    (match check s (copyAgent f) .atomic va 16 with | .error _ => true | .ok g => destsFree s f.die g.parts)

/-- BUMP of 1 on a row's bin (R206, R258); the answer of another module stands in the row. -/
def bumpBin (f : Flight) (s : State) (l : LaneReq) (spill : Bool) : State × Bumped :=
  let va := fsc f 5 + 16 * rowBin f l spill
  if l.a.toNat == spill.toNat && !l.data.isEmpty && l.data != binMark then
    (s, if l.data.headD 0 = 0 then .got (leNat (l.data.drop 1)) else .fails ⟨Cause.poison, va⟩)
  else if !binFree s f va then (s, .waits)
  else
    match check s (copyAgent f) .atomic va 16 with
    | .error (e, x) => (s, .fails ⟨e, x⟩)
    | .ok g =>
      let pa := (g.parts.map Prod.fst).headD 0
      if lostLines s f g.parts then (s, .fails ⟨Cause.fabricUncertain, va⟩)
      else if tileFlag f 4 && !isSpad pa then (s, .got (bumpOp (rdNat s pa 16) 1).2)
      else if !isLocal (dieModule f.die) (pa, 16) then (s, .asks g.parts)
      else
        let s1 := steerCopy s f pa
        let (o, r) := bumpOp (rdNat s1 pa 16) 1
        if poisoned s1 pa 16 then (s1, .fails ⟨Cause.poison, va⟩)
        else (performWrite s1 noCore g.parts (natLe 16 o), .got r)

/-- The elements of a source row that are stored at row `o` of the tensor, with their coordinates. -/
def rowCells (f : Flight) (o : Nat) : List (Nat × Coord) :=
  let d := tileDesc f
  (List.range (hdBox d 0)).filterMap (fun b0 =>
    let c : Coord := [hdOrg d 0 + (b0 : Nat), (o : Int), hdOrg d 2, hdOrg d 3, hdOrg d 4]
    if inTensor d c then some (b0, c) else none)

/-- The places of a list of coordinates, of the elements that pass their checks. -/
def placesOf (s : State) (f : Flight) (k : Kind) (cs : List Coord) : List (Nat × Nat) :=
  cs.flatMap (fun c =>
    match check s (copyAgent f) k (hdAddr (tileDesc f) c).1 (elemBytes f) with
    | .error _ => []
    | .ok g => g.parts)

/-- The translations of some elements can be made now. -/
def elemsNear (s : State) (f : Flight) (cs : List Coord) : Bool :=
  cs.all (fun c => !inTensor (tileDesc f) c || walksNear s (copyAgent f) (hdAddr (tileDesc f) c).1 (elemBytes f))

/-- Elements can be stored: their translations can be made, their destinations are free, and the bytes that they share can
be read. -/
def storesFree (s : State) (f : Flight) (cs : List Coord) : Bool :=
  let ps := placesOf s f .write cs
  elemsNear s f cs && destsFree s f.die ps && (hdType (tileDesc f) != 15 || partsNear s f.die ps)

/-- Store a source row at row `o`, or wait at it until its destination is free. -/
def storeRow (f : Flight) (a : TileAcc) (l : LaneReq) (spill : Bool) (o : Nat) : TileAcc :=
  let es := rowCells f o
  if tileFlag f 4 then { a with ovf := a.ovf + spill.toNat }
  else if !storesFree a.s f (es.map Prod.snd) then
    { a with stop := some ({ l with a := BitVec.ofNat 64 spill.toNat, data := 0 :: natLe 8 o }, false) }
  else
    let a := { a with ovf := a.ovf + spill.toNat }
    es.foldl (fun a e =>
      if a.fail.isSome then a
      else
        match imageRead a.s f [e.1, l.lane] with
        | .error x => { a with fail := some x }
        | .ok v => storeElem f a e.2 v) a

/-- A row without a place is dropped. -/
def dropRow (a : TileAcc) (l : LaneReq) : TileAcc :=
  { a with drops := a.drops + 1, first := a.first.orElse (fun _ => some l.lane) }

/-- Take a row to a bin: `full` is what follows when the bin overflows. -/
def rowTo (f : Flight) (a : TileAcc) (l : LaneReq) (spill : Bool) (full : TileAcc → TileAcc) : TileAcc :=
  match bumpBin f a.s l spill with
  | (s, .fails e) => { a with s := s, fail := some e }
  | (s, .asks ps) => { a with s := s, stop := some ({ l with a := BitVec.ofNat 64 spill.toNat, parts := ps, data := [] }, true) }
  | (s, .waits) => { a with s := s, stop := some ({ l with a := BitVec.ofNat 64 spill.toNat, data := binMark }, false) }
  | (s, .got o) => if o = 2 ^ 64 - 1 then full { a with s := s } else storeRow f { a with s := s } l spill o

/-- TSCT: one row. A row that stopped at the overflow bin has found its expert's bin full. -/
def scatterRow (f : Flight) (a : TileAcc) (l : LaneReq) : TileAcc :=
  if a.halted then a
  else
    let second := fun (a : TileAcc) => rowTo f a l true (fun a => dropRow a l)
    if l.a = 1 then second a else rowTo f a l false second

/-- The elements of an operation in box order, with their coordinates. -/
def tileElemsOf (f : Flight) : List (List Nat × Coord) :=
  let d := tileDesc f
  match f.instr with
  | .tgth _ _ _ _ _ _ =>
    ((f.lanes.map LaneReq.va).zipIdx 0).flatMap (fun e => (List.range (hdBox d 0)).map (fun b0 =>
      ([b0, e.2], [hdOrg d 0 + (b0 : Nat), hdOrg d 1 + (e.1 : Nat), hdOrg d 2, hdOrg d 3, hdOrg d 4])))
  | .tsct _ _ _ _ _ => []
  | _ => (boxOrder (hdBox d 0) (hdBox d 1) (hdBox d 2) (hdBox d 3) (hdBox d 4)).map (fun b => (b, hdCoord d b))

/-- What an operation has done when it starts or goes on. -/
def tileBegin (s : State) (f : Flight) : TileAcc :=
  ⟨s, 2 * fsc f 12, [], [], [], [], none, fsc f 15 % 2 ^ 16, fsc f 15 / 2 ^ 16,
    if 2 ^ 16 ≤ fsc f 15 then some (fsc f 16) else none, none⟩

/-- Do the operation, up to its first failure or to a wait. -/
def runTile (s : State) (f : Flight) : TileAcc :=
  let a := tileBegin s f
  match f.instr with
  | .tsto _ _ _ _ _ _ => (tileElemsOf f).foldl (copyOut f) a
  | .tred _ _ _ _ _ _ => (tileElemsOf f).foldl (addOut f) a
  | .tsct _ _ _ _ _ => f.lanes.foldl (scatterRow f) a
  | _ => (tileElemsOf f).foldl (copyIn f) a

/-- How an operation accesses its tensor's elements. -/
def tileKind (f : Flight) : Kind :=
  match f.instr with
  | .tsto _ _ _ _ _ _ => .write
  | .tred _ _ _ _ _ _ => .atomic
  | _ => .read

/-- What the elements of the tensor are granted, with their addresses. -/
def tileGrants (s : State) (f : Flight) : List (Nat × Granted) :=
  ((tileElemsOf f).map Prod.snd).filterMap (fun c =>
    if !inTensor (tileDesc f) c then none
    else
      let va := (hdAddr (tileDesc f) c).1
      match check s (copyAgent f) (tileKind f) va (elemBytes f) with
      | .error _ => none
      | .ok g => some (va, g))

/-- The operation reads its tensor: TCPY and TGTH do, and TSTO of nibbles reads the bytes that it shares. -/
def tileReads (f : Flight) : Bool := tileKind f == .read || (tileKind f == .write && hdType (tileDesc f) == 15)

/-- The places of the tensor take the operation now. -/
def tensorReady (s : State) (f : Flight) : Bool :=
  let ps := (tileGrants s f).flatMap (fun g => g.2.parts)
  elemsNear s f ((tileElemsOf f).map Prod.snd) && (if tileKind f = .read then placesReady s f.die ps else destsFree s f.die ps)

/-- The row at which a TSCT waits can be stored now. -/
def rowReady (s : State) (f : Flight) : Bool :=
  match f.lanes with
  | [] => true
  | l :: _ =>
    let o := leNat (l.data.drop 1)
    if l.data = binMark then binFree s f (fsc f 5 + 16 * rowBin f l (l.a == 1))
    else l.data.headD 1 != 0 || o == 2 ^ 64 - 1 || storesFree s f ((rowCells f o).map Prod.snd)

/-! ## How an operation ends (R256, R257, R260, R263, R264) -/

/-- Bytes that the operation counts. -/
def tileBytes (f : Flight) : Nat :=
  let d := tileDesc f
  let els := if tileRows f = 0 then hdBox d 0 * hdBox d 1 * hdBox d 2 * hdBox d 3 * hdBox d 4 else hdBox d 0 * tileRows f
  (els * halfBytes (hdType d) + 1) / 2

/-- The places of the turn word. -/
def turnParts (s : State) (f : Flight) : List (Nat × Nat) :=
  match check s (copyAgent f) .atomic (fsc f 5) 4 with | .error _ => [] | .ok g => g.parts

/-- The turn word can be read and written at its home now. -/
def turnFree (s : State) (f : Flight) : Bool :=
  !tileFlag f 1 || (walksNear s (copyAgent f) (fsc f 5) 4 && (linesOf (turnParts s f)).all (homeNear s f.die) &&
    destsFree s f.die (turnParts s f))

/-- Write the turn word: a single write at its home, which releases at fabric scope what the operation follows. A re-run writes
none outside the window (15_checking.md R362). -/
def writeTurn (s : State) (f : Flight) (v : Nat) : State :=
  match check s (copyAgent f) .atomic (fsc f 5) 4 with
  | .error _ => s
  | .ok g =>
    if tileFlag f 4 && !g.window then s
    else engineWriteAfter s f.die (some f.id) (fsc f 5) f.pc (some (f.team, f.grp, f.spl)) g.parts (natLe 4 v) f.after

/-- The turn after this one, and the broken mark. -/
def turnAfter (f : Flight) : Nat := (fsc f 6 + 1) % 2 ^ 32
def brokenMark (f : Flight) : Nat := (fsc f 6 + 2 ^ 31) % 2 ^ 32

/-- The rows that remain when a TSCT waits, the one it waits at first. -/
def rowsLeft (f : Flight) (l : LaneReq) : List LaneReq := l :: f.lanes.filter (fun x => decide (l.lane < x.lane))

/-- The results of an operation so far, kept while its requests are open: bytes, failure, and TSCT's counts. -/
def tileDone (f : Flight) (a : TileAcc) : Flight :=
  let x := match a.fail with | some e => [BitVec.ofNat 64 e.cause, BitVec.ofNat 64 e.va] | none => [0, 0]
  { f with
    stage := if a.stop.isSome then 3 else 2
    wrote := nearPoison a.s (a.parts ++ f.wrote)
    lanes := match a.stop with | some (l, _) => rowsLeft f l | none => a.adds
    scal := f.scal.take 12 ++ [BitVec.ofNat 64 (a.half / 2)] ++ x ++
      [BitVec.ofNat 64 (a.drops * 2 ^ 16 + a.ovf), match a.first with | some j => BitVec.ofNat 64 j | none => BitVec.ofNat 64 (2 ^ 64 - 1)] }

/-- The adds of a TRED that other modules have executed and answered. -/
def addsDone (s : State) (f : Flight) : List LaneReq :=
  f.lanes.filter (fun l => l.data == [0] && !laneUncertain s f l)

/-- The first add that read a lost byte at its home. -/
def addLost (f : Flight) : Option LaneReq := f.lanes.find? (fun l => l.data == [BitVec.ofNat 8 Cause.poison])

/-- Why an operation fails, when it does: at this module, at another, or for want of an answer. -/
def tileFailed (s : State) (f : Flight) : Option EngineFail :=
  if fsc f 13 ≠ 0 then some ⟨fsc f 13, fsc f 14⟩
  else
    match (if f.stage = 2 then addLost f else none) with
    | some l => some ⟨Cause.poison, l.va⟩
    | none => (s.reqs.find? (fun r => r.flight == some f.id && r.abandoned)).map (fun r => ⟨Cause.fabricUncertain, r.va.toNat⟩)

/-- A write of a tile operation that is on its way to another module. -/
def leavesWrite (r : Request) : Bool :=
  (match r.kind with | .write _ => true | _ => false) && !r.acked && !r.abandoned

/-- The operation waits for an answer; its writes, performed at die scope, are not waited for (R256). -/
def asksOpen (s : State) (id : Nat) : Bool :=
  s.reqs.any (fun r => r.flight == some id && !r.acked && !r.abandoned && !leavesWrite r)

/-- The writes of an operation that has ended know it, to raise what becomes of them (R263); one that has raised its fault
raises no other. -/
def tileLeaves (s : State) (f : Flight) : State :=
  { s with reqs := s.reqs.map (fun r => if r.flight = some f.id then { r with op := some f } else r) }

/-- Complete an operation whose requests are answered: the turn word, the count, the record, or the fault. -/
def finishTile (s : State) (f : Flight) : State :=
  let isT := tileOp f.instr == 0xC5
  let opnd := if isT then fsc f 15 else fsc f 10
  let bytes := fsc f 12 + (if isT then 0 else (addsDone s f).length)
  let s1 := { dropFlight s f.id with reqs := s.reqs.filter (fun r => r.flight != some f.id || leavesWrite r) }
  let s2 :=
    match tileFailed s f with
    | some e =>
      let s2 := if tileFlag f 1 then writeTurn s1 f (brokenMark f) else s1
      copyFault (tileLeaves s2 { f with stage := 9 }) f (tileAt f) none e.cause e.va opnd bytes (tileOp f.instr)
    | none =>
      let s2 := tileLeaves (if tileFlag f 1 then writeTurn s1 f (turnAfter f) else s1) f
      let s3 := countTo s2 (tileCount f) (tileBytes f)
      let dropped := isT && decide (2 ^ 16 ≤ fsc f 15)
      let r := recordOf f (if isT then fsc f 16 else 0) opnd bytes (tileOp f.instr) 0
        (if isT then (if dropped then 4 else 3) else 1)
      if !tileFlag f 0 then s3
      else if dropped && (findGroup s3 f.team f.grp).isNone then copyOrphan s3 f r
      else (writeRecord s3 f.team f.grp r).1
  finishTeam s2 f.team

/-- Ask other modules for a TRED's adds: one request for each line, whose adds are executed in box order (R162). -/
def requestAdds (s : State) (f : Flight) (adds : List LaneReq) : State :=
  ((adds.map laneLine).eraseDups).foldl (fun s line =>
    let ls := adds.filter (fun l => laneLine l == line)
    newRequest s f.die (line * 128) (.atomic (ls.map LaneReq.lane)) (some f.id) (lowVa ls) f.pc (some (f.team, f.grp, f.spl))) s

/-- Do the work of an operation, and wait for what it asked of other modules. -/
def performTile (s : State) (f : Flight) : State :=
  let a := runTile s f
  let s1 := match findTeam a.s f.team with
    | some t => contribute a.s t.core t.bank t.slot a.contribs
    | none => a.s
  let f1 := tileDone f a
  let s2 := setFlight (clearPoison s1 (a.parts ++ f.wrote)) f1
  let s3 := engineWrites s2 f.die (some f.id) f.pc (some (f.team, f.grp, f.spl)) a.remote.reverse
  let s4 := requestAdds s3 f1 a.adds
  let s5 := if tileFlag f 4 && tileOp f.instr == 0xC5 then markRerun s4 f.team else s4
  match a.stop with
  | some (l, asks) =>
    if asks then
      newRequest s5 f.die (laneLine l * 128) (.atomic [l.lane]) (some f.id) (BitVec.ofNat 64 (fsc f 5 + 16 * rowBin f l (l.a == 1)))
        f.pc (some (f.team, f.grp, f.spl))
    else s5
  | none => if asksOpen s5 f.id then s5 else finishTile s5 f1

/-- Start an operation: ask for the lines it reads on other modules, or do its work. -/
def startTile (s : State) (f : Flight) : State :=
  let d := tileDesc f
  let s := rememberPages s (copyAgent f) (coordPages d ((tileElemsOf f).map Prod.snd))
  let gs := if tileReads f then tileGrants s f else []
  let s1 := if f.stage = 0 then askGrants s f (tileQ f) gs else s
  if reqsOpen s1 f.id then setFlight s1 { f with stage := 1 } else performTile (fillGrants s1 f.die (tileQ f) gs) f

/-- A tile operation that waits for no turn can go on. -/
def tileReady (s : State) (f : Flight) : Bool :=
  f.kind == .tile && !asksOpen s f.id &&
    (if f.stage = 2 then turnFree s f
     else if f.stage = 3 then rowReady s f
     else !tileFlag f 1 && readyAfter s f && tensorReady s f)

def execTileOpComplete (flight : Nat) (s : State) :=
  match findFlight s flight with
  | none => runEvent false s id
  | some f =>
    runEvent (tileReady s f) s (fun s =>
      if f.stage = 2 then finishTile s f else if f.stage = 3 then performTile s f else startTile s f)

/-- What the turn word, read at its home as an arm's condition is, says to turn t: its turn, a later or broken one, or a
wait. -/
inductive Turn where
  | mine | broken | wait | fails (e : EngineFail)
  deriving DecidableEq, Repr

def turnOf (s : State) (f : Flight) : Turn :=
  match check s (copyAgent f) .atomic (fsc f 5) 4 with
  | .error (c, v) => .fails ⟨c, v⟩
  | .ok g =>
    let as := partAddrs g.parts
    match as.findIdx? (fun pa => poisoned s pa 1) with
    | some i => .fails ⟨Cause.poison, fsc f 5 + i⟩
    | none =>
      let d := (leNat (as.map (rdByte s)) + 2 ^ 32 - fsc f 6 % 2 ^ 32) % 2 ^ 32
      if d = 0 then .mine else if d < 2 ^ 31 then .broken else .wait

/-- End a TRED with a turn before any add: the turn word stays as it is. -/
def failTurn (s : State) (f : Flight) (e : EngineFail) : State :=
  finishTeam (copyFault (dropFlight s f.id) f .anyWait none e.cause e.va (fsc f 10) 0 0xC4) f.team

/-- A TRED's turn word has something to say to it. -/
def turnReady (s : State) (f : Flight) : Bool :=
  f.kind == .tile && tileFlag f 1 && f.stage == 0 && readyAfter s f && turnFree s f && turnOf s f != .wait &&
    (turnOf s f != .mine || tileFlag f 5 || tensorReady s f)

/-- The turn arrives: the adds are made, or the operation faults with TL_BACK; one that a purge has ended
makes no add and passes the broken mark on (R257). -/
def execTredTurn (flight : Nat) (s : State) :=
  match findFlight s flight with
  | none => runEvent false s id
  | some f =>
    runEvent (turnReady s f) s (fun s =>
      match turnOf s f with
      | .wait => s
      | .fails e => if tileFlag f 5 then dropFlight s f.id else failTurn s f e
      | .broken => if tileFlag f 5 then dropFlight s f.id else failTurn s f ⟨Cause.tlBack, fsc f 5⟩
      | .mine =>
        if tileFlag f 5 then writeTurn (dropFlight s f.id) f (brokenMark f)
        else performTile (rememberPages s (copyAgent f) (coordPages (tileDesc f) ((tileElemsOf f).map Prod.snd))) f)

end Sys2Proof.Machine
end

