-- ==== Sys2Proof/Machine/Cupping.lean ====
section
/-! DEFINITION. Cupping: which jobs are re-run, and the verdicts (15_checking.md R360 to R364). -/

namespace Sys2Proof.Machine

def djType (d : BitVec 512) : Nat := djKind d
def djScr (d : BitVec 512) : Nat := djPolicy d % 32
def djTtbase (d : BitVec 512) : DWord := BitVec.ofNat 64 (dField d 384 57)

/-- H0 to H3. -/
def djHandle (d : BitVec 512) (k : Nat) : Nat := dField d (256 + 12 * k) 12

/-- The job is eligible at its JOBDONE (R360). -/
def cupEligible (s : State) (t : Team) (h : HeldJob) (g : Digest) : Bool :=
  hdrField t 18 1 == 1 && decide (1 ≤ djScr h.desc) && decide (djScr h.desc ≤ 17) && djKind h.desc == 0 &&
    !g.void && !g.skip && !tagDead s (coreModule t.core) t.vi (djTag h.desc) && h.rerun.isNone

/-- A re-run waits in the Col as a ready job of priority 0 (R362). -/
def cupJob (s : State) (die : Nat) (c : Cup) : State :=
  let d := getDie s die
  setDie s die { d with jobs := d.jobs ++ [⟨c.vi, c.desc, 0, 0, [], [], false, s.tick, .ready, some c.id⟩] }

def putCup (s : State) (die : Nat) (c : Cup) : State :=
  let d := getDie s die
  setDie s die { d with cups := d.cups.map (fun x => if x.id = c.id then c else x) }

/-- Count an eligible job, and select it or not (R361). -/
def cupCount (s : State) (t : Team) (h : HeldJob) (g : Digest) : State :=
  let die := h.colDie
  let d := getDie s die
  let c := cget (fun _ => 0) d.cupc t.vi + 1
  let seed := match getVi s (dieModule die) t.vi with | some v => v.cfg.cseed | none => 0
  let s := setDie s die { d with cupc := cput (fun _ => 0) d.cupc t.vi c }
  if (mix64 (c ^^^ seed)).toNat % 2 ^ (djScr h.desc + 3) ≠ 0 then s
  else
    let d := getDie s die
    let tt := djTtbase h.desc
    let cup : Cup := ⟨s.fresh, t.vi, h.desc, [t.core], [g.curd],
      [(tt, djHandle h.desc 1), (tt, djHandle h.desc 2), (tt, djHandle h.desc 3)], none, false⟩
    let s := { setDie s die { d with cups := d.cups ++ [cup], selected := d.selected + 1 } with fresh := s.fresh + 1 }
    cupJob s die cup

/-- The CUP_VERDICT report (16_frontend.md R378). -/
def cupReport (c : Cup) (verdict : Nat) : Report :=
  let core := fun k => match c.cores[k]? with | some x => x % 1024 | none => 0x3FF
  let dig := fun k => (c.digests.getD k 0).toNat
  ⟨0x0A, 0, c.vi, djSeq c.desc ++ djOpseq c.desc,
    BitVec.ofNat 64 (core 0 + core 1 * 2 ^ 10 + core 2 * 2 ^ 20 + djStream c.desc * 2 ^ 30 + verdict * 2 ^ 34),
    some (BitVec.ofNat 256 (dig 0 + dig 1 * 2 ^ 64 + dig 2 * 2 ^ 128)), 0xFFFFFFFF⟩

/-- A verdict other than equality: counted, reported and scored; the run ends (R363, R366). -/
def cupVerdict (s : State) (die : Nat) (c : Cup) (verdict : Nat) (odd : List Nat) (w : Nat) : State :=
  let s := dropCup s die c.id
  let d := getDie s die
  let s := setDie s die { d with mismatches := d.mismatches + 1 }
  odd.foldl (fun s k => suspect s k w) (report s (dieModule die) .owner (cupReport c verdict))

/-- A run of a job has closed its digest on a core (R363); a dead tag abandons it (R364). -/
def cupClose (s : State) (id core : Nat) (d : DWord) : State :=
  match findCup s id with
  | none => s
  | some (die, c) =>
    if tagDead s (dieModule die) c.vi (djTag c.desc) then cupAbandon s id 4 else
    let c := { c with cores := c.cores ++ [core], digests := c.digests ++ [d], bound := none }
    match c.digests with
    | [a, b] => if a = b then dropCup s die id else cupJob (putCup s die c) die c
    | [a, b, x] =>
      if x = a then cupVerdict s die c 1 [c.cores.getD 1 0] 16
      else if x = b then cupVerdict s die c 0 [c.cores.getD 0 0] 16
      else cupVerdict s die c 2 c.cores 4
    | _ => s

/-- The timer expires: a third run that was never bound leaves the verdict undecided; else the run is
abandoned. -/
def execCupTimerExpire (die job : Nat) (s : State) : Host.Outcome State Fault Refusal :=
  match (getDie s die).cups.find? (fun c => c.id == job) with
  | none => .fault .notEnabled
  | some c =>
    .next (if c.digests.length = 2 ∧ c.bound.isNone then cupVerdict s die c 3 c.cores 4 else cupAbandon s job 1)

end Sys2Proof.Machine
end

