-- ==== Sys2Proof/Machine/Work.lean ====
section
/-! DEFINITION. The work instructions, with the steps that retire a job and release a fix-up, and the messages
between events' homes and their users (12_work.md R281 to R292). -/

namespace Sys2Proof.Machine

/-- ILLEGAL in a team that is no worker team (R284). -/
def workerOnly (i : Instr) (s : State) (body : State → State) : Host.Outcome State Fault Refusal :=
  run i s (fun s => if active s = 0 then adv s else if !s.team.worker then illegal s i.word else body s)

/-- The JOBSEQ of the job taken, 0 without one (R283). -/
def jobSeq (s : State) : DWord :=
  match s.team.job with
  | some h => if h.taken then h.seq.setWidth 64 else 0
  | none => 0

def jobTaken (s : State) : Bool := match s.team.job with | some h => h.taken | none => false

/-! ## MBXGET and MBXARM (R285, R286) -/

/-- Take the bound descriptor: the mailbox entry is freed and the job digest opens. -/
def takeJob (s : State) (h : HeldJob) : State :=
  let s := freeMail s s.team.core s.team.id
  let s := openDigest s s.team.core s.team.bank s.team.slot h.seq
  { s with team := { s.team with job := some { h with taken := true } } }

/-- MBXGET's shared check, and the descriptor that is bound. -/
def mbxget (i : Instr) (s : State) (body : State → Option HeldJob → State) : Host.Outcome State Fault Refusal :=
  workerOnly i s (fun s =>
    if jobTaken s then trap s Cause.illegal (jobSeq s) (active s) else body s s.team.job)

/-- Write doublewords to consecutive scalars. -/
def putScalars (s : State) (z : Nat) (x : Nat) : Nat → State
  | 0 => s
  | n + 1 => putScalars (ws s (z + n) (BitVec.ofNat 64 (x / 2 ^ (64 * n)))) z x n

def execMbxget (z : BitVec 5) (l : BitVec 4) (s : State) :=
  mbxget (.mbxget z l) s (fun s h =>
    match h with
    | none => adv (putScalars s z.toNat 0 8)
    | some h => adv (putScalars (takeJob s h) z.toNat h.desc.toNat 8))

def execMbxgetSp (y z : BitVec 5) (l : BitVec 4) (s : State) :=
  mbxget (.mbxgetSp y z l) s (fun s h =>
    let o := rs s y.toNat
    if o.toNat % 64 ≠ 0 then trap s Cause.misalign o (active s)
    else if s.team.spadBytes < o.toNat + 64 then trap s Cause.access o (active s)
    else
      match h with
      | none => adv (ws s z.toNat 0)
      | some h =>
        inOrder s (ownSpad s o.toNat 64) (fun s =>
          adv (ws (performWrite (takeJob s h) s.team.core (ownSpad s o.toNat 64) (natLe 64 h.desc.toNat)) z.toNat 1)))

/-- Arm an object of the executing team (checks 2 and 3 of R284). -/
def withArmable (s : State) (o : DWord) (body : State → Nat → State) : State :=
  withObject s o .write true (fun s opa => if (getBar s opa).armed then trap s Cause.access o (active s) else body s opa)

/-- The mailbox entry bound to a team; the first entry while none is. -/
def mailOf (s : State) (core tid : Nat) : Nat :=
  mailAddr core (((getCore s core).mailbox.find? (fun e => e.2 == tid)).elim 0 Prod.fst)

def execMbxarm (y : BitVec 5) (s : State) :=
  workerOnly (.mbxarm y) s (fun s =>
    let o := rs s y.toNat
    withArmable s o (fun s opa =>
      let pa := mailOf s s.team.core s.team.id
      let a := mkArm s (.mailbox s.team.id) pa (BitVec.ofNat 64 pa) opa o
      let s1 := armObject s (armDie pa) opa 3 a
      adv (if s.team.job.isSome then armMet s1 (armDie pa) 64 a else s1)))

def execMbxarmCancel (y z : BitVec 5) (s : State) :=
  workerOnly (.mbxarmCancel y z) s (fun s =>
    withObject s (rs s y.toNat) .write true (fun s opa =>
      let (s1, b) := cancelArm s opa
      adv (ws s1 z.toNat (if b then 1 else 0))))

/-- A descriptor is bound to a team: its mailbox arms arrive (R286, R293). -/
def mailArrive (s : State) (core tid : Nat) : State :=
  let die := armDie (mailAddr core 0)
  let pa := mailOf s core tid
  ((getDie s die).arms.filter (fun a => a.cond == .mailbox tid)).foldl (fun s a =>
    armMet s die 64 { a with addr := pa, va := BitVec.ofNat 64 pa }) s

/-! ## JOBDONE (R287) -/

/-- The team's matrix stream is inside a word. -/
def midWord (t : Team) : Bool := match t.mslot with | some m => slotRuns t && bitsOf m.mrp 11 1 == 1 | none => false

/-- What a team issued that is still to be performed at fabric scope. -/
def teamPending (s : State) (t : Team) (id : Nat) : Bool :=
  let mine := fun (w : Option (Nat × Nat × Nat)) => match w with | some w => w.1 == t.id | none => false
  midWord t || (teamTrail t).any (fun i => decide (i < id) && !performedAt s 5 i) || s.flights.any (fun f => f.team == t.id && decide (f.id < id)) ||
    s.msgs.any (fun m => mine m.who && decide (m.id < id)) ||
    s.reqs.any (fun r => mine r.who && !r.performed && !r.abandoned && decide (r.id < id))

/-- JOBDONE holds its split until JOBDONE_RETIRE; the split stays at it. -/
def execJobdone (s : State) :=
  workerOnly .jobdone s (fun s =>
    if !jobTaken s then trap s Cause.illegal 0 (active s)
    else
      let f := newFlight s .jobdone .jobdone none [] [] []
      hold (launchFlight s f) (.flight f.id))

/-- The event that a job raises. -/
def jobEvent (d : BitVec 512) : Word := if djKind d = 2 then djFxev d else djOutev d

/-- The job is retired: its Cupping run goes on, its record is dropped, and the split goes on (R287, R361). -/
def retireJob (s : State) (f : Flight) (t : Team) (h : HeldJob) (g : Digest) : State :=
  let die := coreDie t.core
  let s := setDie s die { getDie s die with jobdones := (getDie s die).jobdones + 1 }
  let s := updTeam s t.id (fun t => { t with job := none })
  let s := match h.rerun with
    | some c => cupClose s c t.core g.curd
    | none =>
      let s := dropRecord s h.colDie h.seq
      if cupEligible s t h g then cupCount s t h g else s
  onSplit s f.team f.grp f.spl adv

/-- The home performs the count of a JOBDONE's event: the job's record goes with it, in one step (R287). -/
def countJob (s : State) (flight : Option Nat) : State :=
  match flight.bind (findFlight s) with
  | none => s
  | some f =>
    match f.kind, (findTeam s f.team).bind Team.job with
    | .jobdone, some h => if h.rerun.isSome then s else dropRecord s h.colDie h.seq
    | _, _ => s

/-- Count the event and retire, or ask the module that holds it (stage 1 waits for its answer). -/
def stepJobdone (s : State) (f : Flight) (t : Team) (h : HeldJob) : State :=
  let m := coreModule t.core
  let e := jobEvent h.desc
  let g := teamDigest s t.core t.bank t.slot
  let s0 := dropFlight s f.id
  let lost := s.reqs.any (fun r => r.flight == some f.id && r.abandoned)
  if f.stage = 1 then
    let s1 := { s0 with reqs := s0.reqs.filter (fun r => r.flight != some f.id) }
    if lost then
      onSplit s1 f.team f.grp f.spl (fun s =>
        takeTrap { s with split := { s.split with wait := none } }
          ⟨Cause.fabricUncertain, f.pc, e.setWidth 64, f.mask, f.pc⟩)
    else retireJob (closeDigest s1 t.core t.bank t.slot) f t h g
  else if h.rerun.isSome then retireJob (closeDigest s0 t.core t.bank t.slot) f t h g
  else if evModule e = m then
    retireJob (closeDigest (updEvent s0 e ((getEv s0 e).contribute 1)) t.core t.bank t.slot) f t h g
  else
    setFlight (newRequest s f.die (eventAddr e.toNat) (.event e (.add 1)) (some f.id) (e.setWidth 64) f.pc
      (some (f.team, f.grp, f.spl))) { f with stage := 1 }

/-- JOBDONE can go on. -/
def jobdoneReady (s : State) (f : Flight) (t : Team) : Bool :=
  f.kind == .jobdone && (if f.stage = 1 then !reqsOpen s f.id else !teamPending s t f.id)

def execJobdoneRetire (flight : Nat) (s : State) :=
  match findFlight s flight with
  | none => runEvent false s id
  | some f =>
    match findTeam s f.team with
    | none => runEvent false s id
    | some t =>
      match t.job with
      | none => runEvent false s id
      | some h => runEvent (jobdoneReady s f t) s (fun s => stepJobdone s f t h)

/-! ## Event instructions (R288 to R290) -/

/-- The event that a name operand gives: none with a non-zero upper half, or where the offset of a LIM carries out of
the index (R279). -/
def nameOf (s : State) (x : BitVec 5) : Option Word :=
  let v := rs s x.toNat
  let i := (evIndex (v.setWidth 32) : Int) + (limOffset s).toInt
  if 2 ^ 32 ≤ v.toNat ∨ i < 0 ∨ 2 ^ 18 ≤ i then none else some ((xValue s x).setWidth 32)

/-- An event name operand: ILLEGAL where it names none, ACCESS for an event that the VI may not use; what stands between
the two checks is `mid`, and `first` has what comes before a check that fails. -/
def withName (s : State) (x : BitVec 5) (first : State → State) (mid : State → (State → State) → State)
    (body : State → Word → State) : State :=
  match nameOf s x with
  | none => first (trap s Cause.illegal (xValue s x) (active s))
  | some e =>
    mid s (fun s =>
      if evAllowed s (thisModule s) s.team.vi e then body s e else first (trap s Cause.access (e.setWidth 64) (active s)))

/-- Send an operation on an event, a release at fabric scope, and hold the split until its outcome is known. A
re-run raises no event (15_checking.md R362). -/
def signal (s : State) (name : Word) (k : MsgKind) : State :=
  releasing s 5 [] (fun s =>
    if rerunning s.team then adv (markRerun s s.team.id)
    else
      let id := s.fresh
      let s1 := sendEvent s (thisModule s) s.team.vi name k [] (some (s.team.id, s.group.num, s.split.num)) s.split.pc
      hold (adv s1) (.message id))

def execEvsigAdd (x y : BitVec 5) (s : State) :=
  run (.evsigAdd x y) s (fun s =>
    if active s = 0 then adv s
    else withName s x (failing s 5) (fun s k => k s) (fun s e => signal s e (.add ((rs s y.toNat).toNat % 2 ^ 32))))

def execEvsigReset (x y z : BitVec 5) (s : State) :=
  run (.evsigReset x y z) s (fun s =>
    let n := rs s y.toNat
    if active s = 0 then adv s
    else withName s x (failing s 5)
      (fun s k => if n = 0 ∨ 2 ^ 16 ≤ n.toNat then failing s 5 (trap s Cause.illegal n (active s)) else k s)
      (fun s e => signal s e (.reset ((rs s z.toNat).setWidth 32) n.toNat)))

def execEvarm (x y z : BitVec 5) (s : State) :=
  run (.evarm x y z) s (fun s =>
    let v := xValue s x
    let o := rs s y.toNat
    if active s = 0 then adv s
    else
      match nameOf s x with
      | none => trap s Cause.illegal v (active s)
      | some e => withArmable s o (fun s opa =>
      if !evAllowed s (thisModule s) s.team.vi e then trap s Cause.access v (active s)
      else if (freeWaiter s (evDie e)).isNone then hold s (.room (.waiters (evDie e)))
      else
        let q : Word := (rs s z.toNat).setWidth 32
        let die := thisDie s
        let a := mkArm s (.event e q) (eventAddr e.toNat) v opa o
        let s1 := armObject s die opa 1 a
        let id := s1.fresh
        let s2 := sendEvent s1 (thisModule s) s.team.vi e (.subscribe q die) []
          (some (s.team.id, s.group.num, s.split.num)) s.split.pc
        hold (adv s2) (.message id)))

def execEvarmCancel (y z : BitVec 5) (s : State) := cancelForm (.evarmCancel y z) y z s

/-- EVQRY is a relaxed read of eight bytes of the entry; its split waits for it. -/
def evqry (i : Instr) (x : BitVec 5) (hi : Nat) (s : State) : Host.Outcome State Fault Refusal :=
  run i s (fun s =>
    if active s = 0 then adv s
    else withName s x id (fun s k => k s) (fun s e =>
      let ps := [(eventAddr e.toNat + 8 * hi, 8)]
      let f := newFlight s .load i none [⟨0, e.toNat, ps, 2, 0, []⟩] [7] (orderAfter s ps false false)
      hold (adv (askLines (launchFlight s f) f)) (.flight f.id)))

def execEvqry (x z : BitVec 5) (l : BitVec 4) (h : BitVec 1) (s : State) := evqry (.evqry x z l h) x h.toNat s

/-! ## OPAPP (R291) -/

/-- A stream of a VI as a Col of the module holds it. -/
def findStream (s : State) (module vi num : Nat) : Option Stream :=
  (s.dies.filter (fun e => dieModule e.1 == module)).findSome? (fun e =>
    e.2.streams.find? (fun x => x.vi == vi && x.num == num))

/-- A die's own agent for a VI: it translates as the VI, without the user check. -/
def dieAgent (die vi : Nat) : Agent := ⟨dieModule die, unitDie die, vi, false, 0, 0⟩

/-- Where a VA of a VI lies for a die, for reading or writing `n` bytes. -/
def dieParts (s : State) (die vi : Nat) (k : Kind) (va n : Nat) : Option (List (Nat × Nat)) :=
  match check s (dieAgent die vi) k va n with
  | .ok g => some g.parts
  | .error _ => none

/-- Read a number at a VA of a VI. -/
def dieRead (s : State) (die vi va n : Nat) : Option Nat :=
  (dieParts s die vi .read va n).map (fun ps => leNat ((partAddrs ps).map (dieByte s die)))

/-- Write a number at a VA of a VI. -/
def dieWrite (s : State) (die vi va n v : Nat) : Option State :=
  (dieParts s die vi .write va n).map (fun ps =>
    forVi s vi (engineWrite s die none va 0 none ps (natLe n v)))

/-- Append a record to a stream whose control block is at hand: the record is written first, and then TAIL, each at its
home; the split issues nothing until the append is performed (R284). -/
def appendRecord (s : State) (st : Stream) (o : Nat) (z : BitVec 5) : State :=
  let die := thisDie s
  let vi := s.team.vi
  let tail := (dieRead s die vi (st.scb.toNat + 24) 4).getD 0
  let head := (dieRead s die vi (st.scb.toNat + 28) 4).getD 0
  let at_ := st.base.toNat + 32 * (tail % 2 ^ st.log2)
  let who := some (s.team.id, s.group.num, s.split.num)
  if (tail + 2 ^ 32 - head) % 2 ^ 32 = 2 ^ st.log2 then adv (ws s z.toNat (BitVec.ofNat 64 (2 ^ 64 - 1)))
  else
    match check s (dieAgent die vi) .write at_ 32 with
    | .error (c, e) => trapCheck s c e (active s)
    | .ok g =>
      let s0 := adv (ws s z.toNat (BitVec.ofNat 64 tail))
      if rerunning s.team then markRerun s0 s.team.id
      else
        let s1 := engineWrite s0 die none at_ s.split.pc who g.parts (rdBytes s (teamSpad s.team + o) 32)
        let s2 := engineWriteAfter s1 die none (st.scb.toNat + 24) s.split.pc who
          ((dieParts s die vi .write (st.scb.toNat + 24) 4).getD []) (natLe 4 ((tail + 1) % 2 ^ 32)) (lineWrites s1 g.parts)
        if s2.fresh = s0.fresh then s2 else hold s2 (.message (s2.fresh - 1))

/-- The control block of a stream can be read and written now: appends on it are serialised (R291). -/
def scbFree (s : State) (ps : List (Nat × Nat)) : Bool := partsNear s (thisDie s) ps && (lineWrites s ps).isEmpty

def execOpapp (x y z : BitVec 5) (l : BitVec 4) (s : State) :=
  run (.opapp x y z l) s (fun s =>
    let v := xValue s x
    let o := rs s y.toNat
    let m := active s
    if m = 0 then adv s
    else if 16 ≤ v.toNat then failing s 5 (trap s Cause.illegal v m)
    else
      match findStream s (thisModule s) s.team.vi v.toNat with
      | none => failing s 5 (trap s Cause.access v m)
      | some st =>
        if !st.dev then failing s 5 (trap s Cause.access v m)
        else if o.toNat % 32 ≠ 0 then failing s 5 (trap s Cause.misalign o m)
        else if s.team.spadBytes < o.toNat + 32 then failing s 5 (trap s Cause.access o m)
        else
          match check s (dieAgent (thisDie s) s.team.vi) .write st.scb.toNat 64 with
          | .error (c, e) => failing s 5 (trapCheck s c e m)
          | .ok g =>
            inOrder s (ownSpad s o.toNat 32) (fun s => releasing s 5 [] (fun s =>
              if scbFree s g.parts then appendRecord s st o.toNat z else hold s (.room (.stream g.parts)))))

/-! ## FIXUP (R292) -/

/-- Tile rows and columns of a job. -/
def djTm (d : BitVec 512) : Nat := 2 ^ dField d 106 4
def djTn (d : BitVec 512) : Nat := 2 ^ dField d 110 4
def djUnit (d : BitVec 512) : Nat := dField d 304 16
def djNpart (d : BitVec 512) : Nat := dField d 176 16
def djFxbase (d : BitVec 512) : Nat := dField d 448 57

def execFixup (x z : BitVec 5) (s : State) :=
  workerOnly (.fixup x z) s (fun s =>
    let img := xValue s x
    let o := rs s z.toNat
    let m := active s
    match s.team.job with
    | none => trap s Cause.illegal (jobSeq s) m
    | some h =>
      if !h.taken || djKind h.desc != 1 then trap s Cause.illegal (jobSeq s) m
      else
        match tileTarget s ⟨0xD7, 0, none, 0, 0, false, false, none, false, false⟩ o with
        | .error e => trapCheck s e o.toNat m
        | .ok pa =>
          if img.toNat % 16 ≠ 0 then trap s Cause.misalign img m
          else if s.team.spadBytes < img.toNat + 4 * djTm h.desc * djTn h.desc then trap s Cause.access img m
          else if engineFull s then hold s (.room .engine)
          else
            let (q, s1) := takeSeq s
            let flags : Nat := (if o = 0 then 0 else 4) + 16 * (rerunning s.team).toNat
            let sc := copyScal s q ++ [img, BitVec.ofNat 64 pa, 0, BitVec.ofNat 64 flags, 0, 0, 0]
            let f := newFlight s1 .fixup (.fixup x z) none [] sc (engineAfter s)
            adv (launchFlight s1 { f with blob := [h.desc], home := true }))

/-- What the fix-up event says: released by Satisfied (true) or by POIS (false), or not yet. -/
def fixupEvent (s : State) (f : Flight) : Option Bool :=
  let d := f.blob.headD 0
  let e := getEv s (djFxev d)
  if e.pois then some false else if e.satisfied (djOpseq d) then some true else none

/-- The slot element of unit u at a position. -/
def slotVa (d : BitVec 512) (u p : Nat) : Nat := djFxbase d + 4 * djTm d * djTn d * u + 4 * p

/-- One element: the slots are added in order of v. -/
def fixupElem (s : State) (f : Flight) (d : BitVec 512) (p : Nat) (x : Nat) : List Nat → Except EngineFail Nat
  | [] => .ok x
  | v :: r =>
    let va := slotVa d (djUnit d + v) p
    match check s (copyAgent f) .read va 4 with
    | .error (c, w) => .error ⟨c, w⟩
    | .ok g =>
      if lostLines s f g.parts then .error ⟨Cause.fabricUncertain, va⟩
      else
        match engineRead s f.die g.parts with
        | .error i => .error ⟨Cause.poison, va + i⟩
        | .ok bs => fixupElem s f d p (roundTo .f32 plainRound 0 (fadd 0 (decodeF .f32 x) (decodeF .f32 (leNat bs)))) r

/-- The elements of the image in row-major order, up to the first failure: what was done, bytes, failure. -/
def fixupRun (f : Flight) (d : BitVec 512) : List Nat → State → Nat → State × Nat × Option EngineFail
  | [], s, n => (s, n, none)
  | p :: r, s, n =>
    let pa := fsc f 2 + tileImage f + 4 * p
    match engineRead s f.die [(pa, 4)] with
    | .error i => (s, n, some ⟨Cause.poison, Config.window + tileImage f + 4 * p + i⟩)
    | .ok bs =>
      match fixupElem s f d p (leNat bs) ((List.range (djNpart d)).map (fun k => k + 1)) with
      | .error e => (s, n, some e)
      | .ok x => fixupRun f d r (performWrite s noCore [(pa, 4)] (natLe 4 x)) (n + 4)

/-- The slots, in pieces of at most 64 KiB: address and size. -/
def fixupPages (f : Flight) : List (Nat × Nat) :=
  let d := f.blob.headD 0
  let n := 4 * djTm d * djTn d
  (List.range (djNpart d)).flatMap (fun v =>
    (List.range ((n + 65535) / 65536)).map (fun p =>
      (slotVa d (djUnit d + v + 1) 0 + 65536 * p, min 65536 (n - 65536 * p))))

/-- What a FIXUP is granted of its slots. -/
def fixupGrants (s : State) (f : Flight) : List (Nat × Granted) :=
  (fixupPages f).filterMap (fun p =>
    match check s (copyAgent f) .read p.1 p.2 with
    | .error _ => none
    | .ok g => some (p.1, g))

/-- End a FIXUP: the count, or the fault. -/
def endFixup (s : State) (f : Flight) (n : Nat) (e : Option EngineFail) : State :=
  let s1 := { dropFlight s f.id with reqs := s.reqs.filter (fun r => r.flight != some f.id) }
  let d := f.blob.headD 0
  finishTeam (match e with
    | some x => copyFault s1 f (tileAt f) none x.cause x.va 0 n 0xD7
    | none => countTo s1 (tileCount f) (4 * djTm d * djTn d)) f.team

def stepFixup (s : State) (f : Flight) : State :=
  let d := f.blob.headD 0
  match fixupEvent s f with
  | some false => endFixup s f 0 (some ⟨Cause.tlBack, (djFxev d).toNat⟩)
  | _ =>
    let s := rememberPages s (copyAgent f) ((fixupPages f).flatMap (fun p => [p.1, p.1 + p.2 - 1]))
    let s1 := if f.stage = 0 then askGrants s f 0 (fixupGrants s f) else s
    if reqsOpen s1 f.id then setFlight s1 { f with stage := 1 }
    else
      let (s2, n, e) := fixupRun f d (List.range (djTm d * djTn d)) (fillGrants s1 f.die 0 (fixupGrants s f)) 0
      endFixup s2 f n e

def fixupReady (s : State) (f : Flight) : Bool :=
  f.kind == .fixup && readyAfter s f && !reqsOpen s f.id && (fixupEvent s f).isSome &&
    homeNear s f.die (lineOf (eventAddr (djFxev (f.blob.headD 0)).toNat)) &&
    (fixupPages f).all (fun p => walksNear s (copyAgent f) p.1 p.2) &&
    (fixupGrants s f).all (fun g => placesReady s f.die g.2.parts)

def execFixupRelease (flight : Nat) (s : State) :=
  match findFlight s flight with
  | none => runEvent false s id
  | some f => runEvent (fixupReady s f) s (fun s => stepFixup s f)

end Sys2Proof.Machine
end

