-- ==== Sys2Proof/Machine/Col.lean ====
section
/-! DEFINITION. The Cols: expansion of operator records into jobs and events, the placement of jobs, and the
messages at an event's home (12_work.md R268 to R283; 01_machine.md R19). -/

namespace Sys2Proof.Machine

/-! ## Messages (R282) -/

def findMsg (s : State) (id : Nat) : Option Msg := s.msgs.find? (fun m => m.id == id)

def dropMsg (s : State) (id : Nat) : State := { s with msgs := s.msgs.filter (fun m => m.id != id) }

/-- What the message follows is performed at fabric scope. -/
def msgReady (s : State) (m : Msg) : Bool := m.after.all (performedAt s 5)

/-- Arms of a die that watch an event for a sequence. -/
def eventArms (s : State) (die : Nat) (name q : Word) : List Arm :=
  (getDie s die).arms.filter (fun a => a.cond == .event name q)

/-- A job is waiting on this input. -/
def inputOpen (j : Job) (e : Word × Word) : Bool := j.inputs.contains e && !j.done.contains e

/-- JOB_POISONED (R277): the record is dropped, and the events of the job are poisoned. -/
def poisonedJob (s : State) (die : Nat) (j : Job) : State :=
  let m := dieModule die
  let d := getDie s die
  let s := setDie s die { d with jobs := d.jobs.filter (fun x => !(djSeq x.desc == djSeq j.desc && x.cup.isNone)) }
  let s := report s m .owner (mkReport 0x05 j.vi ((djSeq j.desc).setWidth 64)
    (BitVec.ofNat 64 ((djOpseq j.desc).toNat + djStream j.desc * 2 ^ 32)))
  poisonJob s m j.vi j.desc

/-- A job with one more input satisfied. -/
def satisfyJob (tick : Nat) (e : Word × Word) (j : Job) : Job :=
  if inputOpen j e && j.stage == .waiting then
    let done := e :: j.done
    if j.inputs.all (fun x => done.contains x) then { j with done := done, stage := .ready, since := tick }
    else { j with done := done }
  else j

/-- A notification reaches a die: its jobs and its arms. -/
def notifyDie (s : State) (die : Nat) (name q : Word) (pois : Bool) : State :=
  let d := getDie s die
  let s :=
    if pois then
      (d.jobs.filter (fun j => inputOpen j (name, q) && j.stage == .waiting)).foldl (fun s j => poisonedJob s die j) s
    else setDie s die { d with jobs := d.jobs.map (satisfyJob s.tick (name, q)) }
  (eventArms s die name q).foldl (fun s a => armMet s die 16 a) s

/-- A subscription arrives at the home: answered at once, or chained (R282, R289). -/
def subscribeHome (s : State) (name q : Word) (col vi : Nat) (who : Option (Nat × Nat × Nat)) : State :=
  let e := getEv s name
  let home := evDie name
  let now := e.satisfied q || e.pois || (who.isSome && poisoned s (eventAddr name.toNat) 16)
  match who with
  | some _ =>
    if col = home then
      let arms := (eventArms s home name q).filter (fun a => !(getDie s home).waiters.any (fun w => w.arm == some a.id))
      if now then arms.foldl (fun s a => armMet s home 16 a) s
      else arms.foldl (fun s a => addWaiter s name q none (some a.id)) s
    else if now then sendNotify s name q col vi e.pois
    else addWaiter s name q (some col) none
  | none => if now then sendNotify s name q col vi e.pois else addWaiter s name q (some col) none

/-- An add, a reset or a poison at the home. -/
def homeUpdate (s : State) (name : Word) (k : MsgKind) : State :=
  let e := getEv s name
  match k with
  | .add n => updEvent s name (e.contribute n)
  | .reset q n => updEvent s name (e.restart q (BitVec.ofNat 16 n))
  | .poison => updEvent s name { e with pois := true }
  | _ => s

def isSubscribe (m : Msg) : Bool := match m.kind with | .subscribe _ _ => true | _ => false
def isNotify (m : Msg) : Bool := match m.kind with | .notify _ _ _ => true | _ => false

/-- A subscription waits while the home's pool is full (R282). -/
def subscribeReady (s : State) (m : Msg) : Bool := isSubscribe m && msgReady s m && (freeWaiter s (evDie m.name)).isSome

def stepSubscribe (s : State) (m : Msg) : State :=
  match m.kind with
  | .subscribe q col => subscribeHome (dropMsg s m.id) m.name q col m.vi m.who
  | _ => s

def execEventSubscribe (msg : Nat) (s : State) :=
  match findMsg s msg with
  | none => runEvent false s id
  | some m => runEvent (subscribeReady s m) s (fun s => stepSubscribe s m)

def updateReady (s : State) (m : Msg) : Bool := !isSubscribe m && !isNotify m && msgReady s m

def execEventHomeUpdate (msg : Nat) (s : State) :=
  match findMsg s msg with
  | none => runEvent false s id
  | some m => runEvent (updateReady s m) s (fun s => homeUpdate (dropMsg s m.id) m.name m.kind)

def stepNotify (s : State) (m : Msg) : State :=
  match m.kind with
  | .notify q col pois => notifyDie (dropMsg s m.id) col m.name q pois
  | _ => s

def execEventNotify (msg : Nat) (s : State) :=
  match findMsg s msg with
  | none => runEvent false s id
  | some m => runEvent (isNotify m && msgReady s m) s (fun s => stepNotify s m)

/-! ## Operator records (R271, R273) -/

/-- A record with what R273 derives from it. -/
structure OpRec where
  bits : Nat
  pos : Word
  deriving DecidableEq, Repr

def OpRec.field (r : OpRec) (lo wd : Nat) : Nat := r.bits / 2 ^ lo % 2 ^ wd
def OpRec.m (r : OpRec) : Nat := r.field 0 32
def OpRec.n (r : OpRec) : Nat := r.field 32 32
def OpRec.k (r : OpRec) : Nat := r.field 64 32
def OpRec.evbase (r : OpRec) : Word := BitVec.ofNat 32 (r.field 96 32)
def OpRec.tkc (r : OpRec) : Nat := r.field 136 4
def OpRec.tnc (r : OpRec) : Nat := r.field 140 4
def OpRec.tmc (r : OpRec) : Nat := r.field 144 4
def OpRec.dep (r : OpRec) (h : Nat) : Nat := r.field (148 + 2 * h) 2
def OpRec.handle (r : OpRec) (h : Nat) : Nat := r.field (156 + 12 * h) 12
def OpRec.routine (r : OpRec) : Nat := r.field 204 12
def OpRec.opc (r : OpRec) : Nat := r.field 216 4
def OpRec.w (r : OpRec) : Nat := r.field 220 12 + 1
def OpRec.scr (r : OpRec) : Nat := r.field 232 5
def OpRec.prio (r : OpRec) : Nat := r.field 237 2
def OpRec.sk (r : OpRec) : Bool := r.field 239 1 == 1
def OpRec.rtag (r : OpRec) : Nat := r.field 240 16

def ceilDiv (a b : Nat) : Nat := (a + b - 1) / b

def OpRec.mt (r : OpRec) : Nat := ceilDiv r.m (2 ^ r.tmc)
def OpRec.nt (r : OpRec) : Nat := ceilDiv r.n (2 ^ r.tnc)
def OpRec.tiles (r : OpRec) : Nat := r.mt * r.nt
def OpRec.kt (r : OpRec) : Nat := if r.k = 0 then 1 else ceilDiv r.k (2 ^ r.tkc)

/-- Dies of a stream's set, ascending; tile t belongs to the die of rank t mod D (R275). -/
def setDies (module mask : Nat) : List Nat :=
  (List.range 16).filterMap (fun k => if mask.testBit k then some (module * 16 + k) else none)

def ownsTile (module mask die t : Nat) : Bool :=
  let ds := setDies module mask
  ds.getD (t % ds.length) 0 == die

/-! ## Producer words (R273, R274) -/

/-- The producer word of a record. -/
def OpRec.producer (r : OpRec) : BitVec 128 :=
  BitVec.ofNat 128 (1 + r.tnc * 2 ^ 8 + r.tmc * 2 ^ 12 + r.mt % 2 ^ 24 * 2 ^ 16 + r.nt % 2 ^ 24 * 2 ^ 40 +
    r.evbase.toNat * 2 ^ 64 + r.pos.toNat * 2 ^ 96)

/-- The producer word of a tensor table's entry; none when the table does not translate. -/
def tableWord (s : State) (die : Nat) (st : Stream) (h : Nat) : Option (BitVec 128) :=
  (dieRead s die st.vi (st.ttbase.toNat + 128 * h + 64) 16).map (BitVec.ofNat 128)

/-- A position stands at or behind another (R281). -/
def notBefore (p q : Word) : Bool := decide ((p - q).toNat < 2 ^ 31)

/-- The Col that writes a stream's producer words: that of the set's lowest die. -/
def leadStream (s : State) (die : Nat) (st : Stream) : Stream :=
  (((getDie s ((setDies (dieModule die) st.dmask).headD 0)).streams.find? (fun x => x.vi == st.vi && x.num == st.num))).getD st

/-- The producer word of a table entry as a Col takes it: from its own expansion while HEAD has not passed that record;
else from the table, as it stood before what records from this position on have written there (log 83). -/
def producerOf (s : State) (die : Nat) (st : Stream) (head : Word) (h : Nat) : Option (BitVec 128) :=
  match st.made.find? (fun e => e.1 == h && notBefore e.2.1 head) with
  | some (_, _, w, _) => some w
  | none =>
    match ((leadStream s die st).made.filter (fun e => e.1 == h && notBefore e.2.1 st.next)).getLast? with
    | some (_, _, _, old) => some old
    | none => tableWord s die st h

/-- Tiles of a producer that overlap a range of elements, clipped to its count. -/
def overlapTiles (lo hi code count : Nat) : List Nat :=
  (List.range count).filter (fun a => decide (a * 2 ^ code < hi) && decide (lo < (a + 1) * 2 ^ code))

/-- The producer rectangle of a tile under a mode, as (rows, columns). -/
def rectangle (r : OpRec) (dep : Nat) (w : BitVec 128) (i j : Nat) : List Nat × List Nat :=
  let x := w.toNat
  let pmt := x / 2 ^ 16 % 2 ^ 24
  let pnt := x / 2 ^ 40 % 2 ^ 24
  let rows := overlapTiles (i * 2 ^ r.tmc) (min ((i + 1) * 2 ^ r.tmc) r.m) (x / 2 ^ 12 % 16) pmt
  let cols := overlapTiles (j * 2 ^ r.tnc) (min ((j + 1) * 2 ^ r.tnc) r.n) (x / 2 ^ 8 % 16) pnt
  (if dep = 3 then List.range pmt else rows, if dep = 2 then List.range pnt else cols)

/-- The input events of tile (i, j) on one producer word; none for a name that carries out of its index (R279). -/
def inputsOn (r : OpRec) (dep : Nat) (w : BitVec 128) (i j : Nat) : List (Option (Word × Word)) :=
  if dep = 0 ∨ w.toNat % 2 = 0 then []
  else
    let (rows, cols) := rectangle r dep w i j
    let pnt := w.toNat / 2 ^ 40 % 2 ^ 24
    let pevb : Word := BitVec.ofNat 32 (w.toNat / 2 ^ 64)
    let pseq : Word := BitVec.ofNat 32 (w.toNat / 2 ^ 96)
    rows.flatMap (fun a => cols.map (fun b => (evPlus pevb (a * pnt + b)).map (fun e => (e, pseq))))

/-- The producer words of the inputs H1 to H3 whose DEP is not 0; none on a translation failure. -/
def producers (s : State) (die : Nat) (st : Stream) (head : Word) (r : OpRec) : Option (List (Nat × BitVec 128)) :=
  [1, 2, 3].foldl (fun acc h =>
    match acc with
    | none => none
    | some l =>
      if r.dep h = 0 then some l
      else (producerOf s die st head (r.handle h)).map (fun w => l ++ [(r.dep h, w)])) (some [])

def tileNames (r : OpRec) (ws : List (Nat × BitVec 128)) (t : Nat) : List (Option (Word × Word)) :=
  ws.flatMap (fun e => inputsOn r e.1 e.2 (t / r.nt) (t % r.nt))

def tileInputs (r : OpRec) (ws : List (Nat × BitVec 128)) (t : Nat) : List (Word × Word) :=
  ((tileNames r ws t).filterMap id).eraseDups

/-! ## Stream-K division (R276) -/

/-- One job to be: kind, tile, unit, range, and parts. -/
structure Piece where
  kind : Nat
  tile : Nat
  unit : Nat
  kbeg : Nat
  kend : Nat
  npart : Nat
  deriving DecidableEq, Repr

/-- The bound of unit u. -/
def unitStart (r : OpRec) (u : Nat) : Nat := u * (r.tiles * r.kt) / r.w

/-- The recordPieces of unit u, in tile order: the tile and its range of iterations. -/
def unitPieces (r : OpRec) (u : Nat) : List (Nat × Nat × Nat) :=
  let lo := unitStart r u
  let hi := unitStart r (u + 1)
  if hi ≤ lo then []
  else (List.range ((hi - 1) / r.kt - lo / r.kt + 1)).map (fun x =>
    let t := lo / r.kt + x
    (t, max lo (t * r.kt) - t * r.kt, min hi ((t + 1) * r.kt) - t * r.kt))

/-- Every job of a record with its number: without SK in tile order; under SK the PART jobs in unit order, then
the others in tile order. -/
def recordPieces (r : OpRec) : List Piece :=
  if !r.sk then (List.range r.tiles).map (fun t => ⟨0, t, 0, 0, r.kt, 0⟩)
  else
    let all := (List.range r.w).flatMap (fun u => (unitPieces r u).map (fun e => (u, e)))
    let parts := (all.filter (fun x => x.2.2.1 != 0)).map (fun x => (⟨2, x.2.1, x.1, x.2.2.1, x.2.2.2, 0⟩ : Piece))
    let rest := (all.filter (fun x => x.2.2.1 == 0)).map (fun x =>
      if x.2.2.2 = r.kt then (⟨0, x.2.1, x.1, 0, r.kt, 0⟩ : Piece)
      else ⟨1, x.2.1, x.1, 0, x.2.2.2, (parts.filter (fun p => p.tile == x.2.1)).length⟩)
    parts ++ rest

/-- The output event of a tile, and its fix-up event. -/
def OpRec.outev (r : OpRec) (t : Nat) : Word := r.evbase + BitVec.ofNat 32 t
def OpRec.fxev (r : OpRec) (t : Nat) : Word := r.evbase + BitVec.ofNat 32 (r.tiles + t)

/-- The job descriptor (R278). -/
def descriptor (st : Stream) (r : OpRec) (seq : Word) (p : Piece) : BitVec 512 :=
  BitVec.ofNat 512 (
    seq.toNat + r.pos.toNat * 2 ^ 32 + r.rtag * 2 ^ 64 + r.field 232 8 * 2 ^ 80 + r.opc * 2 ^ 88 + r.routine * 2 ^ 92 +
    p.kind * 2 ^ 104 + r.tmc * 2 ^ 106 + r.tnc * 2 ^ 110 + r.tkc * 2 ^ 114 + st.num * 2 ^ 118 +
    (p.tile / r.nt) % 2 ^ 24 * 2 ^ 128 + (p.tile % r.nt) % 2 ^ 24 * 2 ^ 152 + p.npart % 2 ^ 16 * 2 ^ 176 +
    p.kbeg * 2 ^ 192 + p.kend * 2 ^ 224 + r.handle 0 * 2 ^ 256 + r.handle 1 * 2 ^ 268 + r.handle 2 * 2 ^ 280 +
    r.handle 3 * 2 ^ 292 + p.unit % 2 ^ 16 * 2 ^ 304 + (r.outev p.tile).toNat * 2 ^ 320 +
    (if p.kind = 0 then 0 else (r.fxev p.tile).toNat) * 2 ^ 352 + st.ttbase.toNat % 2 ^ 57 * 2 ^ 384 +
    st.fxbase.toNat % 2 ^ 57 * 2 ^ 448)

/-! ## Refusals (R272) -/

/-- An event name of the operator is outside the VI's domain or the index range. -/
def badNames (s : State) (module vi : Nat) (r : OpRec) : Bool :=
  let n := if r.sk then 2 * r.tiles else r.tiles
  decide (2 ^ 18 < evIndex r.evbase + n) ||
    (List.range n).any (fun t => !evAllowed s module vi (r.evbase + BitVec.ofNat 32 t))

/-- An input event's name carries out of its index, or is of another domain (R279, R280; log 84). -/
def badInputs (s : State) (module vi : Nat) (r : OpRec) (ws : List (Nat × BitVec 128)) : Bool :=
  (List.range r.tiles).any (fun t => (tileNames r ws t).any (fun e =>
    match e with | none => true | some x => !evAllowed s module vi x.1))

/-- Every page of a range of a VI translates for a die. -/
def rangeMapped (s : State) (die vi va n : Nat) : Bool :=
  (List.range ((va + n + 65535) / 65536 - va / 65536)).all (fun k =>
    (dieParts s die vi .read (max va ((va / 65536 + k) * 65536)) 1).isSome)

/-- The fix-up area of a record translates. -/
def fixupOk (s : State) (die : Nat) (st : Stream) (r : OpRec) : Bool :=
  !r.sk || rangeMapped s die st.vi st.fxbase.toNat (4 * 2 ^ r.tmc * 2 ^ r.tnc * r.w)

/-- The stream fault code of a record; 0 when it is accepted. `ws` are the producer words. -/
def refusal (s : State) (die : Nat) (st : Stream) (r : OpRec) (ws : Option (List (Nat × BitVec 128))) : Nat :=
  let m := dieModule die
  if r.opc = 0 ∨ 8 ≤ r.opc then 1
  else if r.field 128 8 ≠ 0 ∨ r.field 148 2 ≠ 0 ∨ 18 ≤ r.scr ∨ 12 < r.tmc ∨ 12 < r.tnc then 2
  else if r.m = 0 ∨ r.n = 0 ∨ 2 ^ 24 < r.tiles then 3
  else if st.ttcount ≤ r.handle 0 ∨ [1, 2, 3].any (fun h => r.dep h != 0 && decide (st.ttcount ≤ r.handle h)) then 4
  else if badNames s m st.vi r || ws.any (badInputs s m st.vi r) then 5
  else if r.sk ∧ (r.k = 0 ∨ st.fxbase = 0 ∨ r.tiles * r.kt < r.w) then 6
  else if (match ws with | some ws => (List.range r.tiles).any (fun t => decide (256 < (tileInputs r ws t).length)) | none => false) then 7
  else if r.rtag = 0 then 8
  else if ws.isNone ∨ !fixupOk s die st r ∨
      (dieParts s die st.vi .write (st.ttbase.toNat + 128 * r.handle 0 + 64) 16).isNone then 9
  else 0

/-! ## Expansion (R273 to R277) -/

/-- Change the copies of a stream on a module's dies. -/
def updStreams (s : State) (module vi num : Nat) (f : Nat → Stream → Stream) : State :=
  (s.dies.filter (fun e => dieModule e.1 == module)).foldl (fun s e =>
    setDie s e.1 { getDie s e.1 with streams := (getDie s e.1).streams.map (fun x =>
      if x.vi = vi ∧ x.num = num then f e.1 x else x) }) s

/-- Write a field of an SCB, where it translates. -/
def scbPut (s : State) (die : Nat) (st : Stream) (byte n v : Nat) : State :=
  (dieWrite s die st.vi (st.scb.toNat + byte) n v).getD s

/-- Bit 265 of the SCB, STOP. -/
def scbStop (s : State) (die : Nat) (st : Stream) (v : Nat) : State :=
  let b := (dieRead s die st.vi (st.scb.toNat + 33) 1).getD 0
  scbPut s die st 33 1 (b - b / 2 % 2 * 2 + v * 2)

/-- A refused record stops the stream (R272). -/
def refuseRecord (s : State) (die : Nat) (st : Stream) (code : Nat) : State :=
  let m := dieModule die
  let s := scbStop s die st 1
  let s := scbPut s die st 42 1 code
  let old := (dieRead s die st.vi (st.scb.toNat + 38) 4).getD 0
  let s := scbPut s die st 38 4 (if old = st.next.toNat then old else st.next.toNat)
  let s := updStreams s m st.vi st.num (fun _ x => { x with stopped := true, skip := some st.next })
  report s m .owner { mkReport 0x04 st.vi (BitVec.ofNat 64 st.num) (st.next.setWidth 64) with reason := code }

/-- Reset an event for an operator of a VI: at once in the module, by request on another (R273, R281). -/
def resetEvent (s : State) (die vi : Nat) (name q : Word) (n : Nat) : State :=
  if evModule name = dieModule die then updEvent s name ((getEv s name).restart q (BitVec.ofNat 16 n))
  else forVi s vi (newRequest s die (eventAddr name.toNat) (.event name (.reset q n)) none (name.setWidth 64) 0 none)

/-- The next job sequence number, skipping 0. -/
def nextJobseq (q : Word) : Word := if q + 1 = 0 then 1 else q + 1

/-- Subscribe once for each input of another die that no job of the Col waits on yet; an event of its own die the Col looks
at. -/
def subscribeInputs (s : State) (die vi : Nat) (es : List (Word × Word)) : State :=
  es.foldl (fun s e =>
    if evDie e.1 = die then
      let v := getEv s e.1
      if v.satisfied e.2 || v.pois then tellOwn s e.1 e.2 v.pois else s
    else if (getDie s die).jobs.any (fun j => inputOpen j e && j.stage == .waiting) then s
    else if evModule e.1 = dieModule die then (addMsg s e.1 vi (.subscribe e.2 die) [] none 0).2
    else forVi s vi (newRequest s die (eventAddr e.1.toNat) (.event e.1 (.subscribe e.2 die)) none (e.1.setWidth 64) 0 none)) s

/-- Add one job of the die; a job that bears a dead tag is dropped at once (14_system.md R332). -/
def addJob (s : State) (die : Nat) (st : Stream) (r : OpRec) (ws : List (Nat × BitVec 128)) (n : Nat) (p : Piece) : State :=
  let ins := tileInputs r ws p.tile
  let s := if tagDead s (dieModule die) st.vi r.rtag then s else subscribeInputs s die st.vi ins
  let d := getDie s die
  let j : Job := ⟨st.vi, descriptor st r d.jobseq p, n, r.prio, ins, [], false, s.tick,
    if ins.isEmpty then .ready else .waiting, none⟩
  let s1 := setDie s die { d with jobseq := nextJobseq d.jobseq }
  if tagDead s (dieModule die) st.vi r.rtag then poisonJob s1 (dieModule die) st.vi j.desc
  else setDie s1 die { getDie s1 die with jobs := d.jobs ++ [j] }

/-- The position that every Col of the set has expanded: HEAD. -/
def headOf (s : State) (module : Nat) (st : Stream) (head : Word) : Word :=
  let ns := (s.dies.filter (fun e => dieModule e.1 == module)).flatMap (fun e =>
    (e.2.streams.filter (fun x => x.vi == st.vi && x.num == st.num)).map Stream.next)
  head + BitVec.ofNat 32 (ns.foldl (fun a x => min a (x - head).toNat) (2 ^ 32 - 1))

/-- The writes, and the updates of events, that the engines of a module's dies have made on their own account and that are
still to be performed. -/
def colWrites (s : State) (module : Nat) : List Nat :=
  (s.reqs.filter (fun r => r.src == module && r.who.isNone && !r.performed && !r.abandoned &&
    (match r.kind with | .write _ => true | .event _ (.reset _ _) => true | _ => false))).map Request.id

/-- The Col goes on past a record; HEAD follows, once the producer words are written. -/
def passRecord (s : State) (die : Nat) (st : Stream) : State :=
  let m := dieModule die
  let s := updStreams s m st.vi st.num (fun d x => if d = die then { x with next := st.next + 1 } else x)
  let head : Word := BitVec.ofNat 32 ((dieRead s die st.vi (st.scb.toNat + 28) 4).getD 0)
  match dieParts s die st.vi .write (st.scb.toNat + 28) 4 with
  | none => s
  | some ps => forVi s st.vi
      (engineWriteAfter s die none (st.scb.toNat + 28) 0 none ps (natLe 4 (headOf s m st head).toNat) (colWrites s m))

/-- The jobs of a record that a die's Col expands, with their numbers. -/
def ownPieces (die : Nat) (st : Stream) (r : OpRec) : List (Piece × Nat) :=
  ((recordPieces r).zipIdx 0).filter (fun e => ownsTile (dieModule die) st.dmask die e.1.tile)

/-- Room in a Col's table (R277). -/
def jobRoom (s : State) (die : Nat) : Nat := 65536 - (getDie s die).jobs.length

/-- The set's lowest die writes the producer word of a record, and every Col of the set keeps it (R273, R274). -/
def writeProducer (s : State) (die : Nat) (st : Stream) (r : OpRec) : State :=
  let m := dieModule die
  let old := (tableWord s die st (r.handle 0)).getD 0
  let head : Word := BitVec.ofNat 32 ((dieRead s die st.vi (st.scb.toNat + 28) 4).getD 0)
  let s1 := if (setDies m st.dmask).headD 0 = die then
      (dieWrite s die st.vi (st.ttbase.toNat + 128 * r.handle 0 + 64) 16 r.producer.toNat).getD s else s
  updStreams s1 m st.vi st.num (fun d x => if d = die then
    { x with made := (r.handle 0, r.pos, r.producer, old) :: x.made.filter (fun e => notBefore e.2.1 head) } else x)

/-- Expand the jobs of a record from number `k` of the die's on, as far as the table has room; after the last one the
producer word is written and the Col goes on (R277). -/
def expandJobs (s : State) (die : Nat) (st : Stream) (r : OpRec) (ws : List (Nat × BitVec 128)) (k : Nat) : State :=
  let ps := (ownPieces die st r).drop k
  let n := jobRoom s die
  let s1 := (ps.take n).foldl (fun s e => addJob s die st r ws e.2 e.1) s
  let hold := fun (h : Option (Nat × List (Nat × BitVec 128))) (s : State) =>
    updStreams s (dieModule die) st.vi st.num (fun d x => if d = die then { x with hand := h } else x)
  if n < ps.length then hold (some (k + n, ws)) s1 else passRecord (hold none (writeProducer s1 die st r)) die st

/-- Expand an accepted record on one die: the events of its tiles are reset, and its jobs are made. -/
def expandRecord (s : State) (die : Nat) (st : Stream) (r : OpRec) (ws : List (Nat × BitVec 128)) : State :=
  let m := dieModule die
  let ps := recordPieces r
  let mine := (List.range r.tiles).filter (ownsTile m st.dmask die)
  let split := fun (t : Nat) => (ps.find? (fun e => e.kind == 1 && e.tile == t)).map Piece.npart
  let s := mine.foldl (fun s t =>
    let s := resetEvent s die st.vi (r.outev t) r.pos 1
    match split t with | some n => resetEvent s die st.vi (r.fxev t) r.pos n | none => s) s
  expandJobs s die st r ws 0

/-- A retention hold stands on the record's output tensor (15_checking.md R361). -/
def heldOutput (s : State) (st : Stream) (h : Nat) : Bool :=
  s.dies.any (fun e => e.2.cups.any (fun c => c.vi == st.vi && c.holds.contains (st.ttbase, h)))

/-- The stream of a die, the record at its next position, if there is one, and HEAD. -/
def nextRecord (s : State) (die : Nat) (st : Stream) : Option (Option OpRec × Word) :=
  match dieRead s die st.vi (st.scb.toNat + 24) 4, dieRead s die st.vi (st.scb.toNat + 28) 4 with
  | some tail, some head =>
    let d := (BitVec.ofNat 32 tail - st.next).toNat
    if d = 0 ∨ 2 ^ 31 ≤ d then none
    else some ((dieRead s die st.vi (st.base.toNat + 32 * (st.next.toNat % 2 ^ st.log2)) 32).map (fun b => ⟨b, st.next⟩),
      BitVec.ofNat 32 head)
  | _, _ => none

/-- A place that a Col reads of a VI can be read now. -/
def colNear (s : State) (die vi va n : Nat) : Bool :=
  walksNear s (dieAgent die vi) va n &&
  match dieParts s die vi .read va n with
  | none => true
  | some ps => partsNear s die ps && placesReady s die ps

/-- The stream's control block, the record in hand and the entries of its table can be read now. -/
def streamNear (s : State) (die : Nat) (st : Stream) : Bool :=
  colNear s die st.vi st.scb.toNat 64 && colNear s die st.vi (st.base.toNat + 32 * (st.next.toNat % 2 ^ st.log2)) 32 &&
    (match nextRecord s die st with
     | some (some r, _) => [0, 1, 2, 3].all (fun h => colNear s die st.vi (st.ttbase.toNat + 128 * r.handle h + 64) 16)
     | _ => true)

/-- The step is enabled on a ready die: a record stands past TAIL's reading, the stream runs, no hold keeps the record
back, and a record whose expansion has paused finds room. -/
def expandReady (s : State) (die : Nat) (st : Stream) : Bool :=
  (getDie s die).ready && streamNear s die st &&
  match nextRecord s die st with
  | none => false
  | some (none, _) => !st.stopped
  | some (some r, _) =>
    (!st.stopped || (st.skip != some st.next && st.skip.isSome)) && !heldOutput s st (r.handle 0) &&
      (st.hand.isNone || decide (0 < jobRoom s die))

def stepExpand (s : State) (die : Nat) (st : Stream) : State :=
  match nextRecord s die st with
  | none => s
  | some (r, head) =>
    if st.skip = some st.next then
      passRecord (updStreams s (dieModule die) st.vi st.num (fun d x => if d = die then { x with skip := none } else x)) die st
    else
      match r with
      | none => refuseRecord s die st 9
      | some r =>
      match st.hand with
      | some (k, ws) => expandJobs s die st r ws k
      | none =>
        let ws := producers s die st head r
        let code := refusal s die st r ws
        if code ≠ 0 then refuseRecord s die st code else expandRecord s die st r (ws.getD [])

def execOpExpand (die vi stream : Nat) (s : State) :=
  match (getDie s die).streams.find? (fun x => x.vi == vi && x.num == stream) with
  | none => runEvent false s id
  | some st => runEvent (expandReady s die st) s (fun s => stepExpand s die st)

/-! ## Placement of jobs (R19, R277, R283, R362) -/

/-- A core takes jobs. -/
def coreTakes (s : State) (core : Nat) : Bool :=
  let c := getCore s core
  c.ready && !c.lost && !c.quarantined && c.drain.isNone && decide (c.mailbox.length < 64)

/-- A core is of a VI's allotment on its module (R269). -/
def allotted (s : State) (core vi : Nat) : Bool :=
  match getVi s (coreModule core) vi with | some v => v.cfg.cores.contains core | none => false

/-- The lowest-numbered worker team of a VI on a core that has no job (R19). -/
def freeWorker (s : State) (core vi : Nat) : Option Nat :=
  let ts := (allTeams s).filter (fun t => t.core == core && t.vi == vi && t.worker && t.job.isNone)
  (ts.foldl (fun (a : Option Team) t => match a with
    | none => some t
    | some b => if t.teamix < b.teamix then some t else some b) none).map Team.id

/-- The first core of a list with a free worker. -/
def pickCore (s : State) (vi : Nat) (cores : List Nat) : Option (Nat × Nat) :=
  cores.findSome? (fun c => if coreTakes s c && allotted s c vi then (freeWorker s c vi).map (fun t => (c, t)) else none)

/-- The cores of a die in the order of R283. -/
def coreOrder (s : State) (die vi : Nat) : List Nat :=
  let start := match (cget (fun _ => 0) (getDie s die).lastCore vi) with | 0 => 0 | n + 1 => (n + 1) % 48
  (List.range 48).map (fun k => die * 64 + (start + k) % 48)

/-- The cores for a re-run: the other dies of the module, from the one after the original's (R362). -/
def rerunOrder (die : Nat) (used : List Nat) : List Nat :=
  let m := dieModule die
  ((List.range 15).map (fun k => m * 16 + (die + k + 1) % 16)).flatMap (fun d =>
    if used.contains d then [] else (List.range 48).map (fun k => d * 64 + k))

/-- Where a ready job can go now. -/
def jobPlace (s : State) (die : Nat) (j : Job) : Option (Nat × Nat) :=
  match j.cup with
  | some c =>
    match (getDie s die).cups.find? (fun x => x.id == c) with
    | some x => pickCore s j.vi (rerunOrder (coreDie (x.cores.headD 0)) (x.cores.map coreDie))
    | none => none
  | none => pickCore s j.vi (coreOrder s die j.vi)

/-- Job a ranks before job b (R277; a re-run after every ordinary one, R362). -/
def ranksBefore (a b : Job) : Bool :=
  let key := fun (j : Job) =>
    [if j.cup.isSome then 1 else 0, 3 - j.prio, j.since, djStream j.desc, (djOpseq j.desc).toNat, j.number]
  decide (key a < key b)

/-- An OWNER waits until every PART of its tile has been placed. -/
def ownerWaits (s : State) (die : Nat) (j : Job) : Bool :=
  djKind j.desc == 1 && j.cup.isNone && (getDie s die).jobs.any (fun x =>
    djKind x.desc == 2 && x.vi == j.vi && djOutev x.desc == djOutev j.desc && djOpseq x.desc == djOpseq j.desc &&
      djStream x.desc == djStream j.desc && (x.stage == .waiting || x.stage == .ready))

/-- The first ready job that some core can take, with its place. -/
def nextJob (s : State) (die : Nat) : Option (Job × Nat × Nat) :=
  if !(getDie s die).ready then none
  else ((getDie s die).jobs.filter (fun j => j.stage == .ready && !ownerWaits s die j)).foldl
    (fun (a : Option (Job × Nat × Nat)) j =>
      match a with
      | some (b, p) => if ranksBefore j b then (match jobPlace s die j with | some q => some (j, q) | none => some (b, p)) else some (b, p)
      | none => (jobPlace s die j).map (fun q => (j, q))) none

/-- The lowest free entry of a core's mailbox. -/
def freeEntry (s : State) (core : Nat) : Nat :=
  ((List.range 64).find? (fun e => !(getCore s core).mailbox.any (fun m => m.1 == e))).getD 0

/-- The same record of a Col. -/
def sameJob (a b : Job) : Bool := djSeq a.desc == djSeq b.desc && a.cup == b.cup

/-- Bind a job to a team. -/
def bindJob (s : State) (die : Nat) (j : Job) (core tid : Nat) : State :=
  let e := freeEntry s core
  let s := wrNat s (mailAddr core e) 64 j.desc.toNat
  let c := getCore s core
  let s := setCore s core { c with mailbox := c.mailbox ++ [(e, tid)] }
  let s := updTeam s tid (fun t => { t with job := some ⟨j.desc, djSeq j.desc, die, false, j.cup⟩ })
  let d := getDie s die
  let s := setDie s die { d with
    jobs := d.jobs.map (fun x => if sameJob x j then { x with stage := .bound core tid } else x)
    lastCore := if j.cup.isNone then cput (fun _ => 0) d.lastCore j.vi (core % 64 + 1) else d.lastCore
    cups := d.cups.map (fun x => if some x.id = j.cup then { x with bound := some core } else x) }
  mailArrive s core tid

def execJobPlace (die : Nat) (s : State) :=
  match nextJob s die with
  | none => runEvent false s id
  | some (j, core, tid) => runEvent true s (fun s => bindJob s die j core tid)

end Sys2Proof.Machine
end

