-- ==== Sys2Proof/Machine/Place.lean ====
section
/-! DEFINITION. Placement of teams, grids and gangs (01_machine.md R23, R24, R28; 10_matrix.md R222; 12_work.md
R267, R294, R295), and DONE reports (16_frontend.md R378, R421). -/

namespace Sys2Proof.Machine

/-- DONE, when the packet asked for it. -/
def doneReport (s : State) (queue : Nat) (pos : Word) (vi type sub : Nat) (notify : Bool) : State :=
  if notify then
    report s (queue / 128) (.packet queue)
      { mkReport 0x01 vi (BitVec.ofNat 64 (type + 16 * sub)) 0 with pos := pos }
  else s

/-- DONE for a packet whose effect is complete. -/
def doneOf (s : State) (p : PktRef) : State := doneReport s p.queue p.pos p.vi p.type p.sub p.notify

/-! ## Room for a team in a bank (R24, R222) -/

/-- Teams of a bank. -/
def bankTeams (s : State) (core bank : Nat) : List Team :=
  (allTeams s).filter (fun t => t.core == core && t.bank == bank)

/-- Group count and budget of a role word (02_words.md R44). -/
def roleGroups (w : Word) : Nat := w.toNat % 256
def roleRegs (w : Word) : Nat := (w.toNat / 256 % 16 + 1) * 16

/-- The role and the budget of each group, in group order (R23). -/
def groupRoles (roles : List Word) : List (Nat × Nat) :=
  (roles.zipIdx 0).flatMap (fun e => List.replicate (roleGroups e.1) (e.2, roleRegs e.1))

/-- Partition and budget of every resident group. -/
def residents (ts : List Team) : List (Nat × Nat) :=
  ts.flatMap (fun t => t.groups.map (fun g => (g.part, roleBudget t g.role)))

/-- The partitions hold what stands in them. -/
def partsFit (cap : Nat) (rs : List (Nat × Nat)) : Bool :=
  (List.range 12).all (fun p =>
    let on := rs.filter (fun r => r.1 == p)
    decide ((on.map Prod.snd).sum ≤ cap) && decide (on.length ≤ 16))

/-- The groups of a team from a first partition. -/
def spread (first : Nat) (roles : List Word) : List (Nat × Nat) :=
  ((groupRoles roles).zipIdx 0).map (fun e => ((first + e.2) % 12, e.1.2))

/-- The lowest offset, in 4 KiB units, of a free range of the scratchpad. -/
def spadFit (ts : List Team) (units : Nat) : Option Nat :=
  if units = 0 then some 0
  else (List.range (129 - units)).find? (fun o =>
    ts.all (fun t => t.spadBytes == 0 || decide (t.spadBase + t.spadBytes ≤ o * 4096) ||
      decide ((o + units) * 4096 ≤ t.spadBase)))

def hdrSpad (h : Word) : Nat := h.toNat / 16 % 256
def hdrRdv (h : Word) : Nat := h.toNat / 2 ^ 12 % 32
def hdrMseq (h : Word) : Bool := h.getLsbD 17
def hdrGang (h : Word) : Bool := h.getLsbD 19
def hdrC16 (h : Word) : Bool := h.getLsbD 0

/-- Rendezvous slots that a team takes. -/
def teamRdv (t : Team) : Nat := hdrRdv t.hdr

/-- Where a team goes in a bank. -/
structure Spot where
  core : Nat
  bank : Nat
  first : Nat
  slot : Nat
  spad : Nat
  mslot : Nat
  deriving DecidableEq, Repr

/-- R24 with R222, for one bank. -/
def fitBank (s : State) (core bank : Nat) (hdr : Word) (roles : List Word) : Option Spot :=
  let ts := bankTeams s core bank
  let first := (List.range 12).find? (fun f => partsFit (getCore s core).capreg (residents ts ++ spread f roles))
  let slot := (List.range 16).find? (fun k => ts.all (fun t => t.slot != k))
  let ms := (List.range 2).find? (fun k => ts.all (fun t => (t.mslot.map MSlot.index) != some k))
  if 384 < (ts.map teamRdv).sum + hdrRdv hdr then none
  else
    match first, slot, spadFit ts (hdrSpad hdr), (if hdrMseq hdr then ms else some 0) with
    | some f, some k, some o, some m => some ⟨core, bank, f, k, o * 4096, m⟩
    | _, _, _, _ => none

/-! ## The team as placed -/

/-- The splits of a group at placement: two under C16 (06_control.md R148). -/
def placedSplits (sp : Split) (c16 : Bool) : List Split :=
  if c16 then [{ sp with num := 0, mask := 0xFFFF }, { sp with num := 1, mask := 0xFFFF0000 }]
  else [{ sp with num := 0, mask := 0xFFFFFFFF }]

/-- Generator states of a group at placement: under C16 both halves hold equal states (05_convert.md R118). -/
def placedGens (c16 : Bool) : Cells Word :=
  if c16 then (List.range 16).foldl (fun g l => cput genInit g (16 + l) (genInit l)) [] else []

/-- The coordinates of a team of a grid, packed as s1 (R267). -/
def packXyz (x y z : Nat) : DWord := BitVec.ofNat 64 (x + y * 2 ^ 21 + z * 2 ^ 42)

def gridCoord (l : Launch) (i : Nat) : DWord :=
  let (x, y, _) := l.ext
  packXyz (i % x) (i / x % y) (i / (x * y))

/-- The split that a launch starts everywhere (R129, R267, R321). -/
def launchSplit (s : State) (l : Launch) (i : Nat) : Split :=
  let sp := { Split.fresh with
    pc := l.image + 32
    mode := putBits 0 42 1 (if hdrC16 l.header then 1 else 0)
    tstat := if l.system then 1 else 0
    woke := s.tick }
  splitPutS (splitPutS (splitPutS sp 0 l.arg) 1 (gridCoord l i)) 2 (packXyz l.ext.1 l.ext.2.1 l.ext.2.2)

/-- A team at its placement. -/
def placedTeam (s : State) (l : Launch) (i : Nat) (p : Spot) : Team :=
  let c16 := hdrC16 l.header
  { Team.fresh with
    id := s.fresh
    vi := l.vi
    core := p.core
    bank := p.bank
    slot := p.slot
    first := p.first
    hdr := l.header
    roles := l.roles
    rtag := BitVec.ofNat 16 l.rtag
    tvec := l.tvec
    worker := l.worker
    spadBase := p.spad
    spadBytes := 4096 * hdrSpad l.header
    teamix := i
    cev := l.cev
    mslot := if hdrMseq l.header then some { MSlot.fresh with index := p.mslot } else none
    groups := ((groupRoles l.roles).zipIdx 0).map (fun e =>
      { Group.fresh with
        num := e.2
        part := (p.first + e.2) % 12
        role := e.1.1
        gens := placedGens c16
        splits := placedSplits (launchSplit s l i) c16 }) }

/-! ## Grids (R294) -/

/-- The cores of a VI's allotment on a module, ascending. -/
def allotment (s : State) (module vi : Nat) : List Nat :=
  match getVi s module vi with
  | none => []
  | some v => (List.range 1024).filterMap (fun k =>
      if v.cfg.cores.contains (module * 1024 + k) then some (module * 1024 + k) else none)

/-- A list of cores, ascending, turned so that it starts after a core. -/
def startAfter (cores : List Nat) (last : Option Nat) : List Nat :=
  match last with
  | none => cores
  | some k => cores.filter (fun c => decide (k < c)) ++ cores.filter (fun c => decide (c ≤ k))

/-- A core that may receive teams at all: it and its die are ready, and it is not quarantined (01_machine.md R28). -/
def takesTeams (s : State) (core : Nat) : Bool :=
  (getCore s core).ready && !(getCore s core).lost && !(getCore s core).quarantined && (getDie s (coreDie core)).ready

/-- A core may receive a team of a launch now (R28, R295; log 20: a core under a drain or a swap receives
none). -/
def coreOpen (s : State) (launch : Nat) (core : Nat) : Bool :=
  let c := getCore s core
  takesTeams s core && c.drain.isNone && !c.swapping &&
    (c.reserved.isNone || c.reserved == some launch)

/-- The first place for the next team of a launch; `any` leaves R28 and the reservations out. -/
def findSpot (any : Bool) (s : State) (l : Launch) : Option Spot :=
  (startAfter (allotment s l.module l.vi) l.lastCore).findSome? (fun c =>
    if any || coreOpen s l.id c then fitBank s c (runningBank s c) l.header l.roles else none)

/-- Place the next team of a launch. -/
def placeNext (any : Bool) (s : State) (l : Launch) : Option (State × Launch) :=
  (findSpot any s l).map (fun p =>
    ({ s with teams := putTeam (placedTeam s l l.next p) s.teams, fresh := s.fresh + 1 },
      { l with next := l.next + 1, lastCore := some p.core }))

/-- Teams of the grid. -/
def gridSize (l : Launch) : Nat := l.ext.1 * l.ext.2.1 * l.ext.2.2

/-- Place up to `n` teams. -/
def placeSome (any : Bool) : Nat → State → Launch → State × Launch
  | 0, s, l => (s, l)
  | n + 1, s, l =>
    match placeNext any s l with
    | none => (s, l)
    | some (s1, l1) => placeSome any n s1 l1

/-- A launch placed on an empty allotment, from its first team (R295). -/
def placeEmpty (s : State) (l : Launch) : State × Launch :=
  let l0 := { l with next := 0, lastCore := none }
  placeSome true (gridSize l0) { close s with teams := [] } l0

/-- Teams that a gang is short of on an empty allotment. -/
def emptyShortfall (s : State) (l : Launch) : Nat := gridSize l - (placeEmpty s l).2.next

/-- Teams that a gang is short of now. -/
def shortfall (s : State) (l : Launch) : Nat := gridSize l - (placeSome false (gridSize l) (close s) l).2.next

/-- A team that bears a dead tag is ended by the purge at once (16_frontend.md R377). -/
def endDead (s : State) (l : Launch) (from_ : Nat) : State :=
  if tagDead s l.module l.vi l.rtag then
    ((s.teams.filter (fun t => decide (from_ ≤ t.id))).map Team.id).foldl (fun s t => forceEnd s t true) s
  else s

/-- The launch is over: its reservations and its record go. -/
def dropLaunch (s : State) (l : Launch) : State :=
  let s := { s with launches := s.launches.filter (fun x => x.id != l.id) }
  s.cores.foldl (fun s e =>
    if e.2.reserved = some l.id then setCore s e.1 { getCore s e.1 with reserved := none } else s) s

/-- Every team of its grid is placed: DONE is written. -/
def launchDone (s : State) (l : Launch) : State :=
  doneReport (dropLaunch s l) l.queue l.pos l.vi 4 0 l.notify

/-- The relocations of a launch's image are performed at their homes (02_words.md R45). -/
def fixed (s : State) (l : Launch) : Bool := l.fixes.all (performedAt s 5)

/-- A launch one of whose relocations is given up places nothing more, and has no DONE (log 101). -/
def loseLaunch (s : State) (req : Nat) : State :=
  (s.launches.filter (fun l => l.fixes.contains req)).foldl dropLaunch s

def putLaunch (s : State) (l : Launch) : State :=
  { s with launches := s.launches.map (fun x => if x.id = l.id then l else x) }

/-- A team of a grid is placed, or a gang whole; none when there is no room. -/
def placeLaunch (s : State) (l : Launch) : Option State :=
  let n := if hdrGang l.header then gridSize l else 1
  let (s1, l1) := placeSome false n s l
  if l1.next = l.next + n then
    let s2 := endDead s1 l s.fresh
    some (if l1.next = gridSize l then launchDone s2 l else putLaunch s2 l1)
  else none

def findLaunch (s : State) (id : Nat) : Option Launch := s.launches.find? (fun l => l.id == id)

/-- Keep the focus on its split, if it still stands, over a step that works with every team closed. -/
def refocus (s c : State) : State := if s.live then openOn c s.team.id s.group.num s.split.num else c

def execTeamPlace (launch : Nat) (s : State) : Host.Outcome State Fault Refusal :=
  match findLaunch s launch with
  | none => .fault .notEnabled
  | some l =>
    if !fixed s l then .fault .notEnabled
    else
      match placeLaunch (close s) l with
      | none => .fault .notEnabled
      | some s1 => .next (refocus s s1)

/-! ## Gangs (R295) -/

/-- Reserve the cores that the gang would use on an empty allotment. -/
def reserveGang (s : State) (l : Launch) : State :=
  let used := ((placeEmpty s l).1.teams.map Team.core).eraseDups
  putLaunch (used.foldl (fun s c => setCore s c { getCore s c with reserved := some l.id }) s) { l with aged := 1 }

def execGangAge (launch : Nat) (s : State) : Host.Outcome State Fault Refusal :=
  match findLaunch s launch with
  | none => .fault .notEnabled
  | some l => if hdrGang l.header && l.aged == 0 then .next (reserveGang s l) else .fault .notEnabled

def execGangStarved (launch : Nat) (s : State) : Host.Outcome State Fault Refusal :=
  match findLaunch s launch with
  | none => .fault .notEnabled
  | some l =>
    if hdrGang l.header && l.aged == 1 then
      .next (report (putLaunch s { l with aged := 2 }) l.module .owner
        (mkReport 0x0F l.vi (BitVec.ofNat 64 (shortfall s l)) (l.pos.setWidth 64)))
    else .fault .notEnabled

end Sys2Proof.Machine
end

