-- ==== Sys2Proof/Machine/Fabric.lean ====
section
/-! DEFINITION. The fabric: queries, layout maps, exchanges, leases, requests between modules, ports and planes
(13_fabric.md R298 to R320). -/

namespace Sys2Proof.Machine

/-- An E-format instruction acts once for the split when Active is not empty (log 22). -/
def onceIf (i : Instr) (s : State) (body : State → State) : Host.Outcome State Fault Refusal :=
  run i s (fun s => if active s = 0 then adv s else body s)

/-- ILLEGAL with an operand in TRAPV. -/
def badOperand (s : State) (v : DWord) : State := trap s Cause.illegal v (active s)

/-! ## Leases and RDCF (R307, R308) -/

def execLeaseExpire (die line : Nat) (s : State) :=
  runEvent (leased s die line) s (fun s => leaveLease s die line)

/-- The home stops resending: the lease of a holder that cannot be reached has run out by then. -/
def execLeaseInvalidateTimeout (die line : Nat) (s : State) :=
  runEvent (leased s die line && !reach s (line * 128 / 2 ^ 42) (dieModule die) (line % 8)) s
    (fun s => leaveLease s die line)

/-- Drop a die's RDC copy or lease of a line: true when there was one. -/
def dropCopy (s : State) (die line : Nat) : State × Bool :=
  let d := getDie s die
  if leased s die line then (leaveLease s die line, true)
  else if d.rdc.contains line then (leaveRdc s die line, true)
  else (s, false)

/-- The line of a VA of the executing VI, where it translates. -/
def vaLine (s : State) (va : Nat) : Option Nat :=
  if Config.window ≤ va then none
  else
    match translate s (thisModule s) (unitCore s.team.core) s.team.vi false .read va va with
    | .error _ => none
    | .ok (pa, _) => some (lineOf pa)

def execRdcfRange (x y z : BitVec 5) (l : BitVec 4) (s : State) :=
  onceIf (.rdcfRange x y z l) s (fun s =>
    let n := rs s y.toNat
    if 2 ^ 32 ≤ n.toNat then badOperand s n
    else
      let lines := (rangeLines (xValue s x).toNat n.toNat).filterMap (vaLine s)
      let r := lines.foldl (fun (acc : State × Nat) line =>
        let (s1, b) := dropCopy acc.1 (thisDie s) line
        (s1, if b then acc.2 + 1 else acc.2)) (s, 0)
      adv (ws r.1 z.toNat (BitVec.ofNat 64 r.2)))

def execRdcfMod (y z : BitVec 5) (l : BitVec 4) (s : State) :=
  onceIf (.rdcfMod y z l) s (fun s =>
    let m := rs s y.toNat
    if 2 ^ 10 ≤ m.toNat then badOperand s m
    else
      let ls := s.leases.filter (fun e => e.die == thisDie s && e.line * 128 / 2 ^ 42 == m.toNat)
      adv (ws (ls.foldl (fun s e => leaveLease s e.die e.line) s) z.toNat (BitVec.ofNat 64 ls.length)))

/-! ## FQRY (R309) -/

/-- FQRY's operand check and result. -/
def fqry (i : Instr) (y z : BitVec 5) (limit : Nat) (f : State → Nat → Nat) (s : State) :
    Host.Outcome State Fault Refusal :=
  onceIf i s (fun s =>
    let v := rs s y.toNat
    if limit ≤ v.toNat then badOperand s v else adv (ws s z.toNat (BitVec.ofNat 64 (f s v.toNat))))

def execFqryPort (y z : BitVec 5) (l : BitVec 4) (s : State) :=
  fqry (.fqryPort y z l) y z 64 (fun s p =>
    let q := getPort s (thisModule s * 64 + p)
    q.retries.toNat * 2 ^ 32 + portPlane p * 2 ^ 8 + q.state * 2 ^ 4 + (if q.state = 0 then 0 else q.width)) s

def execFqryPlane (y z : BitVec 5) (l : BitVec 4) (s : State) :=
  fqry (.fqryPlane y z l) y z 8 (fun s i =>
    portsUp s (thisModule s) (physOf s (thisModule s) i) * 2 ^ 8 + fpEntry s (thisModule s) i) s

/-- A module answered another within the last reachability period. -/
def answered (s : State) (src tgt : Nat) : Bool :=
  let m := getModule s src
  m.reached.any (fun e => e.1 == tgt &&
    decide (((List.range (s.tick - e.2)).map (fun k => Config.elapsed (e.2 + k))).sum ≤ 1000 * m.reachMs))

def execFqryReach (y z : BitVec 5) (l : BitVec 4) (s : State) :=
  fqry (.fqryReach y z l) y z 1024 (fun s m =>
    (inGroup s (thisModule s) m).toNat * 2 + (answered s (thisModule s) m).toNat) s

/-! ## Layout maps (R310 to R312) -/

def lmRank (d : BitVec 512) : Nat := dField d 349 2 + 1
def lmType (d : BitVec 512) : Nat := dField d 344 5
def lmPerm (d : BitVec 512) (m : Nat) : Nat := dField d (334 + 2 * m) 2
def lmG (d : BitVec 512) : Nat := dField d 332 2
def lmA (d : BitVec 512) : Nat := dField d 330 2
def lmP (d : BitVec 512) : Nat := dField d 320 10 + 1
def lmStr (d : BitVec 512) (k : Nat) : Nat := if k = 0 then 0 else dField d (192 + 32 * k) 32
def lmRaw (d : BitVec 512) (k : Nat) : Nat := dField d (160 + 16 * k) 16
def lmEvb (d : BitVec 512) : Word := BitVec.ofNat 32 (dField d 128 32)
def lmDstride (d : BitVec 512) : Int := asInt 64 true (dField d 64 64)
def lmDbase (d : BitVec 512) : Nat := dField d 0 57

/-- Element size in bytes. -/
def lmEs (d : BitVec 512) : Nat := halfBytes (lmType d) / 2

/-- The source extent of a dimension. -/
def lmExt (d : BitVec 512) (k : Nat) : Nat := if k < lmRank d then lmRaw d k else 1

/-- LMAP's reason code (R312). -/
def lmReason (d : BitVec 512) : Nat :=
  let k := lmRank d
  let es := lmEs d
  if (List.range 4).any (fun j => if j < k then lmRaw d j == 0 else lmRaw d j != 0 || lmStr d j != 0) then 1
  else if lmType d = 15 ∨ 18 ≤ lmType d then 2
  else if (List.range 4).any (fun m => if m < k
      then !(List.range k).any (fun n => lmPerm d n == m) || decide (k ≤ lmPerm d m) else lmPerm d m != m) then 3
  else if k ≤ lmA d ∨ k ≤ lmG d then 4
  else if lmDbase d % es ≠ 0 ∨ lmDstride d % (es : Int) ≠ 0 ∨ [1, 2, 3].any (fun j => lmStr d j % es != 0) ∨
      (evPlus (lmEvb d) (lmP d - 1)).isNone then 5
  else if dField d 351 161 ≠ 0 ∨ dField d 342 2 ≠ 0 ∨ dField d 57 7 ≠ 0 then 6
  else 0

def execLmap (y z : BitVec 5) (l : BitVec 4) (n : BitVec 3) (s : State) :=
  onceIf (.lmap y z l n) s (fun s =>
    let o := rs s y.toNat
    if o.toNat % 64 ≠ 0 then trap s Cause.misalign o (active s)
    else if s.team.spadBytes < o.toNat + 64 then trap s Cause.access o (active s)
    else inOrder s (ownSpad s o.toNat 64) (fun s =>
      let d := BitVec.ofNat 512 (rdNat s (teamSpad s.team + o.toNat) 64)
      let c := lmReason d
      let rest := s.team.maps.filter (fun e => e.1 != n.toNat)
      let s1 := { s with team := { s.team with maps := if c = 0 then (n.toNat, d) :: rest else rest } }
      adv (ws s1 z.toNat (BitVec.ofNat 64 c))))

/-! ## Exchanges at issue (R313) -/

/-- The extent of A in one rank's share. -/
def lmC (d : BitVec 512) : Nat := lmExt d (lmA d) / lmP d

/-- Which exchange an instruction is: 1 XA2A, 2 XAG, 3 XRS. -/
def xOp (i : Instr) : Nat :=
  match i with
  | .xa2a _ _ _ _ _ _ => 1
  | .xag _ _ _ _ _ _ => 2
  | _ => 3

/-- Codes 7 and 8 of R313; 0 when neither applies. -/
def xReason (op : Nat) (d : BitVec 512) : Nat :=
  if op ≠ 2 ∧ lmExt d (lmA d) % lmP d ≠ 0 then 7
  else if op = 1 ∧ lmA d = lmG d then 7
  else if op = 3 ∧ !tredType (lmType d) then 8
  else 0

/-- The die's exchange engine is full. -/
def exchangeFull (s : State) : Bool :=
  decide (32 ≤ (s.flights.filter (fun f => f.die == thisDie s && f.kind == .exchange)).length)

/-- The scalars of an exchange flight beside those of every copy: 4 SBASE, 5 the object, 6 the rank, 7 flags as
in a tile operation, 8 the element bytes written, 9 the rank in hand, 10 the slot. Its lanes are the ranks
that remain. -/
def issueExchange (i : Instr) (x y z : BitVec 5) (n : BitVec 1) (m : BitVec 3) (s : State) :
    Host.Outcome State Fault Refusal :=
  onceIf i s (fun s =>
    let r := rs s y.toNat
    let base := xValue s x
    let o := rs s z.toNat
    if 2 ^ 10 ≤ r.toNat then badOperand s r
    else
      match lookup s.team.maps m.toNat with
      | none => badOperand s (m.setWidth 64)
      | some d =>
        let c := xReason (xOp i) d
        if lmP d ≤ r.toNat then badOperand s r
        else if c ≠ 0 then badOperand s (BitVec.ofNat 64 (c * 2 ^ 32 + m.toNat))
        else if base.toNat % lmEs d ≠ 0 then trap s Cause.misalign base (active s)
        else
          match tileTarget s ⟨0xE1, 0, none, 0, 0, false, false, none, false, false⟩ o with
          | .error e => trapCheck s e o.toNat (active s)
          | .ok pa =>
            if exchangeFull s then hold s (.room .exchange)
            else
              let (q, s1) := takeSeq s
              let flags : Nat := n.toNat + (if o = 0 then 0 else 4) + 16 * (rerunning s.team).toNat
              let lanes := (List.range (lmP d)).map (fun k => (⟨k, 0, [], 0, 0, []⟩ : LaneReq))
              let sc := copyScal s q ++ [base, BitVec.ofNat 64 pa, r, BitVec.ofNat 64 flags, 0, 0, m.setWidth 64]
              let f := newFlight s1 .exchange i none lanes sc (engineAfter s)
              adv (launchFlight s1 { f with blob := [d], home := o != 0 }))

def execXa2a (x y z : BitVec 5) (l : BitVec 4) (n : BitVec 1) (m : BitVec 3) (s : State) :=
  issueExchange (.xa2a x y z l n m) x y z n m s
def execXag (x y z : BitVec 5) (l : BitVec 4) (n : BitVec 1) (m : BitVec 3) (s : State) :=
  issueExchange (.xag x y z l n m) x y z n m s
def execXrs (x y z : BitVec 5) (l : BitVec 4) (n : BitVec 1) (m : BitVec 3) (s : State) :=
  issueExchange (.xrs x y z l n m) x y z n m s

/-! ## The elements of an exchange (R311) -/

/-- The extents of the box that goes to one rank, and those of a destination. -/
def xBox (op : Nat) (d : BitVec 512) (k : Nat) : Nat := if op ≠ 2 ∧ k = lmA d then lmC d else lmExt d k
def xDst (op : Nat) (d : BitVec 512) (k : Nat) : Nat :=
  if op ≠ 3 ∧ k = lmG d then lmP d * lmExt d k else if op ≠ 2 ∧ k = lmA d then lmC d else lmExt d k

/-- The elements for rank q, in ascending linear order of d: source and destination addresses. -/
def xElems (op : Nat) (d : BitVec 512) (sbase r q : Nat) : List (Nat × Nat) :=
  let b := fun (m : Nat) => xBox op d (lmPerm d m)
  let es := lmEs d
  (boxOrder (b 0) (b 1) (b 2) (b 3) 1).map (fun p =>
    let at_ := fun (k : Nat) => ((List.range 4).find? (fun m => lmPerm d m == k)).elim 0 (fun m => p.getD m 0)
    let src := fun (k : Nat) => if op ≠ 2 ∧ k = lmA d then at_ k + q * lmC d else at_ k
    let dst := fun (k : Nat) => if op ≠ 3 ∧ k = lmG d then at_ k + r * lmExt d k else at_ k
    let lin := (List.range 4).foldr (fun m a => dst (lmPerm d m) + xDst op d (lmPerm d m) * a) 0
    (sbase + es * src 0 + src 1 * lmStr d 1 + src 2 * lmStr d 2 + src 3 * lmStr d 3,
     (((lmDbase d : Int) + (q : Int) * lmDstride d + ((es * lin : Nat) : Int)) % (2 ^ 64 : Nat)).toNat))

def xMap (f : Flight) : BitVec 512 := f.blob.headD 0
def xFlightElems (f : Flight) (q : Nat) : List (Nat × Nat) := xElems (xOp f.instr) (xMap f) (fsc f 4) (fsc f 6) q

/-- Bytes that an exchange counts (R314). -/
def xBytes (f : Flight) : Nat :=
  let d := xMap f
  lmExt d 0 * lmExt d 1 * lmExt d 2 * lmExt d 3 * lmEs d * (if xOp f.instr = 2 then lmP d else 1)

/-- The exchange engine as an accessing agent: it translates for its die. -/
def xAgent (f : Flight) : Agent := ⟨dieModule f.die, unitDie f.die, f.vi, fsc f 1 % 2 == 1, fsc f 2, fsc f 3⟩

def xEvent (f : Flight) (q : Nat) : Word := lmEvb (xMap f) + BitVec.ofNat 32 q

def putScal (f : Flight) (k v : Nat) : Flight := { f with scal := f.scal.set k (BitVec.ofNat 64 v) }

/-! ## The work of an exchange (R314, R315, R318) -/

/-- What moving the elements of a rank has done: the writes to be made, latest first. -/
structure XAcc where
  out : List EngineStore
  fail : Option EngineFail

/-- One element: read the source, and write it, or for XRS add it, at the destination. -/
def moveElem (s : State) (f : Flight) (first : Bool) (a : XAcc) (e : Nat × Nat) : XAcc :=
  if a.fail.isSome then a
  else
    let n := lmEs (xMap f)
    match check s (xAgent f) .read e.1 n with
    | .error (c, v) => { a with fail := some ⟨c, v⟩ }
    | .ok g =>
      if lostLines s f g.parts then { a with fail := some ⟨Cause.fabricUncertain, e.1⟩ }
      else
        match engineRead s f.die g.parts with
        | .error i => { a with fail := some ⟨Cause.poison, e.1 + i⟩ }
        | .ok bs =>
          match check s (xAgent f) .write e.2 n with
          | .error (c, v) => { a with fail := some ⟨c, v⟩ }
          | .ok h =>
            let put := fun (v : List Byte) => { a with out := ⟨e.2, h.parts, v, h.window, []⟩ :: a.out }
            if xOp f.instr ≠ 3 ∨ first then put bs
            else
              match engineRead s f.die h.parts with
              | .error i => { a with fail := some ⟨Cause.poison, e.2 + i⟩ }
              | .ok old => put (natLe n (elemAdd (lmType (xMap f)) (leNat old) (leNat bs)))

/-- What rank q's elements are granted at their sources, or at their destinations. -/
def xGrants (s : State) (f : Flight) (k : Kind) (q : Nat) : List (Nat × Granted) :=
  (xFlightElems f q).filterMap (fun e =>
    let va := if k = .write then e.2 else e.1
    match check s (xAgent f) k va (lmEs (xMap f)) with
    | .error _ => none
    | .ok g => some (va, g))

/-- XRS adds to what another source has written. -/
def xAdds (f : Flight) : Bool := xOp f.instr == 3 && fsc f 6 != 0

/-- What rank q's elements read. -/
def xReads (s : State) (f : Flight) (q : Nat) : List (Nat × Granted) :=
  xGrants s f .read q ++ (if xAdds f then xGrants s f .write q else [])

/-- The places of rank q's elements take the exchange now. -/
def xPlacesReady (s : State) (f : Flight) (q : Nat) : Bool :=
  (xFlightElems f q).all (fun e => walksNear s (xAgent f) e.1 (lmEs (xMap f)) && walksNear s (xAgent f) e.2 (lmEs (xMap f))) &&
  (xReads s f q).all (fun g => placesReady s f.die g.2.parts) &&
    destsFree s f.die ((xGrants s f .write q).flatMap (fun g => g.2.parts))

/-- Bytes of an exchange's writes that were abandoned. -/
def lostBytes (s : State) (f : Flight) : Nat :=
  (s.reqs.map (fun r => match r.kind with
    | .write bs => if r.flight == some f.id && r.abandoned then bs.length else 0
    | _ => 0)).sum

/-- Forget the answered requests of an exchange that ends; a write still under way is performed (R318). -/
def leaveWrites (s : State) (f : Flight) : State :=
  { dropFlight s f.id with reqs := s.reqs.filterMap (fun r =>
      if r.flight ≠ some f.id then some r
      else if !r.acked && !r.abandoned && (match r.kind with | .write _ => true | _ => false) then
        some { r with flight := none, who := none }
      else none) }

/-- End an exchange: count or fault. A team without groups may end. -/
def endExchange (s : State) (f : Flight) (fail : Option EngineFail) : State :=
  let m := dieModule f.die
  let s0 := leaveWrites s f
  let op := tileOp f.instr
  let bytes := fsc f 8 - lostBytes s f
  finishTeam (match fail with
    | some e =>
      let s1 := f.lanes.foldl (fun s l =>
        if evAllowed s m f.vi (xEvent f l.lane) && !tileFlag f 4 then poisonName s m f.vi (xEvent f l.lane) else s) s0
      copyFault s1 f (tileAt f) none e.cause e.va (fsc f 10) bytes op
    | none =>
      let s1 := countTo s0 (if tileFlag f 2 then .object (fsc f 5) else .none) (xBytes f)
      if tileFlag f 0 then (writeRecord s1 f.team f.grp (recordOf f 0 (fsc f 10) bytes op 0 1)).1 else s1) f.team

/-- The abandoned request of an exchange, as a failure. -/
def xLost (s : State) (f : Flight) : Option EngineFail :=
  (s.reqs.find? (fun r => r.flight == some f.id && r.abandoned)).map (fun r => ⟨Cause.fabricUncertain, r.va.toNat⟩)

/-- Forget the answered requests of the phase that ends. -/
def xPhase (s : State) (f : Flight) : State :=
  setFlight { s with reqs := s.reqs.filter (fun r => r.flight != some f.id) } f

/-- The event of the rank in hand is added to: the rank is done. -/
def xNext (f : Flight) (q : Nat) : Flight := { f with stage := 0, lanes := f.lanes.filter (fun l => l.lane != q) }

/-- Stage 0: the reads of the rank in hand are asked for; stage 1: they are answered and the elements are moved;
stage 2: the writes are answered and the event is added to; stage 3: the add is answered. -/
def xAdd (s : State) (f : Flight) (q : Nat) : State :=
  let m := dieModule f.die
  let e := xEvent f q
  if !evAllowed s m f.vi e then endExchange s f (some ⟨Cause.access, e.toNat⟩)
  else if evModule e = m then setFlight (updEvent (xPhase s f) e ((getEv s e).contribute 1)) (xNext f q)
  else newRequest (xPhase s { f with stage := 3 }) f.die (eventAddr e.toNat) (.event e (.add 1)) (some f.id) (e.setWidth 64)
    f.pc (some (f.team, f.grp, f.spl))

/-- Move the elements of a rank; when nothing is asked of another module, go on to its event. -/
def xMove (s : State) (f : Flight) (q : Nat) : State :=
  let a := (xFlightElems f q).foldl (moveElem s f (fsc f 6 == 0)) ⟨[], none⟩
  let f1 := putScal { f with stage := 2 } 8 (fsc f 8 + a.out.length * lmEs (xMap f))
  let s1 := engineWrites (setFlight (fillGrants s f.die 0 (xReads s f q)) f1) f.die (some f.id) f.pc
    (some (f.team, f.grp, f.spl)) a.out.reverse
  match a.fail with
  | some e => endExchange s1 f1 (some e)
  | none => if reqsOpen s1 f.id then s1 else xAdd s1 f1 q

/-- The first step of a rank: its pages are translated, and what lies on other modules is asked for. -/
def xStart (s : State) (f : Flight) (q : Nat) : State :=
  let f := putScal f 9 q
  let es := xFlightElems f q
  let s := rememberPages s (xAgent f) (es.map Prod.fst ++ es.map Prod.snd)
  let s1 := askGrants (setFlight s { f with stage := 1 }) f 0 (xReads s f q)
  if reqsOpen s1 f.id then s1 else xMove s1 f q

/-- A re-run's exchange writes nothing, raises no event and abandons the run (15_checking.md R362). -/
def xRerun (s : State) (f : Flight) : State := endExchange (markRerun s f.team) f none

/-- Go on with an exchange whose requests are answered. -/
def stepExchange (s : State) (f : Flight) : State :=
  if tileFlag f 4 then xRerun s f
  else
    match (if f.stage = 1 then none else xLost s f), f.stage with
    | some e, _ => endExchange s f (some e)
    | none, 1 => xMove s f (fsc f 9)
    | none, 2 => xAdd s f (fsc f 9)
    | none, 3 => xPhase s (xNext f (fsc f 9))
    | none, _ =>
      match f.lanes with
      | [] => endExchange s f none
      | l :: _ => xStart s f l.lane

/-- An exchange can go on, on a ready die: XRS starts a rank by XRS_TURN only. -/
def exchangeReady (s : State) (f : Flight) : Bool :=
  f.kind == .exchange && (getDie s f.die).ready && !reqsOpen s f.id &&
    (tileFlag f 4 || f.stage != 1 || xPlacesReady s f (fsc f 9)) &&
    (f.stage != 0 || (readyAfter s f && (f.lanes.isEmpty || tileFlag f 4 ||
      (xOp f.instr != 3 && xPlacesReady s f ((f.lanes.map LaneReq.lane).headD 0)))))

def execExchangeComplete (flight : Nat) (s : State) :=
  match findFlight s flight with
  | none => runEvent false s id
  | some f => runEvent (exchangeReady s f) s (fun s => stepExchange s f)

/-- The first rank of those that remain whose event says something to source s: its turn, a refusal, or a loss; the
count reaches a source before POIS does (R315). -/
def xTurn (s : State) (f : Flight) : Option Nat :=
  (f.lanes.map LaneReq.lane).find? (fun q =>
    let e := xEvent f q
    !evAllowed s (dieModule f.die) f.vi e || poisoned s (eventAddr e.toNat) 16 || decide (fsc f 6 ≤ (getEv s e).count.toNat))

/-- A source's turn at rank q (R315). -/
def stepTurn (s : State) (f : Flight) (q : Nat) : State :=
  let n := xEvent f q
  let e := getEv s n
  if !evAllowed s (dieModule f.die) f.vi n then endExchange s f (some ⟨Cause.access, n.toNat⟩)
  else if poisoned s (eventAddr n.toNat) 16 then endExchange s f (some ⟨Cause.poison, n.toNat⟩)
  else if e.pois ∨ fsc f 6 < e.count.toNat then endExchange s f (some ⟨Cause.tlBack, n.toNat⟩)
  else xStart s f q

/-- An XRS waits for turns. -/
def turnsReady (s : State) (f : Flight) : Bool :=
  f.kind == .exchange && (getDie s f.die).ready && xOp f.instr == 3 && f.stage == 0 && !tileFlag f 4 && readyAfter s f &&
    !reqsOpen s f.id && (xTurn s f).any (xPlacesReady s f)

/-- The event of a rank is read: in place on the engine's module, and by a request to another (log 57). -/
def readTurn (s : State) (f : Flight) (q : Nat) : State :=
  let e := xEvent f q
  let line := lineOf (eventAddr e.toNat)
  if evModule e = dieModule f.die ∨ s.reqs.any (fun r => r.flight == some f.id && r.acked && r.line == line) = true then
    stepTurn (xPhase s f) f q
  else newRequest (xPhase s f) f.die (line * 128) (.read false none) (some f.id) (e.setWidth 64) f.pc
    (some (f.team, f.grp, f.spl))

def execXrsTurn (flight : Nat) (s : State) :=
  match findFlight s flight with
  | none => runEvent false s id
  | some f =>
    runEvent (turnsReady s f) s (fun s => match xTurn s f with | some q => readTurn s f q | none => s)

/-! ## Requests between modules (R301 to R306) -/

def findReq (s : State) (id : Nat) : Option Request := s.reqs.find? (fun r => r.id == id)

def putReq (s : State) (r : Request) : State := { s with reqs := s.reqs.map (fun x => if x.id = r.id then r else x) }

def dropReq (s : State) (id : Nat) : State := { s with reqs := s.reqs.filter (fun r => r.id != id) }

/-- A request is still to be answered. -/
def openReq (r : Request) : Bool := !r.acked && !r.abandoned

/-- Earlier requests of the source for the same line are performed (R301). -/
def inLine (s : State) (r : Request) : Bool :=
  s.reqs.all (fun x => !(x.src == r.src && x.tgt == r.tgt && x.line == r.line && decide (x.id < r.id)) ||
    x.performed || x.abandoned)

/-- The number stands in the window's marks or below its base. -/
def seenBefore (d : Dedup) (seq : Word) : Bool :=
  d.marks.any (fun m => m.1 == seq) || decide (2 ^ 31 ≤ (seq - d.base).toNat)

/-- The base that the source may advance to: past every number answered or abandoned (R304). -/
def advanceTo (s : State) (d : Dedup) : Word :=
  let left := (s.reqs.filter (fun r => r.src == d.src && r.tgt == d.tgt && numbered r.kind && openReq r)).map Request.seq
  d.base + BitVec.ofNat 32 (left.foldl (fun a q => min a (q - d.base).toNat) (d.next - d.base).toNat)

def advanceWindow (s : State) (src tgt : Nat) : State :=
  let d := dedupOf s src tgt
  let b := advanceTo s d
  if b = d.base then s
  else setDedup s { d with base := b, marks := d.marks.filter (fun m => decide ((m.1 - b).toNat < 2 ^ 31)) }

/-- The message that advances a window travels on any plane. -/
def execDedupAdvance (src tgt : Nat) (s : State) :=
  runEvent (advanceTo s (dedupOf s src tgt) != (dedupOf s src tgt).base && (List.range 8).any (reach s src tgt)) s
    (fun s => advanceWindow s src tgt)

/-- The bytes that a request writes at the home. -/
def reqParts (r : Request) : List (Nat × Nat) :=
  match r.kind with
  | .write bs => bs.map (fun e => (e.1, 1))
  | .atomic _ => [(r.line * 128, 128)]
  | _ => []

/-- Contribute to the digest of a team, if it is still there (15_checking.md R356). -/
def teamContribute (s : State) (tid : Nat) (cs : List DWord) : State :=
  match findTeam s tid with
  | some t => contribute s t.core t.bank t.slot cs
  | none => s

/-- Perform one lane at its home: of an atomic, an add of a TRED, or a BUMP of a TSCT. Its status (0, or a cause) comes
first in what it returns. -/
def performLane (s1 : State) (f : Flight) (l : LaneReq) : State × List Byte :=
  match f.kind with
  | .tile =>
    let pa := (l.parts.map Prod.fst).headD 0
    let bump := tileOp f.instr == 0xC5
    let n := if bump then 16 else elemBytes f
    if poisoned s1 pa n then (s1, [BitVec.ofNat 8 Cause.poison])
    else
      let old := rdNat s1 pa n
      if bump then
        let (o, r) := bumpOp old 1
        (performWrite s1 noCore l.parts (natLe 16 o), 0 :: natLe 8 r)
      else
        let v := l.a.toNat
        let s2 := performWrite s1 noCore l.parts (natLe n (elemAdd (hdType (tileDesc f)) old v))
        (teamContribute s2 f.team (elemContribs (halfBytes (hdType (tileDesc f))) 0 l.va v false), [0])
  | _ =>
    let (s2, l1) := executeLane s1 f l
    (s2, l1.data)

/-- Perform the lanes of a request, which is steered once, in ascending order, with nothing between them (09_atomics.md
R197, R199). -/
def performLanes (s : State) (r : Request) (ks : List Nat) : State × List (Nat × List Byte) :=
  match r.flight.bind (findFlight s) with
  | none => (s, [])
  | some f => (f.lanes.filter (fun l => ks.contains l.lane)).foldl (fun acc l =>
      let (s1, d) := performLane acc.1 f l
      (s1, acc.2 ++ [(l.lane, d)])) (steer s f.id f.core f.die false (r.line * 128), [])

/-- What a request does at its target, with what an atomic returns. -/
def performReq (s : State) (r : Request) : State × List (Nat × List Byte) :=
  match r.kind with
  | .write bs =>
    let s1 := match r.who with | some w => teamContribute s w.1 r.contribs | none => s
    (clearPoison (performWrite s1 noCore (bs.map (fun e => (e.1, 1))) (bs.map Prod.snd)) (bs.map (fun e => (e.1, 1))), [])
  | .event name (.subscribe q col) => (subscribeHome s name q col 0 r.who, [])
  | .event name (.notify q col pois) => (notifyDie s col name q pois, [])
  | .event name k => (countJob (homeUpdate s name k) r.flight, [])
  | .atomic ks => performLanes s r ks
  | .read lease l1 =>
    let s1 := if lease then grantLease s r.die r.line else s
    (match l1 with | some c => fillL1 s1 c r.line | none => s1, [])

/-- The home can take a request now. -/
def homeTakes (s : State) (r : Request) : Bool :=
  homeReady s (r.line * 128) && !leaseBlocks s (reqParts r) &&
    (match r.kind with
     | .event name (.subscribe _ _) => (freeWaiter s (evDie name)).isSome
     | _ => true)

/-- The request finds its way from its die to the home die (R300). -/
def crosses (s : State) (r : Request) : Bool :=
  reach s r.src r.tgt r.plane && (r.src == r.tgt ||
    ((egress s r.src (r.die % 16) (physOf s r.src r.plane)).isSome &&
      (egress s r.tgt (paHome (r.line * 128) % 16) (physOf s r.src r.plane)).isSome))

/-- A request reaches its target, for the first time or again. -/
def arriveReady (s : State) (r : Request) : Bool :=
  r.sent && !r.acked && crosses s r &&
    (r.performed || (inLine s r && r.after.all (performedAt s 5) && homeTakes s r))

/-- Perform it, or answer it again; a live request brings the advance of the window with it (R304). -/
def arriveReq (s : State) (r : Request) : State :=
  let s1 := putReq (if r.abandoned then s else advanceWindow s r.src r.tgt) { r with performed := true }
  let d := dedupOf s1 r.src r.tgt
  if r.performed || (numbered r.kind && seenBefore d r.seq) then s1
  else
    let (s2, vs) := performReq s1 r
    if numbered r.kind then
      let d := dedupOf s2 r.src r.tgt
      setDedup s2 { d with marks := (r.seq, vs) :: d.marks }
    else s2

/-- The packets whose effect was this request are done (16_frontend.md R421). -/
def settleAwaits (s : State) (id : Nat) : State :=
  (s.awaits.filter (fun e => e.1 == id)).foldl (fun s e => doneOf s e.2)
    { s with awaits := s.awaits.filter (fun e => e.1 != id) }

def execFabricRequestArrive (req : Nat) (s : State) :=
  match findReq s req with
  | none => runEvent false s id
  | some r => runEvent (arriveReady s r) s (fun s => settleAwaits (arriveReq s r) r.id)

/-- Requests held at a source for want of room go, in order, while their plane is open (R302, R304). -/
def sendHeld (s : State) (src : Nat) : State :=
  { s with reqs := (s.reqs.foldl (fun (acc : List Request) r =>
      let out := (acc.filter (fun x => x.src == src && x.tgt == r.tgt && numbered x.kind && openReq x && x.sent)).length
      let go := r.src == src && r.tgt != src && !r.sent && openReq r && !quiesced s src r.plane && (!numbered r.kind || decide (out < 16384))
      acc ++ [if go then { r with sent := true } else r]) []) }

/-- An answer reaches the source, with what the mark holds: a module that answers is reachable. -/
def ackReq (s : State) (r : Request) : State :=
  let m := getModule s r.src
  let s0 := setModule s r.src { m with reached := (r.tgt, s.tick) :: m.reached.filter (fun x => x.1 != r.tgt) }
  let vs := (((dedupOf s0 r.src r.tgt).marks.find? (fun m => m.1 == r.seq && numbered r.kind)).map Prod.snd).getD []
  let s1 := match r.flight.bind (findFlight s0) with
    | some f => setFlight s0 { f with lanes := f.lanes.map (fun l => match lookup vs l.lane with | some d => { l with data := d } | none => l) }
    | none => s0
  let mine := match r.flight with | some i => (findFlight s i).isSome | none => false
  sendHeld (if mine then putReq s1 { r with acked := true } else dropReq s1 r.id) r.src

def execFabricAck (req : Nat) (s : State) :=
  match findReq s req with
  | none => runEvent false s id
  | some r => runEvent (r.performed && openReq r && crosses s r) s (fun s => ackReq s r)

/-- An unanswered request is sent again, unless its plane holds it. -/
def execRequestResend (req : Nat) (s : State) :=
  match findReq s req with
  | none => runEvent false s id
  | some r => runEvent (r.sent && openReq r) s (fun s => putReq s { r with sent := r.src == r.tgt || !quiesced s r.src r.plane })

/-- The request may be abandoned (R305). -/
def mayAbandon (k : ReqKind) : Bool :=
  match k with
  | .event _ (.subscribe _ _) => false
  | .event _ (.notify _ _ _) => false
  | _ => true

/-- The deferred fault of an abandoned request: a store's, at a WAIT on STG; an engine's or an event's, at any wait. -/
def reqFault (r : Request) (w : Nat × Nat × Nat) : DFault :=
  ⟨r.flight.getD r.id, Cause.fabricUncertain, r.pc, r.va, if r.mask = 0 then none else some r.mask,
    match r.kind, r.flight with | .write _, some _ => .path 1 r.rise | _, _ => .anyWait, [], w.2.2, none, none⟩

/-- Defer it to the group that issued it, joining the lanes of one instruction, or report it (R306). -/
def uncertain (s : State) (r : Request) : State :=
  let rep := report s r.src (if r.vi.isSome then .owner else .firmware) { mkReport 0x1B (r.vi.getD 0) r.va r.pc with pos := 0xFFFFFFFF }
  match r.who with
  | none => rep
  | some w =>
    match findGroup s w.1 w.2.1 with
    | none => rep
    | some g =>
      let d := reqFault r w
      if g.faults.any (fun x => x.id == d.id && x.cause == d.cause) then
        updGroup s w.1 w.2.1 (fun g => { g with faults := g.faults.map (fun x =>
          if x.id = d.id ∧ x.cause = d.cause then { x with mask := x.mask.map (fun m => m ||| r.mask) } else x) })
      else addFault s w.1 w.2.1 d

/-- The fault of a tile operation one of whose writes is given up after the operation has ended: it is raised once
(11_copy.md R263; log 59). -/
def lateFault (s : State) (r : Request) (f : Flight) : State :=
  if f.stage = 9 then s
  else
    copyFault (tileLeaves s { f with stage := 9 }) f (tileAt f) none Cause.fabricUncertain r.va.toNat
      (if tileOp f.instr = 0xC5 then fsc f 15 else fsc f 10) (fsc f 12) (tileOp f.instr)

/-- A split that waits for a table's line asks for it again when its request is given up (log 67). -/
def askAgain (s : State) (r : Request) : State :=
  match r.who with
  | none => s
  | some w => updSplit s w.1 w.2.1 w.2.2 (fun x => { x with wait := match x.wait with
      | some (.walk d ids pas) => if ids.contains r.id then none else some (.walk d ids pas)
      | c => c })

/-- An image of which a request is given up is not written. -/
def loseImage (s : State) (id : Nat) : State :=
  let mark := fun (w : ImageWrite) => if w.ids.contains id then { w with lost := true } else w
  s.cores.foldl (fun s e =>
    let c := getCore s e.1
    setCore s e.1 { c with
      drain := c.drain.map (fun d => { d with wrote := d.wrote.map mark })
      ctx := c.ctx.map (fun d => { d with wrote := d.wrote.map mark }) }) s

/-- The reachability timer expires. -/
def abandon (s : State) (r : Request) : State :=
  let s1 := { s with awaits := s.awaits.filter (fun e => e.1 != r.id) }
  let owner := match r.flight with | some i => findFlight s i | none => none
  match owner with
  | some f => if f.kind == .store then uncertain (dropReq s1 r.id) r else putReq s1 { r with abandoned := true }
  | none =>
    match r.kind, r.op with
    | .read _ _, _ => askAgain (dropReq s1 r.id) r
    | _, some f => lateFault (dropReq s1 r.id) r f
    | _, none => uncertain (loseLaunch (loseImage (dropReq s1 r.id) r.id) r.id) r

def execReachTimeout (req : Nat) (s : State) :=
  match findReq s req with
  | none => runEvent false s id
  | some r => runEvent (mayAbandon r.kind && r.src != r.tgt && r.sent && openReq r) s (fun s => abandon s r)

/-! ## Ports (R303) -/

/-- PLANE_DOWN when a physical plane lost its last port (R302). -/
def planeReport (old s : State) (module phys : Nat) : State :=
  if portsUp old module phys ≠ 0 ∧ portsUp s module phys = 0 then
    report s module .system (mkReport 0x18 0 (BitVec.ofNat 64 phys) 0)
  else s

/-- The width at which a port trains when a lane fails and `n` still work: x2, and then x1, while one works. -/
def narrower (w n : Nat) : Nat := if n = 0 then 0 else if w = 4 then min 2 n else 1

/-- A port loses a lane: it trains at the width left, or goes down. Ports are module * 64 + 4 * die + k. -/
def loseLane (s : State) (port : Nat) : State :=
  let p := getPort s port
  let w := narrower p.width (p.working - 1)
  let m := port / 64
  let n := BitVec.ofNat 64 (port % 64)
  let s1 := setPort s port { p with width := w, working := p.working - 1, state := if w = 0 then 0 else 1 }
  let s2 := report s1 m .system (if w = 0 then mkReport 0x17 0 n 0 else mkReport 0x16 0 n (BitVec.ofNat 64 w))
  planeReport s s2 m (portPlane (port % 64))

def execLaneFailure (port : Nat) (s : State) :=
  runEvent ((getPort s port).state != 0) s (fun s => loseLane s port)

/-- Firmware retrains a port to a wider width, on as many lanes as still work. -/
def execPortRetrain (port width : Nat) (s : State) :=
  runEvent ((getPort s port).state != 0 && (width == 4 || width == 2 || width == 1) && decide ((getPort s port).width < width) &&
    decide (width ≤ (getPort s port).working)) s (fun s =>
    planeReport s (setPort s port { getPort s port with width := width, state := 1 }) (port / 64) (portPlane (port % 64)))

def execRetrainComplete (port : Nat) (s : State) :=
  runEvent ((getPort s port).state == 1) s (fun s => setPort s port { getPort s port with state := 2 })

def execLinkLevelRetry (port : Nat) (s : State) :=
  runEvent ((getPort s port).state != 0) s (fun s =>
    setPort s port { getPort s port with retries := (getPort s port).retries + 1 })

/-! ## Planes (R302) -/

/-- One entry of FPMAP as a write by firmware leaves it. -/
def fpWrite (old new : Nat) : Nat :=
  let q := new / 128 % 2
  let qd := if q = 1 then old / 64 % 2 else 0
  let phys := if old / 128 % 2 = 1 ∧ old / 64 % 2 = 1 then new % 8 else old % 8
  q * 128 + qd * 64 + phys

/-- A write of FPMAP by firmware: planes quiesce, are remapped, or are released, held requests going first. -/
def writeFpmap (s : State) (module : Nat) (v : DWord) : State :=
  let m := getModule s module
  let n := (List.range 8).foldl (fun a i => a + fpWrite (fpEntry s module i) (bitsOf v (8 * i) 8) * 2 ^ (8 * i)) 0
  let s1 := setModule s module { m with fpmap := BitVec.ofNat 64 n }
  let s2 := (List.range 8).foldl (fun s2 i =>
    if fpEntry s module i % 8 ≠ fpEntry s1 module i % 8 ∧ portsUp s1 module (fpEntry s1 module i % 8) = 0 then
      report s2 module .system (mkReport 0x18 0 (BitVec.ofNat 64 (fpEntry s1 module i % 8)) 0)
    else s2) s1
  sendHeld s2 module

/-- CSRW of FPMAP: its fields are firmware's, so a split's write leaves them all untouched (14_system.md R322);
with no split in focus a firmware core executes it (log 21). -/
def execFpmapWrite (a : BitVec 5) (s : State) : Host.Outcome State Fault Refusal :=
  if s.live then runPriv (.fpmapWrite a) s adv
  else .next (writeFpmap s s.fwModule (cget (fun _ => 0) s.fw a.toNat))

/-- Every request outstanding on the plane is answered or held: QD is set. -/
def quiesce (s : State) (module plane : Nat) : State :=
  let m := getModule s module
  let s1 := { s with reqs := s.reqs.map (fun r =>
    if r.src = module ∧ r.tgt ≠ module ∧ r.plane = plane ∧ openReq r then { r with sent := false } else r) }
  setModule s1 module { m with fpmap := putBits m.fpmap (8 * plane + 6) 1 1 }

def execPlaneQuiesced (module plane : Nat) (s : State) :=
  runEvent (decide (plane < 8) && quiesced s module plane && fpEntry s module plane / 64 % 2 == 0) s
    (fun s => quiesce s module plane)

end Sys2Proof.Machine
end

