-- ==== Sys2Proof/Machine/Checking.lean ====
section
/-! DEFINITION. The checking instructions, the replay queue's re-run and the decay of scores (15_checking.md
R351 to R368). -/

namespace Sys2Proof.Machine

/-! ## DIGS and CLON (R359, R360) -/

/-- The contributions of DIGS: one for each active lane. -/
def digsList (s : State) (a : BitVec 6) (p : BitVec 3) (b : BitVec 6) (q : BitVec 3) : List DWord :=
  (actives s).map (fun l => digsC (src s a.toNat p.toNat l) (src s b.toNat q.toNat l))

/-- Inside a window whose results may still be discarded, contributions wait in the write log (R368). -/
def logged (s : State) : Bool := s.split.fence.isSome || s.split.owner.isSome

def execDigs (a : BitVec 6) (p : BitVec 3) (b : BitVec 6) (q : BitVec 3) (s : State) :=
  run (.digs a p b q) s (fun s =>
    let cs := digsList s a p b q
    if logged s then
      adv { s with group := { s.group with log := s.group.log ++ cs.map (fun c => (s.split.num, c)) } }
    else adv (contribute s s.team.core s.team.bank s.team.slot cs))

/-- Replay-queue entries that the executing split issued. -/
def ownReplays (s : State) : List ReplayEntry :=
  (getCore s s.team.core).replay.filter (fun e =>
    e.part == s.group.part && e.team == s.team.id && e.grp == s.group.num && e.spl == s.split.num)

def execClonSync (s : State) :=
  run .clonSync s (fun s => if (ownReplays s).isEmpty then adv s else hold s (.replay s.tick))

def execClonChk (d : BitVec 5) (s : State) :=
  run (.clonChk d) s (fun s => adv (ws s d.toNat (getCore s s.team.core).chk))
def execClonDrop (d : BitVec 5) (s : State) :=
  run (.clonDrop d) s (fun s => adv (ws s d.toNat (getCore s s.team.core).drop))
def execClonTrans (d : BitVec 5) (s : State) :=
  run (.clonTrans d) s (fun s => adv (ws s d.toNat (getCore s s.team.core).trans))

/-! ## SCRN and SUSQ (R360) -/

def execScrnDig (z : BitVec 5) (s : State) :=
  onceIf (.scrnDig z) s (fun s =>
    let d := teamDigest s s.team.core s.team.bank s.team.slot
    adv (ws s z.toNat (if d.isOpen then d.curd else 0)))

def execScrnSkip (s : State) :=
  onceIf .scrnSkip s (fun s =>
    let d := teamDigest s s.team.core s.team.bank s.team.slot
    adv (if d.isOpen then putDigest s s.team.core s.team.bank s.team.slot { d with skip := true } else s))

/-- A privileged E-format instruction that acts once for the split. -/
def oncePriv (i : Instr) (s : State) (body : State → State) : Host.Outcome State Fault Refusal :=
  runPriv i s (fun s => if active s = 0 then adv s else body s)

/-- SUSQ's operand check and result. -/
def susq (i : Instr) (y z : BitVec 5) (ok : Nat → Bool) (f : State → Nat → Nat) (s : State) :
    Host.Outcome State Fault Refusal :=
  oncePriv i s (fun s =>
    let v := rs s y.toNat
    if ok v.toNat then adv (ws s z.toNat (BitVec.ofNat 64 (f s v.toNat))) else badOperand s v)

def execSusqScore (y z : BitVec 5) (s : State) :=
  susq (.susqScore y z) y z (fun v => decide (v < 2 ^ 10) && decide (v % 64 < 48))
    (fun s v => (getCore s (thisModule s * 1024 + v)).susp.toNat) s

def execSusqQmask (y z : BitVec 5) (s : State) :=
  susq (.susqQmask y z) y z (fun v => decide (v < 16))
    (fun s v => (List.range 48).foldl (fun a k =>
      if (getCore s ((thisModule s * 16 + v) * 64 + k)).quarantined then a + 2 ^ k else a) 0) s

def execSusqStat (y z : BitVec 5) (s : State) :=
  susq (.susqStat y z) y z (fun v => decide (v < 16))
    (fun s v =>
      let d := getDie s (thisModule s * 16 + v)
      d.selected.toNat * 2 ^ 32 + d.mismatches.toNat) s

/-! ## What a check computes and compares (R352 to R354) -/

/-- The meanings of the cloned set. -/
def execCloned (i : Instr) (s : State) : Option (Host.Outcome State Fault Refusal) :=
  match i with
  | .mov d a p => some (execMov d a p s)
  | .movi d imm => some (execMovi d imm s)
  | .iadd d a p b q => some (execIadd d a p b q s)
  | .isub d a p b q => some (execIsub d a p b q s)
  | .imul d a p b q => some (execImul d a p b q s)
  | .imulh d a p b q => some (execImulh d a p b q s)
  | .imad d a p b q => some (execImad d a p b q s)
  | .iaddi d a imm => some (execIaddi d a imm s)
  | .imin d a p b q => some (execImin d a p b q s)
  | .imax d a p b q => some (execImax d a p b q s)
  | .iabs d a p => some (execIabs d a p s)
  | .ineg d a p => some (execIneg d a p s)
  | .isad d a p b q => some (execIsad d a p b q s)
  | .idiv d a p b q => some (execIdiv d a p b q s)
  | .irem d a p b q => some (execIrem d a p b q s)
  | .and d a p b q => some (execAnd d a p b q s)
  | .or d a p b q => some (execOr d a p b q s)
  | .xor d a p b q => some (execXor d a p b q s)
  | .andn d a p b q => some (execAndn d a p b q s)
  | .not d a p => some (execNot d a p s)
  | .shl d a p b q => some (execShl d a p b q s)
  | .shr d a p b q => some (execShr d a p b q s)
  | .sha d a p b q => some (execSha d a p b q s)
  | .rotl d a p b q => some (execRotl d a p b q s)
  | .shli d a n => some (execShli d a n s)
  | .shri d a n => some (execShri d a n s)
  | .shai d a n => some (execShai d a n s)
  | .popc d a p => some (execPopc d a p s)
  | .clz d a p => some (execClz d a p s)
  | .brev d a p => some (execBrev d a p s)
  | .bfx d a l o => some (execBfx d a l o s)
  | .bfi d a l o => some (execBfi d a l o s)
  | .sel d a p b q => some (execSel d a p b q s)
  | .icmp d c a p b q => some (execIcmp d c a p b q s)
  | .plog d c a b => some (execPlog d c a b s)
  | .pmovNz d a p => some (execPmovNz d a p s)
  | .pmovBit d a p k => some (execPmovBit d a p k s)
  | .pmovSet d => some (execPmovSet d s)
  | .pmovClr d => some (execPmovClr d s)
  | .pmovNot d a => some (execPmovNot d a s)
  | .pmovFroms d a => some (execPmovFroms d a s)
  | .vote d c a => some (execVote d c a s)
  | .voteBallot d a b => some (execVoteBallot d a b s)
  | .xshf d a b q => some (execXshf d a b q s)
  | .movx d a p n => some (execMovx d a p n s)
  | .stx n a p b q => some (execStx n a p b q s)
  | .s2v d a => some (execS2v d a s)
  | .v2s d a p l => some (execV2s d a p l s)
  | .bysel d a p b q => some (execBysel d a p b q s)
  | .idot4 d a p b q => some (execIdot4 d a p b q s)
  | .ired d a o => some (execIred d a o s)
  | .fadd d a p b q => some (execFadd d a p b q s)
  | .fsub d a p b q => some (execFsub d a p b q s)
  | .fmul d a p b q => some (execFmul d a p b q s)
  | .fma d a p b q => some (execFma d a p b q s)
  | .fms d a p b q => some (execFms d a p b q s)
  | .fnma d a p b q => some (execFnma d a p b q s)
  | .fmin d a p b q => some (execFmin d a p b q s)
  | .fmax d a p b q => some (execFmax d a p b q s)
  | .fabs d a p => some (execFabs d a p s)
  | .fneg d a p => some (execFneg d a p s)
  | .fsgn d a p b q => some (execFsgn d a p b q s)
  | .fcmp d c a p b q => some (execFcmp d c a p b q s)
  | .fclass d a p => some (execFclass d a p s)
  | .frint d a p => some (execFrint d a p s)
  | .fscale d a p b q => some (execFscale d a p b q s)
  | .fgetexp d a p => some (execFgetexp d a p s)
  | .fdiv d a p b q => some (execFdiv d a p b q s)
  | .fsqrt d a p => some (execFsqrt d a p s)
  | .frcp d a p => some (execFrcp d a p s)
  | .frsq d a p => some (execFrsq d a p s)
  | .fexp2 d a p => some (execFexp2 d a p s)
  | .flog2 d a p => some (execFlog2 d a p s)
  | .fsin d a p => some (execFsin d a p s)
  | .fcos d a p => some (execFcos d a p s)
  | .ftanh d a p => some (execFtanh d a p s)
  | .fdot2 d a p b q => some (execFdot2 d a p b q s)
  | .fdot4 d a p b q => some (execFdot4 d a p b q s)
  | .fred d a o => some (execFred d a o s)
  | .argmx d a p b q => some (execArgmx d a p b q s)
  | .cvt d a p x t => some (execCvt d a p x t s)
  | .cvtp d a p b q => some (execCvtp d a p b q s)
  | .rngU32 d => some (execRngU32 d s)
  | .rngUnit d => some (execRngUnit d s)
  | .rngGet d => some (execRngGet d s)
  | .rngSet a p => some (execRngSet a p s)
  | .qmx d a p => some (execQmx d a p s)
  | .qmxa d a p b q => some (execQmxa d a p b q s)
  | _ => none

/-- A result register of a lane. -/
def resultOf (t : State) (l : Nat) : Reg → DWord
  | .v n => (rv t n l).setWidth 64
  | .s n => rs t n
  | .p n => (BitVec.ofBool (rp t n l)).setWidth 64

/-- The registers that an instruction writes: STX, those that its index may name. -/
def resultRegs (s : State) (i : Instr) : List Reg :=
  match i with
  | .stx _ _ _ _ _ => (List.range (regionSize s)).map (fun n => Reg.v (64 + n))
  | _ => writes s.split.mode i

/-- What an instruction issued in state `s` has committed in state `t`. -/
def laneResults (s t : State) (i : Instr) : List LaneResult :=
  (actives s).map (fun l => ⟨l, (resultRegs s i).map (resultOf t l), cget genInit t.group.gens l⟩)

/-- The lane registers as the executing split reads them. -/
def seenRegs (s : State) : Cells Word :=
  s.group.splits.foldl (fun m x =>
    match heldRegs x with
    | some r => mixCells (fun _ => 0) (fun n => laneBit x.mask (n % 32)) r m
    | none => m) s.group.regs

/-- The capture of an instruction issued in state `s` that leaves state `t`. -/
def capture (s t : State) (lim : Option (BitVec 24)) (i : Instr) : ReplayEntry where
  part := s.group.part
  team := s.team.id
  grp := s.group.num
  spl := s.split.num
  pc := s.split.pc
  instr := i
  lim := lim
  role := s.team.roles.getD s.group.role 0
  before := { takeSnap s with regs := seenRegs s }
  results := laneResults s t i
  stamp := s.tick

/-- The operands and generators of a capture, in registers. -/
def captured (s : State) (e : ReplayEntry) : State :=
  { s with
    live := true
    lim := e.lim
    tick := e.stamp
    split := { Split.fresh with
      num := e.spl, pc := e.before.pc, mode := e.before.mode, mask := e.before.mask, s := e.before.s, x := e.before.x }
    group := { Group.fresh with regs := e.before.regs, preds := e.before.preds, gens := e.before.gens }
    team := { Team.fresh with roles := [e.role] } }

/-- The results computed again from a capture. -/
def recompute (s : State) (e : ReplayEntry) : List LaneResult :=
  let r := captured s e
  match execCloned e.instr r with
  | some (.next t) => laneResults r t e.instr
  | _ => []

/-- One result of a lane as hardware that errs gives it. -/
def flipped (fs : List Flip) (lane index : Nat) (v : DWord) : DWord :=
  (fs.filter (fun f => f.lane == lane && f.index == index)).foldl (fun v f => v ^^^ f.bits) v

/-- Results with the errors of a computation. The generator comes after the registers. -/
def applyFlips (fs : List Flip) (rs : List LaneResult) : List LaneResult :=
  rs.map (fun r =>
    { r with
      vals := (r.vals.zipIdx 0).map (fun e => flipped fs r.lane e.2 e.1)
      gen := (flipped fs r.lane r.vals.length (r.gen.setWidth 64)).setWidth 32 })

/-- The result of a lane. -/
def laneOf (rs : List LaneResult) (l : Nat) : Option LaneResult := rs.find? (fun r => r.lane == l)

/-- The lanes in which two results differ. -/
def differing (a b : List LaneResult) : Word := maskOf (fun l => laneOf a l != laneOf b l)

/-- The first destination of a lane's result, with 32 or 64 bits (16_frontend.md R378). -/
def firstResult (e : ReplayEntry) (rs : List LaneResult) (l : Nat) : DWord :=
  match laneOf rs l with
  | none => 0
  | some r =>
    let v := fun (k : Nat) => r.vals.getD k (r.gen.setWidth 64)
    match (operands e.before.mode e.instr).find? Operand.isWrite with
    | some (.wv _ 2) => v 0 ||| (v 1 <<< 32)
    | _ => v 0

/-- CHECK_MISMATCH of the first results and of those that check them, found by the replay queue or by a mirror
(16_frontend.md R378). -/
def mismatchReport (s : State) (core : Nat) (e : ReplayEntry) (queue : Bool) (p c : List LaneResult) : State :=
  let lanes := differing p c
  let lane := (lanesOf lanes).headD 0
  let rep : Nat → Report := fun vi =>
    ⟨0x09, 0, vi, e.pc, BitVec.ofNat 64 (lanes.toNat + core % 1024 * 2 ^ 32 + e.part * 2 ^ 42 + e.grp * 2 ^ 46 +
        e.spl * 2 ^ 51 + queue.toNat * 2 ^ 53 + lane * 2 ^ 54),
      some (BitVec.ofNat 256 ((firstResult e p lane).toNat + (firstResult e c lane).toNat * 2 ^ 64)), 0xFFFFFFFF⟩
  match findTeam s e.team with
  | some t => report s (coreModule core) .owner (rep t.vi)
  | none => coreReport s core .owner .firmware rep

/-- One more checked instruction of a core. -/
def countCheck (s : State) (core : Nat) : State :=
  setCore s core { getCore s core with chk := (getCore s core).chk + 1 }

/-- Compare what was committed with a second computation, and where they differ with one more: agreement then is a transient
mismatch, and otherwise it is confirmed (R354). -/
def compareResults (s : State) (core : Nat) (e : ReplayEntry) (queue : Bool) (first again : List LaneResult) : State :=
  if first = e.results then s
  else if again = e.results then setCore s core { getCore s core with trans := (getCore s core).trans + 1 }
  else suspect (mismatchReport s core e queue e.results again) core 8

/-! ## The mirror lanes (R352) -/

/-- The mirror test. -/
def mirrored (s : State) : Bool :=
  let w := if mC16 s.split.mode then 15 else 31
  (actives s).all (fun l => !laneBit (active s) (l ^^^ w))

/-- The mirror lanes compute the instruction from its operands, and again on a mismatch. What commits is what the primary lanes
compute: they do not err in the model (log 99). -/
def mirrorCheck (s : State) (core : Nat) (e : ReplayEntry) : State :=
  let run := fun (k : Nat) => applyFlips (Config.laneFlips core s.tick k) (recompute s e)
  compareResults (countCheck s core) core e false (run 0) (run 1)

/-! ## The replay queue (R353, R354) -/

/-- The oldest entry of a partition is re-run, and once more on a mismatch: the errors are the step's own. -/
def rerunEntry (s : State) (core : Nat) (e : ReplayEntry) (res : RerunResult) : State :=
  let c := getCore s core
  let s1 := countCheck (setCore s core { c with replay := c.replay.erase e }) core
  compareResults s1 core e true (applyFlips res.first (recompute s e)) (applyFlips res.again (recompute s e))

def execReplayRerun (core part : Nat) (res : RerunResult) (s : State) :=
  match (getCore s core).replay.find? (fun e => e.part == part) with
  | none => runEvent false s id
  | some e => runEvent true s (fun s => rerunEntry s core e res)

/-- A cloned instruction enters the replay queue of its partition; a full queue drops its oldest entry. -/
def enterReplay (s : State) (e : ReplayEntry) : State :=
  let c := getCore s s.team.core
  let mine := c.replay.filter (fun x => x.part == e.part)
  match mine.head? with
  | some old =>
    if 32 ≤ mine.length then setCore s s.team.core { c with replay := c.replay.erase old ++ [e], drop := c.drop + 1 }
    else setCore s s.team.core { c with replay := c.replay ++ [e] }
  | none => setCore s s.team.core { c with replay := c.replay ++ [e] }

/-- The replay entries of a bank's teams are dropped unchecked (R353). -/
def discardReplays (s : State) (core : Nat) (teams : List Nat) : State :=
  let c := getCore s core
  let gone := c.replay.filter (fun e => teams.contains e.team)
  setCore s core { c with
    replay := c.replay.filter (fun e => !teams.contains e.team), drop := c.drop + BitVec.ofNat 64 gone.length }

/-! ## Decay (R365) -/

def decayDie (s : State) (die : Nat) : State :=
  let d := getDie s die
  let s1 := setDie s die { d with jobdones := d.jobdones - 2 ^ 20 }
  ((s1.cores.filter (fun e => coreDie e.1 == die && e.2.susp != 0)).map Prod.fst).foldl (fun s c =>
    setCore s c { getCore s c with susp := (getCore s c).susp - 1 }) s1

def execScoreDecay (die : Nat) (s : State) :=
  runEvent (decide (2 ^ 20 ≤ (getDie s die).jobdones)) s (fun s => decayDie s die)

end Sys2Proof.Machine
end

