-- ==== Sys2Proof/Machine/System.lean ====
section
/-! DEFINITION. System registers, TRAP and RTE, request tags and the purge, PPT and HALT (07_memory.md R157, R158;
14_system.md R321 to R335, R339). -/

namespace Sys2Proof.Machine

/-! ## TRAP, RTE and HALT (R328, R329, R339) -/

def execTrap (imm : BitVec 12) (s : State) :=
  run (.trap imm) s (fun s => takeTrap s ⟨Cause.swtrap, nextPc s, imm.setWidth 64, active s, 0⟩)

/-- RTE once INTR is known to be 1. -/
def returnFrom (s : State) : State :=
  if !modeOk s.split.frame.tmode then illegal s Instr.rte.word
  else if bitsOf s.split.tstat 4 1 = 1 then
    let tag := s.split.ptag.getD s.team.rtag.toNat
    startPurge { s with
      lim := none
      team := { s.team with ptags := s.team.ptags.filter (fun g => g != tag) } } (thisModule s) s.team.vi tag
      (some s.split.frame.trapv) []
  else if bitsOf s.split.frame.trappc 0 2 ≠ 0 then trap s Cause.misalign s.split.frame.trappc (active s)
  else { leaveHandler s with lim := none }

def execRte (s : State) :=
  runPriv .rte s (fun s => if bitsOf s.split.tstat 1 1 = 0 then illegal s Instr.rte.word else returnFrom s)

/-- HALT stops the team after the HALT and reports it. -/
def haltTeam (s : State) : State :=
  let at_ := nextPc s
  report (stopTeam (adv s)) (thisModule s) .owner (mkReport 0x13 s.team.vi at_ (BitVec.ofNat 64 s.team.teamix))

def execHalt (s : State) := runPriv .halt s haltTeam

/-! ## CSRR and CSRW (R322 to R324, R420) -/

/-- Writers sys or fw are in the register's column: it is privileged to read. -/
def csrPriv (n : Nat) : Bool := n != 18 && n != 24 && n != 25 && n != 32

/-- A timer of the VI's configuration, or its default (01_machine.md R16). -/
def viTimer (s : State) (f : ViConfig → Nat) (dflt : Nat) : Nat :=
  match getVi s (thisModule s) s.team.vi with
  | some v => if f v.cfg = 0 then dflt else f v.cfg
  | none => dflt

/-- The value of a system register. -/
def csrRead (s : State) (n : Nat) : DWord :=
  let fr := s.split.frame
  match n with
  | 0 => s.split.tstat
  | 1 => s.team.tvec
  | 2 => fr.trapc.setWidth 64
  | 3 => fr.trappc
  | 4 => fr.defpc
  | 5 => fr.trapv
  | 6 => fr.trapm.setWidth 64
  | 7 => fr.tmode
  | 8 => fr.trcva
  | 9 => fr.tscr0
  | 10 => fr.tscr1
  | 16 => vrootOf s (thisModule s) s.team.vi
  | 18 => (getCore s s.team.core).fnrb
  | 19 => (getModule s (thisModule s)).fpmap
  | 24 => match s.team.mslot with | some m => m.mstat | none => 0
  | 25 => match s.team.mslot with | some m => m.mrp | none => 0
  | 32 => (getCore s s.team.core).bankst
  | 33 => BitVec.ofNat 64 (viTimer s ViConfig.drainb Config.drainb)
  | 34 => BitVec.ofNat 64 (viTimer s ViConfig.wdog Config.wdog)
  | _ => 0

def execCsrr (d : BitVec 5) (c : BitVec 9) (s : State) : Host.Outcome State Fault Refusal :=
  let go := fun (s : State) => adv (ws s d.toNat (csrRead s c.toNat))
  if csrPriv c.toNat then runPriv (.csrr d c) s go else run (.csrr d c) s go

/-- Write the fields of a register whose writer is sys; the others are left as they are. -/
def csrWrite (s : State) (n : Nat) (v : DWord) : State :=
  let put := fun (f : TrapFrame) => { s with split := { s.split with frame := f } }
  let fr := s.split.frame
  match n with
  | 0 => setTstat s (putBits s.split.tstat 2 2 (bitsOf v 2 2))
  | 1 => { s with team := { s.team with tvec := BitVec.ofNat 64 (bitsOf v 2 55 * 4 + bitsOf v 0 1) } }
  | 2 => put { fr with trapc := v.setWidth 8 }
  | 3 => put { fr with trappc := v }
  | 4 => put { fr with defpc := v }
  | 5 => put { fr with trapv := v }
  | 6 => put { fr with trapm := v.setWidth 32 }
  | 7 => put { fr with tmode := v }
  | 8 => put { fr with trcva := BitVec.ofNat 64 (bitsOf v 2 55 * 4) }
  | 9 => put { fr with tscr0 := v }
  | 10 => put { fr with tscr1 := v }
  | _ => s

def execCsrw (a : BitVec 5) (c : BitVec 9) (s : State) :=
  runPriv (.csrw a c) s (fun s => adv (csrWrite s c.toNat (rs s a.toNat)))

/-! ## TLBI (07_memory.md R158) -/

/-- The module of a translating unit. -/
def unitModule (u : Nat) : Nat := if u % 4 = 3 then u / 64 else u / 4096

/-- A cached translation that a TLBI write drops. -/
def tlbiHits (module vi : Nat) (v : DWord) (e : TlbEntry) : Bool :=
  unitModule e.unit == module && e.vi == vi &&
    (bitsOf v 57 1 == 1 || e.vpn == bitsOf v 16 41 * 65536 / 2 ^ levelShift e.level)

def dropTlb (s : State) (module vi : Nat) (v : DWord) : State :=
  { s with tlb := s.tlb.filter (fun e => !tlbiHits module vi v e) }

/-- The stores that fence windows hold. -/
def heldStores (s : State) : List Flight :=
  (allTeams s).flatMap (fun t => t.groups.flatMap (fun g => g.splits.flatMap (fun x =>
    match x.fence with | some w => w.held | none => [])))

/-- Accesses not performed yet that may have used an entry of the VI: in flight, held in a fence window, or asked of another
module. -/
def tlbiAfter (s : State) (module vi : Nat) : List Nat :=
  ((s.flights ++ heldStores s).filter (fun f =>
    f.vi == vi && dieModule f.die == module && (isAccess f || f.stage != 0))).map Flight.id ++
    (s.reqs.filter (fun r => r.src == module && !r.performed && !r.abandoned &&
      (match r.kind with | .write _ => true | .atomic _ => true | _ => false))).map Request.id

/-- A firmware core's write as an operation in flight: no team is its, and it stands on no bank. -/
def fwTlbi (s : State) (a : BitVec 5) (vi : Nat) (v : DWord) : Flight :=
  { newFlight s .tlbi (.tlbiWrite a) none [] [v] (tlbiAfter s s.fwModule vi) with
    team := s.fresh, die := s.fwModule * 16, core := s.fwModule * 1024, bank := 2, vi := vi, tag := 0 }

/-- The write drops the entries and is complete once the accesses that used them are performed; a split is held until
then. A firmware core's write names the VI in bits [63:58] (log 21). -/
def execTlbiWrite (a : BitVec 5) (s : State) : Host.Outcome State Fault Refusal :=
  if s.live then
    runPriv (.tlbiWrite a) s (fun s =>
      let v := rs s a.toNat
      let m := thisModule s
      let f := newFlight s .tlbi (.tlbiWrite a) none [] [v] (tlbiAfter s m s.team.vi)
      hold (adv (launchFlight (dropTlb s m s.team.vi v) f)) (.flight f.id))
  else
    let v := cget (fun _ => 0) s.fw a.toNat
    let vi := bitsOf v 58 6
    .next (launchFlight (dropTlb s s.fwModule vi v) (fwTlbi s a vi v))

/-- The accesses that used a dropped entry are performed. -/
def tlbiReady (s : State) (f : Flight) : Bool :=
  f.kind == .tlbi && f.after.all (fun i => performedAt s 5 i && !(heldStores s).any (fun x => x.id == i))

def execTlbiComplete (flight : Nat) (s : State) :=
  match findFlight s flight with
  | none => runEvent false s id
  | some f => runEvent (tlbiReady s f) s (fun s => dropFlight s f.id)

/-! ## The purge (R332) -/

/-- A flight whose purge only drops it: a load, an atomic, a store not performed, a copy, an exchange. -/
def purgesFlight (f : Flight) : Bool :=
  match f.kind with
  | .tlbi => false
  | .ctxSave => false
  | .ctxLoad => false
  | .owner => false
  | _ => true

/-- A TRED with a turn that has not come stays in the engine and passes the broken mark on (11_copy.md R257). -/
def keepsTurn (f : Flight) : Bool := f.kind == .tile && tileFlag f 1 && f.stage == 0

/-- A request that a purge leaves on its way: a store that has left the die's order, and an update of an event (R332;
12_work.md R296). -/
def purgeKeeps (r : Request) : Bool :=
  match r.kind with
  | .write _ => true
  | .event _ _ => true
  | _ => r.performed

/-- The fate of one flight. A TRED past its turn passes the broken mark on as one that cannot complete its adds
(11_copy.md R257). -/
def purgeFlight (s : State) (f : Flight) : State :=
  let m := dieModule f.die
  if keepsTurn f then setFlight s { f with scal := f.scal.set 7 (BitVec.ofNat 64 (fsc f 7 ||| 32)), home := false }
  else
    let s1 := { dropFlight s f.id with reqs := s.reqs.filter (fun r => r.flight != some f.id || purgeKeeps r) }
    let s2 := if f.kind = .exchange then
        f.lanes.foldl (fun s l =>
          if evAllowed s m f.vi (xEvent f l.lane) && !tileFlag f 4 then poisonName s m f.vi (xEvent f l.lane) else s) s1
      else if f.kind = .tile ∧ tileFlag f 1 then writeTurn s1 f (brokenMark f)
      else s1
    flightDue s2 f

/-- Jobs of a Col that bear the tag and are not taken. -/
def purgeJobs (s : State) (die vi tag : Nat) : State × Nat :=
  let d := getDie s die
  let hit := fun (j : Job) => j.vi == vi && djTag j.desc == tag &&
    !takenJob s j
  let js := d.jobs.filter hit
  let s1 := setDie s die { d with jobs := d.jobs.filter (fun j => !hit j) }
  (js.foldl (fun s j => if j.cup.isSome then s else poisonJob s (dieModule die) vi j.desc) s1,
   (js.filter (fun j => j.cup.isNone)).length)

/-- Teams of a VI on a module that bear a tag. -/
def tagTeams (s : State) (module vi tag : Nat) : List Team :=
  (allTeams s).filter (fun t => coreModule t.core == module && t.vi == vi && t.rtag.toNat == tag)

/-- A team of the VI on the module. -/
def viTeam (module vi : Nat) (t : Team) : Bool := coreModule t.core == module && t.vi == vi

/-- The team holds a job that bears a tag. -/
def bearsJob (tag : Nat) (t : Team) : Bool := match t.job with | some h => djTag h.desc == tag | none => false

/-- Jobs held by teams and bearing a tag. -/
def heldBearing (s : State) (module vi tag : Nat) : Nat :=
  ((allTeams s).filter (fun t => viTeam module vi t && bearsJob tag t)).length

/-- A held job is dropped: its events are poisoned, and a JOBDONE that waits for it is issued again. -/
def dropJob (s : State) (t : Team) : State :=
  match t.job with
  | none => s
  | some h =>
    let s1 := shutDigest (freeMail (dropHeld s (coreModule t.core) t.vi h) t.core t.id) t
    updTeam { s1 with flights := s1.flights.filter (fun f => f.team != t.id || f.kind != .jobdone) } t.id
      (fun t => { t with job := none })

/-- The jobs that a purge of a tag takes from their teams: those that bear it, and those of teams that do (R332;
12_work.md R296). -/
def purgedHolders (s : State) (module vi tag : Nat) : List Team :=
  (allTeams s).filter (fun t => viTeam module vi t && t.job.isSome && (t.rtag.toNat == tag || bearsJob tag t))

/-- Arms that bear a tag are removed. -/
def purgeArms (s : State) (module vi tag : Nat) : State :=
  (s.dies.flatMap (fun e => (e.2.arms.filter (fun a => coreModule a.core == module && a.vi == vi && a.tag == tag)).map
    (fun a => (e.1, a.id)))).foldl (fun s e => dropWaiters (removeArm s e.1 e.2) e.1 e.2) s

/-- Perform a purge. -/
def performPurge (s : State) (p : Purge) : State :=
  let s := settleTags (close s) p.module p.vi p.tag
  let ts := tagTeams s p.module p.vi p.tag
  let hs := purgedHolders s p.module p.vi p.tag
  let held := (hs.filter (fun t => t.job.any (fun h => h.rerun.isNone))).length
  let fs := s.flights.filter (fun f => dieModule f.die == p.module && f.vi == p.vi && f.tag == p.tag && purgesFlight f)
  let s := fs.foldl (fun s f => match findFlight s f.id with | some f => purgeFlight s f | none => s) s
  let s := purgeArms (hs.foldl dropJob s) p.module p.vi p.tag
  let (s, jobs) := ((List.range 16).map (fun k => p.module * 16 + k)).foldl (fun (acc : State × Nat) die =>
    let (s1, n) := purgeJobs acc.1 die p.vi p.tag
    (s1, acc.2 + n)) (s, 0)
  let s := { s with purges := s.purges.filter (fun x => !(x.module == p.module && x.vi == p.vi && x.tag == p.tag)) }
  let s := ts.foldl (fun s t => forceEnd s t.id true) s
  let s := report s p.module .owner
    ⟨0x06, 0, p.vi, BitVec.ofNat 64 p.tag, BitVec.ofNat 64 (jobs + held + ts.length * 2 ^ 32),
      p.addr.map (fun a => a.setWidth 256), 0xFFFFFFFF⟩
  p.pkts.foldl doneOf s

/-- The purge of a tag is complete; `vi` is the VI as the model keys it, module times 64 plus its number. -/
def execPurgeComplete (vi tag : Nat) (s : State) : Host.Outcome State Fault Refusal :=
  match s.purges.find? (fun p => viKey p.module p.vi == vi && p.tag == tag) with
  | none => .fault .notEnabled
  | some p => .next (refocus s (performPurge s p))

/-! ## TAGS and PURG (R330, R331) -/

/-- The operand of TAGS and PURG: a tag in bits [15:0]. -/
def withTag (i : Instr) (y : BitVec 5) (zero : Bool) (s : State) (body : State → Nat → State) :
    Host.Outcome State Fault Refusal :=
  oncePriv i s (fun s =>
    let v := rs s y.toNat
    if 2 ^ 16 ≤ v.toNat ∨ (zero ∧ v = 0) then badOperand s v else body s v.toNat)

/-- A dead tag ends the team as a purge does. -/
def execTagsSet (y : BitVec 5) (s : State) :=
  withTag (.tagsSet y) y true s (fun s t =>
    let s1 := adv { s with team := { s.team with rtag := BitVec.ofNat 16 t } }
    if tagDead s (thisModule s) s.team.vi t then forceEnd s1 s.team.id true else s1)

def execTagsCnt (y z : BitVec 5) (s : State) :=
  withTag (.tagsCnt y z) y false s (fun s t =>
    let m := thisModule s
    adv (ws s z.toNat (BitVec.ofNat 64 ((tagTeams s m s.team.vi t).length + heldBearing s m s.team.vi t))))

/-- PURG: the tag dies, the purge begins, and the split waits for its end. -/
def execPurg (y : BitVec 5) (s : State) :=
  withTag (.purg y) y true s (fun s t =>
    hold (adv (startPurge s (thisModule s) s.team.vi t none [])) (.purge (viKey (thisModule s) s.team.vi) t))

/-- A tag ceases to be dead. -/
def clearTag (s : State) (module vi tag : Nat) : State :=
  updVi s module vi (fun v => { v with dead := v.dead.filter (fun x => x != tag) })

def execPurgClr (y : BitVec 5) (s : State) :=
  withTag (.purgClr y) y true s (fun s t => adv (clearTag s (thisModule s) s.team.vi t))

def execPurgQry (y z : BitVec 5) (s : State) :=
  withTag (.purgQry y z) y true s (fun s t =>
    adv (ws s z.toNat (if tagDead s (thisModule s) s.team.vi t then 1 else 0)))

/-! ## PPT (R334) -/

/-- A drain is pending on the running bank of a core: DRST is DRAIN. -/
def drainPending (s : State) (core : Nat) : Bool := bitsOf (getCore s core).bankst 0 2 == 1

def execPpt (s : State) :=
  run .ppt s (fun s =>
    if drainPending s s.team.core then
      demote { adv s with split := { (adv s).split with drainPark := true } }
    else adv s)

def execPptQry (z : BitVec 5) (s : State) :=
  run (.pptQry z) s (fun s => adv (ws s z.toNat (if drainPending s s.team.core then 1 else 0)))

/-! ## KILL_TEAM (R339, R296) -/

/-- The team is stopped, or one of its splits waits. -/
def killable (t : Team) : Bool := t.stopped || t.groups.any (fun g => g.splits.any (fun x => x.wait.isSome || x.parked.isSome))

/-- Firmware ends a team; a job that it holds is dropped and reported. -/
def killTeam (s : State) (t : Team) : State :=
  let s := match t.job with
    | some h => if h.rerun.isSome then s else reportAbandoned s (coreModule t.core) t.vi h
    | none => s
  forceEnd s t.id true

def execKillTeam (team : Nat) (s : State) : Host.Outcome State Fault Refusal :=
  match findTeam s team with
  | none => .fault .notEnabled
  | some t => if killable t then .next (refocus s (killTeam (close s) t)) else .fault .notEnabled

end Sys2Proof.Machine
end

