-- ==== Sys2Proof/Machine/Waits.lean ====
section
/-! DEFINITION. When the wait of a split is over (02_words.md R58; 08_ordering.md R191; 14_system.md R326, R331),
and when a bank is parked (R335). -/

namespace Sys2Proof.Machine

/-- A deferred or matrix fault is due at an offer of the split in focus. -/
def faultAt (s : State) (o : Offer) : Bool := (dueFault s o).isSome || (dueMatrix s o).isSome

/-- A flight of the split in focus whose result is still to land. -/
def ownsLanding (s : State) : Bool :=
  s.flights.any (fun f => f.team == s.team.id && f.grp == s.group.num && f.spl == s.split.num &&
    (f.kind == .load || f.kind == .atomic))

/-- What an instruction of the split in focus found full has room again (02_words.md R58: the cause has cleared). -/
def roomFor (s : State) (what : Room) : Bool :=
  match what with
  | .path p => decide (pathLoad s p < 63)
  | .log => decide (logUsed s < 16)
  | .arms va pa => !armFull s va pa
  | .waiters die => (freeWaiter s die).isSome
  | .stream ps => scbFree s ps
  | .engine => !engineFull s
  | .exchange => !exchangeFull s

/-- The wait of the split in focus is over: its instruction may issue again, or the next one. -/
def waitOver (s : State) : Bool :=
  match s.split.wait with
  | none => true
  | some (.path p n) => faultAt s (.path p n.toNat) || decide (pathCount s.group p ≤ n.toNat)
  | some (.barrier _ pa t) => barrierMet s pa t || faultAt s (.object pa false)
  | some (.point k t) => faultAt s (.point k false) || reached (teamPoint s.team k).phase t
  | some (.rsync k t) => faultAt s (.point k false) || reached (teamPoint s.team k).phase t
  | some (.flight id) => !pending s id
  | some (.result id) => faultAt s .result || !pending s id
  | some (.message id) => !s.msgs.any (fun m => m.id == id) && !s.reqs.any (fun r => r.id == id && openReq r)
  | some (.purge vi tag) => !s.purges.any (fun p => viKey p.module p.vi == vi && p.tag == tag)
  | some (.replay _) => (ownReplays s).isEmpty
  | some .landing => !ownsLanding s
  | some (.room what) => roomFor s what
  | some (.walk _ ids pas) => pas.all (homeReady s) && !s.reqs.any (fun r => ids.contains r.id && openReq r)
  | some (.performed ids sc) => ids.all (performedAt s sc)
  | some .fence => s.split.fence.isNone

/-- The split waits under WAIT, BWAIT, RWAIT or RSYNC. -/
def waitsBlocked (sp : Split) : Bool :=
  match sp.wait with
  | some (.path _ _) => true
  | some (.barrier _ _ _) => true
  | some (.point _ _) => true
  | some (.rsync _ _) => true
  | _ => false

/-- The split in focus is parked for a drain (R335); an open window runs to its end first (R195). -/
def splitParked (s : State) : Bool :=
  s.team.stopped ||
    (s.split.fence.isNone && s.split.owner.isNone &&
      (s.split.drainPark || s.split.parked.isSome || (waitsBlocked s.split && !waitOver s)))

/-- Every split of a team is parked. -/
def teamParked (s : State) (t : Team) : Bool :=
  t.groups.all (fun g => g.splits.all (fun x => splitParked (focusOn s t.id g.num x.num)))

/-- Every team of the running bank of a core is parked. -/
def bankParked (s : State) (core : Nat) : Bool := (bankTeams s core (runningBank s core)).all (teamParked s)

end Sys2Proof.Machine
end

