-- ==== Sys2Proof/Machine/Image.lean ====
section
/-! DEFINITION. The context image: its bytes, its checks, and the teams read back from it (14_system.md R341 to R344,
R346 to R348). -/

namespace Sys2Proof.Machine

/-! ## CRC-32C (16_frontend.md R371; R342) -/

/-- One byte, bit by bit, with the reflected polynomial 0x82F63B78. -/
def crcByte (c : Word) (b : Byte) : Word :=
  (List.range 8).foldl (fun c _ => (c >>> 1) ^^^ (if c.getLsbD 0 then 0x82F63B78 else 0)) (c ^^^ b.setWidth 32)

/-- CRC-32C with initial value and final xor 0xFFFF_FFFF. -/
def crc32c (bs : List Byte) : Word := (bs.foldl crcByte 0xFFFFFFFF) ^^^ 0xFFFFFFFF

/-! ## Fields of an image -/

/-- A field to write: offset, bytes, value. -/
abbrev ImgField := Nat × Nat × Nat

/-- The bytes of an image of a length, from its fields. -/
def layOut (fs : List ImgField) (n : Nat) : List Byte :=
  let c : Cells Byte := fs.foldl (fun c f => cputs (fun _ => 0) c f.1 (natLe f.2.1 f.2.2)) []
  (List.range n).map (cget (fun _ => 0) c)

/-- A field of an image. -/
def imgAt (img : List Byte) (o n : Nat) : Nat := leNat ((img.drop o).take n)

def frmBase : Nat := 0x184000

/-- Teams of a bank in slot order. -/
def slotTeams (s : State) (core bank : Nat) : List Team :=
  (List.range 16).filterMap (fun k => (bankTeams s core bank).find? (fun t => t.slot == k))

/-- Groups of a bank with their teams, in slot and group order. -/
def slotGroups (ts : List Team) : List (Team × Group) := ts.flatMap (fun t => t.groups.map (fun g => (t, g)))

/-- The first physical register of a group: the budgets before it on its partition (log 24). -/
def firstReg (ts : List Team) (t : Team) (g : Group) : Nat :=
  ((slotGroups ts).filter (fun e => e.2.part == g.part &&
    (decide (e.1.slot < t.slot) || (e.1.slot == t.slot && decide (e.2.num < g.num))))).foldl
      (fun a e => a + roleBudget e.1 e.2.role) 0

/-- Code of a register in a window's list: lane registers from 0, scalars from 64, predicates from 96. The layout of R344
gives "register numbers" and no such code: the model's choice (log 96). -/
def regCode (r : Reg) : Nat := match r with | .v n => n % 64 | .s n => 64 + n | .p n => 96 + n
def regOf (c : Nat) : Reg := if c < 64 then .v c else if c < 96 then .s (c - 64) else .p (c - 96)

/-- The arms of a team. -/
def teamArms (s : State) (tid : Nat) : List Arm := s.dies.flatMap (fun e => e.2.arms.filter (fun a => a.team == tid))

/-- An operation that is withdrawn and saved: TRED before its turn, XRS before its first element, FIXUP before any
add (R343). -/
def withdrawn (f : Flight) : Bool :=
  keepsTurn f || (f.kind == .fixup && f.stage == 0) ||
    (f.kind == .exchange && xOp f.instr == 3 && f.stage == 0 && f.lanes.length == lmP (xMap f))

def savedOps (s : State) (tid : Nat) : List Flight := s.flights.filter (fun f => f.team == tid && withdrawn f)

/-- A fault in a list of faults in issue order. -/
def insFault (f : DFault) : List DFault → List DFault
  | [] => [f]
  | x :: r => if f.id < x.id then f :: x :: r else x :: insFault f r

/-- The poison of a team's matrix stream, which its owner split has still to be told of (10_matrix.md R243). -/
def slotPoison (t : Team) (gn : Nat) : List DFault :=
  match t.mslot with
  | none => []
  | some m =>
    match m.fault, slotOwner t m with
    | some (id, x), some (og, on) =>
      if og = gn ∧ m.purge.isSome then [⟨id, x.cause, x.defpc, x.value, none, .slot, [], on, m.purge, none⟩] else []
    | _, _ => []

/-- Undelivered faults of a team, with their groups, those of a group in issue order (11_copy.md R263). -/
def teamFaults (t : Team) : List (Nat × DFault) :=
  t.groups.flatMap (fun g => ((slotPoison t g.num ++ g.faults).foldl (fun l f => insFault f l) []).map (fun f => (g.num, f)))

/-! ## The frames (R343, R344) -/

def splitFields (b : Nat) (sp : Split) : List ImgField :=
  let rsync := match sp.wait with | some (.rsync _ _) => 1 | _ => 0
  let hw := sp.stack.reverse
  [(b, 8, sp.pc.toNat % 2 ^ 57 + sp.parked.isSome.toNat * 2 ^ 57 + sp.drainPark.toNat * 2 ^ 58 +
      sp.rcvaValid.toNat * 2 ^ 59),
   (b + 8, 8, sp.rcva.toNat), (b + 16, 8, parkAddr sp),
   (b + 24, 4, if sp.parked.isSome then parkSeq sp else rsync), (b + 28, 4, sp.mask.toNat), (b + 32, 8, sp.mode.toNat),
   (b + 40, 8, sp.frame.tmode.toNat), (b + 48, 8, sp.tstat.toNat), (b + 56, 8, sp.frame.trappc.toNat),
   (b + 64, 8, sp.frame.defpc.toNat), (b + 72, 8, sp.frame.trapv.toNat), (b + 80, 4, sp.frame.trapm.toNat),
   (b + 84, 1, sp.frame.trapc.toNat), (b + 85, 1, sp.stack.length), (b + 86, 1, stackDepth sp),
   (b + 87, 1, sp.outcome.toNat), (b + 88, 8, sp.frame.trcva.toNat), (b + 96, 8, sp.frame.tscr0.toNat),
   (b + 104, 8, sp.frame.tscr1.toNat)] ++
  (List.range 8).map (fun k =>
    let x := cget (fun _ => (⟨0, 0⟩ : XReg)) sp.x k
    (b + 112 + 4 * k, 4, x.base.toNat + x.bound.toNat * 2 ^ 16)) ++
  (List.range 32).map (fun k => (b + 144 + 8 * k, 8, (cget (fun _ => (0 : DWord)) sp.s k).toNat)) ++
  (hw.zipIdx 0).map (fun e => (b + 400 + 16 * e.2, 16, packEntry e.1)) ++
  ((sp.windows.take 16).zipIdx 0).map (fun e =>
    let w := e.1
    let ds := w.dests.take 4
    (b + 656 + 16 * e.2, 16, w.owner.toNat + w.left * 2 ^ 64 + ds.length * 2 ^ 72 +
      leNat (ds.map (fun r => BitVec.ofNat 8 (regCode r))) * 2 ^ 80))

def groupFields (ts : List Team) (b : Nat) (t : Team) (g : Group) : List ImgField :=
  let fr := firstReg ts t g
  let n := roleBudget t g.role
  [(b, 1, g.num), (b + 1, 1, g.part), (b + 2, 2, fr),
   (b + 4, 1, g.splits.foldl (fun a x => a + 2 ^ x.num) 0)] ++
  (List.range 7).map (fun k => (b + 16 + 4 * k, 4, (predMask g (k + 1)).toNat)) ++
  [(b + 44, 4, g.exited.toNat)] ++
  (List.range 32).map (fun l => (b + 48 + 4 * l, 4, (genOf g l).toNat)) ++
  [(b + 176, 4, g.ringBase.toNat), (b + 180, 4, g.ringSize.toNat), (b + 184, 4, g.ringHead.toNat),
   (b + 188, 4, g.ringTail.toNat), (b + 192, 4, g.ringDrop.toNat), (b + 196, 4, g.seq.toNat)] ++
  (g.splits.zipIdx 0).flatMap (fun e => splitFields (b + 256 + 1024 * e.2) e.1) ++
  (List.range n).flatMap (fun k => (List.range 32).map (fun l =>
    (0x4000 + 0x10000 * g.part + 128 * (fr + k) + 4 * l, 4, (gv g k l).toNat)))

def groupBytes (g : Group) : Nat := 256 + 1024 * g.splits.length

def armFields (b : Nat) (t : Team) (a : Arm) : List ImgField :=
  let off := (BitVec.ofInt 32 ((a.object : Int) - (teamSpad t : Int))).toNat
  match a.cond with
  | .event n q => [(b, 1, 1), (b + 2, 4, off), (b + 6, 8, n.toNat), (b + 14, 8, q.toNat)]
  | .word c x => [(b, 1, 2), (b + 1, 1, c), (b + 2, 4, off), (b + 6, 8, a.va.toNat), (b + 14, 8, x.toNat)]
  | .mailbox _ => [(b, 1, 3), (b + 2, 4, off), (b + 6, 8, a.va.toNat)]

/-- The operand s[sz] of a saved operation, from the place of its object. -/
def opTarget (t : Team) (f : Flight) : Nat :=
  if f.kind = .tile then fsc f 5
  else if tileFlag f 2 then Config.window + (fsc f 5 - teamSpad t) else 0

def opFields (b : Nat) (t : Team) (f : Flight) : List ImgField :=
  let y := if f.kind = .tile then fsc f 10 + fsc f 6 * 2 ^ 16 else if f.kind = .exchange then fsc f 6 else 0
  [(b, 64, (f.blob.headD 0).toNat), (b + 64, 4, f.instr.word.toNat), (b + 68, 2, f.grp + f.issuer * 2 ^ 8),
   (b + 70, 4, fsc f 0), (b + 74, 8, fsc f 4), (b + 82, 8, y), (b + 90, 8, opTarget t f)]

def faultFields (b : Nat) (e : Nat × DFault) : List ImgField :=
  let f := e.2
  let kind := if f.record.isSome then 1 else if f.at_ = .result then 2 else 3
  let (seq, at_) : Nat × Nat := match f.record with
    | some (r, w) => ((r.extractLsb' 128 32).toNat, if Config.window ≤ w.toNat then w.toNat - Config.window else 0xFFFFFFFF)
    | none => (0, 0xFFFFFFFF)
  [(b, 1, e.1), (b + 1, 1, kind), (b + 2, 1, f.cause), (b + 4, 4, seq), (b + 8, 4, at_),
   (b + 12, 4, match f.mask with | some m => m.toNat | none => 0)]

/-- Where the parts of a team frame begin: armed waits, operations, faults, groups, end. -/
def frameParts (s : State) (b : Nat) (t : Team) : Nat × Nat × Nat × Nat × Nat :=
  let a := b + 1024
  let o := a + 32 * (teamArms s t.id).length
  let f := o + 128 * (savedOps s t.id).length
  let g := f + 16 * (teamFaults t).length
  (a, o, f, g, t.groups.foldl (fun n g => n + groupBytes g) g)

def tfBytes (s : State) (t : Team) : Nat := (frameParts s 0 t).2.2.2.2

/-- The held job as the frame states it: 0 none, 1 bound, 2 taken; bit 7 of the die marks a re-run (log 25). -/
def jobFields (b : Nat) (t : Team) : List ImgField :=
  match t.job with
  | none => []
  | some h => [(b, 64, h.desc.toNat), (b + 64, 4, h.seq.toNat), (b + 68, 2, dieModule h.colDie),
      (b + 70, 1, h.colDie % 16 + (if h.rerun.isSome then 128 else 0)), (b + 71, 1, if h.taken then 2 else 1)]

/-- Groups with the offsets of their frames. -/
def placeGroups : Nat → List Group → List (Nat × Group)
  | _, [] => []
  | o, g :: r => (o, g) :: placeGroups (o + groupBytes g) r

def frameFields (s : State) (ts : List Team) (b : Nat) (t : Team) : List ImgField :=
  let (a, o, f, g, _) := frameParts s b t
  t.maps.map (fun e => (b + 64 * e.1, 64, e.2.toNat)) ++ jobFields (b + 512) t ++
  [(b + 592, 2, (teamArms s t.id).length), (b + 594, 2, (savedOps s t.id).length), (b + 596, 2, (teamFaults t).length),
   (b + 598, 2, t.groups.length)] ++
  ((teamArms s t.id).zipIdx 0).flatMap (fun e => armFields (a + 32 * e.2) t e.1) ++
  ((savedOps s t.id).zipIdx 0).flatMap (fun e => opFields (o + 128 * e.2) t e.1) ++
  ((teamFaults t).zipIdx 0).flatMap (fun e => faultFields (f + 16 * e.2) e.1) ++
  (placeGroups g t.groups).flatMap (fun e => groupFields ts e.1 t e.2)

/-- Team frames with their offsets. -/
def placeFrames (s : State) : Nat → List Team → List (Nat × Team)
  | _, [] => []
  | o, t :: r => (o, t) :: placeFrames s (o + tfBytes s t) r

/-- The team table entry (R343); GRPN counts the groups that the kernel header gives the team, 1 to 24, the frame those that
have not ended. -/
def entryFields (s : State) (o : Nat) (t : Team) : List ImgField :=
  let b := 0x100 + 64 * t.slot
  let flags := 1 + t.worker.toNat * 2 + t.exitPending.toNat * 4 + t.stopped.toNat * 8 + t.job.isSome.toNat * 16
  [(b, 4, t.hdr.toNat), (b + 4, 2, t.rtag.toNat), (b + 6, 1, flags), (b + 7, 1, t.first), (b + 8, 4, t.spadBase),
   (b + 12, 4, t.spadBytes), (b + 16, 1, match t.mslot with | some m => m.index | none => 0xFF),
   (b + 17, 1, (groupRoles t.roles).length), (b + 20, 4, o), (b + 24, 4, tfBytes s t), (b + 28, 4, t.teamix), (b + 32, 8, t.tvec.toNat),
   (b + 40, 4, t.cev.toNat)] ++
  (t.roles.zipIdx 0).map (fun e => (b + 48 + 4 * e.2, 4, e.1.toNat % 4096))

/-- Points and sequencer slot of a team. -/
def teamStores (t : Team) : List ImgField :=
  (List.range 24).map (fun k => (0x500 + 384 * t.slot + 16 * k, 16, (cget (fun _ => (0 : BitVec 128)) t.points k).toNat)) ++
  (match t.mslot with
   | none => []
   | some m =>
    let b := 0x1D00 + 2432 * m.index
    let (og, on) := m.owner.getD (0xFF, 0xFF)
    m.handles.map (fun e => (b + 64 * e.1, 64, e.2.toNat)) ++
    (List.range 32).map (fun k => (b + 2048 + 4 * k, 4, (cget (fun _ => (0 : Word)) m.koff k).toNat)) ++
    [(b + 2176, 8, m.spc.toNat), (b + 2184, 8, m.mstat.toNat), (b + 2192, 8, m.mrp.toNat)] ++
    (m.loops.reverse.zipIdx 0).map (fun e => (b + 2200 + 16 * e.2, 16, e.1.1.toNat + e.1.2 * 2 ^ 64)) ++
    (List.range 24).map (fun k => (b + 2264 + 4 * k, 4, (cget (fun _ => (0 : Word)) m.targets k).toNat)) ++
    [(b + 2360, 4, m.handles.foldl (fun a e => a + 2 ^ e.1) 0), (b + 2364, 3, t.slot + og * 2 ^ 8 + on * 2 ^ 16)] ++
    (List.range 256).map (fun r =>
      (0x144000 + 0x20000 * m.index + 512 * r, 512, (cget (fun _ => (0 : BitVec 4096)) m.acc r).toNat)))

/-- The 32-bit event-name fields of a team in its image (R344). -/
def nameFields (s : State) (b : Nat) (t : Team) : List Nat :=
  let (a, o, _, _, _) := frameParts s b t
  (if t.job.isSome then [b + 512 + 40, b + 512 + 44] else []) ++ [0x100 + 64 * t.slot + 40] ++
  ((teamArms s t.id).zipIdx 0).filterMap (fun e => match e.1.cond with | .event _ _ => some (a + 32 * e.2 + 6) | _ => none) ++
  ((savedOps s t.id).zipIdx 0).flatMap (fun e =>
    if e.1.kind = .exchange then [o + 128 * e.2 + 16] else if e.1.kind = .fixup then [o + 128 * e.2 + 40, o + 128 * e.2 + 44]
    else []) ++
  t.maps.map (fun e => b + 64 * e.1 + 16)

/-- The image of a bank. -/
def bankImage (s : State) (core bank vi : Nat) (forced : Bool) : List Byte :=
  let ts := slotTeams s core bank
  let frames := placeFrames s frmBase ts
  let rel0 := frames.foldl (fun n e => n + tfBytes s e.2) frmBase
  let names := frames.flatMap (fun e => nameFields s e.1 e.2)
  let n := rel0 + 4 * names.length
  let rs := residents ts
  let need := (List.range 12).foldl (fun a p =>
    a + ((rs.filter (fun r => r.1 == p)).map Prod.snd).sum * 2 ^ (136 + 10 * p)) 0
  let m := coreModule core
  let head := 0xE3C00001 + 1 * 2 ^ 32 + (n - frmBase) * 2 ^ 64 + ts.length * 2 ^ 120 + rs.length * 2 ^ 128 + need +
    vi * 2 ^ 276 + forced.toNat * 2 ^ 282 + bank * 2 ^ 283 + core % 64 * 2 ^ 284 + coreDie core % 16 * 2 ^ 290 +
    m * 2 ^ 294 + domainOf s m vi * 2 ^ 304 + (getCore s core).saveseq.toNat * 2 ^ 320 +
    (Config.clk (coreDie core) s.tick).toNat * 2 ^ 384 + n * 2 ^ 448 + rel0 * 2 ^ 480 + names.length * 2 ^ 512
  let body := frames.flatMap (fun e => entryFields s e.1 e.2 ++ teamStores e.2 ++ frameFields s ts e.1 e.2) ++
    (names.zipIdx 0).map (fun e => (rel0 + 4 * e.2, 4, e.1)) ++
    (List.range 524288).map (fun o => (0xC4000 + o, 1, (rdByte s (spadAddr core bank o)).toNat))
  let img := layOut ((0, 256, head) :: body) n
  let crc := natLe 4 (crc32c img).toNat
  img.take 68 ++ crc ++ img.drop 72

/-! ## Checks (R346) -/

/-- Bytes of a range are zero. -/
def zeroAt (img : List Byte) (o n : Nat) : Bool := imgAt img o n == 0

/-- A team slot of the image is valid. -/
def slotValid (img : List Byte) (t : Nat) : Bool := imgAt img (0x100 + 64 * t + 6) 1 % 2 == 1

/-- The frame of a team slot. -/
def frameAt (img : List Byte) (t : Nat) : Nat := imgAt img (0x100 + 64 * t + 20) 4

/-- Numbers of splits in a split mask. -/
def maskSplits (m : Nat) : List Nat := (List.range 4).filter (fun k => m.testBit k)

/-- Offsets of the group frames of a team. -/
def groupOffsets (img : List Byte) : Nat → Nat → List Nat
  | 0, _ => []
  | n + 1, o => o :: groupOffsets img n (o + 256 + 1024 * (maskSplits (imgAt img (o + 4) 1)).length)

/-- Where the armed waits, operations, faults and groups of a team frame begin, and how many there are. -/
def frameCounts (img : List Byte) (b : Nat) : (Nat × Nat) × (Nat × Nat) × (Nat × Nat) × List Nat :=
  let na := imgAt img (b + 592) 2
  let no := imgAt img (b + 594) 2
  let nf := imgAt img (b + 596) 2
  let o := b + 1024 + 32 * na
  let f := o + 128 * no
  ((b + 1024, na), (o, no), (f, nf), groupOffsets img (imgAt img (b + 598) 2) (f + 16 * nf))

/-- Bit fields of a layout are zero, each given by its lowest bit and its width. -/
def zeroBits (img : List Byte) (o n : Nat) (fs : List (Nat × Nat)) : Bool :=
  fs.all (fun f => imgAt img o n / 2 ^ f.1 % 2 ^ f.2 == 0)

/-- Reserved fields of a split frame are zero, those of the registers in it among them (R324). -/
def splitReservedOk (img : List Byte) (x : Nat) : Bool :=
  zeroAt img (x + 912) 112 && decide (imgAt img x 8 < 2 ^ 60) && decide (imgAt img (x + 48) 8 < 2 ^ 5) &&
    imgAt img (x + 32) 8 / 2 ^ 43 == 0 && imgAt img (x + 32) 8 / 2 ^ 9 % 2 == 0 &&
    (List.range (imgAt img (x + 85) 1)).all (fun k => imgAt img (x + 400 + 16 * k) 8 / 2 ^ 57 == 0) &&
    (List.range 16).all (fun k => zeroAt img (x + 656 + 16 * k + 14) 2)

/-- Reserved fields of a sequencer slot and of its handles (10_matrix.md R226, R227; 11_copy.md R249) are zero. -/
def slotReservedOk (img : List Byte) (j : Nat) : Bool :=
  let b := 0x1D00 + 2432 * j
  let mstat := imgAt img (b + 2184) 8
  (List.range 32).all (fun h => zeroBits img (b + 64 * h) 64 [(63, 1), (445, 3), (511, 1)]) && (zeroAt img (b + 2367) 65 && (List.range 4).all (fun k => zeroAt img (b + 2212 + 16 * k) 4) &&
    decide (mstat < 2 ^ 10) && mstat / 4 % 4 == 0 && decide (imgAt img (b + 2192) 8 < 2 ^ 12))

/-- Reserved fields of a team table entry and of the team slot's points (08_ordering.md R187) are zero. -/
def entryReservedOk (img : List Byte) (t : Nat) : Bool :=
  let e := 0x100 + 64 * t
  let tvec := imgAt img (e + 32) 8
  zeroAt img (e + 18) 2 && zeroAt img (e + 44) 4 && decide (imgAt img (e + 6) 1 < 32) && decide (tvec < 2 ^ 57) &&
    tvec / 2 % 2 == 0 && (List.range 24).all (fun k => zeroBits img (0x500 + 384 * t + 16 * k) 16 [(100, 4)])

/-- Reserved fields of a valid team's frame, its layout maps (13_fabric.md R310) among them, are zero. -/
def teamReservedOk (img : List Byte) (t : Nat) : Bool :=
  let b := frameAt img t
  let ((ab, na), (ob, no), (fb, nf), gs) := frameCounts img b
  zeroAt img (b + 600) 424 && (List.range 8).all (fun k => zeroBits img (b + 64 * k) 64 [(57, 7), (342, 2), (351, 161)]) &&
    (List.range na).all (fun k => zeroAt img (ab + 32 * k + 22) 10) &&
    (List.range no).all (fun k => zeroAt img (ob + 128 * k + 98) 30) &&
    (List.range nf).all (fun k => zeroAt img (fb + 16 * k + 3) 1) &&
    gs.all (fun g => zeroAt img (g + 5) 3 && zeroAt img (g + 200) 56 &&
      (List.range (maskSplits (imgAt img (g + 4) 1)).length).all (fun k => splitReservedOk img (g + 256 + 1024 * k)))

/-- Reason 1 of R346: MAGIC, FORMAT, CRC and reserved fields. -/
def imageFormed (img : List Byte) : Bool :=
  let h := imgAt img 0 256
  let f := fun (lo wd : Nat) => h / 2 ^ lo % 2 ^ wd
  f 0 32 == 0xE3C00001 && f 32 16 == 1 && f 48 16 == 0 && f 96 24 == 0 && f 256 20 == 0 && h / 2 ^ 576 == 0 &&
    f 448 32 == 1589248 + f 64 32 && zeroAt img 0x3000 4096 &&
    (crc32c (img.take 68 ++ natLe 4 0 ++ img.drop 72)).toNat == f 544 32 &&
    (List.range 2).all (slotReservedOk img) && (List.range 16).all (entryReservedOk img) &&
    (List.range 16).all (fun t => !slotValid img t || teamReservedOk img t)

def imgVi (img : List Byte) : Nat := imgAt img 0 256 / 2 ^ 276 % 64
def imgDomain (img : List Byte) : Nat := imgAt img 0 256 / 2 ^ 304 % 2 ^ 16
def imgNeed (img : List Byte) (p : Nat) : Nat := imgAt img 0 256 / 2 ^ (136 + 10 * p) % 2 ^ 10

/-! ## Reading teams back -/

def readRoles (img : List Byte) (t : Nat) : List Word :=
  let e := 0x100 + 64 * t
  let n := imgAt img e 4 / 2 % 8 + 1
  (List.range n).map (fun k => BitVec.ofNat 32 (imgAt img (e + 48 + 4 * k) 4))

/-- A split frame; one that resumed at an RSYNC waits at its wait half (R195). -/
def readSplit (img : List Byte) (tick b num : Nat) : Split :=
  let d := fun (o : Nat) => (BitVec.ofNat 64 (imgAt img (b + o) 8) : DWord)
  let w := fun (o : Nat) => (BitVec.ofNat 32 (imgAt img (b + o) 4) : Word)
  let pcw := imgAt img b 8
  let parked := pcw.testBit 57
  let hw := imgAt img (b + 85) 1
  let ss := (List.range 32).foldl (fun c k => cput (fun _ => 0) c k (d (144 + 8 * k))) ([] : Cells DWord)
  let nwin := ((List.range 16).filter (fun k => imgAt img (b + 656 + 16 * k) 8 != 0)).length
  { Split.fresh with
    num := num
    pc := BitVec.ofNat 64 (pcw % 2 ^ 57 / 4 * 4)
    rcvaValid := pcw.testBit 59
    rcva := BitVec.ofNat 64 (imgAt img (b + 8) 8 % 2 ^ 57)
    parked := if parked then some (BitVec.ofNat 64 (imgAt img (b + 16) 8 % 2 ^ 57 / 4 * 4), imgAt img (b + 24) 4) else none
    mask := w 28
    mode := d 32
    tstat := d 48
    frame := ⟨BitVec.ofNat 8 (imgAt img (b + 84) 1), d 56, d 64, d 72, w 80, d 40, BitVec.ofNat 64 (bitsOf (d 88) 2 55 * 4), d 96, d 104⟩
    stack := ((List.range hw).map (fun k => unpackEntry (imgAt img (b + 400 + 16 * k) 16))).reverse
    spilled := imgAt img (b + 86) 1 - hw
    outcome := BitVec.ofNat 8 (imgAt img (b + 87) 1)
    x := (List.range 8).foldl (fun c k => cput (fun _ => ⟨0, 0⟩) c k
      ⟨BitVec.ofNat 16 (imgAt img (b + 112 + 4 * k) 2), BitVec.ofNat 16 (imgAt img (b + 114 + 4 * k) 2)⟩) []
    s := ss
    windows := (List.range nwin).map (fun k =>
      let o := 656 + 16 * k
      ⟨d o, imgAt img (b + o + 8) 1,
        (List.range (imgAt img (b + o + 9) 1)).map (fun j => regOf (imgAt img (b + o + 10 + j) 1)), none⟩)
    wait := if !parked && imgAt img (b + 24) 4 == 1 then some (.rsync 0 0) else none
    woke := tick }

/-- The wait half of a restored RSYNC: its point and its target, from the word at its address. -/
def resumeRsync (i : Option Instr) (sp : Split) : Split :=
  match sp.wait, i with
  | some (.rsync _ _), some (.rsync z k) =>
    { sp with wait := some (.rsync k.toNat ((cget (fun _ => (0 : DWord)) sp.s z.toNat).setWidth 32)) }
  | some (.rsync _ _), _ => { sp with wait := none }
  | _, _ => sp

/-- A group frame, at its new partition. -/
def readGroup (img : List Byte) (tick : Nat) (roles : List Word) (first b : Nat) : Group :=
  let num := imgAt img b 1
  let (role, n) := (groupRoles roles).getD num (0, 16)
  let p := imgAt img (b + 1) 1
  let fr := imgAt img (b + 2) 2
  let w := fun (o : Nat) => (BitVec.ofNat 32 (imgAt img (b + o) 4) : Word)
  let sps := ((maskSplits (imgAt img (b + 4) 1)).zipIdx 0).map (fun e => readSplit img tick (b + 256 + 1024 * e.2) e.1)
  { Group.fresh with
    num := num
    part := (first + num) % 12
    role := role
    splits := sps
    regs := (List.range n).foldl (fun c k => (List.range 32).foldl (fun c l =>
      cput (fun _ => 0) c (vkey k l) (BitVec.ofNat 32 (imgAt img (0x4000 + 0x10000 * p + 128 * (fr + k) + 4 * l) 4))) c) []
    preds := (List.range 7).foldl (fun c k => cput (fun _ => 0) c (k + 1) (w (16 + 4 * k))) []
    exited := w 44
    gens := (List.range 32).foldl (fun c l => cput genInit c l (if w (48 + 4 * l) = 0 then 1 else w (48 + 4 * l))) []
    ringBase := w 176, ringSize := w 180, ringHead := w 184, ringTail := w 188, ringDrop := w 192, seq := w 196
    arrivals := sps.foldl (fun a x => max a (parkSeq x + 1)) 0 }

/-- A sequencer slot. What the word at SPC says of its stop and of its progress is added with the team's tables at hand. -/
def readSlot (img : List Byte) (tick id i j : Nat) : MSlot :=
  let b := 0x1D00 + 2432 * i
  let d := fun (o : Nat) => (BitVec.ofNat 64 (imgAt img (b + o) 8) : DWord)
  let own := imgAt img (b + 2365) 1
  let mstat := d 2184
  let owner := if own = 0xFF then none else some (own, imgAt img (b + 2366) 1)
  { MSlot.fresh with
    index := j
    spc := d 2176, mstat := mstat, mrp := d 2192
    loops := ((List.range 4).filterMap (fun k =>
      if imgAt img (b + 2200 + 16 * k) 8 = 0 then none
      else some (d (2200 + 16 * k), imgAt img (b + 2208 + 16 * k) 4))).reverse
    targets := (List.range 24).foldl (fun c k => cput (fun _ => 0) c k (BitVec.ofNat 32 (imgAt img (b + 2264 + 4 * k) 4))) []
    handles := (List.range 32).filterMap (fun h =>
      if (imgAt img (b + 2360) 4).testBit h then some (h, BitVec.ofNat 512 (imgAt img (b + 64 * h) 64)) else none)
    koff := (List.range 32).foldl (fun c k => cput (fun _ => 0) c k (BitVec.ofNat 32 (imgAt img (b + 2048 + 4 * k) 4))) []
    acc := (List.range 256).foldl (fun c r =>
      cput (fun _ => 0) c r (BitVec.ofNat 4096 (imgAt img (0x144000 + 0x20000 * i + 512 * r) 512))) []
    owner := owner
    fault := if bitsOf mstat 0 2 = 2 then some (id, ⟨Cause.matrixFault, 0, Config.unsaved tick i, 0, d 2176⟩) else none }

def readJob (img : List Byte) (b : Nat) : Option HeldJob :=
  if imgAt img (b + 71) 1 = 0 then none
  else
    let die := imgAt img (b + 70) 1
    some ⟨BitVec.ofNat 512 (imgAt img b 64), BitVec.ofNat 32 (imgAt img (b + 64) 4),
      imgAt img (b + 68) 2 * 16 + die % 16, imgAt img (b + 71) 1 == 2, if 128 ≤ die then some 0 else none⟩

/-- The record of an undelivered fault of a copy, with its window address: from the ring when it stands there, and otherwise
its sequence number alone. -/
def readRecord (img : List Byte) (b spad : Nat) : Option (BitVec 256 × DWord) :=
  let off := imgAt img (b + 8) 4
  if imgAt img (b + 1) 1 ≠ 1 then none
  else if off ≠ 0xFFFFFFFF then
    some (BitVec.ofNat 256 (imgAt img (0xC4000 + spad + off) 32), BitVec.ofNat 64 (Config.window + off))
  else some (BitVec.ofNat 256 (imgAt img (b + 4) 4 * 2 ^ 128), 0)

/-- The undelivered faults of a team, for its groups, in issue order (log 23); a POISON's tag is the team's (log 80). A
copy's record tells DEFPC, and the address that an error took; without lanes TRAPM is the waiting split's. -/
def readFaults (img : List Byte) (tick id o n spad tag : Nat) : List (Nat × DFault) :=
  (List.range n).map (fun k =>
    let b := o + 16 * k
    let has := imgAt img (b + 1) 1 == 1 && imgAt img (b + 8) 4 != 0xFFFFFFFF
    let cause := imgAt img (b + 2) 1
    let rec_ := readRecord img b spad
    let lanes := imgAt img (b + 12) 4
    (imgAt img b 1,
      { id := id + k
        cause := cause
        defpc := match rec_ with
          | some (r, _) => if has then (r.extractLsb' 64 57).setWidth 64 else Config.unsaved tick (2 * k)
          | none => Config.unsaved tick (2 * k)
        value := match rec_ with
          | some (r, w) =>
            if cause = Cause.deferredCopy then w
            else if has then r.extractLsb' 192 64 else Config.unsaved tick (2 * k + 1)
          | none => Config.unsaved tick (2 * k + 1)
        mask := if lanes = 0 then none else some (BitVec.ofNat 32 lanes)
        at_ := if imgAt img (b + 1) 1 = 2 then .result else .anyWait
        dests := [], spl := 0
        purge := if cause = Cause.poison then some tag else none
        record := rec_ }))

/-- The faults of a group with those of checked atomics given to the splits whose outcome they are, each its own: the one
that holds its lanes (R209). -/
def shareOutcomes (sps : List Split) (fs : List DFault) : List DFault :=
  fs.map (fun f =>
    if f.at_ = .result then
      match sps.find? (fun x => x.outcome.toNat == f.cause && (f.mask.getD 0 &&& x.mask) != 0) with
      | some x => { f with spl := x.num }
      | none => f
    else f)

/-- A split whose POISON trap waits for its RTE owes the purge of its team's tag (R332, log 80). -/
def owesPurge (tag : Nat) (x : Split) : Split := if bitsOf x.tstat 4 1 = 1 then { x with ptag := some tag } else x

/-- A team read back into a spot of a bank; `vi` is the loading VI. -/
def readTeam (img : List Byte) (s : State) (vi t : Nat) (p : Spot) : Team :=
  let e := 0x100 + 64 * t
  let b := frameAt img t
  let (_, _, (f, nf), gs) := frameCounts img b
  let roles := readRoles img t
  let flags := imgAt img (e + 6) 1
  let tag := imgAt img (e + 4) 2
  let faults := readFaults img s.tick (s.fresh + 1) f nf (imgAt img (e + 8) 4) tag
  let groups := gs.map (fun o =>
    let g := readGroup img s.tick roles p.first o
    { g with
      splits := g.splits.map (owesPurge tag)
      faults := shareOutcomes g.splits ((faults.filter (fun x => x.1 == g.num)).map Prod.snd) })
  { Team.fresh with
    id := s.fresh + nf + 1
    vi := vi
    core := p.core
    bank := p.bank
    slot := p.slot
    first := p.first
    hdr := BitVec.ofNat 32 (imgAt img e 4)
    roles := roles
    rtag := BitVec.ofNat 16 tag
    ptags := if groups.any (fun g => g.splits.any (fun x => x.ptag.isSome)) then [tag] else []
    tvec := BitVec.ofNat 64 (imgAt img (e + 32) 8)
    worker := flags.testBit 1
    exitPending := flags.testBit 2
    stopped := false
    clean := flags.testBit 2
    spadBase := p.spad
    spadBytes := imgAt img (e + 12) 4
    teamix := imgAt img (e + 28) 4
    cev := BitVec.ofNat 32 (imgAt img (e + 40) 4)
    points := (List.range 24).foldl (fun c k => cput (fun _ => 0) c k (BitVec.ofNat 128 (imgAt img (0x500 + 384 * t + 16 * k) 16))) []
    maps := (List.range 8).filterMap (fun k =>
      if imgAt img (b + 64 * k) 64 = 0 then none else some (k, BitVec.ofNat 512 (imgAt img (b + 64 * k) 64)))
    job := readJob img (b + 512)
    mslot := if imgAt img (e + 16) 1 = 0xFF then none else some (readSlot img s.tick s.fresh (imgAt img (e + 16) 1) p.mslot)
    groups := groups }

end Sys2Proof.Machine
end

