-- ==== Sys2Proof/Machine/Context.lean ====
section
/-! DEFINITION. Pre-emption: the drain, the forced swap, BSWP, CTXS, CTXL and the steps that write and load images;
lost cores (14_system.md R335 to R349; 06_control.md R150, 07_memory.md R173, 08_ordering.md R195, 09_atomics.md
R219, 10_matrix.md R246, 11_copy.md R265, 12_work.md R296, 13_fabric.md R319). -/

namespace Sys2Proof.Machine

/-! ## BANKST (R324) -/

def setBankst (s : State) (core lo wd v : Nat) : State :=
  setCore s core { getCore s core with bankst := putBits (getCore s core).bankst lo wd v }

def drst (s : State) (core : Nat) : Nat := bitsOf (getCore s core).bankst 0 2
def setDrst (s : State) (core v : Nat) : State := setBankst s core 0 2 v
def setImm (s : State) (core v : Nat) : State := setBankst s core 2 1 v
def shst (s : State) (core : Nat) : Nat := bitsOf (getCore s core).bankst 4 2
def setShst (s : State) (core v : Nat) : State := setBankst s core 4 2 v

/-- The bank that does not run. -/
def otherBank (s : State) (core : Nat) : Nat := 1 - runningBank s core

/-! ## When the image of a bank may be written (R173, R195, R246, R265, R319) -/

/-- A hold of a split that ends by itself, and that an image has no field for. -/
def holdOver (s : State) (sp : Split) : Bool :=
  match sp.wait with
  | some (.flight id) => !pending s id
  | some (.message id) => !s.msgs.any (fun m => m.id == id) && !s.reqs.any (fun r => r.id == id && openReq r)
  | some (.purge vi tag) => !s.purges.any (fun p => viKey p.module p.vi == vi && p.tag == tag)
  | _ => true

/-- Every access, copy and exchange of a bank is performed or faulted, and the counters are zero. -/
def bankIdle (s : State) (core bank : Nat) : Bool :=
  let ts := bankTeams s core bank
  let mine := fun (r : Request) => match r.who with | some w => ts.any (fun t => t.id == w.1) | none => false
  s.flights.all (fun f => f.core != core || f.bank != bank || withdrawn f) &&
    s.reqs.all (fun r => !(mine r && openReq r)) &&
    ts.all (fun t => t.groups.all (fun g => g.paths.isEmpty &&
      g.splits.all (fun x => x.fence.isNone && x.owner.isNone && holdOver s x)))

/-! ## Writing an image (R341, R345) -/

/-- The agent that reads and writes an image: the VI's tables, tag 0. -/
def imageAgent (core vi : Nat) : Agent := ⟨coreModule core, unitCopy core, vi, false, 0, 0⟩

/-- What the 64 KiB pages of an image are granted, with their addresses, or the first failure. -/
def imageGrants (s : State) (g : Agent) (k : Kind) (va n : Nat) : Except EngineFail (List (Nat × Granted)) :=
  (List.range ((n + 65535) / 65536)).foldl (fun acc p =>
    match acc with
    | .error e => .error e
    | .ok gs =>
      match check s g k (va + 65536 * p) (min 65536 (n - 65536 * p)) with
      | .error (c, v) => .error ⟨c, v⟩
      | .ok gr => .ok (gs ++ [(va + 65536 * p, gr)])) (.ok [])

/-- The pieces of an image, or the first failure. -/
def imagePages (s : State) (g : Agent) (k : Kind) (va n : Nat) : Except EngineFail (List (Nat × Nat)) :=
  (imageGrants s g k va n).map (fun gs => gs.flatMap (fun e => e.2.parts))

/-- The grants themselves; none after a failure. -/
def grantsOf (s : State) (core vi : Nat) (k : Kind) (va n : Nat) : List (Nat × Granted) :=
  match imageGrants s (imageAgent core vi) k va n with | .ok gs => gs | .error _ => []

/-- The page tables of a range of 64 KiB pages can be read now (log 79). -/
def pagesNear (s : State) (g : Agent) (va n : Nat) : Bool :=
  (List.range ((n + 65535) / 65536)).all (fun p => walksNear s g (va + 65536 * p) (min 65536 (n - 65536 * p)))

/-- The engine of a core can read an image's pages, or write them, now (logs 62 and 79). -/
def imageNear (s : State) (core vi : Nat) (k : Kind) (va n : Nat) : Bool :=
  let ps := (grantsOf s core vi k va n).flatMap (fun e => e.2.parts)
  pagesNear s (imageAgent core vi) va n && placesReady s (coreDie core) ps &&
    (if k = .write then destsFree s (coreDie core) ps else partsNear s (coreDie core) ps)

/-- A lost page-table entry or byte: an operation of an instruction faults with its group's tag (R333), and
firmware's own bears tag 0, which is module-fatal (R332). -/
def imageFail (s : State) (core : Nat) (flight : Option Nat) (e : EngineFail) : State :=
  if e.cause = Cause.poison ∧ flight.isNone then moduleFatal s (coreModule core) else s

/-- The first lost byte of a bank's scratchpad, by its window address in the team that holds it. -/
def lostByte (s : State) (core bank : Nat) : Option Nat :=
  ((List.range 524288).find? (fun o => poisoned s (spadAddr core bank o) 1)).map (fun o =>
    match (bankTeams s core bank).find? (fun t => decide (t.spadBase ≤ o) && decide (o < t.spadBase + t.spadBytes)) with
    | some t => Config.window + (o - t.spadBase)
    | none => Config.window + o)

/-- The image of a bank can be written to its place now. -/
def saveNear (s : State) (core bank vi va : Nat) (forced : Bool) : Bool :=
  imageNear s core vi .write va (bankImage s core bank vi forced).length

/-- The arms of the teams of a bank, with the dies whose units hold them. -/
def bankArms (s : State) (core bank : Nat) : List (Nat × Arm) :=
  let ts := (bankTeams s core bank).map Team.id
  s.dies.flatMap (fun e => (e.2.arms.filter (fun a => ts.contains a.team)).map (fun a => (e.1, a)))

/-- Arms are withdrawn from their units with the records of their events (R219). -/
def withdrawArms (s : State) (as : List (Nat × Arm)) : State :=
  as.foldl (fun s e => dropWaiters (removeArm s e.1 e.2.id) e.1 e.2.id) s

/-- An arm is placed in a unit and evaluated at once. -/
def settleArm (s : State) (die : Nat) (a : Arm) : State :=
  let s1 := addArm s die a
  match a.cond with
  | .event e q =>
    sendEvent s1 (coreModule a.core) a.vi e (.subscribe q die) [] (some (a.team, a.grp, a.spl)) 0
  | .word _ _ => evalArm s1 die false a
  | .mailbox t => if ((findTeam s t).bind Team.job).isSome then armMet s1 die 64 a else s1

/-- What an image that goes to another module waits for: the requests that `s1` has made since `s`, and the arms, which leave
their units with the bytes of the image; none where it is written at once. -/
def imageOut (s s1 : State) (core bank : Nat) : Option (State × ImageWrite) :=
  let ids := ((s1.reqs.filter (fun r => decide (s.fresh ≤ r.id)))).map Request.id
  if ids.isEmpty then none
  else
    let as := bankArms s core bank
    some (withdrawArms s1 as, ⟨ids, false, as⟩)

/-- Every request of an image is answered, or given up. -/
def imageThere (s : State) (w : ImageWrite) : Bool := !s.reqs.any (fun r => w.ids.contains r.id && openReq r)

/-- An image of which a request was given up is not written: the bank stays whole, and its arms go back. -/
def imageBack (s : State) (w : ImageWrite) : State := w.arms.foldl (fun s e => settleArm s e.1 e.2) s

/-- The failure of such an image (13_fabric.md R305). -/
def imageLost (va : Nat) : EngineFail := ⟨Cause.fabricUncertain, va⟩

/-- Write the image of a bank: the machine and IMGBYTES, or the failure. -/
def writeImage (s : State) (core bank vi va : Nat) (forced : Bool) : Except EngineFail (State × Nat) :=
  let img := bankImage s core bank vi forced
  match imagePages s (imageAgent core vi) .write va img.length, lostByte s core bank with
  | .error e, _ => .error e
  | .ok _, some a => .error ⟨Cause.poison, a⟩
  | .ok ps, none => .ok (forVi s vi (engineWrite s (coreDie core) none va 0 none ps img), img.length)

/-- The matrix engine of a core forgets its translations (10_matrix.md R246). -/
def dropEngineTlb (s : State) (core : Nat) : State :=
  { s with tlb := s.tlb.filter (fun e => e.unit != unitMatrix core) }

/-- A team leaves its bank for an image: its arms and waiting operations are withdrawn (R219, R265, R296), its
digest is no longer open, and a re-run that it holds is abandoned (R364). -/
def removeTeam (s : State) (t : Team) : State :=
  let s := withdrawArms s (s.dies.flatMap (fun e => (e.2.arms.filter (fun a => a.team == t.id)).map (fun a => (e.1, a))))
  let s := { s with flights := s.flights.filter (fun f => f.team != t.id) }
  let s := match t.job with
    | some h => (match h.rerun with | some c => cupAbandon s c 2 | none => s)
    | none => s
  let s := shutDigest (freeMail s t.core t.id) t
  { s with
    teams := s.teams.filter (fun x => x.id != t.id)
    woken := s.woken.filter (fun w => w.1 != t.id) }

/-- The bank is EMPTY once its image is written. -/
def vacate (s : State) (core bank : Nat) : State :=
  let s := close s
  let ts := bankTeams s core bank
  let s := dropEngineTlb (ts.foldl removeTeam (discardReplays s core (ts.map Team.id))) core
  setCore s core { getCore s core with saveseq := (getCore s core).saveseq + 1 }

/-! ## The forced swap (R337) -/

/-- The boundary of an open speculative window is after its FENCE; the window is discarded and the FENCE is left to
complete with nothing issued behind it (R195). -/
def settleFence (s : State) (w : FenceWin) : State :=
  let s := putSnap (discardFlights s (flightsSince s w.first)) w.snap
  { s with
    split := { s.split with
      fence := some { w with ns := true, used := 0, tracked := [], held := [], trap := none }
      owner := none
      wait := none }
    group := { s.group with log := s.group.log.filter (fun e => e.1 != s.split.num) } }

/-- The boundary of a split with held instructions is before the oldest of them (R173; log 26). -/
def settleOwner (s : State) (id : Nat) (k : Snapshot) : State :=
  let s := putSnap (discardFlights s (flightsSince s id)) k
  { s with
    split := { s.split with
      owner := none
      wait := none }
    group := { s.group with log := s.group.log.filter (fun e => e.1 != s.split.num) } }

/-- A wait that is issued again when the bank next runs. -/
def waitsAgain (w : WaitCond) : Bool :=
  match w with
  | .path _ _ => true
  | .barrier _ _ _ => true
  | .point _ _ => true
  | .performed _ _ => true
  | .replay _ => true
  | .result _ => true
  | .room _ => true
  | .walk _ _ _ => true
  | _ => false

/-- The boundary of the split in focus. -/
def settleSplit (s : State) : State :=
  let s := match s.split.fence, s.split.owner with
    | some w, _ => settleFence s w
    | none, some (id, k) => settleOwner s id k
    | none, none => s
  { s with split := { s.split with
      active := false
      issued := false
      woke := s.tick
      wait := match s.split.wait with | some w => if waitsAgain w then none else some w | none => none } }

/-- The places of the splits of a list of teams. -/
def splitPlaces (ts : List Team) : List (Nat × Nat × Nat) :=
  ts.flatMap (fun t => t.groups.flatMap (fun g => g.splits.map (fun x => (t.id, g.num, x.num))))

/-- A bank begins to run: no split is parked for a drain, and teams that bear a dead tag end (R332). -/
def beginBank (s : State) (core : Nat) : State :=
  let bank := runningBank s core
  let s := mapSplits s (fun t _ x => if t.core = core ∧ t.bank = bank then { x with drainPark := false, woke := s.tick } else x)
  ((bankTeams s core bank).filter (fun t => tagDead s (coreModule core) t.vi t.rtag.toNat)).foldl
    (fun s t => forceEnd s t.id true) s

/-- Swap the banks. With a request the displaced bank is saved to the address that it named; without one (BSWP,
a load into an empty core) it is READY, or EMPTY when it holds no team. -/
def doSwap (s : State) (core : Nat) (req : Option DrainSt) : State :=
  let s := close s
  let old := runningBank s core
  let ts := bankTeams s core old
  let s := close ((splitPlaces ts).foldl (fun s p => onSplit s p.1 p.2.1 p.2.2 settleSplit) s)
  let s := dropEngineTlb (discardReplays s core (ts.map Team.id)) core
  let s := setBankst s core 3 1 (1 - old)
  let s := match req with
    | some d =>
      let s := setShst (setDrst s core 0) core 3
      setCore s core { getCore s core with
        ctx := some ⟨true, none, d.image, d.vi, none, d.pkts, true, d.imm, none⟩, drain := none, loaded := false, swapping := false }
    | none =>
      let s := setShst s core (if ts.isEmpty then 0 else 2)
      setCore s core { getCore s core with loaded := false, swapping := false }
  beginBank s core

/-- Start the forced swap that firmware's request asks for; while the other bank is loading or saving, the
partitions stop and the swap waits. -/
def forceSwap (s : State) (core : Nat) : State :=
  let c := getCore s core
  if shst s core = 1 ∨ shst s core = 3 then setCore s core { c with swapping := true }
  else doSwap s core c.drain

/-- A save that a forced swap began has ended: IMM tells of the request that waits, if any (R324). -/
def nextImm (s : State) (core : Nat) : State :=
  setImm s core (if ((getCore s core).drain.map DrainSt.imm).getD false then 1 else 0)

/-- A swap that waited for a load or a save goes on. -/
def swapPending (s : State) (core : Nat) : State :=
  let c := getCore s core
  if c.swapping then doSwap s core c.drain else s

/-! ## Drain requests (R336, R337) -/

/-- A request of firmware. A second one merges into the first; one that follows a failed write names a new
address (log 27). -/
def requestDrain (s : State) (core : Nat) (image : DWord) (vi : Nat) (imm : Bool) (pkt : PktRef) : State :=
  let s := close s
  let c := getCore s core
  match c.drain with
  | none =>
    let s := setCore s core { c with drain := some ⟨image, vi, [pkt], false, imm, none⟩ }
    if imm then forceSwap (setImm (unbindCore s core) core 1) core
    else unbindCore (setDrst s core 1) core
  | some d =>
    let d := if d.failed then ⟨image, vi, [pkt], false, imm, none⟩ else { d with pkts := d.pkts ++ [pkt], imm := d.imm || imm }
    let s := setCore s core { c with drain := some d }
    let s := if imm then setImm s core 1 else s
    if imm && drst s core == 1 && !c.swapping then forceSwap s core else s

/-- DRAIN to FLUSH. -/
def execDrainAllParked (core : Nat) (s : State) :=
  runEvent (drst s core == 1 && !(getCore s core).swapping && bankParked s core) s (fun s => setDrst s core 2)

/-- FLUSH to WRITE. -/
def execDrainFlushDone (core : Nat) (s : State) :=
  runEvent (drst s core == 2 && bankIdle s core (runningBank s core)) s (fun s => setDrst s core 3)

/-- DRAIN_DONE, and DONE for the packets that asked (16_frontend.md R378, R421). -/
def drainDone (s : State) (core vi : Nat) (image : DWord) (pkts : List PktRef) : State :=
  pkts.foldl doneOf (report s (coreModule core) .owner (mkReport 0x07 vi (BitVec.ofNat 64 (core % 1024)) image))

/-- DRAIN_FAILED. -/
def drainFailed (s : State) (core vi : Nat) (e : EngineFail) : State :=
  report s (coreModule core) .owner
    { mkReport 0x14 vi (BitVec.ofNat 64 (core % 1024)) (BitVec.ofNat 64 e.cause) with
      ext := some (BitVec.ofNat 256 e.va) }

/-- The drain's image stands in memory: the bank is EMPTY. -/
def drainEnds (s : State) (core : Nat) (d : DrainSt) : State :=
  let s1 := setDrst (vacate s core (runningBank s core)) core 0
  drainDone (setImm (setCore s1 core { getCore s1 core with drain := none }) core 0) core d.vi d.image d.pkts

/-- The drain's image cannot be written: the bank stays whole in WRITE. -/
def drainFails (s : State) (core : Nat) (d : DrainSt) (e : EngineFail) : State :=
  let s := imageFail s core none e
  drainFailed (setCore s core { getCore s core with drain := some { d with failed := true, wrote := none } }) core d.vi e

/-- The drain's image is written, or cannot be; one that goes to another module is there once its requests are answered. -/
def drainWrite (s : State) (core : Nat) (d : DrainSt) : State :=
  let s := close s
  match d.wrote with
  | some w => if w.lost then drainFails (imageBack s w) core d (imageLost d.image.toNat) else drainEnds s core d
  | none =>
    let bank := runningBank s core
    match writeImage s core bank d.vi d.image.toNat false with
    | .error e => drainFails s core d e
    | .ok (s1, _) =>
      match imageOut s s1 core bank with
      | none => drainEnds s1 core d
      | some (s2, w) => setCore s2 core { getCore s2 core with drain := some { d with wrote := some w } }

/-- The drain has a step to take in WRITE. -/
def drainReady (s : State) (core : Nat) (d : DrainSt) : Bool :=
  match d.wrote with
  | some w => imageThere s w
  | none => saveNear s core (runningBank s core) d.vi d.image.toNat false

def execDrainImageWritten (core : Nat) (s : State) : Host.Outcome State Fault Refusal :=
  match (getCore s core).drain with
  | none => .fault .notEnabled
  | some d =>
    if drst s core = 3 ∧ !d.failed ∧ drainReady s core d then .next (refocus s (drainWrite s core d)) else .fault .notEnabled

/-- The team has a split whose POISON trap waits for its RTE. -/
def awaitsPurge (t : Team) : Bool := !t.ptags.isEmpty

/-- Purges that wait for an RTE on a core are performed at DRAINB after the trap (R332). -/
def purgeTraps (s : State) (core : Nat) : State :=
  (allTeams s).foldl (fun s t =>
    if t.core = core then
      updTeam (t.ptags.foldl (fun s g => startPurge s (coreModule core) t.vi g none []) s) t.id (fun t => { t with ptags := [] })
    else s) s

/-- DRAINB expires: tier 2 during DRAIN (R336), and the purge of every POISON trap of the core that still waits
for its RTE (R332). -/
def execDrainbExpire (core : Nat) (s : State) : Host.Outcome State Fault Refusal :=
  let s0 := purgeTraps (close s) core
  if drst s core = 1 ∧ !(getCore s core).swapping then .next (refocus s (forceSwap s0 core))
  else if (allTeams s).any (fun t => t.core == core && awaitsPurge t) then .next (refocus s s0)
  else .fault .notEnabled

/-! ## BSWP (R340) -/

def execBswp (z : BitVec 5) (s : State) :=
  oncePriv (.bswp z) s (fun s =>
    let core := s.team.core
    if shst s core = 2 then doSwap (adv (ws s z.toNat 0)) core none else adv (ws s z.toNat 1))

def execBswpQry (z : BitVec 5) (s : State) :=
  oncePriv (.bswpQry z) s (fun s => adv (ws s z.toNat (getCore s s.team.core).bankst))

/-! ## CTXS and CTXL at issue (R345) -/

/-- The flight of a CTXS or CTXL: the image address is scalar 4, the object scalar 5, and flag 2 says that there is
one. -/
def ctxFlight (s : State) (k : FlightKind) (i : Instr) (img o : DWord) (pa : Nat) : Flight × State :=
  let (q, s1) := takeSeq s
  let flags : Nat := if o = 0 then 0 else 4
  let sc := copyScal s q ++ [img, BitVec.ofNat 64 pa, 0, BitVec.ofNat 64 flags, 0, 0, 0]
  ({ newFlight s1 k i none [] sc [] with home := true }, s1)

/-- The shared checks: the address, then the object (order 6 of R255). -/
def ctxForm (i : Instr) (x y : BitVec 5) (s : State) (body : State → DWord → DWord → Nat → State) :
    Host.Outcome State Fault Refusal :=
  oncePriv i s (fun s =>
    let img := xValue s x
    let o := rs s y.toNat
    if img.toNat % 65536 ≠ 0 then trap s Cause.misalign img (active s)
    else
      match tileTarget s ⟨0xF6, 0, none, 0, 0, false, false, none, false, false⟩ o with
      | .error e => trapCheck s e o.toNat (active s)
      | .ok pa => body s img o pa)

/-- The operation starts. -/
def ctxStart (s : State) (k : FlightKind) (i : Instr) (save : Bool) (team : Option Nat) (img o : DWord) (pa : Nat)
    (z : BitVec 5) : State :=
  let (f, s1) := ctxFlight s k i img o pa
  let core := s.team.core
  let s2 := setShst (launchFlight s1 f) core (if save then 3 else 1)
  adv (ws (setCore s2 core { getCore s2 core with ctx := some ⟨save, team, img, s.team.vi, some f.id, [], false, false, none⟩ }) z.toNat 0)

def execCtxs (x y z : BitVec 5) (s : State) :=
  ctxForm (.ctxs x y z) x y s (fun s img o pa =>
    match shst s s.team.core with
    | 0 => adv (ws s z.toNat 1)
    | 2 => ctxStart s .ctxSave (.ctxs x y z) true none img o pa z
    | _ => adv (ws s z.toNat 2))

/-- The non-running bank takes a whole image, or a team (log 20). -/
def loadOpen (s : State) (core : Nat) (team : Bool) : Bool :=
  takesTeams s core && (shst s core == 0 || (team && shst s core == 2 && (getCore s core).loaded))

def execCtxl (x y z : BitVec 5) (s : State) :=
  ctxForm (.ctxl x y z) x y s (fun s img o pa =>
    if loadOpen s s.team.core false then ctxStart s .ctxLoad (.ctxl x y z) false none img o pa z
    else adv (ws s z.toNat 1))

def execCtxlTeam (x y z : BitVec 5) (t : BitVec 4) (s : State) :=
  ctxForm (.ctxlTeam x y z t) x y s (fun s img o pa =>
    if loadOpen s s.team.core true then ctxStart s .ctxLoad (.ctxlTeam x y z t) false (some t.toNat) img o pa z
    else adv (ws s z.toNat 1))

/-! ## The end of a background save or load -/

/-- The issuing instruction's operation ends: its bytes are counted, or its fault is deferred. -/
def ctxCount (s : State) (op : CtxOp) (n : Nat) : State :=
  match op.flight.bind (findFlight s) with
  | none => s
  | some f => finishTeam (countTo (dropFlight s f.id) (tileCount f) n) f.team

def ctxFault (s : State) (op : CtxOp) (cause va reason : Nat) : State :=
  match op.flight.bind (findFlight s) with
  | none => s
  | some f => finishTeam (copyFault (dropFlight s f.id) f (tileAt f) none cause va reason 0 (tileOp f.instr)) f.team

def dropCtx (s : State) (core : Nat) : State := setCore s core { getCore s core with ctx := none }

/-- The background save cannot be made: the bank stays READY and whole. -/
def ctxSaveFails (s : State) (core : Nat) (op : CtxOp) (e : EngineFail) : State :=
  let s := setShst (dropCtx (imageFail s core op.flight e) core) core 2
  let s := ctxFault s op e.cause e.va 0
  let s := if op.forced then drainFailed (nextImm s core) core op.vi e else s
  swapPending s core

/-- The background save's image stands in memory: the bank is EMPTY. -/
def ctxSaved (s : State) (core : Nat) (op : CtxOp) (n : Nat) : State :=
  let s := setShst (dropCtx (vacate s core (otherBank s core)) core) core 0
  let s := ctxCount (setCore s core { getCore s core with loaded := false }) op n
  let s := if op.forced then drainDone (nextImm s core) core op.vi op.image op.pkts else s
  swapPending s core

/-- The background save; an image that goes to another module is there once its requests are answered. -/
def ctxSaveEnd (s : State) (core : Nat) (op : CtxOp) : State :=
  let s := close s
  let bank := otherBank s core
  match op.wrote with
  | some w =>
    if w.lost then ctxSaveFails (imageBack s w) core op (imageLost op.image.toNat)
    else ctxSaved s core op (bankImage (imageBack s w) core bank op.vi op.forced).length
  | none =>
    match writeImage s core bank op.vi op.image.toNat op.forced with
    | .error e => ctxSaveFails s core op e
    | .ok (s1, n) =>
      match imageOut s s1 core bank with
      | none => ctxSaved s1 core op n
      | some (s2, w) => setCore s2 core { getCore s2 core with ctx := some { op with wrote := some w } }

/-- The background save has a step to take. -/
def saveReady (s : State) (core : Nat) (op : CtxOp) : Bool :=
  match op.wrote with
  | some w => imageThere s w
  | none => bankIdle s core (otherBank s core) && saveNear s core (otherBank s core) op.vi op.image.toNat op.forced

def execContextSaveDone (core : Nat) (s : State) : Host.Outcome State Fault Refusal :=
  match (getCore s core).ctx with
  | none => .fault .notEnabled
  | some op =>
    if op.save && saveReady s core op then .next (refocus s (ctxSaveEnd s core op)) else .fault .notEnabled

/-! ## Loading (R346, R347) -/

/-- Bytes of an image, or the failure. -/
def imageBytesOf (s : State) (core vi va n : Nat) : Except EngineFail (List Byte) :=
  match imagePages s (imageAgent core vi) .read va n with
  | .error e => .error e
  | .ok ps =>
    match engineRead s (coreDie core) ps with
    | .error i => .error ⟨Cause.poison, va + i⟩
    | .ok bs => .ok bs

/-- The bytes of an image that are read: its header, whose IMGBYTES bounds the rest. -/
def imageSize (s : State) (core vi va : Nat) : Nat :=
  match imageBytesOf s core vi va 256 with
  | .error _ => 256
  | .ok h =>
    let n := imgAt h 56 4
    if imgAt h 0 4 ≠ 0xE3C00001 ∨ n < frmBase ∨ 2 ^ 27 ≤ n then 256 else n

/-- Read an image: its bytes, or the failure. -/
def readImage (s : State) (core vi va : Nat) : Except EngineFail (List Byte) :=
  imageBytesOf s core vi va (imageSize s core vi va)

/-- The image can be read now. -/
def loadNear (s : State) (core vi va : Nat) : Bool :=
  imageNear s core vi .read va 256 && imageNear s core vi .read va (imageSize s core vi va)

/-- The lines that an image's reading brings into the die's RDC, and those of other modules that it leases. -/
def rememberImage (s : State) (core vi va : Nat) : State :=
  let gs := grantsOf s core vi .read va (imageSize s core vi va)
  let s := fillGrants s (coreDie core) 0 gs
  gs.foldl (fun s e => takeLeases s (coreDie core) e.2.attr e.2.parts) s

/-- The team slots that an operation loads. -/
def loadSlots (img : List Byte) (team : Option Nat) : List Nat :=
  match team with
  | some t => [t]
  | none => (List.range 16).filter (slotValid img)

/-- The place that a team of a whole image keeps. -/
def ownSpot (img : List Byte) (core bank t : Nat) : Spot :=
  let e := 0x100 + 64 * t
  ⟨core, bank, imgAt img (e + 7) 1, t, imgAt img (e + 8) 4, imgAt img (e + 16) 1⟩

/-- Where one team of an image goes in a bank (R24 with R222). -/
def teamSpot (s : State) (img : List Byte) (core bank t : Nat) : Option Spot :=
  fitBank s core bank (BitVec.ofNat 32 (imgAt img (0x100 + 64 * t) 4)) (readRoles img t)

/-- The reason for which an image is refused; 0 when it is accepted. A core that has been quarantined since has no room
(01_machine.md R28; log 95). -/
def loadReason (s : State) (core bank : Nat) (op : CtxOp) (img : List Byte) : Nat :=
  let cap := match op.team with
    | none => (List.range 12).any (fun p => decide ((getCore s core).capreg < imgNeed img p))
    | some t => slotValid img t && (teamSpot s img core bank t).isNone
  let cap := cap || !takesTeams s core
  if !imageFormed img then 1
  else if cap then 2
  else if op.flight.isSome && (imgVi img != op.vi || imgDomain img != domainOf s (coreModule core) op.vi) then 3
  else if (match op.team with | some t => !slotValid img t | none => false) then 4
  else 0

/-- The instruction at an address, as a VI executes it. -/
def wordAt (s : State) (core vi : Nat) (user : Bool) (pc : DWord) : Option Instr :=
  match check s ⟨coreModule core, unitCore core, vi, user, 0, 0⟩ .exec pc.toNat 4 with
  | .error _ => none
  | .ok g =>
    match decodeMajor (leNat ((partAddrs g.parts).map (dieByte s (coreDie core)))) with
    | .ok i => some i
    | .error _ => none

/-- A split that resumes at an RSYNC's wait half takes its target. -/
def resumeSplits (s : State) (t : Team) : Team :=
  { t with groups := t.groups.map (fun g => { g with splits := g.splits.map (fun x =>
      match x.wait with
      | some _ => resumeRsync (wordAt s t.core t.vi (bitsOf x.tstat 0 1 == 0) x.pc) x
      | none => x) }) }

/-- The instruction at an issuing address, that of its LIM if it has one. -/
def issuedAt (s : State) (t : Team) (pc : DWord) : Option Instr :=
  match wordAt s t.core t.vi false pc with
  | some (.lim _) => wordAt s t.core t.vi false (pc + 4)
  | i => i

/-- A tile operation's fault is delivered at its object where the issuing split still names it (log 63): a barrier object of
the team in the register that the operation took it from. -/
def resumeAt (s : State) (g : Group) (t : Team) (r : BitVec 256) (z : BitVec 5) (f : DFault) : DFault :=
  match g.splits.find? (fun x => decide (x.num = (r.extractLsb' 21 2).toNat)) with
  | none => f
  | some x =>
    let v := (cget (fun _ => (0 : DWord)) x.s z.toNat).toNat
    let pa := teamSpad t + (v - Config.window)
    if Config.window ≤ v ∧ v % 16 = 0 ∧ v - Config.window + 16 ≤ t.spadBytes ∧ (getBar s pa).init = true then { f with at_ := .object pa }
    else f

/-- A CPA's fault is delivered at a WAIT on the CPA's path, after every rise that a program can still count (11_copy.md
R263). -/
def resumeFault (s : State) (t : Team) (g : Group) (f : DFault) : Group :=
  match f.record, issuedAt s t f.defpc with
  | some _, some (.tsct _ _ _ _ k) =>
    { g with faults := g.faults ++ [if k ≠ 31 then { f with at_ := .point k.toNat } else f] }
  | some (r, _), some (.tcpy _ _ z _ _ _) => { g with faults := g.faults ++ [resumeAt s g t r z f] }
  | some (r, _), some (.tsto _ _ z _ _ _) => { g with faults := g.faults ++ [resumeAt s g t r z f] }
  | some (r, _), some (.tgth _ _ z _ _ _) => { g with faults := g.faults ++ [resumeAt s g t r z f] }
  | some (r, _), some (.tred _ _ z _ u _) =>
    { g with faults := g.faults ++ [if u = 1 then f else resumeAt s g t r z f] }
  | some (r, _), some (.fixup _ z) => { g with faults := g.faults ++ [resumeAt s g t r z f] }
  | some (r, _), some (.cpa _ _ _ _ k) =>
    if f.cause = Cause.deferredCopy ∧ r.extractLsb' 24 8 = 0xC0 then
      { g with
        rises := cput (fun _ => 0) g.rises (4 + k.toNat) 1
        faults := g.faults ++ [{ f with at_ := .path (4 + k.toNat) 0 }] }
    else { g with faults := g.faults ++ [f] }
  | _, _ => { g with faults := g.faults ++ [f] }

def resumeFaults (s : State) (t : Team) : Team :=
  { t with groups := t.groups.map (fun g => g.faults.foldl (resumeFault s t) { g with faults := [] }) }

/-- An M word whose own accesses may stop it. -/
def accessWord (i : Instr) (s : State) : Host.Outcome State Fault Refusal :=
  match i with
  | .mma m a b k n u t => execMma m a b k n u t s
  | .mmas m a b k n u => execMmas m a b k n u s
  | .mmax m a b k n u t => execMmax m a b k n u t s
  | .mlda m a v t => execMlda m a v t s
  | .msta m a v sb r t => execMsta m a v sb r t s
  | .mcmp a b k => execMcmp a b k s
  | .mhdl h imm => execMhdl h imm s
  | _ => .fault .notEnabled

/-- The address at which a stream's fetch or its word stops with a page or access fault, as the machine now stands. -/
def stopAddr (s : State) (t : Team) (m : MSlot) : Option DWord :=
  match slotFetch s t m with
  | .error (.kind _ v) => some (BitVec.ofNat 64 v)
  | .error _ => none
  | .ok w =>
    match decodeM w.toNat with
    | .error _ => none
    | .ok i =>
      match accessWord i { s with teams := putTeam { t with mslot := some { m with fault := none } } s.teams, mteam := some t.id } with
      | .next s1 =>
        ((findTeam s1 t.id).bind Team.mslot).bind (fun n =>
          if bitsOf n.mstat 7 3 = bitsOf m.mstat 7 3 then n.fault.map (fun f => f.2.value) else none)
      | _ => none

/-- The word at SPC tells TRAPV of a stop where the image does not (10_matrix.md R243, log 49), and an MMAX in progress with its
tile's SUS bit set has reported its range event (R238; log 49). -/
def resumeSlot (s : State) (t : Team) : Team :=
  match t.mslot with
  | none => t
  | some m =>
    let w := slotFetch s t m
    let k := bitsOf m.mstat 7 3
    let v := fun (old : DWord) =>
      if k = 5 then m.spc
      else
        match w with
        | .ok w =>
          if k = 0 then w.setWidth 64
          else if k = 4 then (w.extractLsb' 17 5).setWidth 64
          else (stopAddr s t m).getD old
        | .error _ => (stopAddr s t m).getD old
    let past := match w with
      | .ok w =>
        (match decodeM w.toNat with
         | .ok (.mmax tile _ _ _ _ _ _) => bitsOf m.mrp 11 1 == 1 && bitsOf m.mstat (susBit 0 tile.toNat) 1 == 1
         | _ => false)
      | .error _ => false
    { t with mslot := some { m with
        ranged := past
        fault := m.fault.map (fun f =>
          (f.1, if f.2.cause = Cause.matrixFault then { f.2 with value := v f.2.value } else f.2)) } }

/-- Parked splits of a team read back are evaluated (06_control.md R141, R150). -/
def resumeParked (s : State) (tid : Nat) : State :=
  match findTeam s tid with
  | none => s
  | some t =>
    t.groups.foldl (fun s g =>
      let (g1, cls) := mergeParked s tid none g
      renameMerged (updGroup s tid g.num (fun _ => g1)) tid g.num cls) s

/-- A saved operation is queued again (R265, R319); one whose split is gone accesses as privileged code (log 78). -/
def readOp_ (s : State) (img : List Byte) (t : Team) (b : Nat) : Option Flight :=
  match decodeMajor (imgAt img (b + 64) 4) with
  | .error _ => none
  | .ok i =>
    let grp := imgAt img (b + 68) 1
    let spl := imgAt img (b + 69) 1
    let d := fun (o : Nat) => (BitVec.ofNat 64 (imgAt img (b + o) 8) : DWord)
    let y := (d 82).toNat
    let z := d 90
    let sp := ((t.groups.find? (fun g => g.num == grp)).map Group.splits).bind (fun l => l.find? (fun x => x.num == spl))
    let um : Nat := match sp with | some x => (if bitsOf x.tstat 0 1 = 0 then 1 else 0) | none => 0
    let mode : DWord := match sp with | some x => x.mode | none => 0
    let re : Nat := match t.job with | some h => (if h.rerun.isSome then 16 else 0) | none => 0
    let obj := if z = 0 then 0 else teamSpad t + (z.toNat - Config.window)
    let has := if z = 0 then 0 else 4
    let blob : BitVec 512 := BitVec.ofNat 512 (imgAt img b 64)
    let base : Flight :=
      { id := s.fresh, kind := .fixup, team := t.id, grp := grp, spl := spl, die := coreDie t.core, core := t.core,
        bank := t.bank, vi := t.vi, tag := t.rtag.toNat, instr := i, pc := Config.unsaved s.tick b, mask := 0,
        mode := mode, path := none, lanes := [],
        scal := [BitVec.ofNat 64 (imgAt img (b + 70) 4), BitVec.ofNat 64 (2 * t.slot + um), BitVec.ofNat 64 (teamSpad t),
          BitVec.ofNat 64 t.spadBytes, d 74],
        blob := [blob], after := [], binds := [], issuer := spl, seq := 0, stage := 0, home := false, wrote := [], frozen := [],
        rise := 0 }
    let n := fun (k : Nat) => (BitVec.ofNat 64 k : DWord)
    match i with
    | .tred _ _ _ _ u o =>
      some { base with
        kind := .tile
        home := decide (Config.window ≤ hdBase blob)
        scal := base.scal ++ [z, n (y / 2 ^ 16), n (o.toNat + 2 * u.toNat + re), 0, 0, n (y % 2 ^ 16),
          n (imageBytes blob ⟨0xC4, 0, none, 0, 0, false, false, none, false, false⟩)] }
    | .xrs _ _ _ _ o m =>
      some { base with
        kind := .exchange
        lanes := (List.range (lmP blob)).map (fun k => ⟨k, 0, [], 0, 0, []⟩)
        home := z != 0
        scal := base.scal ++ [n obj, n y, n (o.toNat + has + re), 0, 0, n m.toNat] }
    | .fixup _ _ => some { base with home := true, scal := base.scal ++ [n obj, 0, n (has + re), 0, 0, 0] }
    | _ => none

def placeOp (s : State) (img : List Byte) (t : Team) (b : Nat) : State :=
  match readOp_ s img t b with
  | none => s
  | some f => { s with fresh := s.fresh + 1, flights := s.flights ++ [f] }

/-- No place: the address of a word that does not translate where its arm is placed again. -/
def noPlace : Nat := 2 ^ 52

/-- An armed wait is placed again and evaluated at once (R219, R296), beyond the capacity of a full unit (log 97); the image
does not name its group, split and lanes, and a word that does not translate is written by nobody (log 76). -/
def placeArm (s : State) (img : List Byte) (t : Team) (b : Nat) : State :=
  let off : Word := BitVec.ofNat 32 (imgAt img (b + 2) 4)
  let opa := ((teamSpad t : Int) + off.toInt).toNat
  let objva : DWord := BitVec.ofNat 64 Config.window + off.signExtend 64
  let x := imgAt img (b + 6) 8
  let c := imgAt img (b + 14) 8
  let mk := fun (cond : ArmCond) (addr : Nat) (va : DWord) =>
    (⟨s.fresh, cond, addr, va, opa, objva, t.id, (t.groups.map Group.num).headD 0, 0, Config.unsaved s.tick b, 0,
      t.core, t.vi, t.rtag.toNat⟩ : Arm)
  let s1 := { s with fresh := s.fresh + 1 }
  match imgAt img b 1 with
  | 1 =>
    let e : Word := BitVec.ofNat 32 x
    settleArm s1 (coreDie t.core) (mk (.event e (BitVec.ofNat 32 c)) (eventAddr x) (e.setWidth 64))
  | 2 =>
    let cc := imgAt img (b + 1) 1
    let cond := ArmCond.word cc (BitVec.ofNat 64 c)
    match check s1 ⟨coreModule t.core, unitCore t.core, t.vi, false, teamSpad t, t.spadBytes⟩ .read x (condBytes cc) with
    | .error _ => addArm s1 (coreDie t.core) (mk cond noPlace (BitVec.ofNat 64 x))
    | .ok g =>
      let pa := (g.parts.map Prod.fst).headD 0
      settleArm s1 (armDie pa) (mk cond pa (BitVec.ofNat 64 x))
  | _ =>
    let pa := mailAddr t.core 0
    settleArm s1 (armDie pa) (mk (.mailbox t.id) pa (BitVec.ofNat 64 pa))

/-- The record of the held job follows its team (R296); a bound, untaken descriptor takes a mailbox entry, and a
taken one a void digest (15_checking.md R360). -/
def placeJob (s : State) (t : Team) : State :=
  match t.job with
  | none => s
  | some h =>
    let d := getDie s h.colDie
    let s := setDie s h.colDie { d with jobs := d.jobs.map (fun j =>
      if djSeq j.desc = h.seq ∧ j.cup.isNone then { j with stage := .bound t.core t.id } else j) }
    if h.taken then
      voidDigest (openDigest s t.core t.bank t.slot h.seq) t.core t.bank t.slot
    else
      let e := freeEntry s t.core
      let s := wrNat s (mailAddr t.core e) 64 h.desc.toNat
      setCore s t.core { getCore s t.core with mailbox := (getCore s t.core).mailbox ++ [(e, t.id)] }

/-- Load one team of an image. -/
def loadTeam (s : State) (img : List Byte) (vi t : Nat) (p : Spot) : State :=
  let tm := readTeam img s vi t p
  let ((ab, na), (ob, no), _, _) := frameCounts img (frameAt img t)
  let old := imgAt img (0x100 + 64 * t + 8) 4
  let s := wrBytes { s with fresh := tm.id + 1 } (teamSpad tm) ((img.drop (0xC4000 + old)).take tm.spadBytes)
  let s := clearPoison s [(teamSpad tm, tm.spadBytes)]
  let tm := resumeSlot s (resumeFaults s (resumeSplits s tm))
  let s := { s with teams := putTeam tm s.teams }
  let s := resumeParked (placeJob s tm) tm.id
  let s := (List.range no).foldl (fun s k => placeOp s img tm (ob + 128 * k)) s
  (List.range na).foldl (fun s k => placeArm s img tm (ab + 32 * k)) s

/-- Load the teams of an accepted image into a bank. -/
def loadImage (s : State) (core bank : Nat) (op : CtxOp) (img : List Byte) : State :=
  let s := if op.team.isNone then
      clearPoison (wrBytes s (spadAddr core bank 0) ((img.drop 0xC4000).take 524288)) [(spadAddr core bank 0, 524288)]
    else s
  (loadSlots img op.team).foldl (fun s t =>
    match (match op.team with | none => some (ownSpot img core bank t) | some _ => teamSpot s img core bank t) with
    | none => s
    | some p => loadTeam s img op.vi t p) s

/-- A load that does not succeed: the bank is as it was, the instruction's fault is deferred, the packets are
refused, with reason 6 where an address did not translate and 9 otherwise, and a capacity refusal is reported (R345, R346;
16_frontend.md R376, R421). -/
def loadFails (s : State) (core : Nat) (op : CtxOp) (cause va reason : Nat) : State :=
  let s := setShst (dropCtx s core) core (if (getCore s core).loaded then 2 else 0)
  let s := ctxFault s op cause va reason
  let s := op.pkts.foldl (fun s p =>
    report s (p.queue / 128) (.packet p.queue) { mkReport 0x03 p.vi 0 0 with reason := (if cause = 0 then 9 else 6), pos := p.pos }) s
  let s := if reason = 2 then
      report s (coreModule core) .owner
        (mkReport 0x08 op.vi op.image (BitVec.ofNat 64 (op.team.getD 0xFF)))
    else s
  swapPending s core

/-- The load of an image ends. A packet's load into the other bank of an empty core swaps to it (R375). -/
def ctxLoadEnd (s : State) (core : Nat) (op : CtxOp) : State :=
  let s0 := close s
  let bank := otherBank s0 core
  let s := rememberImage s0 core op.vi op.image.toNat
  match readImage s0 core op.vi op.image.toNat with
  | .error e => loadFails (imageFail s core op.flight e) core op e.cause e.va 0
  | .ok img =>
    let r := loadReason s0 core bank op img
    if r ≠ 0 then loadFails s core op 0 op.image.toNat r
    else
      let s := setShst (dropCtx (loadImage s core bank op img) core) core 2
      let s := ctxCount (setCore s core { getCore s core with loaded := true }) op img.length
      let s := swapPending s core
      let s := if !op.pkts.isEmpty && (bankTeams s core (runningBank s core)).isEmpty && shst s core == 2 then
          doSwap s core none else s
      op.pkts.foldl doneOf s

def execContextLoadDone (core : Nat) (s : State) : Host.Outcome State Fault Refusal :=
  match (getCore s core).ctx with
  | none => .fault .notEnabled
  | some op =>
    if op.save || !loadNear s core op.vi op.image.toNat then .fault .notEnabled else .next (refocus s (ctxLoadEnd s core op))

/-! ## RELEASE_COL_RECORDS (R348) -/

/-- Firmware drops the Cols' records of the jobs that an image holds. -/
def releaseRecords (s : State) (img : List Byte) : State :=
  (loadSlots img none).foldl (fun s t =>
    match readJob img (frameAt img t + 512) with
    | some h => if h.rerun.isSome then s else dropRecord s h.colDie h.seq
    | none => s) s

/-- `vi` is the VI as the model keys it; the image is read through its tables. -/
def execReleaseColRecords (vi addr : Nat) (s : State) :=
  match readImage s (vi / 64 * 1024) (vi % 64) addr with
  | .error _ => runEvent false s id
  | .ok img => runEvent (imageFormed img && loadNear s (vi / 64 * 1024) (vi % 64) addr) s (fun s => releaseRecords s img)

/-! ## CORE_LOST (R349, R21) -/

/-- A team of a lost core ends; the job that it holds is replayed unless its tag is dead or its JOBDONE has been issued
(R296). -/
def loseTeam (s : State) (t : Team) : State :=
  let m := coreModule t.core
  let s := match t.job with
    | none => s
    | some h =>
      match h.rerun with
      | some c => cupAbandon s c 3
      | none =>
        let d := getDie s h.colDie
        if tagDead s m t.vi (djTag h.desc) then dropHeld s m t.vi h
        else if s.flights.any (fun f => f.team == t.id && f.kind == .jobdone && f.stage == 1) then dropRecord s h.colDie h.seq
        else setDie s h.colDie { d with jobs := d.jobs.map (fun j =>
          if djSeq j.desc = h.seq ∧ j.cup.isNone then { j with stage := .ready } else j) }
  let s := report s m .owner (mkReport 0x0D t.vi (BitVec.ofNat 64 t.teamix) (BitVec.ofNat 64 (t.core % 1024)))
  let s := { s with flights := s.flights.filter (fun f => f.team != t.id) }
  forceEnd s t.id false

def loseCore (s : State) (core : Nat) : State :=
  let s := close s
  let s := coreReport s core .ownerAndSystem .system (fun vi => mkReport 0x15 vi (BitVec.ofNat 64 (core % 1024)) 0)
  let s := (s.teams.filter (fun t => t.core == core)).foldl loseTeam s
  let c := getCore s core
  { setCore s core { c with
      ready := false, lost := true, replay := [], mailbox := [], l1 := [], l1own := [], l1bad := [], drain := none, ctx := none,
      swapping := false, loaded := false, bankst := 0 } with
    flights := s.flights.filter (fun f => f.core != core) }

def execCoreLost (core : Nat) (s : State) : Host.Outcome State Fault Refusal :=
  if (getCore s core).lost then .fault .notEnabled else .next (refocus s (loseCore s core))

end Sys2Proof.Machine
end

