-- ==== Sys2Proof/Machine/FrontEnd.lean ====
section
/-! DEFINITION. The front end: how packets are fetched, checked and executed, the loader, and the configuration of a
VI (16_frontend.md R369 to R380, R421; 02_words.md R43 to R46; 09_atomics.md R213, R214; 12_work.md R268, R269, R294,
R295). Queues are numbered module * 128 + queue. -/

namespace Sys2Proof.Machine

/-! ## Fetching (R369 to R372) -/

def queueOf (s : State) (q : Nat) : Option QueueSt := lookup s.queues q

def putQueue (s : State) (q : Nat) (x : QueueSt) : State :=
  { s with queues := s.queues.map (fun e => if e.1 = q then (q, x) else e) }

/-- The queue's firmware core is ready. -/
def served (s : State) (q : Nat) : Bool :=
  (getModule s (q / 128)).fwReady.contains (q % 128 / 32) && !(getModule s (q / 128)).fatal && !(getModule s (q / 128)).tripped

def qState (s : State) (x : QueueSt) : Nat := qcbField s x 18 2

/-- Write STATE. -/
def qSetState (s : State) (x : QueueSt) (v : Nat) : State :=
  deviceWrite s (x.qcb + 2) 1 (rdNat s (x.qcb + 2) 1 / 16 * 16 + v * 4 + rdNat s (x.qcb + 2) 1 % 4)

def qHead (s : State) (x : QueueSt) : Word := BitVec.ofNat 32 (qcbField s x 192 32)

/-- The virtual address of the next slot. -/
def packetVa (s : State) (x : QueueSt) : Nat :=
  qcbField s x 128 57 + 64 * ((qHead s x).toNat % 2 ^ qcbField s x 7 4)

/-- The agent of a module's front end for a VI. -/
def frontAgent (m vi : Nat) : Agent := dieAgent (m * 16) vi

/-- The pieces of the next slot; none when it does not translate. -/
def slotParts (s : State) (q : Nat) (x : QueueSt) : Option (List (Nat × Nat)) :=
  match check s (frontAgent (q / 128) x.vi) .read (packetVa s x) 64 with
  | .ok g => some g.parts
  | .error _ => none

/-- The queue stops at a slot that does not translate. -/
def queueFault (s : State) (q : Nat) (x : QueueSt) : State :=
  report (putQueue (qSetState s x 3) q { x with rereads := 0, watch := none }) (q / 128) .system
    (mkReport 0x1C x.vi (BitVec.ofNat 64 (q % 128)) (BitVec.ofNat 64 (packetVa s x % 2 ^ 57)))

/-- A packet's CRC covers bytes 0 to 3 and 8 to 63. -/
def packetCrc (p : List Byte) : Nat := (crc32c (p.take 4 ++ p.drop 8)).toNat

/-- A snapshot of the next slot: its effect on the queue. `n` counts the reads of it that have failed. -/
def takeSnapshot (s : State) (q : Nat) (x : QueueSt) (n : Nat) : State :=
  match slotParts s q x with
  | none => queueFault s q x
  | some ps =>
    let w := some (lineOf ((ps.map Prod.fst).headD 0))
    match engineRead s (q / 128 * 16) ps with
    | .error _ => moduleFatal s (q / 128)
    | .ok p =>
      let s := if qState s x = 1 then qSetState s x 0 else s
      if imgAt p 0 2 ≠ (qHead s x).toNat % 2 ^ 16 then putQueue s q { x with watch := w, rereads := 0 }
      else if packetCrc p = imgAt p 4 4 then putQueue s q { x with watch := w, packet := some p, rereads := 0 }
      else if n < 16 then putQueue s q { x with watch := w, rereads := n + 1 }
      else
        report (putQueue (qSetState s x 1) q { x with watch := w, rereads := 0 }) (q / 128) (.packet q)
          { mkReport 0x02 x.vi 0 (BitVec.ofNat 64 (imgAt p 0 2)) with pos := qHead s x }

/-- The home of the next slot answers the front end (R381). -/
def slotNear (s : State) (q : Nat) (x : QueueSt) : Bool :=
  walksNear s (frontAgent (q / 128) x.vi) (packetVa s x) 64 &&
  match slotParts s q x with
  | some ps => placesReady s (q / 128 * 16) ps && partsNear s (q / 128 * 16) ps
  | none => true

/-- The fetcher has no valid copy of the slot's line, and the queue runs or stopped on a torn packet. -/
def fetchReady (s : State) (q : Nat) (x : QueueSt) : Bool :=
  served s q && slotNear s q x && decide (qState s x ≤ 1) && x.packet.isNone && x.rereads == 0 && x.watch.isNone

def execPktFetch (queue : Nat) (s : State) :=
  match queueOf s queue with
  | none => runEvent false s id
  | some x => runEvent (fetchReady s queue x) s (fun s => takeSnapshot s queue x 0)

def execPktReread (queue : Nat) (s : State) :=
  match queueOf s queue with
  | none => runEvent false s id
  | some x => runEvent (served s queue && slotNear s queue x && x.rereads != 0) s (fun s => takeSnapshot s queue x x.rereads)

def execQueueTranslateRetry (queue : Nat) (s : State) :=
  match queueOf s queue with
  | none => runEvent false s id
  | some x => runEvent (served s queue && qState s x == 3) s (fun s =>
      if (slotParts s queue x).isSome then putQueue (qSetState s x 0) queue { x with watch := none } else s)

/-! ## Execution (R374 to R376) -/

def pType (p : List Byte) : Nat := imgAt p 2 1 % 16
def pSub (p : List Byte) : Nat := imgAt p 2 1 / 16

/-- The priority of a type; 0 is the highest. -/
def pRank (p : List Byte) : Nat := if pType p < 8 then 7 - pType p else 7

/-- No lane of the same firmware core has a valid packet of a higher priority. -/
def laneTurn (s : State) (q : Nat) (p : List Byte) : Bool :=
  s.queues.all (fun e => e.1 / 32 != q / 32 ||
    (match e.2.packet with | some x => decide (pRank p ≤ pRank x) | none => true))

/-- The bytes of a packet outside its named body bytes are zero, and so are the reserved flags. -/
def pReserved (p : List Byte) (named : List (Nat × Nat)) : Bool :=
  imgAt p 3 1 / 2 != 0 ||
    (List.range 56).any (fun k => imgAt p (8 + k) 1 != 0 && !named.any (fun r => decide (r.1 ≤ 8 + k) && decide (8 + k < r.1 + r.2)))

/-- PKT_REFUSED. -/
def refuse (s : State) (r : PktRef) (reason shortfall : Nat) : State :=
  report s (r.queue / 128) (.packet r.queue)
    { mkReport 0x03 r.vi (BitVec.ofNat 64 (if reason = 7 then shortfall else 0)) 0 with reason := reason, pos := r.pos }

/-- Refuse for the first reason that holds, or go on. -/
def checked (s : State) (r : PktRef) (cs : List (Bool × Nat)) (body : State → State) : State :=
  match cs.find? (fun c => c.1) with
  | some c => refuse s r c.2 0
  | none => body s

/-- HEAD rises and the next slot is to be read. -/
def passPacket (s : State) (q : Nat) : State :=
  match queueOf s q with
  | none => s
  | some x =>
    let s := qcbPut s x 24 4 (((qHead s x).toNat + 1) % 2 ^ 32)
    putQueue s q { x with packet := none, watch := none, rereads := 0 }

/-- Execute the packet at hand of a queue when it is of this row and what it acts on takes it (`free`). -/
def packetWhen (free : State → PktRef → List Byte → Bool) (q : Nat) (ours : Nat → Nat → Bool) (s : State)
    (body : State → PktRef → List Byte → State) : Host.Outcome State Fault Refusal :=
  match queueOf s q with
  | none => .fault .notEnabled
  | some x =>
    match x.packet with
    | none => .fault .notEnabled
    | some p =>
      let r : PktRef := ⟨q, qHead s x, x.vi, pType p, pSub p, imgAt p 3 1 % 2 == 1⟩
      if served s q && laneTurn s q p && ours (pType p) (pSub p) && free s r p then
        .next (refocus s (passPacket (body (close s) r p) q))
      else .fault .notEnabled

/-- A packet that waits for nothing. -/
def packetStep (q : Nat) (ours : Nat → Nat → Bool) (s : State) (body : State → PktRef → List Byte → State) :
    Host.Outcome State Fault Refusal := packetWhen (fun _ _ _ => true) q ours s body

/-- The homes of a range of bytes of the packet's VI answer the front end, for a read or a write. -/
def rangeFree (s : State) (r : PktRef) (k : Kind) (va n : Nat) : Bool :=
  let die := r.queue / 128 * 16
  pagesNear s (frontAgent (r.queue / 128) r.vi) va n &&
  match imagePages s (frontAgent (r.queue / 128) r.vi) k va n with
  | .error _ => true
  | .ok ps => placesReady s die ps && (if k = .write then destsFree s die ps else partsNear s die ps)

def sysQueue (s : State) (r : PktRef) : Bool :=
  match queueOf s r.queue with | some x => qcbField s x 17 1 == 1 | none => false

/-! ### NOP and QUERY -/

def execNopPacket (queue : Nat) (s : State) :=
  packetStep queue (fun t _ => t == 0 || decide (8 ≤ t)) s (fun s r p =>
    checked s r [(r.type != 0 || r.sub != 0, 1), (pReserved p [], 2)] (fun s => doneOf s r))

/-- The reply of R380. -/
def statusReply (s : State) (m vi : Nat) : List Byte :=
  let cs := allotment s m vi
  let n := fun (f : CoreSt → Bool) => (cs.filter (fun c => f (getCore s c))).length
  let dies := (List.range 16).foldl (fun a d => if (getDie s (m * 16 + d)).hbmReady then a + 2 ^ d else a) 0
  let strs := (List.range 16).foldl (fun a k => if (findStream s m vi k).isSome then a + 2 ^ k else a) 0
  let ports := (List.range 64).foldl (fun a k => if (getPort s (m * 64 + k)).state = 2 then a + 2 ^ k else a) 0
  let fw := (List.range 4).foldl (fun a k => if (getModule s m).fwReady.contains k then a + 2 ^ k else a) 0
  let share := match getVi s m vi with | some v => (lookup v.cfg.hbmShare m).getD 0 | none => 0
  natLe 1 vi ++ natLe 1 fw ++ natLe 2 cs.length ++ natLe 2 (n CoreSt.ready) ++ natLe 2 (n CoreSt.quarantined) ++
    natLe 2 (n (fun c => decide (c.capreg < 512))) ++ natLe 2 dies ++ natLe 2 strs ++ natLe 2 0 ++ natLe 8 share ++
    natLe 8 ports ++ natLe 32 0

/-- A QUERY that is refused for what it says waits for nothing. -/
def queryFree (s : State) (r : PktRef) (p : List Byte) : Bool :=
  r.sub != 0 || pReserved p [(8, 8)] || imgAt p 8 8 % 64 != 0 || rangeFree s r .write (imgAt p 8 8) 64

/-- DONE once the reply is written: at its home, where that is another module (R421). -/
def execQueryStatus (queue : Nat) (s : State) :=
  packetWhen queryFree queue (fun t u => t == 1 && u != 1) s (fun s r p =>
    let a := imgAt p 8 8
    let m := r.queue / 128
    checked s r [(r.sub != 0, 1), (pReserved p [(8, 8)] || a % 64 != 0, 2)] (fun s =>
      match check s (frontAgent m r.vi) .write a 64 with
      | .error _ => refuse s r 6 0
      | .ok g =>
        let t := forVi s r.vi (engineWrite s (m * 16) none a 0 none g.parts (statusReply s m r.vi))
        if g.parts.all (isLocal m) then doneOf t r else { t with awaits := t.awaits ++ [(s.fresh, r)] }))

/-- A core operand: the core, as the model numbers it. -/
def pCore (m : Nat) (p : List Byte) : Nat := m * 1024 + imgAt p 8 2

/-- The core operand is out of range. -/
def badCore (p : List Byte) : Bool := decide (2 ^ 10 ≤ imgAt p 8 2) || decide (48 ≤ imgAt p 8 2 % 64)

def foreign (s : State) (r : PktRef) (core : Nat) : Bool := !(allotment s (r.queue / 128) r.vi).contains core

def execClearQuarantine (queue : Nat) (s : State) :=
  packetStep queue (fun t u => t == 1 && u == 1) s (fun s r p =>
    let core := pCore (r.queue / 128) p
    checked s r [(pReserved p [(8, 2)] || badCore p, 2), (!sysQueue s r, 3), (foreign s r core, 4)] (fun s =>
      doneOf (setCore s core { getCore s core with quarantined := false, susp := 0 }) r))

/-! ### OPSTREAM (R268, R269, R377) -/

/-- The stream that an SCB describes. -/
def scbStream (b vi num scb : Nat) : Stream :=
  let f := fun (lo wd : Nat) => b / 2 ^ lo % 2 ^ wd
  { vi := vi, num := num, scb := BitVec.ofNat 64 scb, base := BitVec.ofNat 64 (f 0 57), log2 := f 267 5, dev := f 266 1 == 1,
    dmask := f 272 16, ttcount := f 288 16, ttbase := BitVec.ofNat 64 (f 64 57), fxbase := BitVec.ofNat 64 (f 128 57),
    next := BitVec.ofNat 32 (f 224 32), stopped := false, skip := none, made := [], hand := none }

/-- Reason 2 of R269. -/
def scbBad (b : Nat) : Bool :=
  let f := fun (lo wd : Nat) => b / 2 ^ lo % 2 ^ wd
  f 344 168 != 0 || f 256 9 != 0 || f 185 7 != 0 || f 121 7 != 0 || f 57 7 != 0 || decide (f 267 5 < 4) ||
    decide (20 < f 267 5) || f 288 16 == 0 || decide (4096 < f 288 16) || f 272 16 == 0 || f 0 57 % 32 != 0 ||
    f 64 57 % 128 != 0 || f 128 57 % 128 != 0 || f 265 1 != 0 || f 336 8 != 0

/-- A die of the set holds no core of the VI's allotment. -/
def scbForeign (s : State) (m : Nat) (st : Stream) : Bool :=
  (setDies m st.dmask).any (fun d => !(allotment s m st.vi).any (fun c => coreDie c == d))

/-- A registration reads its control block, unless it is refused for what it says. -/
def registerFree (s : State) (r : PktRef) (p : List Byte) : Bool :=
  r.sub != 0 || pReserved p [(8, 8), (16, 1)] || decide (16 ≤ imgAt p 16 1) || imgAt p 8 8 % 64 != 0 ||
    rangeFree s r .read (imgAt p 8 8) 64

def execOpstreamRegister (queue : Nat) (s : State) :=
  packetWhen registerFree queue (fun t u => t == 2 && u != 1 && u != 2) s (fun s r p =>
    let m := r.queue / 128
    let a := imgAt p 8 8
    let num := imgAt p 16 1
    let scb := dieRead s (m * 16) r.vi a 64
    let st := scbStream (scb.getD 0) r.vi num a
    let lost := fun (va n : Nat) =>
      match imagePages s (frontAgent m r.vi) .read va n with | .ok _ => false | .error _ => true
    checked s r [(r.sub != 0, 1),
        (pReserved p [(8, 8), (16, 1)] || decide (16 ≤ num) || a % 64 != 0 ||
          (match scb with | some b => scbBad b | none => false), 2),
        (scb.isSome && scbForeign s m st, 4),
        (scb.isNone || lost st.base.toNat (32 * 2 ^ st.log2) || lost st.ttbase.toNat (128 * st.ttcount), 6),
        ((findStream s m r.vi num).isSome, 8)] (fun s =>
      doneOf ((setDies m st.dmask).foldl (fun s d =>
        setDie s d { getDie s d with streams := (getDie s d).streams ++ [st] }) s) r))

/-- The checks of the other two. -/
def streamForm (s : State) (r : PktRef) (p : List Byte) (body : State → Stream → State) : State :=
  let num := imgAt p 16 1
  let st := findStream s (r.queue / 128) r.vi num
  checked s r [(pReserved p [(16, 1)] || decide (16 ≤ num), 2), (st.isNone, 8)] (fun s =>
    match st with
    | none => s
    | some x => doneOf (body s x) r)

/-- No Col is inside a record of the stream that is to go (R277). -/
def streamIdle (s : State) (r : PktRef) (p : List Byte) : Bool :=
  pReserved p [(16, 1)] || decide (16 ≤ imgAt p 16 1) || s.dies.all (fun e => dieModule e.1 != r.queue / 128 ||
    e.2.streams.all (fun x => x.vi != r.vi || x.num != imgAt p 16 1 || x.hand.isNone))

def execOpstreamUnregister (queue : Nat) (s : State) :=
  packetWhen streamIdle queue (fun t u => t == 2 && u == 1) s (fun s r p => streamForm s r p (fun s st =>
    (s.dies.filter (fun e => dieModule e.1 == r.queue / 128)).foldl (fun s e =>
      setDie s e.1 { getDie s e.1 with
        streams := (getDie s e.1).streams.filter (fun x => !(x.vi == st.vi && x.num == st.num)) }) s))

def execOpstreamClearStop (queue : Nat) (s : State) :=
  packetStep queue (fun t u => t == 2 && u == 2) s (fun s r p => streamForm s r p (fun s st =>
    updStreams (scbStop s (r.queue / 128 * 16) st 0) (r.queue / 128) st.vi st.num (fun _ x => { x with stopped := false })))

/-! ### EVENT -/

/-- An operation on an event by the front end: at once on its own module, by request on another, and DONE once the
home has updated the entry. -/
def frontEvent (s : State) (r : PktRef) (name : Word) (k : MsgKind) : State :=
  let m := r.queue / 128
  if evModule name = m then doneOf (homeUpdate s name k) r
  else
    let s1 := forVi s r.vi (newRequest s (m * 16) (eventAddr name.toNat) (.event name k) none (name.setWidth 64) 0 none)
    { s1 with awaits := s1.awaits ++ [(s.fresh, r)] }

def execEventAdd (queue : Nat) (s : State) :=
  packetStep queue (fun t u => t == 3 && u != 1) s (fun s r p =>
    let name : Word := BitVec.ofNat 32 (imgAt p 8 4)
    checked s r [(r.sub != 0, 1), (pReserved p [(8, 8)], 2), (!evAllowed s (r.queue / 128) r.vi name, 4)] (fun s =>
      frontEvent s r name (.add (imgAt p 12 4))))

def execEventReset (queue : Nat) (s : State) :=
  packetStep queue (fun t u => t == 3 && u == 1) s (fun s r p =>
    let name : Word := BitVec.ofNat 32 (imgAt p 8 4)
    let n := imgAt p 12 4
    checked s r [(pReserved p [(8, 12)] || n == 0 || decide (2 ^ 16 ≤ n), 2), (!evAllowed s (r.queue / 128) r.vi name, 4)]
      (fun s => frontEvent s r name (.reset (BitVec.ofNat 32 (imgAt p 16 4)) n)))

/-! ### The loader (R43 to R46, R213, R214) -/

/-- Word k of an image. -/
def iw (img : List Byte) (k : Nat) : Nat := imgAt img (4 * k) 4

/-- Length of a NUL-terminated ASCII name of 1 to `most` characters at an offset. -/
def nameLen (img : List Byte) (o most : Nat) : Option Nat :=
  let c := (img.drop o).take (most + 1)
  match c.findIdx? (fun b => b == 0) with
  | some n => if 1 ≤ n ∧ (c.take n).all (fun b => decide (b.toNat < 128)) then some n else none
  | none => none

/-- The name at an offset. -/
def nameAt (img : List Byte) (o most : Nat) : List Byte := (img.drop o).take ((nameLen img o most).getD 0)

/-- A section: offset, length, code or data. -/
structure Section where
  off : Nat
  len : Nat
  kind : Nat
  deriving DecidableEq, Repr

def roleCount (img : List Byte) : Nat := iw img 0 / 2 % 8 + 1
def imageRoles (img : List Byte) : List Nat := (List.range (roleCount img)).map (fun k => iw img (1 + k))

/-- The sections of an image (R45). -/
def sections (img : List Byte) : List Section :=
  let t := iw img 6
  if t = 0 then
    let cuts := ((imageRoles img).map (fun w => w / 2 ^ 12) ++ [iw img 5]).filter (fun x => x != 0)
    let stop := cuts.foldl min (iw img 7)
    [⟨32, stop - 32, 0⟩]
  else (List.range (min 16 (imgAt img t 4))).map (fun k =>
    let b := t + 8 + 16 * k
    ⟨imgAt img b 4, imgAt img (b + 4) 4, imgAt img (b + 8) 1⟩)

/-- Ranges of bytes. -/
def disjoint (a b : Nat × Nat) : Bool := a.2 == 0 || b.2 == 0 || decide (a.1 + a.2 ≤ b.1) || decide (b.1 + b.2 ≤ a.1)

def pairwise (f : Nat × Nat → Nat × Nat → Bool) : List (Nat × Nat) → Bool
  | [] => true
  | a :: r => r.all (f a) && pairwise f r

/-- Bytes of the balance table; none without one. -/
def balanceLen (img : List Byte) : Nat := if iw img 5 = 0 then 0 else 4 + 16 * imgAt img (iw img 5) 4

/-- Bytes of the section table. -/
def sectLen (img : List Byte) : Nat := 8 + 16 * imgAt img (iw img 6) 4 + 16 * imgAt img (iw img 6 + 4) 4

/-- The section table keeps the rules of R45. -/
def sectionsOk (img : List Byte) : Bool :=
  let t := iw img 6
  let ss := sections img
  let rs := ss.map (fun x => (x.off, x.len))
  let codes := (ss.filter (fun x => x.kind == 0)).map (fun x => (x.off, x.len))
  let names := (imageRoles img).map (fun w => (w / 2 ^ 12, (nameLen img (w / 2 ^ 12) 15).getD 0 + 1))
  t == 0 ||
    (decide (1 ≤ imgAt img t 4) && decide (imgAt img t 4 ≤ 16) && decide (t + sectLen img ≤ img.length) &&
      (List.range (imgAt img t 4)).all (fun k => zeroAt img (t + 8 + 16 * k + 9) 7) &&
      ss.all (fun x => x.off % 4 == 0 && x.len % 4 == 0 && decide (x.kind ≤ 1) && decide (x.off + x.len ≤ img.length)) &&
      (match ss.head? with | some x => x.kind == 0 && x.off == 32 | none => false) &&
      pairwise disjoint rs &&
      rs.all (fun x => disjoint x (0, 32) && disjoint x (t, sectLen img) && disjoint x (iw img 5, balanceLen img)) &&
      codes.all (fun x => names.all (disjoint x)))

/-- A relocation entry: offset, kind, section, addend. -/
structure Reloc where
  off : Nat
  kind : Nat
  sect : Nat
  addend : Nat
  ok : Bool
  deriving DecidableEq, Repr

/-- Bytes of the field that a relocation patches. -/
def Reloc.bytes (r : Reloc) : Nat := if r.kind = 0 then 8 else 4

def relocs (img : List Byte) : List Reloc :=
  let t := iw img 6
  if t = 0 then []
  else (List.range (min (imgAt img (t + 4) 4) img.length)).map (fun k =>
    let b := t + 8 + 16 * imgAt img t 4 + 16 * k
    ⟨imgAt img b 4, imgAt img (b + 4) 1, imgAt img (b + 5) 1, imgAt img (b + 8) 8, zeroAt img (b + 6) 2⟩)

def relocOk (img : List Byte) (r : Reloc) : Bool :=
  r.ok && decide (r.kind ≤ 1) && decide (r.sect < (sections img).length) &&
    decide (r.off + r.bytes ≤ img.length)

/-- A balance entry: site, name, delta. -/
structure Balance where
  site : Nat
  name : Nat
  delta : Int
  ok : Bool
  deriving DecidableEq, Repr

def balances (img : List Byte) : List Balance :=
  let t := iw img 5
  if t = 0 then []
  else (List.range (min (imgAt img t 4) img.length)).map (fun k =>
    let b := t + 4 + 16 * k
    ⟨imgAt img b 4, imgAt img (b + 4) 4, (BitVec.ofNat 32 (imgAt img (b + 8) 4)).toInt, zeroAt img (b + 12) 4⟩)

/-- The words of the code sections that are SIGI or SIGD. -/
def signalSites (img : List Byte) : List Nat :=
  ((sections img).filter (fun x => x.kind == 0)).flatMap (fun x =>
    ((List.range (x.len / 4)).map (fun k => x.off + 4 * k)).filter (fun o =>
      imgAt img (o + 3) 1 == 0xBB || imgAt img (o + 3) 1 == 0xBC))

/-- The balance check of R214. -/
def balanceOk (img : List Byte) : Bool :=
  let bs := balances img
  let sites := bs.filter (fun b => b.site != 0xFFFFFFFF)
  let decls := bs.filter (fun b => b.site == 0xFFFFFFFF)
  let key := fun (b : Balance) => nameAt img b.name 31
  bs.all (fun b => b.ok && (nameLen img b.name 31).isSome) &&
    sites.all (fun b => (signalSites img).contains b.site &&
      (if imgAt img (b.site + 3) 1 = 0xBB then decide (0 < b.delta) else decide (b.delta < 0))) &&
    (signalSites img).all (fun o => (sites.filter (fun b => b.site == o)).length == 1) &&
    decls.all (fun d => (decls.filter (fun x => key x == key d)).length == 1) &&
    bs.all (fun b =>
      let net := ((sites.filter (fun x => key x == key b)).map Balance.delta).sum
      net == ((decls.filter (fun x => key x == key b)).map Balance.delta).sum)

/-- The loader accepts an image of a submitted length (R46). -/
def imageOk (img : List Byte) (len : Nat) : Bool :=
  let h := iw img 0
  let n := (imageRoles img).map (fun w => w % 256)
  decide (32 ≤ len) && h / 2 ^ 24 == 0xE3 && h / 2 ^ 20 % 16 == 0 && decide (h / 2 ^ 12 % 32 ≤ 24) &&
    decide (h / 16 % 256 ≤ 128) && decide (roleCount img ≤ 4) && n.all (fun k => decide (1 ≤ k)) && decide (n.sum ≤ 24) &&
    (imageRoles img).all (fun w => decide (w / 2 ^ 12 < len) && (nameLen img (w / 2 ^ 12) 15).isSome) &&
    (List.range 4).all (fun k => decide (k < roleCount img) || iw img (1 + k) == 0) &&
    iw img 7 == len && len % 4 == 0 && decide (iw img 5 + balanceLen img ≤ len) && decide (iw img 6 < len) &&
    sectionsOk img && (relocs img).all (relocOk img) && balanceOk img

/-! ### LAUNCH (R375, R294, R295) -/

/-- Apply the relocations in memory; none when a field may not be written. -/
def relocate (s : State) (m vi at_ : Nat) (img : List Byte) : Option State :=
  (relocs img).foldl (fun acc r =>
    match acc with
    | none => none
    | some s =>
      let n := r.bytes
      let v := at_ + ((sections img).map Section.off).getD r.sect 0 + r.addend
      match check s (frontAgent m vi) .write (at_ + r.off) n with
      | .error _ => none
      | .ok g => some (forVi s vi (engineWrite s (m * 16) none (at_ + r.off) 0 none g.parts (natLe n v)))) (some s)

/-- The image as the loader reads it. -/
def loadBytes (s : State) (m vi at_ len : Nat) : Except EngineFail (List Byte) :=
  match imagePages s (frontAgent m vi) .read at_ len with
  | .error e => .error e
  | .ok ps => (match engineRead s (m * 16) ps with | .ok bs => .ok bs | .error i => .error ⟨Cause.poison, at_ + i⟩)

/-- A VI has a worker grid on the module, placed or in progress: its one gang (01_machine.md R18), counted for each module
(log 103). -/
def hasWorkers (s : State) (m vi : Nat) : Bool :=
  (allTeams s).any (fun t => coreModule t.core == m && t.vi == vi && t.worker) ||
    s.launches.any (fun l => l.module == m && l.vi == vi && l.worker)

/-- The launch that a packet asks for. -/
def launchOf (s : State) (r : PktRef) (p : List Byte) (img : List Byte) : Launch where
  id := s.fresh
  vi := r.vi
  module := r.queue / 128
  queue := r.queue
  pos := r.pos
  notify := r.notify
  image := BitVec.ofNat 64 (imgAt p 8 8)
  arg := BitVec.ofNat 64 (imgAt p 16 8)
  ext := (imgAt p 24 4, imgAt p 28 4, imgAt p 32 4)
  cev := BitVec.ofNat 32 (imgAt p 36 4)
  tvec := BitVec.ofNat 64 (imgAt p 40 8)
  rtag := imgAt p 48 2
  worker := imgAt p 50 1 % 2 == 1
  system := imgAt p 50 1 / 2 % 2 == 1
  header := BitVec.ofNat 32 (iw img 0)
  roles := (imageRoles img).map (fun w => BitVec.ofNat 32 w)
  next := 0
  lastCore := none
  aged := 0
  fixes := []

/-- An operand of a LAUNCH is out of range, or a reserved bit is set. -/
def launchBad (p : List Byte) : Bool :=
  let x := imgAt p 24 4
  let y := imgAt p 28 4
  let z := imgAt p 32 4
  let tv := imgAt p 40 8
  [x, y, z].any (fun e => e == 0 || decide (2 ^ 21 ≤ e)) || decide (2 ^ 32 < x * y * z) || tv / 2 % 2 != 0 ||
    decide (2 ^ 57 ≤ tv) || decide (4 ≤ imgAt p 50 1) || imgAt p 52 4 == 0 || imgAt p 8 8 % 4 != 0

/-- What R376 says of a LAUNCH before its image is read. -/
def launchChecks (s : State) (r : PktRef) (p : List Byte) : List (Bool × Nat) :=
  let m := r.queue / 128
  let f := imgAt p 50 1
  let cev : Word := BitVec.ofNat 32 (imgAt p 36 4)
  [(r.sub != 0, 1), (pReserved p [(8, 43), (52, 4)] || launchBad p, 2),
   (decide (2 ≤ f) && (!sysQueue s r || f == 2), 3),
   ((cev != 0 && !evAllowed s m r.vi cev) || imgAt p 48 2 == 0, 4),
   (tagDead s m r.vi (imgAt p 48 2), 5)]

/-- Load the image and begin to place the grid. A worker grid whose header asks for no gang is placed team by team, as any
grid (log 69). -/
def launchImage (s : State) (r : PktRef) (p : List Byte) : State :=
  let m := r.queue / 128
  let at_ := imgAt p 8 8
  match loadBytes s m r.vi at_ (imgAt p 52 4) with
  | .error e => if e.cause = Cause.poison then moduleFatal s m else refuse s r 6 0
  | .ok img =>
    let l := launchOf s r p img
    if !imageOk img (imgAt p 52 4) then refuse s r 7 0
    else
      match relocate s m r.vi at_ img with
      | none => refuse s r 6 0
      | some s1 =>
        if hdrGang l.header ∧ emptyShortfall s l ≠ 0 then refuse s r 7 (emptyShortfall s l)
        else if l.worker ∧ hasWorkers s m r.vi then refuse s r 9 0
        else
          { s1 with
            fresh := s1.fresh + 1
            launches := s1.launches ++ [{ l with
              id := s1.fresh, fixes := (s1.reqs.filter (fun q => decide (s.fresh ≤ q.id))).map Request.id }] }

/-- The fields that the loader patches can be written now. -/
def fixesFree (s : State) (r : PktRef) (p : List Byte) : Bool :=
  match loadBytes s (r.queue / 128) r.vi (imgAt p 8 8) (imgAt p 52 4) with
  | .error _ => true
  | .ok img => !imageOk img (imgAt p 52 4) || (relocs img).all (fun x => rangeFree s r .write (imgAt p 8 8 + x.off) x.bytes)

/-- A LAUNCH reads its image and patches it, unless it is refused before. -/
def launchFree (s : State) (r : PktRef) (p : List Byte) : Bool :=
  (launchChecks s r p).any Prod.fst || (rangeFree s r .read (imgAt p 8 8) (imgAt p 52 4) && fixesFree s r p)

def execLaunch (queue : Nat) (s : State) :=
  packetWhen launchFree queue (fun t _ => t == 4) s (fun s r p =>
    checked s r (launchChecks s r p) (fun s => launchImage s r p))

/-! ### CONTEXT and PREEMPT (R345, R375, R377) -/

/-- The checks that both share. -/
def coreForm (s : State) (r : PktRef) (p : List Byte) (named : List (Nat × Nat)) (bad : Bool) (k : Kind)
    (wrong : Nat → Bool) (body : State → Nat → DWord → State) : State :=
  let m := r.queue / 128
  let core := pCore m p
  let img := imgAt p 16 8
  let lost := match check s (imageAgent core r.vi) k img 256 with | .ok _ => false | .error _ => true
  checked s r [(decide (2 ≤ r.sub), 1), (pReserved p named || badCore p || img % 65536 != 0 || bad, 2),
    (foreign s r core, 4), (lost, 6), (wrong core, 9)] (fun s => body s core (BitVec.ofNat 64 img))

/-- The core takes no load now. -/
def loadShut (s : State) (team : Bool) (core : Nat) : Bool :=
  !loadOpen s core team

def contextForm (s : State) (r : PktRef) (p : List Byte) (named : List (Nat × Nat)) (bad : Bool) (team : Option Nat) : State :=
  coreForm s r p named bad .read (loadShut s team.isSome) (fun s core img =>
    setCore (setShst s core 1) core
      { getCore (setShst s core 1) core with ctx := some ⟨false, team, img, r.vi, none, [r], false, false, none⟩ })

def execContextBank (queue : Nat) (s : State) :=
  packetStep queue (fun t u => t == 5 && u != 1) s (fun s r p => contextForm s r p [(8, 2), (16, 8)] false none)

def execContextTeam (queue : Nat) (s : State) :=
  packetStep queue (fun t u => t == 5 && u == 1) s (fun s r p =>
    contextForm s r p [(8, 3), (16, 8)] (decide (16 ≤ imgAt p 10 1)) (some (imgAt p 10 1)))

/-- A core that is not there to be drained. -/
def drainShut (s : State) (core : Nat) : Bool := !(getCore s core).ready || (getCore s core).lost

def preemptForm (s : State) (r : PktRef) (p : List Byte) (imm : Bool) : State :=
  coreForm s r p [(8, 2), (16, 8)] false .write (drainShut s) (fun s core img => requestDrain s core img r.vi imm r)

def execPreemptDrain (queue : Nat) (s : State) :=
  packetStep queue (fun t u => t == 6 && u != 1) s (fun s r p => preemptForm s r p false)

def execPreemptImmediate (queue : Nat) (s : State) :=
  packetStep queue (fun t u => t == 6 && u == 1) s (fun s r p => preemptForm s r p true)

/-! ### PURGE (R331, R332) -/

/-- The checks that both share. -/
def tagForm (s : State) (r : PktRef) (p : List Byte) (body : State → Nat → State) : State :=
  let t := imgAt p 8 2
  checked s r [(decide (2 ≤ r.sub), 1), (pReserved p [(8, 2)], 2), (t == 0, 4)] (fun s => body s t)

def execPurge (queue : Nat) (s : State) :=
  packetStep queue (fun t u => t == 7 && u != 1) s (fun s r p =>
    tagForm s r p (fun s t => startPurge s (r.queue / 128) r.vi t none [r]))

def execPurgeClear (queue : Nat) (s : State) :=
  packetStep queue (fun t u => t == 7 && u == 1) s (fun s r p =>
    tagForm s r p (fun s t => doneOf (clearTag s (r.queue / 128) r.vi t) r))

/-! ## VI_CONFIGURATION (R369, R370, R379; 17_module.md R391) -/

/-- A timer that firmware leaves at 0 keeps its default (01_machine.md R16); reserved bits of VROOT are ignored (00_scope.md
R4). -/
def withTimers (c : ViConfig) : ViConfig :=
  let or_ := fun (v d : Nat) => if v = 0 then d else v
  { c with
    wdog := or_ c.wdog Config.wdog
    drainb := or_ c.drainb Config.drainb
    gangAge := or_ c.gangAge Config.gangAge
    gangLimit := or_ c.gangLimit Config.gangLimit
    vroot := putBits (putBits c.vroot 52 12 0) 1 20 0 }

/-- The modules that a configuration touches. -/
def configModules (c : ViConfig) : List Nat :=
  (c.cores.map coreModule ++ c.queues.map (fun (q : QueueConfig) => q.queue / 128) ++ c.hbmShare.map Prod.fst).eraseDups

/-- The modules whose state a configuration writes have their rails on (17_module.md R389), and the HBM stacks of its queues'
control blocks are ready (R381). -/
def configPlaces (s : State) (c : ViConfig) : Bool :=
  (configModules c ++ c.events.map (fun (r : Nat × Nat) => r.1 / 2 ^ 22)).all (fun m => !(getModule s m).tripped) &&
    c.queues.all (fun (q : QueueConfig) => homeReady s q.qcb)

/-- Firmware applies only a configuration within the spec's ranges, on cores and queues of a module that are free or the VI's
there, with a domain that no other VI bears. -/
def configOk (s : State) (c : ViConfig) : Bool :=
  let c := withTimers c
  configPlaces s c && decide (c.vi < 64) && decide (1 ≤ c.domain) && decide (c.domain < 2 ^ 16) && decide (1 ≤ c.drainb) && decide (c.drainb ≤ 1000) &&
    decide (1 ≤ c.wdog) && decide (c.wdog ≤ 60000) && decide (10 ≤ c.gangAge) && decide (c.gangAge ≤ 10000) &&
    decide (100 ≤ c.gangLimit) && decide (c.gangLimit ≤ 1000000) && decide (c.gangAge ≤ c.gangLimit) &&
    decide (1 ≤ c.cupTimer) && decide (c.cupTimer ≤ 1000) &&
    decide (c.reach ≤ 1000) &&
    c.cores.all (fun k => decide (k % 64 < 48) && decide (k < 2 ^ 20) &&
      s.vis.all (fun e => e.1 / 64 != coreModule k || e.1 % 64 == c.vi || !e.2.cfg.cores.contains k)) &&
    c.queues.all (fun q => decide (q.queue < 2 ^ 17) && decide (4 ≤ q.log2) && decide (q.log2 ≤ 12) && decide (4 ≤ q.repLog2) &&
      decide (q.repLog2 ≤ 12) && q.base % 64 == 0 && decide (q.base < 2 ^ 57) && q.repBase % 32 == 0 && decide (q.repBase < 2 ^ 57) &&
      q.qcb % 64 == 0 && decide (place q.qcb = .hbm) && paModule q.qcb == q.queue / 128 &&
      s.queues.all (fun e => e.1 != q.queue || e.2.vi == c.vi)) &&
    s.vis.all (fun e => e.1 % 64 == c.vi || e.2.cfg.domain != c.domain)

/-- The cap, raised to 16 W for each core (R391), in units of 10 W. -/
def capOf (c : ViConfig) : Nat := if c.cap = 0 then 0 else max c.cap ((16 * c.cores.length + 9) / 10)

/-- The control block as firmware writes it (R370); STATE is 2 until the firmware core is ready. -/
def writeQcb (s : State) (vi : Nat) (q : QueueConfig) : State :=
  let st := if (getModule s (q.queue / 128)).fwReady.contains (q.queue % 128 / 32) then 0 else 2
  deviceWrite s q.qcb 64 (q.repLog2 * 2 ^ 3 + q.log2 * 2 ^ 7 + vi * 2 ^ 11 + q.system.toNat * 2 ^ 17 + st * 2 ^ 18 +
    q.base * 2 ^ 128 + q.repBase * 2 ^ 256)

/-- Assign a queue that the VI does not have yet; the fetcher keeps a read copy of its first line from here on. -/
def assignQueue (s : State) (vi : Nat) (q : QueueConfig) : State :=
  match queueOf s q.queue with
  | some _ => s
  | none =>
    let s1 := writeQcb s vi q
    let x : QueueSt := ⟨vi, q.qcb, none, none, 0⟩
    let w := (slotParts s1 q.queue x).map (fun ps => lineOf ((ps.map Prod.fst).headD 0))
    { s1 with queues := bind s1.queues q.queue { x with watch := w } }

/-- The domain of a range of event entries. -/
def assignEvents (s : State) (domain : Nat) (r : Nat × Nat) : State :=
  (List.range r.2).foldl (fun s k =>
    let n : Word := BitVec.ofNat 32 (r.1 + k)
    setEv s n { getEv s n with domain := BitVec.ofNat 16 domain }) s

/-- A VI bears its number on each of the modules that its configuration touches; a VI of that number on another module is
another one (R379). -/
def applyConfig (s : State) (c : ViConfig) : State :=
  let c := { withTimers c with cap := capOf c }
  let mine := fun (e : Nat × ViSt) => e.1 % 64 == c.vi && (configModules c).contains (e.1 / 64)
  let old := s.vis.filter mine
  let keep := s.vis.filter (fun e => !mine e)
  let new := (configModules c).map (fun m =>
    (viKey m c.vi, match lookup old (viKey m c.vi) with
      | some v => { v with cfg := c }
      | none => (⟨m, c, [], 0, 0⟩ : ViSt)))
  let s := { s with
    vis := new ++ keep
    queues := s.queues.filter (fun e => e.2.vi != c.vi || !(configModules c).contains (e.1 / 128) || c.queues.any (fun (q : QueueConfig) => q.queue == e.1)) }
  let s := if c.reach = 0 then s else
    (configModules c).foldl (fun s m => setModule s m { getModule s m with reachMs := c.reach }) s
  let s := c.queues.foldl (fun (s : State) (q : QueueConfig) => assignQueue s c.vi q) s
  c.events.foldl (fun s r => assignEvents s c.domain r) s

def execViConfiguration (cfg : ViConfig) (s : State) :=
  runEvent (configOk s cfg) s (fun s => applyConfig s cfg)

end Sys2Proof.Machine
end

