-- ==== Sys2Proof/Machine/Crypto.lean ====
section
/-! DEFINITION. What the root of trust computes: SHA-512, and the check of an RSASSA-PSS signature by a 4,096-bit key with
SHA-512, MGF1 with SHA-512 and a 64-byte salt (16_frontend.md R382, R384). -/

namespace Sys2Proof.Machine

/-! ## SHA-512 (FIPS 180-4) -/

/-- The largest r whose k-th power is at most n, r below 2^70. -/
def rootOf (k n : Nat) : Nat :=
  (List.range 70).reverse.foldl (fun r b => if (r + 2 ^ b) ^ k ≤ n then r + 2 ^ b else r) 0

/-- The first primes. -/
def firstPrimes (n : Nat) : List Nat :=
  ((List.range 410).filter (fun p => decide (2 ≤ p) && (List.range p).all (fun d => decide (d < 2) || p % d != 0))).take n

/-- The initial hash value and the round constants: fractional bits of square and cube roots. -/
def shaInit : List DWord := (firstPrimes 8).map (fun p => BitVec.ofNat 64 (rootOf 2 (p * 2 ^ 128)))
def shaK : List DWord := (firstPrimes 80).map (fun p => BitVec.ofNat 64 (rootOf 3 (p * 2 ^ 192)))

def rotr (x : DWord) (n : Nat) : DWord := x.rotateRight n

/-- The message schedule, newest word first. -/
def shaSchedule : Nat → List DWord → List DWord
  | 0, w => w
  | n + 1, w =>
    let at_ := fun (k : Nat) => w.getD (k - 1) 0
    let a := at_ 15
    let b := at_ 2
    let s0 := rotr a 1 ^^^ rotr a 8 ^^^ (a >>> 7)
    let s1 := rotr b 19 ^^^ rotr b 61 ^^^ (b >>> 6)
    shaSchedule n ((at_ 16 + s0 + at_ 7 + s1) :: w)

/-- One round on the eight working words. -/
def shaRound (v : List DWord) (kw : DWord) : List DWord :=
  match v with
  | [a, b, c, d, e, f, g, h] =>
    let t1 := h + (rotr e 14 ^^^ rotr e 18 ^^^ rotr e 41) + ((e &&& f) ^^^ (~~~ e &&& g)) + kw
    let t2 := (rotr a 28 ^^^ rotr a 34 ^^^ rotr a 39) + ((a &&& b) ^^^ (a &&& c) ^^^ (b &&& c))
    [t1 + t2, a, b, c, d + t1, e, f, g]
  | _ => v

/-- The big-endian value of bytes. -/
def beNat (bs : List Byte) : Nat := bs.foldl (fun a b => a * 256 + b.toNat) 0

/-- One block of 128 bytes. -/
def shaBlock (h : List DWord) (b : List Byte) : List DWord :=
  let w := (List.range 16).map (fun k => BitVec.ofNat 64 (beNat ((b.drop (8 * k)).take 8)))
  let ws := (shaSchedule 64 w.reverse).reverse
  let v := (List.zipWith (fun k x => k + x) shaK ws).foldl shaRound h
  List.zipWith (fun x y => x + y) h v

def shaBlocks : Nat → List DWord → List Byte → List DWord
  | 0, h, _ => h
  | n + 1, h, bs => shaBlocks n (shaBlock h (bs.take 128)) (bs.drop 128)

/-- SHA-512 of a message. -/
def sha512 (m : List Byte) : List Byte :=
  let pad := m ++ [0x80] ++ List.replicate ((128 - (m.length + 17) % 128) % 128) 0 ++ (natLe 16 (8 * m.length)).reverse
  (shaBlocks (pad.length / 128) shaInit pad).flatMap (fun x => (natLe 8 x.toNat).reverse)

/-! ## RSASSA-PSS (RFC 8017) -/

/-- The `n` big-endian bytes of a number. -/
def natBe (n v : Nat) : List Byte := (natLe n v).reverse

/-- b to the power e modulo n, over the `k` low bits of e, most significant first. -/
def powMod (b e n : Nat) : Nat → Nat
  | 0 => 1 % n
  | k + 1 =>
    let r := powMod b (e / 2) n k
    if e % 2 = 1 then r * r % n * b % n else r * r % n

/-- MGF1 with SHA-512: the first `n` bytes of the mask that a seed gives. -/
def mgf1 (seed : List Byte) (n : Nat) : List Byte :=
  ((List.range ((n + 63) / 64)).flatMap (fun c => sha512 (seed ++ natBe 4 c))).take n

/-- Bytes of an encoded message of 4,095 bits, of its hash and of its salt. -/
def pssBytes : Nat := 512
def hashBytes : Nat := 64

/-- EMSA-PSS: a message against an encoded message. -/
def pssMatches (msg em : List Byte) : Bool :=
  let dbLen := pssBytes - hashBytes - 1
  let masked := em.take dbLen
  let h := (em.drop dbLen).take hashBytes
  let raw := List.zipWith (fun (a b : Byte) => a ^^^ b) masked (mgf1 h dbLen)
  let db := match raw with | [] => [] | b :: r => (b &&& 0x7F) :: r
  let salt := db.drop (dbLen - hashBytes)
  em.length == pssBytes && em.getLast? == some 0xBC && decide ((masked.headD 0).toNat < 128) &&
    db.take (dbLen - hashBytes) == List.replicate (dbLen - hashBytes - 1) (0 : Byte) ++ [(1 : Byte)] &&
    h == sha512 (List.replicate 8 (0 : Byte) ++ sha512 msg ++ salt)

/-- A signature verifies under a public key of 4,096 bits. -/
def pssVerify (modulus exponent sig : Nat) (msg : List Byte) : Bool :=
  decide (2 ^ 4095 ≤ modulus) && decide (modulus < 2 ^ 4096) && decide (exponent < 2 ^ 4096) && decide (sig < modulus) &&
    pssMatches msg (natBe pssBytes (powMod sig exponent modulus 4096))

end Sys2Proof.Machine
end

