-- ==== Sys2Proof/Machine/ModuleEv.lean ====
section
/-! DEFINITION. The module: reset and bring-up, firmware images and measurement, throttle and power, the management
port, RDMA and the trip (16_frontend.md R381 to R384; 17_module.md R385 to R392). -/

namespace Sys2Proof.Machine

/-! ## Reset and bring-up (R381 to R383, R392) -/

/-- The digest of a public key that the fuses hold. -/
def fuseKey (m : ModuleSt) (k : Nat) : BitVec 512 := cget (fun _ => 0) m.keys k

/-- An image's key is the one of its index: its digest stands in the fuses. -/
def keyMatches (m : ModuleSt) (i : FwImage) : Bool :=
  BitVec.ofNat 512 (beNat (sha512 (Config.keyBytes i.modulus i.exponent))) == fuseKey m i.key

/-- The root of trust runs an image: its key is one of the four and not revoked, its signature verifies, and its SVN
is not below the fuse counter. -/
def imageTrusted (m : ModuleSt) (i : FwImage) : Bool :=
  decide (i.key < 4) && keyMatches m i && !m.revoked.contains i.key &&
    pssVerify i.modulus i.exponent i.sig (Config.signedBytes i) && decide (m.svn ≤ i.svn) && decide (i.svn < 128)

/-- Everything of a module but its fuses and its firmware returns to the reset state; what other modules hold of it
in flight is gone. -/
def wipeModule (s : State) (m : Nat) : State :=
  let s := close s
  let away := fun (k : Nat) => decide (k ≠ m)
  { s with
    teams := s.teams.filter (fun t => away (coreModule t.core))
    mem := s.mem.filter (fun c => away (paModule c.1))
    poison := s.poison.filter (fun g => away (paModule (32 * g)))
    cores := s.cores.filter (fun e => away (coreModule e.1))
    dies := s.dies.filter (fun e => away (dieModule e.1))
    ports := s.ports.filter (fun e => away (e.1 / 64))
    queues := s.queues.filter (fun e => away (e.1 / 128))
    vis := s.vis.filter (fun e => away (e.1 / 64))
    tlb := s.tlb.filter (fun e => away (unitModule e.unit))
    flights := s.flights.filter (fun f => away (dieModule f.die))
    reqs := s.reqs.filter (fun r => away r.src)
    dedups := s.dedups.filter (fun d => away d.src && away d.tgt)
    msgs := s.msgs.filter (fun x => away (evModule x.name))
    leases := s.leases.filter (fun l => away (dieModule l.die) && away (l.line * 128 / 2 ^ 42))
    launches := s.launches.filter (fun l => away l.module)
    purges := s.purges.filter (fun p => away p.module)
    awaits := s.awaits.filter (fun e => away (e.2.queue / 128))
    late := s.late.filter (fun w => away w.module) }

/-- MRESET_N: the reset state, then IMAGE_VERIFY. The staged image, else the one that ran, is checked; a refused
image is never run, and the firmware cores then stay not ready. -/
def resetModule (s : State) (m : Nat) : State :=
  let o := getModule s m
  let cand := match o.staged with | some i => some i | none => o.running
  let run := match cand with | some i => (if imageTrusted o i then some i else none) | none => none
  setModule (wipeModule s m) m { ModuleSt.reset with svn := o.svn, keys := o.keys, revoked := o.revoked, running := run }

/-- SLOTID is sampled at reset: a module that samples another number bears it from then on (log 7). -/
def execModuleReset (module slotid : Nat) (s : State) : Host.Outcome State Fault Refusal :=
  if 2 ^ 10 ≤ slotid then .fault .notEnabled
  else if slotid = module then .next (resetModule s module)
  else
    let o := getModule s module
    let s1 := setModule (wipeModule s module) module ModuleSt.reset
    .next (resetModule (setModule s1 slotid { o with fatal := false, tripped := false }) slotid)

/-- What reports ready: a firmware core only with a running image, a core only while it is not lost. A queue whose
firmware core becomes ready is served. After a trip the rails of the dies and of HBM are off (R389; log 89). -/
def functionReady (s : State) (fn : ModFn) : Option State :=
  match fn with
  | .fwCore m k =>
    let o := getModule s m
    if o.running.isNone || decide (4 ≤ k) || o.fwReady.contains k then none
    else
      let s1 := setModule s m { o with fwReady := k :: o.fwReady }
      some (s1.queues.foldl (fun s e =>
        if e.1 / 128 = m ∧ e.1 % 128 / 32 = k ∧ qState s e.2 = 2 then qSetState s e.2 0 else s) s1)
  | .dieServices d =>
    if (getDie s d).ready || (getModule s (dieModule d)).tripped then none else some (setDie s d { getDie s d with ready := true })
  | .core c =>
    if (getCore s c).ready || (getCore s c).lost || decide (48 ≤ c % 64) || (getModule s (coreModule c)).tripped then none
    else some (setCore s c { getCore s c with ready := true })
  | .hbm d =>
    if (getDie s d).hbmReady || (getModule s (dieModule d)).tripped then none else some (setDie s d { getDie s d with hbmReady := true })
  | .port p =>
    let n := (getPort s p).working
    if (getPort s p).state ≠ 0 ∨ n = 0 then none
    else some (setPort s p { getPort s p with state := 2, width := if n = 4 then 4 else narrower 4 n })

def execFunctionReady (fn : ModFn) (s : State) : Host.Outcome State Fault Refusal :=
  match functionReady s fn with
  | none => .fault .notEnabled
  | some s1 => .next s1

/-! ## Throttle (R388, R390) -/

/-- The intervals below level 16 since the last change are counted. -/
def countIntervals (s : State) (d : DieSt) (die : Nat) : Nat :=
  if d.level < 16 then d.throttled + Config.throttleIntervals die s.tick else d.throttled

def execThrottleDown (die : Nat) (cause : ThrottleCause) (s : State) :=
  let d := getDie s die
  runEvent (decide (6 < d.level)) s (fun s => setDie s die
    { d with level := d.level - 1, stepsDown := d.stepsDown + 1, causes := cause :: d.causes, throttled := countIntervals s d die })

def execThrottleUp (die : Nat) (s : State) :=
  let d := getDie s die
  runEvent (decide (d.level < 16)) s (fun s => setDie s die { d with level := d.level + 1, throttled := countIntervals s d die })

/-! ## The trip (R389) -/

/-- The ready bits of a module's cores, dies, stacks and ports stand as they were (16_frontend.md R381: a trip clears none). -/
def keepReady (old s : State) (m : Nat) : State :=
  let s1 := (old.cores.filter (fun e => coreModule e.1 == m)).foldl (fun s e =>
    setCore s e.1 { CoreSt.reset with ready := e.2.ready, lost := e.2.lost }) s
  let s2 := (old.dies.filter (fun e => dieModule e.1 == m)).foldl (fun s e =>
    setDie s e.1 { DieSt.reset with ready := e.2.ready, hbmReady := e.2.hbmReady }) s1
  (old.ports.filter (fun e => e.1 / 64 == m)).foldl (fun s e => setPort s e.1 e.2) s2

/-- All compute state is lost, and only a module reset leaves this state. -/
def execThermalTrip (module : Nat) (s : State) :=
  runEvent (!(getModule s module).tripped) s (fun s =>
    let o := getModule s module
    let s1 := setModule (wipeModule s module) module
      { ModuleSt.reset with
        fwReady := o.fwReady, svn := o.svn, keys := o.keys, revoked := o.revoked, staged := o.staged, running := o.running,
        meas := o.meas, tripped := true }
    notice (keepReady s s1 module) "THERMAL_TRIP" [module])

/-! ## The signals that the module drives (R392) -/

/-- PWRGD is high while every rail is in range: until a trip switches them off. -/
def pwrgd (s : State) (module : Nat) : Bool := !(getModule s module).tripped

/-- PRSNT_N is low while the module is seated, as every module of the machine is. -/
def prsntN (_ : State) (_ : Nat) : Bool := false

/-- THRM_TRIP_N is low after a trip, until reset. -/
def thrmTripN (s : State) (module : Nat) : Bool := !(getModule s module).tripped

/-! ## Power capping (R391) -/

/-- The window of a VI (as the model keys it) ends: the excess over its cap withholds issue in the next window,
which changes timing only (log 10). Energy is in units of 10 W for the window. -/
def execPowerCapWindow (vi energy : Nat) (s : State) :=
  match lookup s.vis vi with
  | none => runEvent false s id
  | some v => runEvent true s (fun s =>
      updVi s (vi / 64) (vi % 64) (fun x => { x with power := energy, withheld := if v.cfg.cap = 0 then 0 else energy - v.cfg.cap }))

/-! ## The management port (R386) -/

/-- The number that stands for the cause of a step down. -/
def causeCode (c : ThrottleCause) : Nat :=
  match c with
  | .current => 1
  | .temperature => 2
  | .power => 3

/-- Telemetry: per die the clock level, the free figures, and the throttle counts with the cause of each step down, latest
first; per VI the power and the cap. -/
def execTelemetry (module : Nat) (s : State) :=
  runEvent (decide (module < 2 ^ 10)) s (fun s =>
    let s1 := (List.range 16).foldl (fun s k =>
      let d := getDie s (module * 16 + k)
      notice s "TELEMETRY" ([module * 16 + k, d.level] ++ Config.telemetry (module * 16 + k) s.tick ++
        [countIntervals s d (module * 16 + k), d.stepsDown] ++ d.causes.map causeCode)) s
    (s.vis.filter (fun e => e.1 / 64 == module)).foldl (fun s e =>
      notice s "POWER" [e.1, e.2.power, e.2.cfg.cap]) s1)

/-- A staged image replaces one that is staged already; it is checked at the next module reset. -/
def execFirmwareUpdate (module : Nat) (img : FwImage) (s : State) :=
  runEvent (decide (module < 2 ^ 10)) s (fun s => setModule s module { getModule s module with staged := some img })

/-- The signed commit raises the counter to the running image's SVN; it never falls. -/
def execSvnCommit (module svn : Nat) (s : State) :=
  let m := getModule s module
  runEvent (match m.running with | some i => i.svn == svn && decide (m.svn ≤ svn) | none => false) s
    (fun s => setModule s module { m with svn := svn })

def measReg (m : ModuleSt) (k : Nat) : BitVec 512 := cget (fun _ => 0) m.meas k

/-- Attestation carries M0 to M7, signed. -/
def execAttestation (module nonce : Nat) (s : State) :=
  runEvent (decide (module < 2 ^ 10)) s (fun s =>
    let ms := (List.range 8).map (measReg (getModule s module))
    notice s "MEASUREMENTS" ([module, nonce] ++ ms.map BitVec.toNat ++ (Config.signature module nonce ms).map BitVec.toNat))

/-- The 64 big-endian bytes of a measurement register. -/
def measBytes (m : BitVec 512) : List Byte := natBe 64 m.toNat

/-- What a register is extended with: M0 by the root of trust's code and the fuses, M1 by the firmware image that runs, M2 by
the boot loader, and the others by what system software chooses. -/
def measured (m : ModuleSt) (module reg : Nat) (obj : List Byte) : Bool :=
  match reg with
  | 0 => obj == Config.rotCode module ++ Config.fuseBytes m.svn m.revoked ((List.range 4).map (fuseKey m))
  | 1 => m.running.any (fun i => obj == i.body)
  | 2 => obj == Config.bootLoader module
  | _ => true

/-- M ← SHA-512(M ∥ SHA-512(object)). -/
def execMeasureExtend (module reg : Nat) (obj : List Byte) (s : State) :=
  runEvent (decide (reg < 8) && decide (module < 2 ^ 10) && measured (getModule s module) module reg obj) s (fun s =>
    let m := getModule s module
    let v := beNat (sha512 (measBytes (measReg m reg) ++ sha512 obj))
    setModule s module { m with meas := cput (fun _ => 0) m.meas reg (BitVec.ofNat 512 v) })

/-! ## RDMA and the host's cores (R385) -/

/-- The number that stands for a host core in place of a VI: it addresses its own module's places directly (log 85). -/
def hostCore : Nat := 64

/-- An access of the host complex: its pieces, or the address at which it fails. A store to event, mailbox or digest places
fails (07_memory.md R153). -/
def hostParts (s : State) (module vi : Nat) (k : Kind) (addr n : Nat) : Except Nat (List (Nat × Nat)) :=
  if vi = hostCore then (if k = .write ∧ noStore addr = true then .error addr else .ok [(addr, n)])
  else
    match imagePages s (frontAgent module vi) k addr n with
    | .error e => .error e.va
    | .ok ps => if ps.any (fun p => decide (place p.1 ≠ .hbm)) then .error addr else .ok ps

/-- The access may be made: by a VI's queue pair, or by a host core to existing places of its module; and those places
take it now. -/
def hostFree (s : State) (module vi : Nat) (k : Kind) (addr n : Nat) : Bool :=
  let die := module * 16
  (if vi = hostCore then
      decide (0 < n) && paModule addr == module && paModule (addr + n - 1) == module && decide (addr + n ≤ 2 ^ 52) &&
        decide (place addr ≠ .reserved) && decide (place (addr + n - 1) ≠ .reserved) && addr / 65536 == (addr + n - 1) / 65536
    else (getVi s module vi).isSome && pagesNear s (frontAgent module vi) addr n) &&
    (match hostParts s module vi k addr n with
     | .error _ => true
     | .ok ps => placesReady s die ps && (if k = .write then destsFree s die ps else partsNear s die ps))

/-- A completion that the host sees; it is no service of the management port (R386). -/
def complete (s : State) (what : String) (args : List Nat) : State := { s with rdma := s.rdma ++ [⟨what, args⟩] }

/-- An RDMA transfer reads or writes HBM through a VI's page tables, a page at a time; a failure is an error completion
and no trap. A host core reads or writes the places of its own module (log 85). -/
def execRdmaTransfer (module vi addr len : Nat) (data : Option (List Byte)) (s : State) :=
  let k : Kind := match data with | some _ => .write | none => .read
  let n := match data with | some bs => bs.length | none => len
  runEvent (hostFree s module vi k addr n) s (fun s =>
    match hostParts s module vi k addr n with
    | .error a => complete s "RDMA_ERROR" [module, vi, a]
    | .ok ps =>
      match data with
      | some bs => complete (forVi s vi (engineWrite s (module * 16) none addr 0 none ps bs)) "RDMA_DONE" [module, vi, addr, n]
      | none =>
        match engineRead s (module * 16) ps with
        | .error i => complete s "RDMA_ERROR" [module, vi, addr + i]
        | .ok bs => complete s "RDMA_DATA" ([module, vi, addr] ++ bs.map BitVec.toNat))

end Sys2Proof.Machine
end

