-- ==== Sys2Proof/Machine/Lim.lean ====
section
/-! DEFINITION. Instruction fetch, the LIM pair, encodings that are no instruction, the deferred checks of an owner,
and the active and pending sets of a partition (02_words.md R29, R35 to R37, R52 to R54, R57 to R60). -/

namespace Sys2Proof.Machine

/-! ## Fetch (R29) -/

/-- The word at an address, for execution; the page it is in; or the cause of the fetch fault. -/
def fetchWord (s : State) (va : DWord) : Except Nat Word :=
  match check s (me s) .exec va.toNat 4 with
  | .error (c, _) => .error c
  | .ok g =>
    if g.window then .error Cause.access
    else if poisonedParts s g.parts then .error Cause.poison
    else .ok (BitVec.ofNat 32 (leNat (rdParts s g.parts)))

/-- The trap of a fetch fault: TRAPPC and TRAPV are the PC (07_memory.md R154, R419). -/
def fetchInfo (s : State) (c : Nat) : TrapInfo := ⟨c, s.split.pc, s.split.pc, active s, 0⟩

def fetchFault (s : State) (c : Nat) : State :=
  if c = Cause.poison then takePoison s (fetchInfo s c) s.team.rtag.toNat else takeTrap s (fetchInfo s c)

/-! ## Encodings (R35 to R37) -/

/-- A word, or a LIM pair, that is no instruction: ILLEGAL with the word found wrong in TRAPV. -/
def execNotAnInstruction (w : Word) (s : State) : Host.Outcome State Fault Refusal := .next (illegal s w)

/-- The successors that take LIM: MOVI, IADDI, every L, A and C word, and every E word that reads s[sx] (R36). -/
def execFused (i : Instr) (s : State) : Option (Host.Outcome State Fault Refusal) :=
  match i with
  | .movi d imm => some (execMovi d imm s)
  | .iaddi d a imm => some (execIaddi d a imm s)
  | .msqStart x l => some (execMsqStart x l s)
  | .ldb d a sb l q => some (execLdb d a sb l q s)
  | .ldh d a sb l q => some (execLdh d a sb l q s)
  | .ldw d a sb l q => some (execLdw d a sb l q s)
  | .ldd d a sb l q => some (execLdd d a sb l q s)
  | .ldq d a sb l q => some (execLdq d a sb l q s)
  | .stb d a sb l q => some (execStb d a sb l q s)
  | .sth d a sb l q => some (execSth d a sb l q s)
  | .stw d a sb l q => some (execStw d a sb l q s)
  | .std d a sb l q => some (execStd d a sb l q s)
  | .stq d a sb l q => some (execStq d a sb l q s)
  | .ldc d sb l q => some (execLdc d sb l q s)
  | .pref v a sb l => some (execPref v a sb l s)
  | .cctlL1inv a sb l => some (execCctlL1inv a sb l s)
  | .cctlRdcinv a sb l => some (execCctlRdcinv a sb l s)
  | .cctlWb a sb l => some (execCctlWb a sb l s)
  | .cctlWbinv a sb l => some (execCctlWbinv a sb l s)
  | .pinSet x y z l => some (execPinSet x y z l s)
  | .pinClr x y z l => some (execPinClr x y z l s)
  | .atrn d a sb l w => some (execAtrn d a sb l w s)
  | .binit x y l => some (execBinit x y l s)
  | .barv x z l c => some (execBarv x z l c s)
  | .barvB x y z l c => some (execBarvB x y z l c s)
  | .bexp x y l => some (execBexp x y l s)
  | .bwait x y c => some (execBwait x y c s)
  | .btest x z l h => some (execBtest x z l h s)
  | .aadd d a b l o => some (execAadd d a b l o s)
  | .amin d a b l o => some (execAmin d a b l o s)
  | .amax d a b l o => some (execAmax d a b l o s)
  | .aand d a b l o => some (execAand d a b l o s)
  | .aor d a b l o => some (execAor d a b l o s)
  | .axor d a b l o => some (execAxor d a b l o s)
  | .axch d a b l o => some (execAxch d a b l o s)
  | .acas d a b l o => some (execAcas d a b l o s)
  | .afadd d a b l o => some (execAfadd d a b l o s)
  | .red o a b l r => some (execRed o a b l r s)
  | .bump d a b l o => some (execBump d a b l o s)
  | .sigi d a b o => some (execSigi d a b o s)
  | .sigd d a b o => some (execSigd d a b o s)
  | .tlsig d a b o => some (execTlsig d a b o s)
  | .carm x y z l c => some (execCarm x y z l c s)
  | .cpa d a sb l t => some (execCpa d a sb l t s)
  | .hdefBase x y l => some (execHdefBase x y l s)
  | .hdefOrg x y l => some (execHdefOrg x y l s)
  | .hdefAdv x y l => some (execHdefAdv x y l s)
  | .hdefOrgh x y l => some (execHdefOrgh x y l s)
  | .tcpy x y z l u n => some (execTcpy x y z l u n s)
  | .tsto x y z l u n => some (execTsto x y z l u n s)
  | .tred x y z l u n => some (execTred x y z l u n s)
  | .tsct x y z l k => some (execTsct x y z l k s)
  | .tgth x y z l u n => some (execTgth x y z l u n s)
  | .crset x y l => some (execCrset x y l s)
  | .evsigAdd x y => some (execEvsigAdd x y s)
  | .evsigReset x y z => some (execEvsigReset x y z s)
  | .evarm x y z => some (execEvarm x y z s)
  | .evqry x z l h => some (execEvqry x z l h s)
  | .opapp x y z l => some (execOpapp x y z l s)
  | .fixup x z => some (execFixup x z s)
  | .xa2a x y z l n m => some (execXa2a x y z l n m s)
  | .xag x y z l n m => some (execXag x y z l n m s)
  | .xrs x y z l n m => some (execXrs x y z l n m s)
  | .rdcfRange x y z l => some (execRdcfRange x y z l s)
  | .ctxs x y z => some (execCtxs x y z s)
  | .ctxl x y z => some (execCtxl x y z s)
  | .ctxlTeam x y z t => some (execCtxlTeam x y z t s)
  | _ => none

/-- LIM with the word after it, as one instruction: the word is fetched with it, and one that takes no LIM raises
ILLEGAL with that word in TRAPV. -/
def execLim (imm : BitVec 24) (s : State) : Host.Outcome State Fault Refusal :=
  match fetchWord s (s.split.pc + 4) with
  | .error c => .next (fetchFault s c)
  | .ok w =>
    match decodeMajor w.toNat with
    | .error _ => execNotAnInstruction w s
    | .ok i =>
      match execFused i { s with lim := some imm } with
      | some o => o
      | none => execNotAnInstruction w s

/-! ## The page tables that an instruction's translations read (07_memory.md R156; log 67) -/

/-- The addresses, with their bytes and the agent that checks them, that an instruction has translated before it issues: its
fetch, its lanes, its object, CARM's word, and a stream's control block. -/
def transFetch (s : State) : List (Agent × Nat × Nat) :=
  (me s, s.split.pc.toNat, 4) ::
    (match fetchWord s s.split.pc with
     | .ok w => if w.toNat / 2 ^ 24 = 0xFF then [(me s, (s.split.pc + 4).toNat, 4)] else []
     | .error _ => [])

def transLanes (s : State) (ls : List (Nat × Nat)) (n : Nat) : List (Agent × Nat × Nat) := ls.map (fun e => (me s, e.2, n))

def transObject (s : State) (a : DWord) : List (Agent × Nat × Nat) := [(me s, a.toNat, 16)]

def translates (s : State) (i : Instr) : List (Agent × Nat × Nat) :=
  let lanes := fun (a : BitVec 6) (sb : BitVec 5) n => transLanes s (lAddrs s a.toNat sb.toNat) n
  let atom := fun (a : BitVec 6) => transLanes s (aAddrs s a.toNat) 1
  if active s = 0 then [] else
  match i with
  | .ldb _ a sb _ _ => lanes a sb 1
  | .ldh _ a sb _ _ => lanes a sb 2
  | .ldw _ a sb _ _ => lanes a sb 4
  | .ldd _ a sb _ _ => lanes a sb 8
  | .ldq _ a sb _ _ => lanes a sb 16
  | .stb _ a sb _ _ => lanes a sb 1
  | .sth _ a sb _ _ => lanes a sb 2
  | .stw _ a sb _ _ => lanes a sb 4
  | .std _ a sb _ _ => lanes a sb 8
  | .stq _ a sb _ _ => lanes a sb 16
  | .ldc _ sb _ _ => [(me s, (rs s sb.toNat + limOffset s).toNat, 8)]
  | .pref _ a sb _ => lanes a sb 1
  | .cctlL1inv a sb _ => lanes a sb 1
  | .cctlRdcinv a sb _ => lanes a sb 1
  | .cctlWb a sb _ => lanes a sb 1
  | .cctlWbinv a sb _ => lanes a sb 1
  | .aadd _ a _ _ _ => atom a
  | .amin _ a _ _ _ => atom a
  | .amax _ a _ _ _ => atom a
  | .aand _ a _ _ _ => atom a
  | .aor _ a _ _ _ => atom a
  | .axor _ a _ _ _ => atom a
  | .axch _ a _ _ _ => atom a
  | .acas _ a _ _ _ => atom a
  | .afadd _ a _ _ _ => atom a
  | .red _ a _ _ _ => atom a
  | .bump _ a _ _ _ => atom a
  | .sigi _ a _ _ => atom a
  | .sigd _ a _ _ => atom a
  | .tlsig _ a _ _ => atom a
  | .binit x _ _ => transObject s (objAddr s x)
  | .barv x _ _ _ => transObject s (objAddr s x)
  | .barvB x _ _ _ _ => transObject s (objAddr s x)
  | .bexp x _ _ => transObject s (objAddr s x)
  | .bwait x _ _ => transObject s (objAddr s x)
  | .btest x _ _ _ => transObject s (objAddr s x)
  | .carm x y _ _ c => (me s, (objAddr s x).toNat, condBytes c.toNat) :: transObject s (rs s y.toNat)
  | .carmCancel y _ _ => transObject s (rs s y.toNat)
  | .mbxarm y => transObject s (rs s y.toNat)
  | .mbxarmCancel y _ => transObject s (rs s y.toNat)
  | .evarm _ y _ => transObject s (rs s y.toNat)
  | .evarmCancel y _ => transObject s (rs s y.toNat)
  | .tcpy _ _ z _ _ _ => transObject s (rs s z.toNat)
  | .tsto _ _ z _ _ _ => transObject s (rs s z.toNat)
  | .tgth _ _ z _ _ _ => transObject s (rs s z.toNat)
  | .tred _ _ z _ u _ => if u = 1 then [] else transObject s (rs s z.toNat)
  | .fixup _ z => transObject s (rs s z.toNat)
  | .opapp x _ _ _ =>
    (match findStream s (thisModule s) s.team.vi (xValue s x).toNat with
     | some st =>
       let g := dieAgent (thisDie s) s.team.vi
       let tail := (dieRead s (thisDie s) s.team.vi (st.scb.toNat + 24) 4).getD 0
       [(g, st.scb.toNat, 64), (g, st.base.toNat + 32 * (tail % 2 ^ st.log2), 32)]
     | none => [])
  | _ => []

/-- The entries that those translations read, of one module or of the others. -/
def tableReads (s : State) (ts : List (Agent × Nat × Nat)) (here : Bool) : List Nat :=
  ((ts.flatMap (fun e => walkOf s e.1 e.2.1 e.2.2)).eraseDups).filter (fun a => (paModule a == thisModule s) == here)

/-- Ask for the lines of some entries: of HBM on a lease, as a load does, and each time elsewhere (R153, R161). -/
def askTables (s : State) (as : List Nat) : State :=
  ((as.map lineOf).eraseDups).foldl (fun s line =>
    let hbm := decide (place (line * 128) = .hbm)
    if hbm && leased s (thisDie s) line then s
    else newRequest s (thisDie s) (line * 128) (.read hbm none) none (BitVec.ofNat 64 (line * 128)) s.split.pc
      (some (s.team.id, s.group.num, s.split.num))) s

/-- Go on once the tables that some translations read have answered: entries on another module are asked for, and one
whose place is not ready is waited for. -/
def walked (s : State) (data : Bool) (ts : List (Agent × Nat × Nat)) (k : State → State) : State :=
  let done := match s.split.wait with | some (.walk d _ _) => d == data | _ => false
  let s1 := if done then s else askTables s (tableReads s ts false)
  let late := (tableReads s ts true).filter (fun a => !homeReady s a)
  if done then k { s with split := { s.split with wait := none } }
  else if s1.fresh == s.fresh && late.isEmpty then k s
  else hold s1 (.walk data (((s1.reqs.filter (fun r => decide (s.fresh ≤ r.id)))).map Request.id) late)

/-! ## The active and pending sets (R57 to R60) -/

/-- Nothing of the core, the module, the bank or the tag keeps a team from issuing. -/
def teamGoes (s : State) (t : Team) : Bool :=
  let c := getCore s t.core
  let m := getModule s (coreModule t.core)
  c.ready && !c.lost && !c.swapping && !m.fatal && !m.tripped && !t.stopped &&
    t.bank == runningBank s t.core && decide (drst s t.core < 2) &&
    !purging s t

/-- A FENCE keeps the split in focus from issuing: one with NS, or one whose window holds a trap (R183, R186). -/
def fenceHolds (s : State) : Bool :=
  match s.split.fence with
  | some w => w.ns || w.trap.isSome
  | none => false

/-- The home of the word at the PC answers, so that it can be fetched (01_machine.md R28; 16_frontend.md R381). -/
def fetchNear (s : State) : Bool :=
  match check s (me s) .exec s.split.pc.toNat 4 with
  | .error _ => true
  | .ok g => placesReady s (thisDie s) g.parts && partsNear s (thisDie s) g.parts

/-- The split in focus is ready: nothing but the scheduler keeps it from issuing. -/
def ready (s : State) : Bool :=
  s.live && teamGoes s s.team && s.split.parked.isNone && !s.split.drainPark && !fenceHolds s && waitOver s && fetchNear s

/-- The entities of a partition of a core's running bank: team, group, split. -/
def entities (s : State) (core part : Nat) : List (Nat × Nat × Split) :=
  (bankTeams s core (runningBank s core)).flatMap (fun t => t.groups.flatMap (fun g =>
    if g.part = part then g.splits.map (fun x => (t.id, g.num, x)) else []))

/-- An entity is ready. -/
def entityReady (s : State) (e : Nat × Nat × Split) : Bool := ready (focusOn s e.1 e.2.1 e.2.2.num)

/-- A step begins: what devices write reaches its homes, the agents are told of it, and the wake time of an entity that is not
ready is still to come (R59), so it is brought up to now. -/
def stamp (s : State) : State :=
  let s := tellWritten (flushLate s)
  mapSplits s (fun t g x => if entityReady s (t.id, g.num, x) then x else { x with woke := s.tick })

/-- The entity of a list that comes first by a key, ties going to the lower group, then the lower split. -/
def firstBy (f : Split → Nat) : List (Nat × Nat × Split) → Option (Nat × Nat × Split)
  | [] => none
  | e :: r =>
    match firstBy f r with
    | none => some e
    | some x =>
      if f x.2.2 < f e.2.2 ∨ (f x.2.2 = f e.2.2 ∧ (x.2.1 < e.2.1 ∨ (x.2.1 = e.2.1 ∧ x.2.2.num < e.2.2.num)))
      then some x else some e

/-- The ready pending entities of a partition. -/
def readyPending (s : State) (core part : Nat) : List (Nat × Nat × Split) :=
  (entities s core part).filter (fun e => !e.2.2.active && entityReady s e)

/-- Fill the free entries of a partition's active set of eight, each with the ready pending entity of the
earliest wake time (R59). -/
def fillActive (core part : Nat) : Nat → State → State
  | 0, s => s
  | n + 1, s =>
    if 8 ≤ ((entities s core part).filter (fun e => e.2.2.active)).length then s
    else
      match firstBy Split.woke (readyPending s core part) with
      | none => s
      | some e => fillActive core part n (updSplit s e.1 e.2.1 e.2.2.num (fun x =>
          { x with active := true, entered := s.tick, issued := false }))

/-- Move an entity to the pending set. -/
def demoteEntity (s : State) (tid gn sn : Nat) : State :=
  updSplit s tid gn sn (fun x => { x with active := false, woke := s.tick })

/-- IDLE_DEMOTE: an active entity that is not ready, for a cause that R58 names no other place for. -/
def execIdleDemote (team grp spl : Nat) (s : State) :=
  match findTeam s team, findGroup s team grp, findSplit s team grp spl with
  | some t, some g, some x =>
    runEvent (x.active && !entityReady s (team, grp, x)) s
      (fun s => fillActive t.core g.part 8 (demoteEntity s team grp spl))
  | _, _, _ => runEvent false s id

/-- The entity that rotation demotes (R60): one that has held its entry for 512 clocks; otherwise, when a ready pending
one has waited 256, the longest resident of those that have issued since entering. A tick counts as a clock (log 10). -/
def rotated (s : State) (core part : Nat) : Option (Nat × Nat × Split) :=
  let act := (entities s core part).filter (fun e => e.2.2.active)
  match firstBy Split.entered (act.filter (fun e => decide (e.2.2.entered + 512 ≤ s.tick))) with
  | some e => some e
  | none =>
    if (readyPending s core part).any (fun e => decide (e.2.2.woke + 256 ≤ s.tick)) then
      firstBy Split.entered (act.filter (fun e => e.2.2.issued))
    else none

/-- The active entity of a partition that issues next: those that have been ready without issuing for 32 clocks come first,
and each part is in the order of entry (R56). -/
def picked (s : State) (core part : Nat) : Option (Nat × Nat × Split) :=
  let c := (entities s core part).filter (fun e => e.2.2.active && entityReady s e)
  match firstBy Split.entered (c.filter (fun e => decide (e.2.2.woke + 32 ≤ s.tick))) with
  | some e => some e
  | none => firstBy Split.entered c

/-- ENTITY_ROTATE: while a ready pending entity exists, one active entity is demoted, and its entry filled. -/
def execEntityRotate (core part : Nat) (s : State) :=
  match rotated s core part with
  | none => runEvent false s id
  | some e =>
    runEvent (!(readyPending s core part).isEmpty) s (fun s =>
      match firstBy Split.woke (readyPending s core part) with
      | none => s
      | some n => updSplit (demoteEntity s e.1 e.2.1 e.2.2.num) n.1 n.2.1 n.2.2.num (fun x =>
          { x with active := true, entered := s.tick, issued := false }))

/-! ## An owner whose checks are still to come (R53) -/

/-- The instruction in hand was executed: no trap was taken, and the split is not held at it. -/
def tookTrap (s t : State) : Bool :=
  t.team.stopped || (bitsOf s.split.tstat 1 1 == 0 && bitsOf t.split.tstat 1 1 == 1) ||
    (getModule t (thisModule s)).fatal

def heldAt (s t : State) : Bool := t.split.wait.isSome && t.split.pc == s.split.pc

/-- The owner's fused immediate, kept while its checks are to come. -/
def ownerLim (f : Flight) : Option (BitVec 24) :=
  match f.scal with
  | [v] => some (v.setWidth 24)
  | _ => none

/-- Put an owner's window off its own checks: the split goes on, and its window waits in the write log. `ws` are the
windows once the owner is executed, which the state to go back to has not counted. -/
def deferOwner (s : State) (i : Instr) (la : Nat) (ws : List Window) : State :=
  let snap := takeSnap s
  let scal := match s.lim with | some v => [v.setWidth 64] | none => []
  let f := newFlight s .owner i none [] scal []
  let s1 := adv { s with fresh := s.fresh + 1, flights := s.flights ++ [f] }
  { s1 with split := { s1.split with
      owner := some (f.id, snap)
      windows := ws ++ [⟨s.split.pc, la, writes s.split.mode i, some f.id⟩] } }

/-- The windows once an owner's accesses are on their way: its own now waits for its result. -/
def ownerWindows (s : State) (id flight : Nat) (ws : List Window) : List Window :=
  ws.map (fun w => if w.flight = some id then { w with flight := if pending s flight then some flight else none } else w)

/-- A path that a rise took past 63 (07_memory.md R166). -/
def fullPath (t : State) : Option Nat := (List.range 8).find? (fun p => decide (63 < pathLoad t p))

def pathFull (t : State) : Bool := (fullPath t).isSome

/-- The owner's checks are made. When it passes, it issues, and its window's results and contributions commit;
otherwise its trap is precise, and the window is discarded. -/
def passOwner (s : State) (f : Flight) (snap : Snapshot) : State :=
  let cur := takeSnap s
  let cs := (s.group.log.filter (fun e => e.1 == s.split.num)).map Prod.snd
  let s0 := putSnap (dropFlight s f.id) snap
  let s0 := { s0 with
    lim := ownerLim f
    split := { s0.split with owner := none, wait := none }
    group := { s0.group with log := s0.group.log.filter (fun e => e.1 != s0.split.num) } }
  match execFused f.instr s0 with
  | some (.next t) =>
    if tookTrap s0 t || heldAt s0 t then t
    else
      let t1 := putSnap t { cur with windows := ownerWindows t f.id s0.fresh cur.windows }
      contribute t1 t1.team.core t1.team.bank t1.team.slot cs
  | _ => s0

/-- OWNER_CHECKS_PASSED. -/
def execOwnerChecksPassed (flight : Nat) (s : State) :=
  match findFlight s flight with
  | none => runEvent false s id
  | some f =>
    match (findSplit s f.team f.grp f.spl).bind (fun x => x.owner) with
    | none => runEvent false s id
    | some (id, snap) =>
      runEvent (id == flight && !pathFull (passOwner (focusOn s f.team f.grp f.spl) f snap)) s (fun s => onSplit s f.team f.grp f.spl (fun s => passOwner s f snap))

end Sys2Proof.Machine
end

