-- ==== Sys2Proof/Machine/Dispatch.lean ====
section
/-! DEFINITION. The meaning of every instruction and of every device step: one arm, one call. -/

namespace Sys2Proof.Machine

def exec (i : Instr) (s : State) : Host.Outcome State Fault Refusal :=
  match i with
  | .mov d a p => Sys2Proof.Machine.execMov d a p s
  | .movi d imm => Sys2Proof.Machine.execMovi d imm s
  | .iadd d a p b q => Sys2Proof.Machine.execIadd d a p b q s
  | .isub d a p b q => Sys2Proof.Machine.execIsub d a p b q s
  | .imul d a p b q => Sys2Proof.Machine.execImul d a p b q s
  | .imulh d a p b q => Sys2Proof.Machine.execImulh d a p b q s
  | .imad d a p b q => Sys2Proof.Machine.execImad d a p b q s
  | .iaddi d a imm => Sys2Proof.Machine.execIaddi d a imm s
  | .imin d a p b q => Sys2Proof.Machine.execImin d a p b q s
  | .imax d a p b q => Sys2Proof.Machine.execImax d a p b q s
  | .iabs d a p => Sys2Proof.Machine.execIabs d a p s
  | .ineg d a p => Sys2Proof.Machine.execIneg d a p s
  | .isad d a p b q => Sys2Proof.Machine.execIsad d a p b q s
  | .idiv d a p b q => Sys2Proof.Machine.execIdiv d a p b q s
  | .irem d a p b q => Sys2Proof.Machine.execIrem d a p b q s
  | .and d a p b q => Sys2Proof.Machine.execAnd d a p b q s
  | .or d a p b q => Sys2Proof.Machine.execOr d a p b q s
  | .xor d a p b q => Sys2Proof.Machine.execXor d a p b q s
  | .andn d a p b q => Sys2Proof.Machine.execAndn d a p b q s
  | .not d a p => Sys2Proof.Machine.execNot d a p s
  | .shl d a p b q => Sys2Proof.Machine.execShl d a p b q s
  | .shr d a p b q => Sys2Proof.Machine.execShr d a p b q s
  | .sha d a p b q => Sys2Proof.Machine.execSha d a p b q s
  | .rotl d a p b q => Sys2Proof.Machine.execRotl d a p b q s
  | .shli d a n => Sys2Proof.Machine.execShli d a n s
  | .shri d a n => Sys2Proof.Machine.execShri d a n s
  | .shai d a n => Sys2Proof.Machine.execShai d a n s
  | .popc d a p => Sys2Proof.Machine.execPopc d a p s
  | .clz d a p => Sys2Proof.Machine.execClz d a p s
  | .brev d a p => Sys2Proof.Machine.execBrev d a p s
  | .bfx d a l o => Sys2Proof.Machine.execBfx d a l o s
  | .bfi d a l o => Sys2Proof.Machine.execBfi d a l o s
  | .sel d a p b q => Sys2Proof.Machine.execSel d a p b q s
  | .icmp d c a p b q => Sys2Proof.Machine.execIcmp d c a p b q s
  | .plog d c a b => Sys2Proof.Machine.execPlog d c a b s
  | .pmovNz d a p => Sys2Proof.Machine.execPmovNz d a p s
  | .pmovBit d a p k => Sys2Proof.Machine.execPmovBit d a p k s
  | .pmovSet d => Sys2Proof.Machine.execPmovSet d s
  | .pmovClr d => Sys2Proof.Machine.execPmovClr d s
  | .pmovNot d a => Sys2Proof.Machine.execPmovNot d a s
  | .pmovFroms d a => Sys2Proof.Machine.execPmovFroms d a s
  | .vote d c a => Sys2Proof.Machine.execVote d c a s
  | .voteBallot d a b => Sys2Proof.Machine.execVoteBallot d a b s
  | .xshf d a b q => Sys2Proof.Machine.execXshf d a b q s
  | .setx n a b => Sys2Proof.Machine.execSetx n a b s
  | .movx d a p n => Sys2Proof.Machine.execMovx d a p n s
  | .stx n a p b q => Sys2Proof.Machine.execStx n a p b q s
  | .s2v d a => Sys2Proof.Machine.execS2v d a s
  | .v2s d a p l => Sys2Proof.Machine.execV2s d a p l s
  | .sadd d a b => Sys2Proof.Machine.execSadd d a b s
  | .saddImm d a imm => Sys2Proof.Machine.execSaddImm d a imm s
  | .ssub d a b => Sys2Proof.Machine.execSsub d a b s
  | .ssubImm d a imm => Sys2Proof.Machine.execSsubImm d a imm s
  | .smul d a b => Sys2Proof.Machine.execSmul d a b s
  | .smulImm d a imm => Sys2Proof.Machine.execSmulImm d a imm s
  | .sand d a b => Sys2Proof.Machine.execSand d a b s
  | .sandImm d a imm => Sys2Proof.Machine.execSandImm d a imm s
  | .sor d a b => Sys2Proof.Machine.execSor d a b s
  | .sorImm d a imm => Sys2Proof.Machine.execSorImm d a imm s
  | .sxor d a b => Sys2Proof.Machine.execSxor d a b s
  | .sxorImm d a imm => Sys2Proof.Machine.execSxorImm d a imm s
  | .sshl d a b => Sys2Proof.Machine.execSshl d a b s
  | .sshlImm d a imm => Sys2Proof.Machine.execSshlImm d a imm s
  | .sshr d a b => Sys2Proof.Machine.execSshr d a b s
  | .sshrImm d a imm => Sys2Proof.Machine.execSshrImm d a imm s
  | .scmp d a b c => Sys2Proof.Machine.execScmp d a b c s
  | .smovi d imm => Sys2Proof.Machine.execSmovi d imm s
  | .sreg d n => Sys2Proof.Machine.execSreg d n s
  | .setm a => Sys2Proof.Machine.execSetm a s
  | .modi f v => Sys2Proof.Machine.execModi f v s
  | .bysel d a p b q => Sys2Proof.Machine.execBysel d a p b q s
  | .idot4 d a p b q => Sys2Proof.Machine.execIdot4 d a p b q s
  | .ired d a o => Sys2Proof.Machine.execIred d a o s
  | .fadd d a p b q => Sys2Proof.Machine.execFadd d a p b q s
  | .fsub d a p b q => Sys2Proof.Machine.execFsub d a p b q s
  | .fmul d a p b q => Sys2Proof.Machine.execFmul d a p b q s
  | .fma d a p b q => Sys2Proof.Machine.execFma d a p b q s
  | .fms d a p b q => Sys2Proof.Machine.execFms d a p b q s
  | .fnma d a p b q => Sys2Proof.Machine.execFnma d a p b q s
  | .fmin d a p b q => Sys2Proof.Machine.execFmin d a p b q s
  | .fmax d a p b q => Sys2Proof.Machine.execFmax d a p b q s
  | .fabs d a p => Sys2Proof.Machine.execFabs d a p s
  | .fneg d a p => Sys2Proof.Machine.execFneg d a p s
  | .fsgn d a p b q => Sys2Proof.Machine.execFsgn d a p b q s
  | .fcmp d c a p b q => Sys2Proof.Machine.execFcmp d c a p b q s
  | .fclass d a p => Sys2Proof.Machine.execFclass d a p s
  | .frint d a p => Sys2Proof.Machine.execFrint d a p s
  | .fscale d a p b q => Sys2Proof.Machine.execFscale d a p b q s
  | .fgetexp d a p => Sys2Proof.Machine.execFgetexp d a p s
  | .fdiv d a p b q => Sys2Proof.Machine.execFdiv d a p b q s
  | .fsqrt d a p => Sys2Proof.Machine.execFsqrt d a p s
  | .frcp d a p => Sys2Proof.Machine.execFrcp d a p s
  | .frsq d a p => Sys2Proof.Machine.execFrsq d a p s
  | .fexp2 d a p => Sys2Proof.Machine.execFexp2 d a p s
  | .flog2 d a p => Sys2Proof.Machine.execFlog2 d a p s
  | .fsin d a p => Sys2Proof.Machine.execFsin d a p s
  | .fcos d a p => Sys2Proof.Machine.execFcos d a p s
  | .ftanh d a p => Sys2Proof.Machine.execFtanh d a p s
  | .fdot2 d a p b q => Sys2Proof.Machine.execFdot2 d a p b q s
  | .fdot4 d a p b q => Sys2Proof.Machine.execFdot4 d a p b q s
  | .fred d a o => Sys2Proof.Machine.execFred d a o s
  | .argmx d a p b q => Sys2Proof.Machine.execArgmx d a p b q s
  | .cvt d a p x t => Sys2Proof.Machine.execCvt d a p x t s
  | .cvtp d a p b q => Sys2Proof.Machine.execCvtp d a p b q s
  | .seed a => Sys2Proof.Machine.execSeed a s
  | .rngU32 d => Sys2Proof.Machine.execRngU32 d s
  | .rngUnit d => Sys2Proof.Machine.execRngUnit d s
  | .rngGet d => Sys2Proof.Machine.execRngGet d s
  | .rngSet a p => Sys2Proof.Machine.execRngSet a p s
  | .qmx d a p => Sys2Proof.Machine.execQmx d a p s
  | .qmxa d a p b q => Sys2Proof.Machine.execQmxa d a p b q s
  | .bra imm => Sys2Proof.Machine.execBra imm s
  | .brall imm => Sys2Proof.Machine.execBrall imm s
  | .brany imm => Sys2Proof.Machine.execBrany imm s
  | .brx a => Sys2Proof.Machine.execBrx a s
  | .call imm => Sys2Proof.Machine.execCall imm s
  | .callx a => Sys2Proof.Machine.execCallx a s
  | .ret a => Sys2Proof.Machine.execRet a s
  | .split imm => Sys2Proof.Machine.execSplit imm s
  | .rcv imm => Sys2Proof.Machine.execRcv imm s
  | .wait p b => Sys2Proof.Machine.execWait p b s
  | .waitImm p n => Sys2Proof.Machine.execWaitImm p n s
  | .bkpt imm => Sys2Proof.Machine.execBkpt imm s
  | .msqStart x l => Sys2Proof.Machine.execMsqStart x l s
  | .msqQry z l => Sys2Proof.Machine.execMsqQry z l s
  | .ldb d a sb l q => Sys2Proof.Machine.execLdb d a sb l q s
  | .ldh d a sb l q => Sys2Proof.Machine.execLdh d a sb l q s
  | .ldw d a sb l q => Sys2Proof.Machine.execLdw d a sb l q s
  | .ldd d a sb l q => Sys2Proof.Machine.execLdd d a sb l q s
  | .ldq d a sb l q => Sys2Proof.Machine.execLdq d a sb l q s
  | .stb d a sb l q => Sys2Proof.Machine.execStb d a sb l q s
  | .sth d a sb l q => Sys2Proof.Machine.execSth d a sb l q s
  | .stw d a sb l q => Sys2Proof.Machine.execStw d a sb l q s
  | .std d a sb l q => Sys2Proof.Machine.execStd d a sb l q s
  | .stq d a sb l q => Sys2Proof.Machine.execStq d a sb l q s
  | .ldc d sb l q => Sys2Proof.Machine.execLdc d sb l q s
  | .pref v a sb l => Sys2Proof.Machine.execPref v a sb l s
  | .cctlL1inv a sb l => Sys2Proof.Machine.execCctlL1inv a sb l s
  | .cctlRdcinv a sb l => Sys2Proof.Machine.execCctlRdcinv a sb l s
  | .cctlWb a sb l => Sys2Proof.Machine.execCctlWb a sb l s
  | .cctlWbinv a sb l => Sys2Proof.Machine.execCctlWbinv a sb l s
  | .pinSet x y z l => Sys2Proof.Machine.execPinSet x y z l s
  | .pinClr x y z l => Sys2Proof.Machine.execPinClr x y z l s
  | .pinQry y z l => Sys2Proof.Machine.execPinQry y z l s
  | .pinAll z l => Sys2Proof.Machine.execPinAll z l s
  | .atrn d a sb l w => Sys2Proof.Machine.execAtrn d a sb l w s
  | .fence n c => Sys2Proof.Machine.execFence n c s
  | .binit x y l => Sys2Proof.Machine.execBinit x y l s
  | .barv x z l c => Sys2Proof.Machine.execBarv x z l c s
  | .barvB x y z l c => Sys2Proof.Machine.execBarvB x y z l c s
  | .bexp x y l => Sys2Proof.Machine.execBexp x y l s
  | .bwait x y c => Sys2Proof.Machine.execBwait x y c s
  | .btest x z l h => Sys2Proof.Machine.execBtest x z l h s
  | .rinit y k => Sys2Proof.Machine.execRinit y k s
  | .rarv z k => Sys2Proof.Machine.execRarv z k s
  | .rwait y k => Sys2Proof.Machine.execRwait y k s
  | .rsync z k => Sys2Proof.Machine.execRsync z k s
  | .aadd d a b l o => Sys2Proof.Machine.execAadd d a b l o s
  | .amin d a b l o => Sys2Proof.Machine.execAmin d a b l o s
  | .amax d a b l o => Sys2Proof.Machine.execAmax d a b l o s
  | .aand d a b l o => Sys2Proof.Machine.execAand d a b l o s
  | .aor d a b l o => Sys2Proof.Machine.execAor d a b l o s
  | .axor d a b l o => Sys2Proof.Machine.execAxor d a b l o s
  | .axch d a b l o => Sys2Proof.Machine.execAxch d a b l o s
  | .acas d a b l o => Sys2Proof.Machine.execAcas d a b l o s
  | .afadd d a b l o => Sys2Proof.Machine.execAfadd d a b l o s
  | .red o a b l r => Sys2Proof.Machine.execRed o a b l r s
  | .bump d a b l o => Sys2Proof.Machine.execBump d a b l o s
  | .sigi d a b o => Sys2Proof.Machine.execSigi d a b o s
  | .sigd d a b o => Sys2Proof.Machine.execSigd d a b o s
  | .tlsig d a b o => Sys2Proof.Machine.execTlsig d a b o s
  | .carm x y z l c => Sys2Proof.Machine.execCarm x y z l c s
  | .carmCancel y z l => Sys2Proof.Machine.execCarmCancel y z l s
  | .cpa d a sb l t => Sys2Proof.Machine.execCpa d a sb l t s
  | .hdefChk y z l => Sys2Proof.Machine.execHdefChk y z l s
  | .hdefBase x y l => Sys2Proof.Machine.execHdefBase x y l s
  | .hdefOrg x y l => Sys2Proof.Machine.execHdefOrg x y l s
  | .hdefAdv x y l => Sys2Proof.Machine.execHdefAdv x y l s
  | .hdefOrgh x y l => Sys2Proof.Machine.execHdefOrgh x y l s
  | .tcpy x y z l u n => Sys2Proof.Machine.execTcpy x y z l u n s
  | .tsto x y z l u n => Sys2Proof.Machine.execTsto x y z l u n s
  | .tred x y z l u n => Sys2Proof.Machine.execTred x y z l u n s
  | .tsct x y z l k => Sys2Proof.Machine.execTsct x y z l k s
  | .tgth x y z l u n => Sys2Proof.Machine.execTgth x y z l u n s
  | .crset x y l => Sys2Proof.Machine.execCrset x y l s
  | .crpop z l => Sys2Proof.Machine.execCrpop z l s
  | .crpopSeq z l => Sys2Proof.Machine.execCrpopSeq z l s
  | .crpopDrop z l => Sys2Proof.Machine.execCrpopDrop z l s
  | .mbxget z l => Sys2Proof.Machine.execMbxget z l s
  | .mbxgetSp y z l => Sys2Proof.Machine.execMbxgetSp y z l s
  | .mbxarm y => Sys2Proof.Machine.execMbxarm y s
  | .mbxarmCancel y z => Sys2Proof.Machine.execMbxarmCancel y z s
  | .evsigAdd x y => Sys2Proof.Machine.execEvsigAdd x y s
  | .evsigReset x y z => Sys2Proof.Machine.execEvsigReset x y z s
  | .evarm x y z => Sys2Proof.Machine.execEvarm x y z s
  | .evarmCancel y z => Sys2Proof.Machine.execEvarmCancel y z s
  | .evqry x z l h => Sys2Proof.Machine.execEvqry x z l h s
  | .opapp x y z l => Sys2Proof.Machine.execOpapp x y z l s
  | .fixup x z => Sys2Proof.Machine.execFixup x z s
  | .lmap y z l n => Sys2Proof.Machine.execLmap y z l n s
  | .xa2a x y z l n m => Sys2Proof.Machine.execXa2a x y z l n m s
  | .xag x y z l n m => Sys2Proof.Machine.execXag x y z l n m s
  | .xrs x y z l n m => Sys2Proof.Machine.execXrs x y z l n m s
  | .rdcfRange x y z l => Sys2Proof.Machine.execRdcfRange x y z l s
  | .rdcfMod y z l => Sys2Proof.Machine.execRdcfMod y z l s
  | .fqryPort y z l => Sys2Proof.Machine.execFqryPort y z l s
  | .fqryPlane y z l => Sys2Proof.Machine.execFqryPlane y z l s
  | .fqryReach y z l => Sys2Proof.Machine.execFqryReach y z l s
  | .digs a p b q => Sys2Proof.Machine.execDigs a p b q s
  | .clonChk d => Sys2Proof.Machine.execClonChk d s
  | .clonDrop d => Sys2Proof.Machine.execClonDrop d s
  | .clonTrans d => Sys2Proof.Machine.execClonTrans d s
  | .scrnDig z => Sys2Proof.Machine.execScrnDig z s
  | .susqScore y z => Sys2Proof.Machine.execSusqScore y z s
  | .susqQmask y z => Sys2Proof.Machine.execSusqQmask y z s
  | .susqStat y z => Sys2Proof.Machine.execSusqStat y z s
  | .trap imm => Sys2Proof.Machine.execTrap imm s
  | .csrr d c => Sys2Proof.Machine.execCsrr d c s
  | .csrw a c => Sys2Proof.Machine.execCsrw a c s
  | .tlbiWrite a => Sys2Proof.Machine.execTlbiWrite a s
  | .fpmapWrite a => Sys2Proof.Machine.execFpmapWrite a s
  | .pptQry z => Sys2Proof.Machine.execPptQry z s
  | .bswp z => Sys2Proof.Machine.execBswp z s
  | .bswpQry z => Sys2Proof.Machine.execBswpQry z s
  | .ctxs x y z => Sys2Proof.Machine.execCtxs x y z s
  | .ctxl x y z => Sys2Proof.Machine.execCtxl x y z s
  | .ctxlTeam x y z t => Sys2Proof.Machine.execCtxlTeam x y z t s
  | .tagsSet y => Sys2Proof.Machine.execTagsSet y s
  | .tagsCnt y z => Sys2Proof.Machine.execTagsCnt y z s
  | .purg y => Sys2Proof.Machine.execPurg y s
  | .purgClr y => Sys2Proof.Machine.execPurgClr y s
  | .purgQry y z => Sys2Proof.Machine.execPurgQry y z s
  | .mzero m v => Sys2Proof.Machine.execMzero m v s
  | .mma m a b k n u t => Sys2Proof.Machine.execMma m a b k n u t s
  | .mmas m a b k n u => Sys2Proof.Machine.execMmas m a b k n u s
  | .mmax m a b k n u t => Sys2Proof.Machine.execMmax m a b k n u t s
  | .mlda m a v t => Sys2Proof.Machine.execMlda m a v t s
  | .msta m a v sb r t => Sys2Proof.Machine.execMsta m a v sb r t s
  | .mcmp a b k => Sys2Proof.Machine.execMcmp a b k s
  | .marv k => Sys2Proof.Machine.execMarv k s
  | .mwat k => Sys2Proof.Machine.execMwat k s
  | .mhdl h imm => Sys2Proof.Machine.execMhdl h imm s
  | .mjmp imm => Sys2Proof.Machine.execMjmp imm s
  | .mloop n imm => Sys2Proof.Machine.execMloop n imm s
  | .lim imm => Sys2Proof.Machine.execLim imm s
  | .mtrn m t v c => Sys2Proof.Machine.execMtrn m t v c s
  | .nop => Sys2Proof.Machine.execNop s
  | .join => Sys2Proof.Machine.execJoin s
  | .exit => Sys2Proof.Machine.execExit s
  | .yield => Sys2Proof.Machine.execYield s
  | .jobdone => Sys2Proof.Machine.execJobdone s
  | .clonSync => Sys2Proof.Machine.execClonSync s
  | .scrnSkip => Sys2Proof.Machine.execScrnSkip s
  | .rte => Sys2Proof.Machine.execRte s
  | .ppt => Sys2Proof.Machine.execPpt s
  | .halt => Sys2Proof.Machine.execHalt s
  | .mend => Sys2Proof.Machine.execMend s
  | .mendComplete team => Sys2Proof.Machine.execMendComplete team s
  | .idleDemote team grp spl => Sys2Proof.Machine.execIdleDemote team grp spl s
  | .entityRotate core part => Sys2Proof.Machine.execEntityRotate core part s
  | .ownerChecksPassed flight => Sys2Proof.Machine.execOwnerChecksPassed flight s
  | .loadDataReturn flight => Sys2Proof.Machine.execLoadDataReturn flight s
  | .storePerform flight => Sys2Proof.Machine.execStorePerform flight s
  | .atomicExecute flight => Sys2Proof.Machine.execAtomicExecute flight s
  | .l1Invalidate core line => Sys2Proof.Machine.execL1Invalidate core line s
  | .fenceComplete team grp spl => Sys2Proof.Machine.execFenceComplete team grp spl s
  | .tlbiComplete flight => Sys2Proof.Machine.execTlbiComplete flight s
  | .uncorrectableError addr => Sys2Proof.Machine.execUncorrectableError addr s
  | .leaseExpire die line => Sys2Proof.Machine.execLeaseExpire die line s
  | .leaseInvalidateTimeout die line => Sys2Proof.Machine.execLeaseInvalidateTimeout die line s
  | .cpaLand flight => Sys2Proof.Machine.execCpaLand flight s
  | .tileOpComplete flight => Sys2Proof.Machine.execTileOpComplete flight s
  | .tredTurn flight => Sys2Proof.Machine.execTredTurn flight s
  | .fixupRelease flight => Sys2Proof.Machine.execFixupRelease flight s
  | .xrsTurn flight => Sys2Proof.Machine.execXrsTurn flight s
  | .exchangeComplete flight => Sys2Proof.Machine.execExchangeComplete flight s
  | .opExpand die vi stream => Sys2Proof.Machine.execOpExpand die vi stream s
  | .eventSubscribe msg => Sys2Proof.Machine.execEventSubscribe msg s
  | .eventHomeUpdate msg => Sys2Proof.Machine.execEventHomeUpdate msg s
  | .eventNotify msg => Sys2Proof.Machine.execEventNotify msg s
  | .jobPlace die => Sys2Proof.Machine.execJobPlace die s
  | .jobdoneRetire flight => Sys2Proof.Machine.execJobdoneRetire flight s
  | .teamPlace launch => Sys2Proof.Machine.execTeamPlace launch s
  | .gangAge launch => Sys2Proof.Machine.execGangAge launch s
  | .gangStarved launch => Sys2Proof.Machine.execGangStarved launch s
  | .waitTimeout who => Sys2Proof.Machine.execWaitTimeout who s
  | .purgeComplete vi tag => Sys2Proof.Machine.execPurgeComplete vi tag s
  | .drainAllParked core => Sys2Proof.Machine.execDrainAllParked core s
  | .drainFlushDone core => Sys2Proof.Machine.execDrainFlushDone core s
  | .drainImageWritten core => Sys2Proof.Machine.execDrainImageWritten core s
  | .drainbExpire core => Sys2Proof.Machine.execDrainbExpire core s
  | .contextSaveDone core => Sys2Proof.Machine.execContextSaveDone core s
  | .contextLoadDone core => Sys2Proof.Machine.execContextLoadDone core s
  | .coreLost core => Sys2Proof.Machine.execCoreLost core s
  | .replayRerun core part res => Sys2Proof.Machine.execReplayRerun core part res s
  | .cupTimerExpire die job => Sys2Proof.Machine.execCupTimerExpire die job s
  | .scoreDecay die => Sys2Proof.Machine.execScoreDecay die s
  | .pktFetch queue => Sys2Proof.Machine.execPktFetch queue s
  | .pktReread queue => Sys2Proof.Machine.execPktReread queue s
  | .queueTranslateRetry queue => Sys2Proof.Machine.execQueueTranslateRetry queue s
  | .nopPacket queue => Sys2Proof.Machine.execNopPacket queue s
  | .queryStatus queue => Sys2Proof.Machine.execQueryStatus queue s
  | .clearQuarantine queue => Sys2Proof.Machine.execClearQuarantine queue s
  | .opstreamRegister queue => Sys2Proof.Machine.execOpstreamRegister queue s
  | .opstreamUnregister queue => Sys2Proof.Machine.execOpstreamUnregister queue s
  | .opstreamClearStop queue => Sys2Proof.Machine.execOpstreamClearStop queue s
  | .eventAdd queue => Sys2Proof.Machine.execEventAdd queue s
  | .eventReset queue => Sys2Proof.Machine.execEventReset queue s
  | .launch queue => Sys2Proof.Machine.execLaunch queue s
  | .contextBank queue => Sys2Proof.Machine.execContextBank queue s
  | .contextTeam queue => Sys2Proof.Machine.execContextTeam queue s
  | .preemptDrain queue => Sys2Proof.Machine.execPreemptDrain queue s
  | .preemptImmediate queue => Sys2Proof.Machine.execPreemptImmediate queue s
  | .purge queue => Sys2Proof.Machine.execPurge queue s
  | .purgeClear queue => Sys2Proof.Machine.execPurgeClear queue s
  | .laneFailure port => Sys2Proof.Machine.execLaneFailure port s
  | .portRetrain port width => Sys2Proof.Machine.execPortRetrain port width s
  | .planeQuiesced module plane => Sys2Proof.Machine.execPlaneQuiesced module plane s
  | .fabricRequestArrive req => Sys2Proof.Machine.execFabricRequestArrive req s
  | .fabricAck req => Sys2Proof.Machine.execFabricAck req s
  | .dedupAdvance src tgt => Sys2Proof.Machine.execDedupAdvance src tgt s
  | .requestResend req => Sys2Proof.Machine.execRequestResend req s
  | .reachTimeout req => Sys2Proof.Machine.execReachTimeout req s
  | .moduleReset module slotid => Sys2Proof.Machine.execModuleReset module slotid s
  | .functionReady fn => Sys2Proof.Machine.execFunctionReady fn s
  | .throttleDown die cause => Sys2Proof.Machine.execThrottleDown die cause s
  | .throttleUp die => Sys2Proof.Machine.execThrottleUp die s
  | .thermalTrip module => Sys2Proof.Machine.execThermalTrip module s
  | .powerCapWindow vi energy => Sys2Proof.Machine.execPowerCapWindow vi energy s
  | .telemetry module => Sys2Proof.Machine.execTelemetry module s
  | .firmwareUpdate module img => Sys2Proof.Machine.execFirmwareUpdate module img s
  | .svnCommit module svn => Sys2Proof.Machine.execSvnCommit module svn s
  | .attestation module nonce => Sys2Proof.Machine.execAttestation module nonce s
  | .viConfiguration cfg => Sys2Proof.Machine.execViConfiguration cfg s
  | .measureExtend module reg obj => Sys2Proof.Machine.execMeasureExtend module reg obj s
  | .rdmaTransfer module vi addr len data => Sys2Proof.Machine.execRdmaTransfer module vi addr len data s
  | .notAnInstruction w => Sys2Proof.Machine.execNotAnInstruction w s
  | .mWordNotInstruction w => Sys2Proof.Machine.execMWordNotInstruction w s
  | .retrainComplete port => Sys2Proof.Machine.execRetrainComplete port s
  | .linkLevelRetry port => Sys2Proof.Machine.execLinkLevelRetry port s
  | .killTeam team => Sys2Proof.Machine.execKillTeam team s
  | .releaseColRecords vi addr => Sys2Proof.Machine.execReleaseColRecords vi addr s

end Sys2Proof.Machine
end

