-- ==== Sys2Proof/Machine/Issue.lean ====
section
/-! DEFINITION. How a split issues its next word, how a sequencer slot runs its next, and which agent takes the
machine's next step (02_words.md R51 to R60; 06_control.md R133, R149; 07_memory.md R166; 08_ordering.md R183 to
R186; 10_matrix.md R222; 15_checking.md R351, R352; log 2). -/

namespace Sys2Proof.Machine

/-! ## Classes of words -/

/-- Major opcode. -/
def majorOf (w : Word) : Nat := w.toNat / 2 ^ 24

/-- The window-closing words (R52). -/
def closesWindow (op : Nat) : Bool :=
  (decide (0x70 ≤ op) && decide (op ≤ 0x7E)) ||
    [0xA0, 0xA4, 0xA8, 0xA9, 0xD1, 0xD2, 0xD3, 0xD4, 0xD7, 0xEA, 0xEB].contains op ||
    (decide (0xF0 ≤ op) && decide (op ≤ 0xFA))

/-- The L, A, C and E formats (R33). -/
def isLWord (op : Nat) : Bool := (decide (0x80 ≤ op) && decide (op ≤ 0x8C)) || op == 0x8E
def isAWord (op : Nat) : Bool := decide (0xB0 ≤ op) && decide (op ≤ 0xBD)
def isCWord (op : Nat) : Bool := op == 0xC0
def isEWord (op : Nat) : Bool :=
  [0x7E, 0x8D, 0xBE, 0xEA, 0xEB].contains op || (decide (0xA1 ≤ op) && decide (op ≤ 0xA9)) ||
    (decide (0xC1 ≤ op) && decide (op ≤ 0xC8)) || (decide (0xD0 ≤ op) && decide (op ≤ 0xD7)) ||
    (decide (0xE0 ≤ op) && decide (op ≤ 0xE5)) || (decide (0xF4 ≤ op) && decide (op ≤ 0xF9))

/-- An owner: a word of class D (R51, R52). -/
def isOwner (op : Nat) : Bool := isLWord op || isAWord op || isCWord op || isEWord op

/-- The lookahead field of an owner (R30). -/
def laOf (w : Word) : Nat :=
  let op := majorOf w
  if isAWord op then fld w.toNat 2 4 else if isEWord op then fld w.toNat 5 4 else fld w.toNat 3 4

/-- The words that R33 marks privileged, but for CSRR, whose check depends on its register. -/
def isPrivWord (op : Nat) : Bool := [0x8D, 0xEB, 0xF1, 0xF3, 0xF5, 0xF6, 0xF7, 0xF8, 0xF9, 0xFA].contains op

/-- The words of the cloned set (15_checking.md R351): the V, I and P words of the arithmetic chapters. -/
def isCloned (op : Nat) : Bool :=
  (decide (0x02 ≤ op) && decide (op ≤ 0x27)) || (decide (0x29 ≤ op) && decide (op ≤ 0x2C)) ||
    (decide (0x3A ≤ op) && decide (op ≤ 0x3C)) || (decide (0x40 ≤ op) && decide (op ≤ 0x5C)) ||
    [0x60, 0x61, 0x63, 0x64, 0x65].contains op

/-- Those that the replay queue alone checks. -/
def isCrossLane (op : Nat) : Bool := [0x26, 0x27, 0x29, 0x2A, 0x2C, 0x3C, 0x5B, 0x5C, 0x64].contains op

/-! ## The word in hand -/

/-- Run a word at the PC of the split in focus. -/
def runWord (w : Word) (s : State) : Host.Outcome State Fault Refusal :=
  match decodeMajor w.toNat with
  | .ok i => exec i s
  | .error .immediateWord => execLim (bits w.toNat 0 24) s
  | .error _ => execNotAnInstruction w s

/-- The instruction that a word begins, with the word that holds its opcode: of a LIM pair, the second. -/
def insnAt (s : State) (w : Word) : Option (Word × Instr) :=
  match decodeMajor w.toNat with
  | .ok i => some (w, i)
  | .error .immediateWord =>
    (match fetchWord s (s.split.pc + 4) with
     | .error _ => none
     | .ok w2 =>
       match decodeMajor w2.toNat with
       | .ok i => if (execFused i s).isSome then some (w2, i) else none
       | .error _ => none)
  | .error _ => none

/-- The state that an outcome leaves; a word's outcome is always a next state. -/
def outcomeOr (s : State) (o : Host.Outcome State Fault Refusal) : State :=
  match o with
  | .next t => t
  | .fault _ => s
  | .refused _ => s

/-- The fused immediate of the pair that a word begins. -/
def withLim (s : State) (w : Word) : State := if majorOf w = 0xFF then { s with lim := some (bits w.toNat 0 24) } else s

/-! ## Lookahead windows (R52, R53) -/

/-- Registers that a split or a merge copies for its splits: it reads them (06_control.md R139, R141; log 86). -/
def copied (op : Nat) : List Reg := if op = 0x77 ∨ op = 0x79 then (List.range 32).map Reg.s else []

/-- What the next instruction is held for: an owner whose checks are to come, or an owner's result. -/
def windowHold (s : State) (op : Nat) (regs : List Reg) : Option WaitCond :=
  let closes := closesWindow op
  let owner : Option WaitCond := match s.split.owner with
    | none => none
    | some (id, _) =>
      if closes || isOwner op || s.split.windows.any (fun x => x.flight == some id && x.left == 0) then some (.flight id)
      else none
  match owner with
  | some c => some c
  | none => s.split.windows.findSome? (fun (x : Window) =>
      if (closes || x.left == 0) && regs.any (fun r => x.dests.contains r) then
        match x.flight with
        | some f => if pending s f then some (.result f) else none
        | none => none
      else none)

/-- The owner in whose window the instruction names a register that the owner writes; of several, the one whose window is
the oldest (log 70). -/
def lookaheadOf (s : State) (op : Nat) (regs : List Reg) : Option DWord :=
  if closesWindow op then none
  else (s.split.windows.find? (fun x => decide (0 < x.left) && regs.any (fun r => x.dests.contains r))).map Window.owner

/-- The windows once an instruction is executed. -/
def passWindows (op : Nat) (ws : List Window) : List Window :=
  ws.map (fun w => { w with left := if closesWindow op then 0 else w.left - 1 })

def withPassed (s : State) (op : Nat) : State :=
  { s with split := { s.split with windows := passWindows op s.split.windows } }

/-- The addresses that an L or A word will have checked. -/
def ownerAddrs (s : State) (w : Word) : List (Nat × Nat) :=
  let op := majorOf w
  if op = 0x8A then [(0, (rs s (fld w.toNat 7 5) + limOffset s).toNat)]
  else if isAWord op then aAddrs s (fld w.toNat 12 6)
  else lAddrs s (fld w.toNat 12 6) (fld w.toNat 7 5)

/-- An L or A owner with a window whose translation is not held by the core's TLB: its checks come later. -/
def putsOff (s : State) (w : Word) (i : Instr) : Bool :=
  let op := majorOf w
  (isLWord op || isAWord op) && decide (0 < laOf w) && active s != 0 && s.split.fence.isNone && s.split.owner.isNone &&
    !isChecked i && !operandsBad s i && (ownerAddrs s w).any (fun e => decide (e.2 < Config.window) &&
      (tlbFind s (unitCore s.team.core) s.team.vi e.2).isNone)

/-! ## Fence windows (06_control.md R149; 08_ordering.md R184, R186) -/

/-- Words that wait for the fence whatever their operands. -/
def waitsForFence (op : Nat) : Bool :=
  [0x75, 0x77, 0x79, 0x7A, 0x7C, 0x7D, 0x7E, 0x8C, 0xA0].contains op || isAWord op || isCWord op || isEWord op ||
    (decide (0xF0 ≤ op) && decide (op ≤ 0xFA))

/-- The bytes that an L word accesses in a lane. -/
def accessBytes (op : Nat) : Nat :=
  if op = 0x8A then 8 else if op ≤ 0x84 then 2 ^ (op - 0x80) else 2 ^ (op - 0x85)

/-- Some lane of an L word reaches a page with ATTR 1 or 2. -/
def attrLanes (s : State) (w : Word) : Bool :=
  let op := majorOf w
  let k : Kind := if decide (0x85 ≤ op) && decide (op ≤ 0x89) then .write else .read
  (ownerAddrs s w).any (fun e =>
    match check s (me s) k e.2 (accessBytes op) with
    | .ok g => !g.window && g.attr != 0
    | .error _ => false)

/-- Every lane of an L word passes its translation. -/
def lanesPass (s : State) (w : Word) : Bool :=
  let op := majorOf w
  let k : Kind := if decide (0x85 ≤ op) && decide (op ≤ 0x89) then .write else .read
  (ownerAddrs s w).all (fun e => match check s (me s) k e.2 (accessBytes op) with | .ok _ => true | .error _ => false)

/-- An L word that does not issue until the fence completes: a store of q 3 to 5 or 7, and, once it is translated, an
access of q 6 or to ATTR 1 or 2. -/
def fenceBarsAccess (s : State) (w : Word) : Bool :=
  let op := majorOf w
  let q := fld w.toNat 0 3
  let store := decide (0x85 ≤ op) && decide (op ≤ 0x89)
  if op = 0x8B ∨ op = 0x8E then false
  else (store && decide (3 ≤ q) && q != 6) || ((q == 6 || attrLanes s w) && lanesPass s w)

/-- The open speculative window of the split keeps an instruction from issuing; a CALL with an empty take is in neither
list of R149, and waits (log 74). -/
def fenceBars (s : State) (w : Word) : Bool :=
  match s.split.fence with
  | none => false
  | some f =>
    let op := majorOf w
    decide (16 ≤ f.used) || waitsForFence op || (isLWord op && fenceBarsAccess s w) ||
      (op == 0x74 && active s != s.split.mask)

/-- Lines and rows that a split's window tracks. -/
def trackedBy (x : Split) : Nat := match x.fence with | some f => f.tracked.length | none => 0

/-- A partial take, or more tracked lines than a group may have: found when the instruction is executed, and undone. -/
def fenceUndoes (s t : State) : Bool :=
  t.split.fence.isSome && (t.split.stack != s.split.stack || t.split.spilled != s.split.spilled ||
    (trackedBy s.split != trackedBy t.split && decide (64 < trackedBy t.split + (t.group.splits.map trackedBy).sum)))

/-- A handler could be entered, and no tag is fatal: what TakeTrap would then write shows the trap. -/
def armed (s : State) : State :=
  { s with
    team := { s.team with tvec := putBits s.team.tvec 0 1 1, rtag := if s.team.rtag = 0 then 1 else s.team.rtag }
    split := { s.split with tstat := putBits s.split.tstat 1 1 0 } }

/-- The split in focus is still the one that issued. -/
def sameSplit (s t : State) : Bool :=
  t.live && t.team.id == s.team.id && t.group.num == s.group.num && t.split.num == s.split.num

/-- The trap that an instruction raises, from the frame it leaves. -/
def trapOf (t : State) : TrapInfo :=
  let f := t.split.frame
  ⟨f.trapc.toNat, f.trappc, f.trapv, f.trapm, f.defpc⟩

/-- The trap that an instruction would raise. -/
def ownTrap (s : State) (f : State → State) : Option TrapInfo :=
  let a := armed s
  if sameSplit a (f a) && tookTrap a (f a) then some (trapOf (f a)) else none

/-- The windows that an instruction of opcode `op` leaves when it traps: a trap that resumes after its instruction is that
instruction executed (TRAP, BKPT), and one that resumes at it is not. -/
def trapWindows (s t : State) (op : Nat) : List Window :=
  if t.split.frame.trappc = s.split.pc then s.split.windows else passWindows op s.split.windows

/-- An instruction's trap: in a fence window it is held (R186), in the window of an owner whose checks are to come the
instruction waits for them, and otherwise it is taken. -/
def guardTrap (s : State) (op : Nat) (f : State → State) : State :=
  match s.split.fence, s.split.owner with
  | some w, _ =>
    hold { s with split := { s.split with fence := some { w with trap := some (trapOf (f (armed s))) } } } .fence
  | none, some (id, _) => hold s (.flight id)
  | none, none => { f s with split := { (f s).split with windows := trapWindows s (f s) op } }

/-! ## After an instruction -/

/-- An instruction whose result is no lane register, scalar or predicate: an index register, MODE, indexed registers, or
the generators. -/
def writesOther (i : Instr) : Bool :=
  match i with
  | .setx _ _ _ => true
  | .stx _ _ _ _ _ => true
  | .setm _ => true
  | .modi _ _ => true
  | .seed _ => true
  | .rngSet _ _ => true
  | _ => false

/-- The instruction needs an entry of the write log; a branch and RCV need none (log 93). -/
def needsEntry (s : State) (w : Word) (i : Instr) : Bool :=
  (s.split.fence.isSome || s.split.owner.isSome) &&
    (!(writes s.split.mode i).isEmpty || writesOther i || (decide (0x85 ≤ majorOf w) && decide (majorOf w ≤ 0x89)) || majorOf w == 0xE8)

/-- One more instruction of an open window. -/
def countWindow (s t : State) (entry : Bool) : State :=
  { t with split := { t.split with
      entries := if entry then s.split.entries + 1 else t.split.entries
      fence := if s.split.fence.isSome then t.split.fence.map (fun w => { w with used := w.used + 1 }) else t.split.fence } }

/-- The window that an executed owner opens; an owner's result exists at once when nothing is in flight for it. -/
def openWindow (s t : State) (w : Word) (i : Instr) : List Window :=
  let dests := writes s.split.mode i
  let fl := if pending t s.fresh then some s.fresh else none
  if !isOwner (majorOf w) || dests.isEmpty || (laOf w == 0 && fl.isNone) then []
  else [⟨s.split.pc, laOf w, dests, fl⟩]

/-- A window that no instruction can meet any more is gone. -/
def liveWindow (t : State) (x : Window) : Bool :=
  decide (0 < x.left) || (match x.flight with | some f => pending t f | none => false)

/-- The fused immediate of the instruction at the PC. -/
def limAt (s : State) : Option (BitVec 24) :=
  match fetchWord s s.split.pc with
  | .ok w => if majorOf w = 0xFF then some (bits w.toNat 0 24) else none
  | .error _ => none

/-- Doppio (15_checking.md R351 to R353): a cloned instruction is checked by its mirror at once, or is captured. -/
def checkClone (s t : State) (w : Word) (i : Instr) : State :=
  if mClone s.split.mode && isCloned (majorOf w) && active s != 0 then
    let e := capture s t (limAt s) i
    if !isCrossLane (majorOf w) && mirrored s then mirrorCheck t s.team.core e else enterReplay t e
  else t

/-- An executed instruction's effect on the windows, the log and the checks of its split. -/
def executed (s t : State) (w : Word) (i : Instr) (entry : Bool) : State :=
  if !sameSplit s t then t
  else
    let t := checkClone s t w i
    let t := if s.split.fence.isSome || entry then countWindow s t entry else t
    let ws := (t.split.windows ++ openWindow s t w i).filter (liveWindow t)
    { t with split := { t.split with windows := ws, issued := true, woke := t.tick } }

/-- What became of an instruction: `s` before it, `f` its effect. -/
def settle (s : State) (w : Word) (i : Instr) (f : State → State) : State :=
  let t := f (withPassed s (majorOf w))
  let entry := needsEntry s w i
  if sameSplit s t && tookTrap s t then guardTrap s (majorOf w) f
  else if sameSplit s t && heldAt s t then { t with split := { t.split with windows := s.split.windows } }
  else if sameSplit s t && pathFull t then hold s (.room (.path ((fullPath t).getD 0)))
  else if s.split.fence.isSome && fenceUndoes s t then hold s .fence
  else if entry && decide (16 ≤ logUsed s) then hold s (.room .log)
  else executed s t w i entry

/-! ## Issue -/

/-- A deferred fault due at the instruction in hand, unless a window of the split is open. -/
def deliverHere (s : State) (d : DFault) : State :=
  match s.split.fence, s.split.owner with
  | some _, _ => hold s .fence
  | none, some (id, _) => hold s (.flight id)
  | none, none => deliver s d

/-- An instruction is held (R52): while it waits for a result, a deferred fault that such a hold delivers comes first. -/
def holdFor (s : State) (regs : List Reg) (c : WaitCond) : State :=
  match c with
  | .result _ =>
    (match dueFault s .result, dueFault s (.held regs) with
     | some a, some b => deliverHere s (if b.id < a.id then b else a)
     | some a, none => deliverHere s a
     | none, some b => deliverHere s b
     | none, none => hold s c)
  | _ => hold s c

/-- The last decode check fails (R35): a privileged word stands in user mode; CSRR of a privileged number is one, SREG of a
privileged code is not (log 104). The checks of R65 and R67 come after it, with the instruction's own. -/
def decodeBad (s : State) (w : Word) (i : Instr) : Bool :=
  userMode s && (isPrivWord (majorOf w) || (match i with | .csrr _ c => csrPriv c.toNat | _ => false))

/-- LOOKAHEAD, unless the instruction raises a trap of a lower code (00_scope.md R8). -/
def raiseLookahead (s : State) (op : Nat) (o : DWord) (f : State → State) : State :=
  let look := guardTrap s op (fun s => trap s Cause.lookahead o (active s))
  match ownTrap s f with
  | some t => if t.cause < Cause.lookahead then guardTrap s op f else look
  | none => look

/-- An instruction that nothing holds or traps before it: its owner's checks are put off, or it is carried out. -/
def carryOut (s : State) (w0 w : Word) (i : Instr) (f : State → State) : State :=
  let op := majorOf w
  if putsOff (withLim s w0) w i then
    match fullPath (f (withPassed s op)) with
    | some p => hold s (.room (.path p))
    | none => deferOwner (withLim s w0) i (laOf w) (passWindows op s.split.windows)
  else settle s w i f

/-- The word at the PC, fetched, is issued: first the decode checks, then the holds, then a deferred fault due at an
instruction that names its register, then the instruction (00_scope.md R8). -/
def issueWord (s : State) (w0 : Word) : State :=
  let f := fun s => outcomeOr s (runWord w0 s)
  match insnAt s w0 with
  | none => guardTrap s (majorOf w0) f
  | some (w, i) =>
    let op := majorOf w
    let regs := touches s.split.mode i
    if decodeBad s w i then settle s w i f
    else
      match windowHold s op (regs ++ copied op) with
      | some c => holdFor s regs c
      | none =>
        if fenceBars (withLim s w0) w then hold s .fence
        else
          match dueFault s (.held regs), lookaheadOf s op regs with
          | some d, _ => deliverHere s d
          | none, some o => raiseLookahead s op o f
          | none, none => walked s true (translates (withLim s w0) i) (fun s => carryOut s w0 w i f)

/-- The wait that an instruction held at its own address left behind is told to it when it issues again. -/
def beginIssue (s : State) : State :=
  { s with
    lim := none
    split := { s.split with
      wait := match s.split.wait with
        | some (.rsync k t) => some (.rsync k t)
        | some (.performed ids (c + 1)) => some (.performed ids (c + 1))
        | some (.walk d ids pas) => some (.walk d ids pas)
        | some (.barrier a p t) => some (.barrier a p t)
        | _ => none } }

/-- A fetch fault: one that an error causes is taken when no window of the split is open. -/
def fetchFails (s : State) (c : Nat) : State :=
  if c = Cause.poison then
    match s.split.fence, s.split.owner with
    | some _, _ => hold s .fence
    | none, some (id, _) => hold s (.flight id)
    | none, none => fetchFault s c
  else guardTrap s 0 (fun s => fetchFault s c)

/-- Fetch at the PC, and issue. -/
def fetchIssue (s : State) : State :=
  walked s false (transFetch s) (fun s =>
    match fetchWord s s.split.pc with
    | .error c => fetchFails s c
    | .ok w => issueWord (touch s (me s) s.split.pc.toNat 4) w)

/-- The outcome of a checked atomic that an image carried, raised before the split's first instruction (09_atomics.md
R219). -/
def raiseOutcome (s : State) : State :=
  let s1 := { s with split := { s.split with outcome := 0 } }
  match s.group.faults.find? (fun f => f.at_ == .result && f.spl == s.split.num) with
  | some f => deliver s1 f
  | none => s1

/-- The split in focus, which is ready, takes its next step. -/
def issue (s : State) : State :=
  let s := beginIssue s
  if s.split.outcome ≠ 0 then raiseOutcome s
  else if (reconvergeOnce s).isSome then
    match s.split.fence, s.split.owner with
    | some _, _ => hold s .fence
    | none, some (id, _) => hold s (.flight id)
    | none, none => inOrder s (spilledSlots s) (fun s =>
        let t := reconverge s
        if (lostRefill s t).isSome then refilling s t else fetchIssue t)
  else fetchIssue s

/-! ## The sequencer slots (10_matrix.md R222, R235) -/

/-- Run a word of a matrix stream. -/
def runM (w : Word) (s : State) : Host.Outcome State Fault Refusal :=
  match decodeM w.toNat with
  | .ok i => exec i s
  | .error .tileMoveWord => execMtrn (bits w.toNat 22 2) (bits w.toNat 17 2) (bits w.toNat 12 1) (bits w.toNat 3 1) s
  | .error _ => execMWordNotInstruction w s

/-- A slot has a step to take: it runs, it does not hold, and a wait of MWAT is over. -/
def slotReady (s : State) (t : Team) (m : MSlot) : Bool :=
  teamGoes s t && slotRuns t && !m.ending && m.fault.isNone && m.after.all (fun i => !pending s i) &&
    (match m.waiting with
     | none => true
     | some k => reached (teamPoint t k).phase (targetOf m k))

/-- The slot of a team takes its next step. -/
def slotIssue (s : State) (t : Team) (m : MSlot) : State :=
  match slotFetch s t m with
  | .error w => stopSlot s t m w
  | .ok w => { outcomeOr s (runM w { s with mteam := some t.id }) with mteam := none }

/-- MEND's stream is at its end once the core's queued stores are performed (R230). -/
def slotStep (s : State) (t : Team) : Host.Outcome State Fault Refusal :=
  match t.mslot with
  | none => .fault .notEnabled
  | some m =>
    if slotReady s t m then .next (slotIssue s t m)
    else if m.ending then execMendComplete t.id s
    else .fault .notEnabled

/-! ## Who steps next (log 2) -/

/-- The first of two outcomes that is a next state. -/
def orNext (a : Host.Outcome State Fault Refusal) (b : Unit → Host.Outcome State Fault Refusal) :
    Host.Outcome State Fault Refusal :=
  match a with
  | .next t => .next t
  | _ => b ()

/-- The step of a flight. -/
def flightStep (s : State) (f : Flight) : Host.Outcome State Fault Refusal :=
  match f.kind with
  | .load => execLoadDataReturn f.id s
  | .store => execStorePerform f.id s
  | .cctl => execStorePerform f.id s
  | .atomic => execAtomicExecute f.id s
  | .cpa => execCpaLand f.id s
  | .tile => orNext (execTredTurn f.id s) (fun _ => execTileOpComplete f.id s)
  | .fixup => orNext (execFixupRelease f.id s) (fun _ => execTileOpComplete f.id s)
  | .exchange => orNext (execXrsTurn f.id s) (fun _ => execExchangeComplete f.id s)
  | .jobdone => execJobdoneRetire f.id s
  | .tlbi => execTlbiComplete f.id s
  | .ctxSave => execContextSaveDone f.core s
  | .ctxLoad => execContextLoadDone f.core s
  | .owner => execOwnerChecksPassed f.id s

/-- The step of an event message. -/
def msgStep (s : State) (m : Msg) : Host.Outcome State Fault Refusal :=
  orNext (execEventSubscribe m.id s) (fun _ => orNext (execEventHomeUpdate m.id s) (fun _ => execEventNotify m.id s))

/-- The step of a request between modules. -/
def reqStep (s : State) (r : Request) : Host.Outcome State Fault Refusal :=
  orNext (execFabricRequestArrive r.id s) (fun _ => execFabricAck r.id s)

/-- The step of a die's Col and waiters. -/
def dieStep (s : State) (e : Nat × DieSt) : Host.Outcome State Fault Refusal :=
  e.2.streams.foldl (fun o x => orNext o (fun _ => execOpExpand e.1 x.vi x.num s))
    (orNext (execJobPlace e.1 s) (fun _ => execScoreDecay e.1 s))

/-- The step of a core: its drain, its background save or load, its replay queues. -/
def coreStep (s : State) (c : Nat) : Host.Outcome State Fault Refusal :=
  orNext (execDrainAllParked c s) (fun _ =>
  orNext (execDrainFlushDone c s) (fun _ =>
  orNext (execDrainImageWritten c s) (fun _ =>
  orNext (execContextSaveDone c s) (fun _ =>
  orNext (execContextLoadDone c s) (fun _ =>
    (List.range 12).foldl (fun o p => orNext o (fun _ => execReplayRerun c p ⟨Config.laneFlips c s.tick 2, Config.laneFlips c s.tick 3⟩ s)) (.fault .notEnabled))))))

/-- The step of a queue: its next slot is read, or its packet is carried out. -/
def queueStep (s : State) (q : Nat) : Host.Outcome State Fault Refusal :=
  orNext (execPktFetch q s) (fun _ =>
  [execNopPacket, execQueryStatus, execClearQuarantine, execOpstreamRegister, execOpstreamUnregister,
   execOpstreamClearStop, execEventAdd, execEventReset, execLaunch, execContextBank, execContextTeam,
   execPreemptDrain, execPreemptImmediate, execPurge, execPurgeClear].foldl
    (fun o f => orNext o (fun _ => f q s)) (.fault .notEnabled))

/-- The step of a split other than its next word: its fence completes. -/
def fenceStep (s : State) (t : Team) : Host.Outcome State Fault Refusal :=
  t.groups.foldl (fun o g => g.splits.foldl (fun o x =>
    if x.fence.isSome then orNext o (fun _ => execFenceComplete t.id g.num x.num s) else o) o) (.fault .notEnabled)

/-- The step of a module's fabric: a quiesced plane. -/
def planeStep (s : State) (m : Nat) : Host.Outcome State Fault Refusal :=
  [0, 1, 2, 3, 4, 5, 6, 7].foldl (fun o p => orNext o (fun _ => execPlaneQuiesced m p s)) (.fault .notEnabled)

/-- Everything that may take a step of its own, beside the splits' words. -/
def devices (s : State) : List (Unit → Host.Outcome State Fault Refusal) :=
  let ts := allTeams s
  s.flights.map (fun f _ => flightStep s f) ++ ts.map (fun t _ => fenceStep s t) ++
    s.reqs.map (fun r _ => reqStep s r) ++ s.dedups.map (fun d _ => execDedupAdvance d.src d.tgt s) ++
    s.msgs.map (fun m _ => msgStep s m) ++ s.dies.map (fun e _ => dieStep s e) ++
    s.cores.map (fun e _ => coreStep s e.1) ++ s.purges.map (fun p _ => execPurgeComplete (viKey p.module p.vi) p.tag s) ++
    s.launches.map (fun l _ => execTeamPlace l.id s) ++ s.queues.map (fun e _ => queueStep s e.1) ++
    s.modules.map (fun e _ => planeStep s e.1) ++ ts.map (fun t _ => slotStep s t)

/-- The first of a list that can step. -/
def firstStep : List (Unit → Host.Outcome State Fault Refusal) → Option State
  | [] => none
  | f :: r => match f () with | .next t => some t | _ => firstStep r

/-- A list begun at its `k`-th member. -/
def rotate {α : Type} (k : Nat) (l : List α) : List α :=
  if l.isEmpty then [] else l.drop (k % l.length) ++ l.take (k % l.length)

/-- The split in focus issues in this step: it is the one that its partition picks. -/
def focusGoes (s : State) : Bool :=
  s.live && (match picked s s.team.core s.group.part with
    | some e => e.1 == s.team.id && e.2.1 == s.group.num && e.2.2.num == s.split.num
    | none => false)

/-- Partitions of the cores that hold teams. -/
def partitions (s : State) : List (Nat × Nat) :=
  s.cores.flatMap (fun e => (List.range 12).map (fun p => (e.1, p)))

/-- Fill every partition's free entries. -/
def fillAll (s : State) : State := (partitions s).foldl (fun s p => fillActive p.1 p.2 8 s) s

/-- What the partitions pick takes turns: the `k`-th of them issues. -/
def otherIssue (s : State) (k : Nat) : Option State :=
  match (rotate k ((partitions s).filterMap (fun p => picked s p.1 p.2))).head? with
  | none => none
  | some e => some (issue (focusOn s e.1 e.2.1 e.2.2.num))

/-- An active entity that is not ready gives its entry up, when another waits for one (R58, R60). -/
def scheduleStep (s : State) : Option State :=
  let idle := (partitions s).flatMap (fun p =>
    if (readyPending s p.1 p.2).isEmpty then [] else
      ((entities s p.1 p.2).filter (fun e => e.2.2.active && !entityReady s e)).map
        (fun e => (fun (_ : Unit) => execIdleDemote e.1 e.2.1 e.2.2.num s)))
  let turn := (partitions s).map (fun p => (fun (_ : Unit) => execEntityRotate p.1 p.2 s))
  firstStep (idle ++ turn)

/-- The first answer of a list of choices. -/
def firstOf : List (Unit → Option State) → Option State
  | [] => none
  | f :: r => match f () with | some t => some t | none => firstOf r

/-- An event that arrives as an input: no word of a split or a stream, which is fetched (log 2). -/
def isInput : Instr → Bool
  | .notAnInstruction _ => false
  | .mWordNotInstruction _ => false
  | i => encode i == 0

/-- The step that the machine takes when no input waits; none when nothing can step. Every second step goes to the
split in focus first; between them the others go first in turn, so that none of them is left out for ever. -/
def choose (s : State) : Option State :=
  let mine := fun (_ : Unit) => if focusGoes s then some (issue s) else none
  let dev := fun (_ : Unit) => firstStep (rotate (s.tick / 4) (devices s))
  let other := fun (_ : Unit) => otherIssue (fillAll s) (s.tick / 8)
  let sched := fun (_ : Unit) => scheduleStep s
  firstOf (
    if s.tick % 2 = 0 then [mine, dev, other, sched]
    else if s.tick % 4 = 1 then [dev, sched, other]
    else if s.tick % 8 = 3 then [other, dev, sched]
    else [sched, other, dev])

end Sys2Proof.Machine
end

