-- ==== Sys2Proof/Machine/Bench.lean ====
section
/-! DEFINITION. How an instruction's bytes come to stand where the machine fetches next (log 3). After reset nothing
is placed: a program comes to run when firmware has configured a VI and a LAUNCH packet has placed its teams, and an M
word when a team has started a stream. This file stands for that load, done at once. -/

namespace Sys2Proof.Machine

/-- The bench's program counter: virtual and physical address, by a 1 GiB page at 0. -/
def benchPc : Nat := 0x10000

/-- The VI that owns the bench's team; its level-3 table is at 2 MiB. -/
def benchVi : ViConfig where
  vi := 0
  cores := [0]
  domain := 0
  events := []
  vroot := 0x200001
  queues := []
  hbmShare := []
  pinLimit := 0
  wdog := Config.wdog
  drainb := Config.drainb
  gangAge := Config.gangAge
  gangLimit := Config.gangLimit
  cupTimer := 0
  reach := 0
  cseed := 0
  cap := 0

/-- A privileged split of all 32 lanes at the bench's PC. -/
def benchSplit (s : State) : Split :=
  { Split.fresh with pc := BitVec.ofNat 64 benchPc, mask := 0xFFFFFFFF, tstat := 1, active := true, entered := s.tick }

/-- Its team on core 0, with a sequencer slot. -/
def benchTeam (s : State) : Team :=
  { Team.fresh with id := s.fresh, rtag := 1, spadBytes := 65536, mslot := some MSlot.fresh }

/-- Core 0 and die 0 are ready, VI 0 translates, and the bytes stand at the bench's PC. -/
def benchMachine (s : State) (bytes : List Byte) : State :=
  let s := close s
  let s := setCore s 0 { CoreSt.reset with ready := true }
  let s := setDie s 0 { DieSt.reset with ready := true, hbmReady := true }
  let s := { s with vis := (0, ⟨0, benchVi, [], 0, 0⟩) :: s.vis.filter (fun e => e.1 != 0), agenda := [], lim := none, mteam := none, tick := 0 }
  let s := wrNat (wrNat s 0x200000 8 0x100001) 0x1000 8 0x7D
  { wrNat s benchPc bytes.length (leNat bytes) with fresh := s.fresh + 1, poison := [] }

/-- The bytes of an instruction, with zeros up to the longest, a LIM pair. -/
def insnBytes (nbits w : Nat) : List Byte := bytesOfNat 8 (w % 2 ^ nbits)

/-- A word that the splits' opcode map gives a meaning to. -/
def isLaneWord (w : Nat) : Bool :=
  match decodeMajor w with
  | .ok _ => true
  | .error .immediateWord => true
  | .error _ => false

/-- The split's word at its PC, or, for a word that only the matrix stream's opcode space has, the stream's word at its
SPC. -/
def placeWord (s : State) (nbits w : Nat) : State :=
  let b := benchMachine s (insnBytes nbits w)
  let t := benchTeam s
  if isLaneWord (w % 2 ^ nbits % 2 ^ 32) then { b with live := true, split := benchSplit b, group := Group.fresh, team := t }
  else
    let m := { MSlot.fresh with spc := BitVec.ofNat 64 benchPc, mstat := 1 }
    { b with teams := putTeam { t with mslot := some m } b.teams, mteam := some t.id }

end Sys2Proof.Machine
end

