-- ==== Sys2Proof/Machine/Step.lean ====
section
/-! DEFINITION. One step of the machine. Inputs from outside the cores stand in `agenda`, in the order in which they
arrive, and each is a step of its own; without one, `choose` says who steps. -/

namespace Sys2Proof.Machine

/-- One more step is made. -/
def State.ticked (s : State) : State := { s with tick := s.tick + 1 }

/-- An input is taken from the agenda. -/
def takeInput (s : State) (i : Instr) : Host.Outcome State Fault Refusal :=
  if isInput i then
    match exec i (close s) with
    | .next t => .next (refocus s t).ticked
    | .fault r => .fault r
    | .refused r => .refused r
  else .fault .notEnabled

/-- The step. -/
def step (s : State) : Host.Outcome State Fault Refusal :=
  match s.agenda with
  | i :: r => takeInput { s with agenda := r } i
  | [] => .next ((choose (stamp s)).getD (stamp s)).ticked

/-- The machine with an instruction where its next step fetches (log 3). -/
def State.withFetchWord (s : State) (nbits w : Nat) : State := placeWord s nbits w

end Sys2Proof.Machine
end

