-- ==== Sys2Proof/Laws/PerInstr.lean ====
section
/-! SUPPORT. Statements made for each instruction as syntax. RoundTrip: a well-formed instruction is read back from
its encoding, which is a word (02_words.md R29 to R35; 10_matrix.md R229). -/

set_option linter.unusedSimpArgs false

namespace Sys2Proof.Laws

def RoundTrip.Statement (i : Instr) : Prop :=
  i.wellFormed = true →
    (if i.isMWord then decodeMatrixWord (encode i) = .ok i else decodeWord (encode i) = .ok i) ∧ encode i < 2 ^ 32

/-- A field is read where its value stands. -/
theorem bits_eq {wd : Nat} {w lo : Nat} {x : BitVec wd} (h : w / 2 ^ lo % 2 ^ wd = x.toNat) : bits w lo wd = x := by
  apply BitVec.eq_of_toNat_eq
  simp [bits, fld, h]

/-- The lowest field of what is left of a word, and what is left above it. -/
theorem nextField {w x v lo wd : Nat} (h : w / 2 ^ lo = x * 2 ^ wd + v) (hv : v < 2 ^ wd) :
    w / 2 ^ lo % 2 ^ wd = v ∧ w / 2 ^ (lo + wd) = x := by
  have p : 0 < 2 ^ wd := Nat.two_pow_pos wd
  refine ⟨?_, ?_⟩
  · rw [h, Nat.mul_comm, Nat.mul_add_mod, Nat.mod_eq_of_lt hv]
  · rw [Nat.pow_add, ← Nat.div_div_eq_div_mul, h, Nat.mul_comm, Nat.mul_add_div p, Nat.div_eq_of_lt hv, Nat.add_zero]

/-- The opcode's halves. -/
theorem opcode {w k : Nat} (h : w / 2 ^ 24 = k) : fld w 28 4 = k / 16 % 16 ∧ fld w 24 4 = k % 16 := by
  subst h; unfold fld; omega

/-- An instruction of the splits' map is read back when the map reads it from its word. -/
theorem laneWord {i : Instr} {w k : Nat} (m : i.isMWord = false) (e : encode i = w) (b : w / 2 ^ 24 = k) (hk : k < 256)
    (d : decodeMajor w = .ok i) : RoundTrip.Statement i := by
  intro _
  rw [m, e]
  refine ⟨?_, by omega⟩
  simp [decodeWord, d]

/-- The same for the matrix stream's words. -/
theorem streamWord {i : Instr} {w k : Nat} (m : i.isMWord = true) (e : encode i = w) (b : w / 2 ^ 24 = k) (hk : k < 256)
    (d : decodeM w = .ok i) : RoundTrip.Statement i := by
  intro _
  rw [m, e]
  refine ⟨?_, by omega⟩
  simp [decodeMatrixWord, d]


theorem RoundTrip.nop : RoundTrip.Statement (.nop) := by
  have e : encode (.nop) = packWord 0 [(0x1, 8), (0, 24)] := rfl
  simp only [packWord] at e
  obtain ⟨w0, hw⟩ : ∃ w0, encode (.nop) = w0 := ⟨_, rfl⟩
  rw [hw] at e
  have g0 := (Nat.div_one w0).trans e
  have n0 := nextField (lo := 0) g0 (by decide)
  have ho : w0 / 2 ^ 24 = 1 := n0.2
  refine laneWord rfl hw ho (by decide) ?_
  have hi : fld w0 28 4 = 0 := (opcode ho).1
  have lo : fld w0 24 4 = 1 := (opcode ho).2
  have r0_24 : fld w0 0 24 = 0 := n0.1
  have c0 : (fld w0 0 24 == 0) = true := by simp [r0_24]
  unfold decodeMajor; rw [hi]; simp only []; unfold decodeMajor0; rw [lo]; simp only [c0, cond_true]

theorem RoundTrip.mov (d : BitVec 6) (a : BitVec 6) (p : BitVec 3) : RoundTrip.Statement (.mov d a p) := by
  have e : encode (.mov d a p) = packWord 0 [(0x2, 8), (d.toNat, 6), (a.toNat, 6), (p.toNat, 3), (0, 9)] := rfl
  simp only [packWord] at e
  obtain ⟨w0, hw⟩ : ∃ w0, encode (.mov d a p) = w0 := ⟨_, rfl⟩
  rw [hw] at e
  have g0 := (Nat.div_one w0).trans e
  have n0 := nextField (lo := 0) g0 (by decide)
  have n1 := nextField (lo := 9) n0.2 p.isLt
  have n2 := nextField (lo := 12) n1.2 a.isLt
  have n3 := nextField (lo := 18) n2.2 d.isLt
  have ho : w0 / 2 ^ 24 = 2 := n3.2
  refine laneWord rfl hw ho (by decide) ?_
  have hi : fld w0 28 4 = 0 := (opcode ho).1
  have lo : fld w0 24 4 = 2 := (opcode ho).2
  have e_d : bits w0 18 6 = d := bits_eq n3.1
  have e_a : bits w0 12 6 = a := bits_eq n2.1
  have e_p : bits w0 9 3 = p := bits_eq n1.1
  have r0_9 : fld w0 0 9 = 0 := n0.1
  have c0 : (fld w0 0 9 == 0) = true := by simp [r0_9]
  unfold decodeMajor; rw [hi]; simp only []; unfold decodeMajor0; rw [lo]; simp only [c0, cond_true]; rw [e_d, e_a, e_p]

theorem RoundTrip.movi (d : BitVec 6) (imm : BitVec 12) : RoundTrip.Statement (.movi d imm) := by
  have e : encode (.movi d imm) = packWord 0 [(0x3, 8), (d.toNat, 6), (0, 6), (imm.toNat, 12)] := rfl
  simp only [packWord] at e
  obtain ⟨w0, hw⟩ : ∃ w0, encode (.movi d imm) = w0 := ⟨_, rfl⟩
  rw [hw] at e
  have g0 := (Nat.div_one w0).trans e
  have n0 := nextField (lo := 0) g0 imm.isLt
  have n1 := nextField (lo := 12) n0.2 (by decide)
  have n2 := nextField (lo := 18) n1.2 d.isLt
  have ho : w0 / 2 ^ 24 = 3 := n2.2
  refine laneWord rfl hw ho (by decide) ?_
  have hi : fld w0 28 4 = 0 := (opcode ho).1
  have lo : fld w0 24 4 = 3 := (opcode ho).2
  have e_d : bits w0 18 6 = d := bits_eq n2.1
  have e_imm : bits w0 0 12 = imm := bits_eq n0.1
  have r12_6 : fld w0 12 6 = 0 := n1.1
  have c0 : (fld w0 12 6 == 0) = true := by simp [r12_6]
  unfold decodeMajor; rw [hi]; simp only []; unfold decodeMajor0; rw [lo]; simp only [c0, cond_true]; rw [e_d, e_imm]

theorem RoundTrip.iadd (d : BitVec 6) (a : BitVec 6) (p : BitVec 3) (b : BitVec 6) (q : BitVec 3) : RoundTrip.Statement (.iadd d a p b q) := by
  have e : encode (.iadd d a p b q) = packWord 0 [(0x4, 8), (d.toNat, 6), (a.toNat, 6), (p.toNat, 3), (b.toNat, 6), (q.toNat, 3)] := rfl
  simp only [packWord] at e
  obtain ⟨w0, hw⟩ : ∃ w0, encode (.iadd d a p b q) = w0 := ⟨_, rfl⟩
  rw [hw] at e
  have g0 := (Nat.div_one w0).trans e
  have n0 := nextField (lo := 0) g0 q.isLt
  have n1 := nextField (lo := 3) n0.2 b.isLt
  have n2 := nextField (lo := 9) n1.2 p.isLt
  have n3 := nextField (lo := 12) n2.2 a.isLt
  have n4 := nextField (lo := 18) n3.2 d.isLt
  have ho : w0 / 2 ^ 24 = 4 := n4.2
  refine laneWord rfl hw ho (by decide) ?_
  have hi : fld w0 28 4 = 0 := (opcode ho).1
  have lo : fld w0 24 4 = 4 := (opcode ho).2
  have e_d : bits w0 18 6 = d := bits_eq n4.1
  have e_a : bits w0 12 6 = a := bits_eq n3.1
  have e_p : bits w0 9 3 = p := bits_eq n2.1
  have e_b : bits w0 3 6 = b := bits_eq n1.1
  have e_q : bits w0 0 3 = q := bits_eq n0.1
  unfold decodeMajor; rw [hi]; simp only []; unfold decodeMajor0; rw [lo]; simp only []; rw [e_d, e_a, e_p, e_b, e_q]

theorem RoundTrip.isub (d : BitVec 6) (a : BitVec 6) (p : BitVec 3) (b : BitVec 6) (q : BitVec 3) : RoundTrip.Statement (.isub d a p b q) := by
  have e : encode (.isub d a p b q) = packWord 0 [(0x5, 8), (d.toNat, 6), (a.toNat, 6), (p.toNat, 3), (b.toNat, 6), (q.toNat, 3)] := rfl
  simp only [packWord] at e
  obtain ⟨w0, hw⟩ : ∃ w0, encode (.isub d a p b q) = w0 := ⟨_, rfl⟩
  rw [hw] at e
  have g0 := (Nat.div_one w0).trans e
  have n0 := nextField (lo := 0) g0 q.isLt
  have n1 := nextField (lo := 3) n0.2 b.isLt
  have n2 := nextField (lo := 9) n1.2 p.isLt
  have n3 := nextField (lo := 12) n2.2 a.isLt
  have n4 := nextField (lo := 18) n3.2 d.isLt
  have ho : w0 / 2 ^ 24 = 5 := n4.2
  refine laneWord rfl hw ho (by decide) ?_
  have hi : fld w0 28 4 = 0 := (opcode ho).1
  have lo : fld w0 24 4 = 5 := (opcode ho).2
  have e_d : bits w0 18 6 = d := bits_eq n4.1
  have e_a : bits w0 12 6 = a := bits_eq n3.1
  have e_p : bits w0 9 3 = p := bits_eq n2.1
  have e_b : bits w0 3 6 = b := bits_eq n1.1
  have e_q : bits w0 0 3 = q := bits_eq n0.1
  unfold decodeMajor; rw [hi]; simp only []; unfold decodeMajor0; rw [lo]; simp only []; rw [e_d, e_a, e_p, e_b, e_q]

theorem RoundTrip.imul (d : BitVec 6) (a : BitVec 6) (p : BitVec 3) (b : BitVec 6) (q : BitVec 3) : RoundTrip.Statement (.imul d a p b q) := by
  have e : encode (.imul d a p b q) = packWord 0 [(0x6, 8), (d.toNat, 6), (a.toNat, 6), (p.toNat, 3), (b.toNat, 6), (q.toNat, 3)] := rfl
  simp only [packWord] at e
  obtain ⟨w0, hw⟩ : ∃ w0, encode (.imul d a p b q) = w0 := ⟨_, rfl⟩
  rw [hw] at e
  have g0 := (Nat.div_one w0).trans e
  have n0 := nextField (lo := 0) g0 q.isLt
  have n1 := nextField (lo := 3) n0.2 b.isLt
  have n2 := nextField (lo := 9) n1.2 p.isLt
  have n3 := nextField (lo := 12) n2.2 a.isLt
  have n4 := nextField (lo := 18) n3.2 d.isLt
  have ho : w0 / 2 ^ 24 = 6 := n4.2
  refine laneWord rfl hw ho (by decide) ?_
  have hi : fld w0 28 4 = 0 := (opcode ho).1
  have lo : fld w0 24 4 = 6 := (opcode ho).2
  have e_d : bits w0 18 6 = d := bits_eq n4.1
  have e_a : bits w0 12 6 = a := bits_eq n3.1
  have e_p : bits w0 9 3 = p := bits_eq n2.1
  have e_b : bits w0 3 6 = b := bits_eq n1.1
  have e_q : bits w0 0 3 = q := bits_eq n0.1
  unfold decodeMajor; rw [hi]; simp only []; unfold decodeMajor0; rw [lo]; simp only []; rw [e_d, e_a, e_p, e_b, e_q]

theorem RoundTrip.imulh (d : BitVec 6) (a : BitVec 6) (p : BitVec 3) (b : BitVec 6) (q : BitVec 3) : RoundTrip.Statement (.imulh d a p b q) := by
  have e : encode (.imulh d a p b q) = packWord 0 [(0x7, 8), (d.toNat, 6), (a.toNat, 6), (p.toNat, 3), (b.toNat, 6), (q.toNat, 3)] := rfl
  simp only [packWord] at e
  obtain ⟨w0, hw⟩ : ∃ w0, encode (.imulh d a p b q) = w0 := ⟨_, rfl⟩
  rw [hw] at e
  have g0 := (Nat.div_one w0).trans e
  have n0 := nextField (lo := 0) g0 q.isLt
  have n1 := nextField (lo := 3) n0.2 b.isLt
  have n2 := nextField (lo := 9) n1.2 p.isLt
  have n3 := nextField (lo := 12) n2.2 a.isLt
  have n4 := nextField (lo := 18) n3.2 d.isLt
  have ho : w0 / 2 ^ 24 = 7 := n4.2
  refine laneWord rfl hw ho (by decide) ?_
  have hi : fld w0 28 4 = 0 := (opcode ho).1
  have lo : fld w0 24 4 = 7 := (opcode ho).2
  have e_d : bits w0 18 6 = d := bits_eq n4.1
  have e_a : bits w0 12 6 = a := bits_eq n3.1
  have e_p : bits w0 9 3 = p := bits_eq n2.1
  have e_b : bits w0 3 6 = b := bits_eq n1.1
  have e_q : bits w0 0 3 = q := bits_eq n0.1
  unfold decodeMajor; rw [hi]; simp only []; unfold decodeMajor0; rw [lo]; simp only []; rw [e_d, e_a, e_p, e_b, e_q]

theorem RoundTrip.imad (d : BitVec 6) (a : BitVec 6) (p : BitVec 3) (b : BitVec 6) (q : BitVec 3) : RoundTrip.Statement (.imad d a p b q) := by
  have e : encode (.imad d a p b q) = packWord 0 [(0x8, 8), (d.toNat, 6), (a.toNat, 6), (p.toNat, 3), (b.toNat, 6), (q.toNat, 3)] := rfl
  simp only [packWord] at e
  obtain ⟨w0, hw⟩ : ∃ w0, encode (.imad d a p b q) = w0 := ⟨_, rfl⟩
  rw [hw] at e
  have g0 := (Nat.div_one w0).trans e
  have n0 := nextField (lo := 0) g0 q.isLt
  have n1 := nextField (lo := 3) n0.2 b.isLt
  have n2 := nextField (lo := 9) n1.2 p.isLt
  have n3 := nextField (lo := 12) n2.2 a.isLt
  have n4 := nextField (lo := 18) n3.2 d.isLt
  have ho : w0 / 2 ^ 24 = 8 := n4.2
  refine laneWord rfl hw ho (by decide) ?_
  have hi : fld w0 28 4 = 0 := (opcode ho).1
  have lo : fld w0 24 4 = 8 := (opcode ho).2
  have e_d : bits w0 18 6 = d := bits_eq n4.1
  have e_a : bits w0 12 6 = a := bits_eq n3.1
  have e_p : bits w0 9 3 = p := bits_eq n2.1
  have e_b : bits w0 3 6 = b := bits_eq n1.1
  have e_q : bits w0 0 3 = q := bits_eq n0.1
  unfold decodeMajor; rw [hi]; simp only []; unfold decodeMajor0; rw [lo]; simp only []; rw [e_d, e_a, e_p, e_b, e_q]

theorem RoundTrip.iaddi (d : BitVec 6) (a : BitVec 6) (imm : BitVec 12) : RoundTrip.Statement (.iaddi d a imm) := by
  have e : encode (.iaddi d a imm) = packWord 0 [(0x9, 8), (d.toNat, 6), (a.toNat, 6), (imm.toNat, 12)] := rfl
  simp only [packWord] at e
  obtain ⟨w0, hw⟩ : ∃ w0, encode (.iaddi d a imm) = w0 := ⟨_, rfl⟩
  rw [hw] at e
  have g0 := (Nat.div_one w0).trans e
  have n0 := nextField (lo := 0) g0 imm.isLt
  have n1 := nextField (lo := 12) n0.2 a.isLt
  have n2 := nextField (lo := 18) n1.2 d.isLt
  have ho : w0 / 2 ^ 24 = 9 := n2.2
  refine laneWord rfl hw ho (by decide) ?_
  have hi : fld w0 28 4 = 0 := (opcode ho).1
  have lo : fld w0 24 4 = 9 := (opcode ho).2
  have e_d : bits w0 18 6 = d := bits_eq n2.1
  have e_a : bits w0 12 6 = a := bits_eq n1.1
  have e_imm : bits w0 0 12 = imm := bits_eq n0.1
  unfold decodeMajor; rw [hi]; simp only []; unfold decodeMajor0; rw [lo]; simp only []; rw [e_d, e_a, e_imm]

theorem RoundTrip.imin (d : BitVec 6) (a : BitVec 6) (p : BitVec 3) (b : BitVec 6) (q : BitVec 3) : RoundTrip.Statement (.imin d a p b q) := by
  have e : encode (.imin d a p b q) = packWord 0 [(0xa, 8), (d.toNat, 6), (a.toNat, 6), (p.toNat, 3), (b.toNat, 6), (q.toNat, 3)] := rfl
  simp only [packWord] at e
  obtain ⟨w0, hw⟩ : ∃ w0, encode (.imin d a p b q) = w0 := ⟨_, rfl⟩
  rw [hw] at e
  have g0 := (Nat.div_one w0).trans e
  have n0 := nextField (lo := 0) g0 q.isLt
  have n1 := nextField (lo := 3) n0.2 b.isLt
  have n2 := nextField (lo := 9) n1.2 p.isLt
  have n3 := nextField (lo := 12) n2.2 a.isLt
  have n4 := nextField (lo := 18) n3.2 d.isLt
  have ho : w0 / 2 ^ 24 = 10 := n4.2
  refine laneWord rfl hw ho (by decide) ?_
  have hi : fld w0 28 4 = 0 := (opcode ho).1
  have lo : fld w0 24 4 = 10 := (opcode ho).2
  have e_d : bits w0 18 6 = d := bits_eq n4.1
  have e_a : bits w0 12 6 = a := bits_eq n3.1
  have e_p : bits w0 9 3 = p := bits_eq n2.1
  have e_b : bits w0 3 6 = b := bits_eq n1.1
  have e_q : bits w0 0 3 = q := bits_eq n0.1
  unfold decodeMajor; rw [hi]; simp only []; unfold decodeMajor0; rw [lo]; simp only []; rw [e_d, e_a, e_p, e_b, e_q]

theorem RoundTrip.imax (d : BitVec 6) (a : BitVec 6) (p : BitVec 3) (b : BitVec 6) (q : BitVec 3) : RoundTrip.Statement (.imax d a p b q) := by
  have e : encode (.imax d a p b q) = packWord 0 [(0xb, 8), (d.toNat, 6), (a.toNat, 6), (p.toNat, 3), (b.toNat, 6), (q.toNat, 3)] := rfl
  simp only [packWord] at e
  obtain ⟨w0, hw⟩ : ∃ w0, encode (.imax d a p b q) = w0 := ⟨_, rfl⟩
  rw [hw] at e
  have g0 := (Nat.div_one w0).trans e
  have n0 := nextField (lo := 0) g0 q.isLt
  have n1 := nextField (lo := 3) n0.2 b.isLt
  have n2 := nextField (lo := 9) n1.2 p.isLt
  have n3 := nextField (lo := 12) n2.2 a.isLt
  have n4 := nextField (lo := 18) n3.2 d.isLt
  have ho : w0 / 2 ^ 24 = 11 := n4.2
  refine laneWord rfl hw ho (by decide) ?_
  have hi : fld w0 28 4 = 0 := (opcode ho).1
  have lo : fld w0 24 4 = 11 := (opcode ho).2
  have e_d : bits w0 18 6 = d := bits_eq n4.1
  have e_a : bits w0 12 6 = a := bits_eq n3.1
  have e_p : bits w0 9 3 = p := bits_eq n2.1
  have e_b : bits w0 3 6 = b := bits_eq n1.1
  have e_q : bits w0 0 3 = q := bits_eq n0.1
  unfold decodeMajor; rw [hi]; simp only []; unfold decodeMajor0; rw [lo]; simp only []; rw [e_d, e_a, e_p, e_b, e_q]

theorem RoundTrip.iabs (d : BitVec 6) (a : BitVec 6) (p : BitVec 3) : RoundTrip.Statement (.iabs d a p) := by
  have e : encode (.iabs d a p) = packWord 0 [(0xc, 8), (d.toNat, 6), (a.toNat, 6), (p.toNat, 3), (0, 9)] := rfl
  simp only [packWord] at e
  obtain ⟨w0, hw⟩ : ∃ w0, encode (.iabs d a p) = w0 := ⟨_, rfl⟩
  rw [hw] at e
  have g0 := (Nat.div_one w0).trans e
  have n0 := nextField (lo := 0) g0 (by decide)
  have n1 := nextField (lo := 9) n0.2 p.isLt
  have n2 := nextField (lo := 12) n1.2 a.isLt
  have n3 := nextField (lo := 18) n2.2 d.isLt
  have ho : w0 / 2 ^ 24 = 12 := n3.2
  refine laneWord rfl hw ho (by decide) ?_
  have hi : fld w0 28 4 = 0 := (opcode ho).1
  have lo : fld w0 24 4 = 12 := (opcode ho).2
  have e_d : bits w0 18 6 = d := bits_eq n3.1
  have e_a : bits w0 12 6 = a := bits_eq n2.1
  have e_p : bits w0 9 3 = p := bits_eq n1.1
  have r0_9 : fld w0 0 9 = 0 := n0.1
  have c0 : (fld w0 0 9 == 0) = true := by simp [r0_9]
  unfold decodeMajor; rw [hi]; simp only []; unfold decodeMajor0; rw [lo]; simp only [c0, cond_true]; rw [e_d, e_a, e_p]

theorem RoundTrip.ineg (d : BitVec 6) (a : BitVec 6) (p : BitVec 3) : RoundTrip.Statement (.ineg d a p) := by
  have e : encode (.ineg d a p) = packWord 0 [(0xd, 8), (d.toNat, 6), (a.toNat, 6), (p.toNat, 3), (0, 9)] := rfl
  simp only [packWord] at e
  obtain ⟨w0, hw⟩ : ∃ w0, encode (.ineg d a p) = w0 := ⟨_, rfl⟩
  rw [hw] at e
  have g0 := (Nat.div_one w0).trans e
  have n0 := nextField (lo := 0) g0 (by decide)
  have n1 := nextField (lo := 9) n0.2 p.isLt
  have n2 := nextField (lo := 12) n1.2 a.isLt
  have n3 := nextField (lo := 18) n2.2 d.isLt
  have ho : w0 / 2 ^ 24 = 13 := n3.2
  refine laneWord rfl hw ho (by decide) ?_
  have hi : fld w0 28 4 = 0 := (opcode ho).1
  have lo : fld w0 24 4 = 13 := (opcode ho).2
  have e_d : bits w0 18 6 = d := bits_eq n3.1
  have e_a : bits w0 12 6 = a := bits_eq n2.1
  have e_p : bits w0 9 3 = p := bits_eq n1.1
  have r0_9 : fld w0 0 9 = 0 := n0.1
  have c0 : (fld w0 0 9 == 0) = true := by simp [r0_9]
  unfold decodeMajor; rw [hi]; simp only []; unfold decodeMajor0; rw [lo]; simp only [c0, cond_true]; rw [e_d, e_a, e_p]

theorem RoundTrip.isad (d : BitVec 6) (a : BitVec 6) (p : BitVec 3) (b : BitVec 6) (q : BitVec 3) : RoundTrip.Statement (.isad d a p b q) := by
  have e : encode (.isad d a p b q) = packWord 0 [(0xe, 8), (d.toNat, 6), (a.toNat, 6), (p.toNat, 3), (b.toNat, 6), (q.toNat, 3)] := rfl
  simp only [packWord] at e
  obtain ⟨w0, hw⟩ : ∃ w0, encode (.isad d a p b q) = w0 := ⟨_, rfl⟩
  rw [hw] at e
  have g0 := (Nat.div_one w0).trans e
  have n0 := nextField (lo := 0) g0 q.isLt
  have n1 := nextField (lo := 3) n0.2 b.isLt
  have n2 := nextField (lo := 9) n1.2 p.isLt
  have n3 := nextField (lo := 12) n2.2 a.isLt
  have n4 := nextField (lo := 18) n3.2 d.isLt
  have ho : w0 / 2 ^ 24 = 14 := n4.2
  refine laneWord rfl hw ho (by decide) ?_
  have hi : fld w0 28 4 = 0 := (opcode ho).1
  have lo : fld w0 24 4 = 14 := (opcode ho).2
  have e_d : bits w0 18 6 = d := bits_eq n4.1
  have e_a : bits w0 12 6 = a := bits_eq n3.1
  have e_p : bits w0 9 3 = p := bits_eq n2.1
  have e_b : bits w0 3 6 = b := bits_eq n1.1
  have e_q : bits w0 0 3 = q := bits_eq n0.1
  unfold decodeMajor; rw [hi]; simp only []; unfold decodeMajor0; rw [lo]; simp only []; rw [e_d, e_a, e_p, e_b, e_q]

theorem RoundTrip.idiv (d : BitVec 6) (a : BitVec 6) (p : BitVec 3) (b : BitVec 6) (q : BitVec 3) : RoundTrip.Statement (.idiv d a p b q) := by
  have e : encode (.idiv d a p b q) = packWord 0 [(0xf, 8), (d.toNat, 6), (a.toNat, 6), (p.toNat, 3), (b.toNat, 6), (q.toNat, 3)] := rfl
  simp only [packWord] at e
  obtain ⟨w0, hw⟩ : ∃ w0, encode (.idiv d a p b q) = w0 := ⟨_, rfl⟩
  rw [hw] at e
  have g0 := (Nat.div_one w0).trans e
  have n0 := nextField (lo := 0) g0 q.isLt
  have n1 := nextField (lo := 3) n0.2 b.isLt
  have n2 := nextField (lo := 9) n1.2 p.isLt
  have n3 := nextField (lo := 12) n2.2 a.isLt
  have n4 := nextField (lo := 18) n3.2 d.isLt
  have ho : w0 / 2 ^ 24 = 15 := n4.2
  refine laneWord rfl hw ho (by decide) ?_
  have hi : fld w0 28 4 = 0 := (opcode ho).1
  have lo : fld w0 24 4 = 15 := (opcode ho).2
  have e_d : bits w0 18 6 = d := bits_eq n4.1
  have e_a : bits w0 12 6 = a := bits_eq n3.1
  have e_p : bits w0 9 3 = p := bits_eq n2.1
  have e_b : bits w0 3 6 = b := bits_eq n1.1
  have e_q : bits w0 0 3 = q := bits_eq n0.1
  unfold decodeMajor; rw [hi]; simp only []; unfold decodeMajor0; rw [lo]; simp only []; rw [e_d, e_a, e_p, e_b, e_q]

theorem RoundTrip.irem (d : BitVec 6) (a : BitVec 6) (p : BitVec 3) (b : BitVec 6) (q : BitVec 3) : RoundTrip.Statement (.irem d a p b q) := by
  have e : encode (.irem d a p b q) = packWord 0 [(0x10, 8), (d.toNat, 6), (a.toNat, 6), (p.toNat, 3), (b.toNat, 6), (q.toNat, 3)] := rfl
  simp only [packWord] at e
  obtain ⟨w0, hw⟩ : ∃ w0, encode (.irem d a p b q) = w0 := ⟨_, rfl⟩
  rw [hw] at e
  have g0 := (Nat.div_one w0).trans e
  have n0 := nextField (lo := 0) g0 q.isLt
  have n1 := nextField (lo := 3) n0.2 b.isLt
  have n2 := nextField (lo := 9) n1.2 p.isLt
  have n3 := nextField (lo := 12) n2.2 a.isLt
  have n4 := nextField (lo := 18) n3.2 d.isLt
  have ho : w0 / 2 ^ 24 = 16 := n4.2
  refine laneWord rfl hw ho (by decide) ?_
  have hi : fld w0 28 4 = 1 := (opcode ho).1
  have lo : fld w0 24 4 = 0 := (opcode ho).2
  have e_d : bits w0 18 6 = d := bits_eq n4.1
  have e_a : bits w0 12 6 = a := bits_eq n3.1
  have e_p : bits w0 9 3 = p := bits_eq n2.1
  have e_b : bits w0 3 6 = b := bits_eq n1.1
  have e_q : bits w0 0 3 = q := bits_eq n0.1
  unfold decodeMajor; rw [hi]; simp only []; unfold decodeMajor1; rw [lo]; simp only []; rw [e_d, e_a, e_p, e_b, e_q]

theorem RoundTrip.and (d : BitVec 6) (a : BitVec 6) (p : BitVec 3) (b : BitVec 6) (q : BitVec 3) : RoundTrip.Statement (.and d a p b q) := by
  have e : encode (.and d a p b q) = packWord 0 [(0x11, 8), (d.toNat, 6), (a.toNat, 6), (p.toNat, 3), (b.toNat, 6), (q.toNat, 3)] := rfl
  simp only [packWord] at e
  obtain ⟨w0, hw⟩ : ∃ w0, encode (.and d a p b q) = w0 := ⟨_, rfl⟩
  rw [hw] at e
  have g0 := (Nat.div_one w0).trans e
  have n0 := nextField (lo := 0) g0 q.isLt
  have n1 := nextField (lo := 3) n0.2 b.isLt
  have n2 := nextField (lo := 9) n1.2 p.isLt
  have n3 := nextField (lo := 12) n2.2 a.isLt
  have n4 := nextField (lo := 18) n3.2 d.isLt
  have ho : w0 / 2 ^ 24 = 17 := n4.2
  refine laneWord rfl hw ho (by decide) ?_
  have hi : fld w0 28 4 = 1 := (opcode ho).1
  have lo : fld w0 24 4 = 1 := (opcode ho).2
  have e_d : bits w0 18 6 = d := bits_eq n4.1
  have e_a : bits w0 12 6 = a := bits_eq n3.1
  have e_p : bits w0 9 3 = p := bits_eq n2.1
  have e_b : bits w0 3 6 = b := bits_eq n1.1
  have e_q : bits w0 0 3 = q := bits_eq n0.1
  unfold decodeMajor; rw [hi]; simp only []; unfold decodeMajor1; rw [lo]; simp only []; rw [e_d, e_a, e_p, e_b, e_q]

theorem RoundTrip.or (d : BitVec 6) (a : BitVec 6) (p : BitVec 3) (b : BitVec 6) (q : BitVec 3) : RoundTrip.Statement (.or d a p b q) := by
  have e : encode (.or d a p b q) = packWord 0 [(0x12, 8), (d.toNat, 6), (a.toNat, 6), (p.toNat, 3), (b.toNat, 6), (q.toNat, 3)] := rfl
  simp only [packWord] at e
  obtain ⟨w0, hw⟩ : ∃ w0, encode (.or d a p b q) = w0 := ⟨_, rfl⟩
  rw [hw] at e
  have g0 := (Nat.div_one w0).trans e
  have n0 := nextField (lo := 0) g0 q.isLt
  have n1 := nextField (lo := 3) n0.2 b.isLt
  have n2 := nextField (lo := 9) n1.2 p.isLt
  have n3 := nextField (lo := 12) n2.2 a.isLt
  have n4 := nextField (lo := 18) n3.2 d.isLt
  have ho : w0 / 2 ^ 24 = 18 := n4.2
  refine laneWord rfl hw ho (by decide) ?_
  have hi : fld w0 28 4 = 1 := (opcode ho).1
  have lo : fld w0 24 4 = 2 := (opcode ho).2
  have e_d : bits w0 18 6 = d := bits_eq n4.1
  have e_a : bits w0 12 6 = a := bits_eq n3.1
  have e_p : bits w0 9 3 = p := bits_eq n2.1
  have e_b : bits w0 3 6 = b := bits_eq n1.1
  have e_q : bits w0 0 3 = q := bits_eq n0.1
  unfold decodeMajor; rw [hi]; simp only []; unfold decodeMajor1; rw [lo]; simp only []; rw [e_d, e_a, e_p, e_b, e_q]

theorem RoundTrip.xor (d : BitVec 6) (a : BitVec 6) (p : BitVec 3) (b : BitVec 6) (q : BitVec 3) : RoundTrip.Statement (.xor d a p b q) := by
  have e : encode (.xor d a p b q) = packWord 0 [(0x13, 8), (d.toNat, 6), (a.toNat, 6), (p.toNat, 3), (b.toNat, 6), (q.toNat, 3)] := rfl
  simp only [packWord] at e
  obtain ⟨w0, hw⟩ : ∃ w0, encode (.xor d a p b q) = w0 := ⟨_, rfl⟩
  rw [hw] at e
  have g0 := (Nat.div_one w0).trans e
  have n0 := nextField (lo := 0) g0 q.isLt
  have n1 := nextField (lo := 3) n0.2 b.isLt
  have n2 := nextField (lo := 9) n1.2 p.isLt
  have n3 := nextField (lo := 12) n2.2 a.isLt
  have n4 := nextField (lo := 18) n3.2 d.isLt
  have ho : w0 / 2 ^ 24 = 19 := n4.2
  refine laneWord rfl hw ho (by decide) ?_
  have hi : fld w0 28 4 = 1 := (opcode ho).1
  have lo : fld w0 24 4 = 3 := (opcode ho).2
  have e_d : bits w0 18 6 = d := bits_eq n4.1
  have e_a : bits w0 12 6 = a := bits_eq n3.1
  have e_p : bits w0 9 3 = p := bits_eq n2.1
  have e_b : bits w0 3 6 = b := bits_eq n1.1
  have e_q : bits w0 0 3 = q := bits_eq n0.1
  unfold decodeMajor; rw [hi]; simp only []; unfold decodeMajor1; rw [lo]; simp only []; rw [e_d, e_a, e_p, e_b, e_q]

theorem RoundTrip.andn (d : BitVec 6) (a : BitVec 6) (p : BitVec 3) (b : BitVec 6) (q : BitVec 3) : RoundTrip.Statement (.andn d a p b q) := by
  have e : encode (.andn d a p b q) = packWord 0 [(0x14, 8), (d.toNat, 6), (a.toNat, 6), (p.toNat, 3), (b.toNat, 6), (q.toNat, 3)] := rfl
  simp only [packWord] at e
  obtain ⟨w0, hw⟩ : ∃ w0, encode (.andn d a p b q) = w0 := ⟨_, rfl⟩
  rw [hw] at e
  have g0 := (Nat.div_one w0).trans e
  have n0 := nextField (lo := 0) g0 q.isLt
  have n1 := nextField (lo := 3) n0.2 b.isLt
  have n2 := nextField (lo := 9) n1.2 p.isLt
  have n3 := nextField (lo := 12) n2.2 a.isLt
  have n4 := nextField (lo := 18) n3.2 d.isLt
  have ho : w0 / 2 ^ 24 = 20 := n4.2
  refine laneWord rfl hw ho (by decide) ?_
  have hi : fld w0 28 4 = 1 := (opcode ho).1
  have lo : fld w0 24 4 = 4 := (opcode ho).2
  have e_d : bits w0 18 6 = d := bits_eq n4.1
  have e_a : bits w0 12 6 = a := bits_eq n3.1
  have e_p : bits w0 9 3 = p := bits_eq n2.1
  have e_b : bits w0 3 6 = b := bits_eq n1.1
  have e_q : bits w0 0 3 = q := bits_eq n0.1
  unfold decodeMajor; rw [hi]; simp only []; unfold decodeMajor1; rw [lo]; simp only []; rw [e_d, e_a, e_p, e_b, e_q]

theorem RoundTrip.not (d : BitVec 6) (a : BitVec 6) (p : BitVec 3) : RoundTrip.Statement (.not d a p) := by
  have e : encode (.not d a p) = packWord 0 [(0x15, 8), (d.toNat, 6), (a.toNat, 6), (p.toNat, 3), (0, 9)] := rfl
  simp only [packWord] at e
  obtain ⟨w0, hw⟩ : ∃ w0, encode (.not d a p) = w0 := ⟨_, rfl⟩
  rw [hw] at e
  have g0 := (Nat.div_one w0).trans e
  have n0 := nextField (lo := 0) g0 (by decide)
  have n1 := nextField (lo := 9) n0.2 p.isLt
  have n2 := nextField (lo := 12) n1.2 a.isLt
  have n3 := nextField (lo := 18) n2.2 d.isLt
  have ho : w0 / 2 ^ 24 = 21 := n3.2
  refine laneWord rfl hw ho (by decide) ?_
  have hi : fld w0 28 4 = 1 := (opcode ho).1
  have lo : fld w0 24 4 = 5 := (opcode ho).2
  have e_d : bits w0 18 6 = d := bits_eq n3.1
  have e_a : bits w0 12 6 = a := bits_eq n2.1
  have e_p : bits w0 9 3 = p := bits_eq n1.1
  have r0_9 : fld w0 0 9 = 0 := n0.1
  have c0 : (fld w0 0 9 == 0) = true := by simp [r0_9]
  unfold decodeMajor; rw [hi]; simp only []; unfold decodeMajor1; rw [lo]; simp only [c0, cond_true]; rw [e_d, e_a, e_p]

theorem RoundTrip.shl (d : BitVec 6) (a : BitVec 6) (p : BitVec 3) (b : BitVec 6) (q : BitVec 3) : RoundTrip.Statement (.shl d a p b q) := by
  have e : encode (.shl d a p b q) = packWord 0 [(0x16, 8), (d.toNat, 6), (a.toNat, 6), (p.toNat, 3), (b.toNat, 6), (q.toNat, 3)] := rfl
  simp only [packWord] at e
  obtain ⟨w0, hw⟩ : ∃ w0, encode (.shl d a p b q) = w0 := ⟨_, rfl⟩
  rw [hw] at e
  have g0 := (Nat.div_one w0).trans e
  have n0 := nextField (lo := 0) g0 q.isLt
  have n1 := nextField (lo := 3) n0.2 b.isLt
  have n2 := nextField (lo := 9) n1.2 p.isLt
  have n3 := nextField (lo := 12) n2.2 a.isLt
  have n4 := nextField (lo := 18) n3.2 d.isLt
  have ho : w0 / 2 ^ 24 = 22 := n4.2
  refine laneWord rfl hw ho (by decide) ?_
  have hi : fld w0 28 4 = 1 := (opcode ho).1
  have lo : fld w0 24 4 = 6 := (opcode ho).2
  have e_d : bits w0 18 6 = d := bits_eq n4.1
  have e_a : bits w0 12 6 = a := bits_eq n3.1
  have e_p : bits w0 9 3 = p := bits_eq n2.1
  have e_b : bits w0 3 6 = b := bits_eq n1.1
  have e_q : bits w0 0 3 = q := bits_eq n0.1
  unfold decodeMajor; rw [hi]; simp only []; unfold decodeMajor1; rw [lo]; simp only []; rw [e_d, e_a, e_p, e_b, e_q]

theorem RoundTrip.shr (d : BitVec 6) (a : BitVec 6) (p : BitVec 3) (b : BitVec 6) (q : BitVec 3) : RoundTrip.Statement (.shr d a p b q) := by
  have e : encode (.shr d a p b q) = packWord 0 [(0x17, 8), (d.toNat, 6), (a.toNat, 6), (p.toNat, 3), (b.toNat, 6), (q.toNat, 3)] := rfl
  simp only [packWord] at e
  obtain ⟨w0, hw⟩ : ∃ w0, encode (.shr d a p b q) = w0 := ⟨_, rfl⟩
  rw [hw] at e
  have g0 := (Nat.div_one w0).trans e
  have n0 := nextField (lo := 0) g0 q.isLt
  have n1 := nextField (lo := 3) n0.2 b.isLt
  have n2 := nextField (lo := 9) n1.2 p.isLt
  have n3 := nextField (lo := 12) n2.2 a.isLt
  have n4 := nextField (lo := 18) n3.2 d.isLt
  have ho : w0 / 2 ^ 24 = 23 := n4.2
  refine laneWord rfl hw ho (by decide) ?_
  have hi : fld w0 28 4 = 1 := (opcode ho).1
  have lo : fld w0 24 4 = 7 := (opcode ho).2
  have e_d : bits w0 18 6 = d := bits_eq n4.1
  have e_a : bits w0 12 6 = a := bits_eq n3.1
  have e_p : bits w0 9 3 = p := bits_eq n2.1
  have e_b : bits w0 3 6 = b := bits_eq n1.1
  have e_q : bits w0 0 3 = q := bits_eq n0.1
  unfold decodeMajor; rw [hi]; simp only []; unfold decodeMajor1; rw [lo]; simp only []; rw [e_d, e_a, e_p, e_b, e_q]

theorem RoundTrip.sha (d : BitVec 6) (a : BitVec 6) (p : BitVec 3) (b : BitVec 6) (q : BitVec 3) : RoundTrip.Statement (.sha d a p b q) := by
  have e : encode (.sha d a p b q) = packWord 0 [(0x18, 8), (d.toNat, 6), (a.toNat, 6), (p.toNat, 3), (b.toNat, 6), (q.toNat, 3)] := rfl
  simp only [packWord] at e
  obtain ⟨w0, hw⟩ : ∃ w0, encode (.sha d a p b q) = w0 := ⟨_, rfl⟩
  rw [hw] at e
  have g0 := (Nat.div_one w0).trans e
  have n0 := nextField (lo := 0) g0 q.isLt
  have n1 := nextField (lo := 3) n0.2 b.isLt
  have n2 := nextField (lo := 9) n1.2 p.isLt
  have n3 := nextField (lo := 12) n2.2 a.isLt
  have n4 := nextField (lo := 18) n3.2 d.isLt
  have ho : w0 / 2 ^ 24 = 24 := n4.2
  refine laneWord rfl hw ho (by decide) ?_
  have hi : fld w0 28 4 = 1 := (opcode ho).1
  have lo : fld w0 24 4 = 8 := (opcode ho).2
  have e_d : bits w0 18 6 = d := bits_eq n4.1
  have e_a : bits w0 12 6 = a := bits_eq n3.1
  have e_p : bits w0 9 3 = p := bits_eq n2.1
  have e_b : bits w0 3 6 = b := bits_eq n1.1
  have e_q : bits w0 0 3 = q := bits_eq n0.1
  unfold decodeMajor; rw [hi]; simp only []; unfold decodeMajor1; rw [lo]; simp only []; rw [e_d, e_a, e_p, e_b, e_q]

theorem RoundTrip.rotl (d : BitVec 6) (a : BitVec 6) (p : BitVec 3) (b : BitVec 6) (q : BitVec 3) : RoundTrip.Statement (.rotl d a p b q) := by
  have e : encode (.rotl d a p b q) = packWord 0 [(0x19, 8), (d.toNat, 6), (a.toNat, 6), (p.toNat, 3), (b.toNat, 6), (q.toNat, 3)] := rfl
  simp only [packWord] at e
  obtain ⟨w0, hw⟩ : ∃ w0, encode (.rotl d a p b q) = w0 := ⟨_, rfl⟩
  rw [hw] at e
  have g0 := (Nat.div_one w0).trans e
  have n0 := nextField (lo := 0) g0 q.isLt
  have n1 := nextField (lo := 3) n0.2 b.isLt
  have n2 := nextField (lo := 9) n1.2 p.isLt
  have n3 := nextField (lo := 12) n2.2 a.isLt
  have n4 := nextField (lo := 18) n3.2 d.isLt
  have ho : w0 / 2 ^ 24 = 25 := n4.2
  refine laneWord rfl hw ho (by decide) ?_
  have hi : fld w0 28 4 = 1 := (opcode ho).1
  have lo : fld w0 24 4 = 9 := (opcode ho).2
  have e_d : bits w0 18 6 = d := bits_eq n4.1
  have e_a : bits w0 12 6 = a := bits_eq n3.1
  have e_p : bits w0 9 3 = p := bits_eq n2.1
  have e_b : bits w0 3 6 = b := bits_eq n1.1
  have e_q : bits w0 0 3 = q := bits_eq n0.1
  unfold decodeMajor; rw [hi]; simp only []; unfold decodeMajor1; rw [lo]; simp only []; rw [e_d, e_a, e_p, e_b, e_q]

theorem RoundTrip.shli (d : BitVec 6) (a : BitVec 6) (n : BitVec 6) : RoundTrip.Statement (.shli d a n) := by
  have e : encode (.shli d a n) = packWord 0 [(0x1a, 8), (d.toNat, 6), (a.toNat, 6), (0, 6), (n.toNat, 6)] := rfl
  simp only [packWord] at e
  obtain ⟨w0, hw⟩ : ∃ w0, encode (.shli d a n) = w0 := ⟨_, rfl⟩
  rw [hw] at e
  have g0 := (Nat.div_one w0).trans e
  have n0 := nextField (lo := 0) g0 n.isLt
  have n1 := nextField (lo := 6) n0.2 (by decide)
  have n2 := nextField (lo := 12) n1.2 a.isLt
  have n3 := nextField (lo := 18) n2.2 d.isLt
  have ho : w0 / 2 ^ 24 = 26 := n3.2
  refine laneWord rfl hw ho (by decide) ?_
  have hi : fld w0 28 4 = 1 := (opcode ho).1
  have lo : fld w0 24 4 = 10 := (opcode ho).2
  have e_d : bits w0 18 6 = d := bits_eq n3.1
  have e_a : bits w0 12 6 = a := bits_eq n2.1
  have e_n : bits w0 0 6 = n := bits_eq n0.1
  have r6_6 : fld w0 6 6 = 0 := n1.1
  have c0 : (fld w0 6 6 == 0) = true := by simp [r6_6]
  unfold decodeMajor; rw [hi]; simp only []; unfold decodeMajor1; rw [lo]; simp only [c0, cond_true]; rw [e_d, e_a, e_n]

theorem RoundTrip.shri (d : BitVec 6) (a : BitVec 6) (n : BitVec 6) : RoundTrip.Statement (.shri d a n) := by
  have e : encode (.shri d a n) = packWord 0 [(0x1b, 8), (d.toNat, 6), (a.toNat, 6), (0, 6), (n.toNat, 6)] := rfl
  simp only [packWord] at e
  obtain ⟨w0, hw⟩ : ∃ w0, encode (.shri d a n) = w0 := ⟨_, rfl⟩
  rw [hw] at e
  have g0 := (Nat.div_one w0).trans e
  have n0 := nextField (lo := 0) g0 n.isLt
  have n1 := nextField (lo := 6) n0.2 (by decide)
  have n2 := nextField (lo := 12) n1.2 a.isLt
  have n3 := nextField (lo := 18) n2.2 d.isLt
  have ho : w0 / 2 ^ 24 = 27 := n3.2
  refine laneWord rfl hw ho (by decide) ?_
  have hi : fld w0 28 4 = 1 := (opcode ho).1
  have lo : fld w0 24 4 = 11 := (opcode ho).2
  have e_d : bits w0 18 6 = d := bits_eq n3.1
  have e_a : bits w0 12 6 = a := bits_eq n2.1
  have e_n : bits w0 0 6 = n := bits_eq n0.1
  have r6_6 : fld w0 6 6 = 0 := n1.1
  have c0 : (fld w0 6 6 == 0) = true := by simp [r6_6]
  unfold decodeMajor; rw [hi]; simp only []; unfold decodeMajor1; rw [lo]; simp only [c0, cond_true]; rw [e_d, e_a, e_n]

theorem RoundTrip.shai (d : BitVec 6) (a : BitVec 6) (n : BitVec 6) : RoundTrip.Statement (.shai d a n) := by
  have e : encode (.shai d a n) = packWord 0 [(0x1c, 8), (d.toNat, 6), (a.toNat, 6), (0, 6), (n.toNat, 6)] := rfl
  simp only [packWord] at e
  obtain ⟨w0, hw⟩ : ∃ w0, encode (.shai d a n) = w0 := ⟨_, rfl⟩
  rw [hw] at e
  have g0 := (Nat.div_one w0).trans e
  have n0 := nextField (lo := 0) g0 n.isLt
  have n1 := nextField (lo := 6) n0.2 (by decide)
  have n2 := nextField (lo := 12) n1.2 a.isLt
  have n3 := nextField (lo := 18) n2.2 d.isLt
  have ho : w0 / 2 ^ 24 = 28 := n3.2
  refine laneWord rfl hw ho (by decide) ?_
  have hi : fld w0 28 4 = 1 := (opcode ho).1
  have lo : fld w0 24 4 = 12 := (opcode ho).2
  have e_d : bits w0 18 6 = d := bits_eq n3.1
  have e_a : bits w0 12 6 = a := bits_eq n2.1
  have e_n : bits w0 0 6 = n := bits_eq n0.1
  have r6_6 : fld w0 6 6 = 0 := n1.1
  have c0 : (fld w0 6 6 == 0) = true := by simp [r6_6]
  unfold decodeMajor; rw [hi]; simp only []; unfold decodeMajor1; rw [lo]; simp only [c0, cond_true]; rw [e_d, e_a, e_n]

theorem RoundTrip.popc (d : BitVec 6) (a : BitVec 6) (p : BitVec 3) : RoundTrip.Statement (.popc d a p) := by
  have e : encode (.popc d a p) = packWord 0 [(0x1d, 8), (d.toNat, 6), (a.toNat, 6), (p.toNat, 3), (0, 9)] := rfl
  simp only [packWord] at e
  obtain ⟨w0, hw⟩ : ∃ w0, encode (.popc d a p) = w0 := ⟨_, rfl⟩
  rw [hw] at e
  have g0 := (Nat.div_one w0).trans e
  have n0 := nextField (lo := 0) g0 (by decide)
  have n1 := nextField (lo := 9) n0.2 p.isLt
  have n2 := nextField (lo := 12) n1.2 a.isLt
  have n3 := nextField (lo := 18) n2.2 d.isLt
  have ho : w0 / 2 ^ 24 = 29 := n3.2
  refine laneWord rfl hw ho (by decide) ?_
  have hi : fld w0 28 4 = 1 := (opcode ho).1
  have lo : fld w0 24 4 = 13 := (opcode ho).2
  have e_d : bits w0 18 6 = d := bits_eq n3.1
  have e_a : bits w0 12 6 = a := bits_eq n2.1
  have e_p : bits w0 9 3 = p := bits_eq n1.1
  have r0_9 : fld w0 0 9 = 0 := n0.1
  have c0 : (fld w0 0 9 == 0) = true := by simp [r0_9]
  unfold decodeMajor; rw [hi]; simp only []; unfold decodeMajor1; rw [lo]; simp only [c0, cond_true]; rw [e_d, e_a, e_p]

theorem RoundTrip.clz (d : BitVec 6) (a : BitVec 6) (p : BitVec 3) : RoundTrip.Statement (.clz d a p) := by
  have e : encode (.clz d a p) = packWord 0 [(0x1e, 8), (d.toNat, 6), (a.toNat, 6), (p.toNat, 3), (0, 9)] := rfl
  simp only [packWord] at e
  obtain ⟨w0, hw⟩ : ∃ w0, encode (.clz d a p) = w0 := ⟨_, rfl⟩
  rw [hw] at e
  have g0 := (Nat.div_one w0).trans e
  have n0 := nextField (lo := 0) g0 (by decide)
  have n1 := nextField (lo := 9) n0.2 p.isLt
  have n2 := nextField (lo := 12) n1.2 a.isLt
  have n3 := nextField (lo := 18) n2.2 d.isLt
  have ho : w0 / 2 ^ 24 = 30 := n3.2
  refine laneWord rfl hw ho (by decide) ?_
  have hi : fld w0 28 4 = 1 := (opcode ho).1
  have lo : fld w0 24 4 = 14 := (opcode ho).2
  have e_d : bits w0 18 6 = d := bits_eq n3.1
  have e_a : bits w0 12 6 = a := bits_eq n2.1
  have e_p : bits w0 9 3 = p := bits_eq n1.1
  have r0_9 : fld w0 0 9 = 0 := n0.1
  have c0 : (fld w0 0 9 == 0) = true := by simp [r0_9]
  unfold decodeMajor; rw [hi]; simp only []; unfold decodeMajor1; rw [lo]; simp only [c0, cond_true]; rw [e_d, e_a, e_p]

theorem RoundTrip.brev (d : BitVec 6) (a : BitVec 6) (p : BitVec 3) : RoundTrip.Statement (.brev d a p) := by
  have e : encode (.brev d a p) = packWord 0 [(0x1f, 8), (d.toNat, 6), (a.toNat, 6), (p.toNat, 3), (0, 9)] := rfl
  simp only [packWord] at e
  obtain ⟨w0, hw⟩ : ∃ w0, encode (.brev d a p) = w0 := ⟨_, rfl⟩
  rw [hw] at e
  have g0 := (Nat.div_one w0).trans e
  have n0 := nextField (lo := 0) g0 (by decide)
  have n1 := nextField (lo := 9) n0.2 p.isLt
  have n2 := nextField (lo := 12) n1.2 a.isLt
  have n3 := nextField (lo := 18) n2.2 d.isLt
  have ho : w0 / 2 ^ 24 = 31 := n3.2
  refine laneWord rfl hw ho (by decide) ?_
  have hi : fld w0 28 4 = 1 := (opcode ho).1
  have lo : fld w0 24 4 = 15 := (opcode ho).2
  have e_d : bits w0 18 6 = d := bits_eq n3.1
  have e_a : bits w0 12 6 = a := bits_eq n2.1
  have e_p : bits w0 9 3 = p := bits_eq n1.1
  have r0_9 : fld w0 0 9 = 0 := n0.1
  have c0 : (fld w0 0 9 == 0) = true := by simp [r0_9]
  unfold decodeMajor; rw [hi]; simp only []; unfold decodeMajor1; rw [lo]; simp only [c0, cond_true]; rw [e_d, e_a, e_p]

theorem RoundTrip.bfx (d : BitVec 6) (a : BitVec 6) (l : BitVec 6) (o : BitVec 6) : RoundTrip.Statement (.bfx d a l o) := by
  have e : encode (.bfx d a l o) = packWord 0 [(0x20, 8), (d.toNat, 6), (a.toNat, 6), (l.toNat, 6), (o.toNat, 6)] := rfl
  simp only [packWord] at e
  obtain ⟨w0, hw⟩ : ∃ w0, encode (.bfx d a l o) = w0 := ⟨_, rfl⟩
  rw [hw] at e
  have g0 := (Nat.div_one w0).trans e
  have n0 := nextField (lo := 0) g0 o.isLt
  have n1 := nextField (lo := 6) n0.2 l.isLt
  have n2 := nextField (lo := 12) n1.2 a.isLt
  have n3 := nextField (lo := 18) n2.2 d.isLt
  have ho : w0 / 2 ^ 24 = 32 := n3.2
  refine laneWord rfl hw ho (by decide) ?_
  have hi : fld w0 28 4 = 2 := (opcode ho).1
  have lo : fld w0 24 4 = 0 := (opcode ho).2
  have e_d : bits w0 18 6 = d := bits_eq n3.1
  have e_a : bits w0 12 6 = a := bits_eq n2.1
  have e_l : bits w0 6 6 = l := bits_eq n1.1
  have e_o : bits w0 0 6 = o := bits_eq n0.1
  unfold decodeMajor; rw [hi]; simp only []; unfold decodeMajor2; rw [lo]; simp only []; rw [e_d, e_a, e_l, e_o]

theorem RoundTrip.bfi (d : BitVec 6) (a : BitVec 6) (l : BitVec 6) (o : BitVec 6) : RoundTrip.Statement (.bfi d a l o) := by
  have e : encode (.bfi d a l o) = packWord 0 [(0x21, 8), (d.toNat, 6), (a.toNat, 6), (l.toNat, 6), (o.toNat, 6)] := rfl
  simp only [packWord] at e
  obtain ⟨w0, hw⟩ : ∃ w0, encode (.bfi d a l o) = w0 := ⟨_, rfl⟩
  rw [hw] at e
  have g0 := (Nat.div_one w0).trans e
  have n0 := nextField (lo := 0) g0 o.isLt
  have n1 := nextField (lo := 6) n0.2 l.isLt
  have n2 := nextField (lo := 12) n1.2 a.isLt
  have n3 := nextField (lo := 18) n2.2 d.isLt
  have ho : w0 / 2 ^ 24 = 33 := n3.2
  refine laneWord rfl hw ho (by decide) ?_
  have hi : fld w0 28 4 = 2 := (opcode ho).1
  have lo : fld w0 24 4 = 1 := (opcode ho).2
  have e_d : bits w0 18 6 = d := bits_eq n3.1
  have e_a : bits w0 12 6 = a := bits_eq n2.1
  have e_l : bits w0 6 6 = l := bits_eq n1.1
  have e_o : bits w0 0 6 = o := bits_eq n0.1
  unfold decodeMajor; rw [hi]; simp only []; unfold decodeMajor2; rw [lo]; simp only []; rw [e_d, e_a, e_l, e_o]

theorem RoundTrip.sel (d : BitVec 6) (a : BitVec 6) (p : BitVec 3) (b : BitVec 6) (q : BitVec 3) : RoundTrip.Statement (.sel d a p b q) := by
  have e : encode (.sel d a p b q) = packWord 0 [(0x22, 8), (d.toNat, 6), (a.toNat, 6), (p.toNat, 3), (b.toNat, 6), (q.toNat, 3)] := rfl
  simp only [packWord] at e
  obtain ⟨w0, hw⟩ : ∃ w0, encode (.sel d a p b q) = w0 := ⟨_, rfl⟩
  rw [hw] at e
  have g0 := (Nat.div_one w0).trans e
  have n0 := nextField (lo := 0) g0 q.isLt
  have n1 := nextField (lo := 3) n0.2 b.isLt
  have n2 := nextField (lo := 9) n1.2 p.isLt
  have n3 := nextField (lo := 12) n2.2 a.isLt
  have n4 := nextField (lo := 18) n3.2 d.isLt
  have ho : w0 / 2 ^ 24 = 34 := n4.2
  refine laneWord rfl hw ho (by decide) ?_
  have hi : fld w0 28 4 = 2 := (opcode ho).1
  have lo : fld w0 24 4 = 2 := (opcode ho).2
  have e_d : bits w0 18 6 = d := bits_eq n4.1
  have e_a : bits w0 12 6 = a := bits_eq n3.1
  have e_p : bits w0 9 3 = p := bits_eq n2.1
  have e_b : bits w0 3 6 = b := bits_eq n1.1
  have e_q : bits w0 0 3 = q := bits_eq n0.1
  unfold decodeMajor; rw [hi]; simp only []; unfold decodeMajor2; rw [lo]; simp only []; rw [e_d, e_a, e_p, e_b, e_q]

theorem RoundTrip.icmp (d : BitVec 3) (c : BitVec 3) (a : BitVec 6) (p : BitVec 3) (b : BitVec 6) (q : BitVec 3) : RoundTrip.Statement (.icmp d c a p b q) := by
  have e : encode (.icmp d c a p b q) = packWord 0 [(0x23, 8), (d.toNat, 3), (c.toNat, 3), (a.toNat, 6), (p.toNat, 3), (b.toNat, 6), (q.toNat, 3)] := rfl
  simp only [packWord] at e
  obtain ⟨w0, hw⟩ : ∃ w0, encode (.icmp d c a p b q) = w0 := ⟨_, rfl⟩
  rw [hw] at e
  have g0 := (Nat.div_one w0).trans e
  have n0 := nextField (lo := 0) g0 q.isLt
  have n1 := nextField (lo := 3) n0.2 b.isLt
  have n2 := nextField (lo := 9) n1.2 p.isLt
  have n3 := nextField (lo := 12) n2.2 a.isLt
  have n4 := nextField (lo := 18) n3.2 c.isLt
  have n5 := nextField (lo := 21) n4.2 d.isLt
  have ho : w0 / 2 ^ 24 = 35 := n5.2
  refine laneWord rfl hw ho (by decide) ?_
  have hi : fld w0 28 4 = 2 := (opcode ho).1
  have lo : fld w0 24 4 = 3 := (opcode ho).2
  have e_d : bits w0 21 3 = d := bits_eq n5.1
  have e_c : bits w0 18 3 = c := bits_eq n4.1
  have e_a : bits w0 12 6 = a := bits_eq n3.1
  have e_p : bits w0 9 3 = p := bits_eq n2.1
  have e_b : bits w0 3 6 = b := bits_eq n1.1
  have e_q : bits w0 0 3 = q := bits_eq n0.1
  unfold decodeMajor; rw [hi]; simp only []; unfold decodeMajor2; rw [lo]; simp only []; rw [e_d, e_c, e_a, e_p, e_b, e_q]

theorem RoundTrip.plog (d : BitVec 3) (c : BitVec 3) (a : BitVec 3) (b : BitVec 3) : RoundTrip.Statement (.plog d c a b) := by
  have e : encode (.plog d c a b) = packWord 0 [(0x24, 8), (d.toNat, 3), (c.toNat, 3), (0, 3), (a.toNat, 3), (0, 6), (b.toNat, 3), (0, 3)] := rfl
  simp only [packWord] at e
  obtain ⟨w0, hw⟩ : ∃ w0, encode (.plog d c a b) = w0 := ⟨_, rfl⟩
  rw [hw] at e
  have g0 := (Nat.div_one w0).trans e
  have n0 := nextField (lo := 0) g0 (by decide)
  have n1 := nextField (lo := 3) n0.2 b.isLt
  have n2 := nextField (lo := 6) n1.2 (by decide)
  have n3 := nextField (lo := 12) n2.2 a.isLt
  have n4 := nextField (lo := 15) n3.2 (by decide)
  have n5 := nextField (lo := 18) n4.2 c.isLt
  have n6 := nextField (lo := 21) n5.2 d.isLt
  have ho : w0 / 2 ^ 24 = 36 := n6.2
  refine laneWord rfl hw ho (by decide) ?_
  have hi : fld w0 28 4 = 2 := (opcode ho).1
  have lo : fld w0 24 4 = 4 := (opcode ho).2
  have e_d : bits w0 21 3 = d := bits_eq n6.1
  have e_c : bits w0 18 3 = c := bits_eq n5.1
  have e_a : bits w0 12 3 = a := bits_eq n3.1
  have e_b : bits w0 3 3 = b := bits_eq n1.1
  have r6_6 : fld w0 6 6 = 0 := n2.1
  have r0_3 : fld w0 0 3 = 0 := n0.1
  have r15_3 : fld w0 15 3 = 0 := n4.1
  have c0 : (fld w0 0 3 == 0 && fld w0 6 6 == 0 && fld w0 15 3 == 0) = true := by simp [r0_3, r6_6, r15_3]
  unfold decodeMajor; rw [hi]; simp only []; unfold decodeMajor2; rw [lo]; simp only [c0, cond_true]; rw [e_d, e_c, e_a, e_b]

theorem RoundTrip.pmovNz (d : BitVec 3) (a : BitVec 6) (p : BitVec 3) : RoundTrip.Statement (.pmovNz d a p) := by
  have e : encode (.pmovNz d a p) = packWord 0 [(0x25, 8), (d.toNat, 3), (0, 3), (a.toNat, 6), (p.toNat, 3), (0, 9)] := rfl
  simp only [packWord] at e
  obtain ⟨w0, hw⟩ : ∃ w0, encode (.pmovNz d a p) = w0 := ⟨_, rfl⟩
  rw [hw] at e
  have g0 := (Nat.div_one w0).trans e
  have n0 := nextField (lo := 0) g0 (by decide)
  have n1 := nextField (lo := 9) n0.2 p.isLt
  have n2 := nextField (lo := 12) n1.2 a.isLt
  have n3 := nextField (lo := 18) n2.2 (by decide)
  have n4 := nextField (lo := 21) n3.2 d.isLt
  have ho : w0 / 2 ^ 24 = 37 := n4.2
  refine laneWord rfl hw ho (by decide) ?_
  have hi : fld w0 28 4 = 2 := (opcode ho).1
  have lo : fld w0 24 4 = 5 := (opcode ho).2
  have e_d : bits w0 21 3 = d := bits_eq n4.1
  have e_a : bits w0 12 6 = a := bits_eq n2.1
  have e_p : bits w0 9 3 = p := bits_eq n1.1
  have c0 : (fld w0 0 21 == 524288) = false := by
    apply Bool.eq_false_iff.mpr; unfold fld; simp only [ne_eq, Bool.and_eq_true, beq_iff_eq, decide_eq_true_eq]
    have := d.isLt
    have := a.isLt
    have := p.isLt
    omega
  have c1 : (fld w0 0 21 == 786432) = false := by
    apply Bool.eq_false_iff.mpr; unfold fld; simp only [ne_eq, Bool.and_eq_true, beq_iff_eq, decide_eq_true_eq]
    have := d.isLt
    have := a.isLt
    have := p.isLt
    omega
  have c2 : (fld w0 0 12 == 0 && fld w0 15 6 == 32) = false := by
    apply Bool.eq_false_iff.mpr; unfold fld; simp only [ne_eq, Bool.and_eq_true, beq_iff_eq, decide_eq_true_eq]
    have := d.isLt
    have := a.isLt
    have := p.isLt
    omega
  have c3 : (fld w0 0 12 == 0 && fld w0 17 4 == 10) = false := by
    apply Bool.eq_false_iff.mpr; unfold fld; simp only [ne_eq, Bool.and_eq_true, beq_iff_eq, decide_eq_true_eq]
    have := d.isLt
    have := a.isLt
    have := p.isLt
    omega
  have r0_9 : fld w0 0 9 = 0 := n0.1
  have r18_3 : fld w0 18 3 = 0 := n3.1
  have c4 : (fld w0 0 9 == 0 && fld w0 18 3 == 0) = true := by simp [r0_9, r18_3]
  unfold decodeMajor; rw [hi]; simp only []; unfold decodeMajor2; rw [lo]; simp only [c0, c1, c2, c3, c4, cond_true, cond_false]; rw [e_d, e_a, e_p]

theorem RoundTrip.pmovBit (d : BitVec 3) (a : BitVec 6) (p : BitVec 3) (k : BitVec 5) : RoundTrip.Statement (.pmovBit d a p k) := by
  have e : encode (.pmovBit d a p k) = packWord 0 [(0x25, 8), (d.toNat, 3), (1, 3), (a.toNat, 6), (p.toNat, 3), (0, 1), (k.toNat, 5), (0, 3)] := rfl
  simp only [packWord] at e
  obtain ⟨w0, hw⟩ : ∃ w0, encode (.pmovBit d a p k) = w0 := ⟨_, rfl⟩
  rw [hw] at e
  have g0 := (Nat.div_one w0).trans e
  have n0 := nextField (lo := 0) g0 (by decide)
  have n1 := nextField (lo := 3) n0.2 k.isLt
  have n2 := nextField (lo := 8) n1.2 (by decide)
  have n3 := nextField (lo := 9) n2.2 p.isLt
  have n4 := nextField (lo := 12) n3.2 a.isLt
  have n5 := nextField (lo := 18) n4.2 (by decide)
  have n6 := nextField (lo := 21) n5.2 d.isLt
  have ho : w0 / 2 ^ 24 = 37 := n6.2
  refine laneWord rfl hw ho (by decide) ?_
  have hi : fld w0 28 4 = 2 := (opcode ho).1
  have lo : fld w0 24 4 = 5 := (opcode ho).2
  have e_d : bits w0 21 3 = d := bits_eq n6.1
  have e_a : bits w0 12 6 = a := bits_eq n4.1
  have e_p : bits w0 9 3 = p := bits_eq n3.1
  have e_k : bits w0 3 5 = k := bits_eq n1.1
  have c0 : (fld w0 0 21 == 524288) = false := by
    apply Bool.eq_false_iff.mpr; unfold fld; simp only [ne_eq, Bool.and_eq_true, beq_iff_eq, decide_eq_true_eq]
    have := d.isLt
    have := a.isLt
    have := p.isLt
    have := k.isLt
    omega
  have c1 : (fld w0 0 21 == 786432) = false := by
    apply Bool.eq_false_iff.mpr; unfold fld; simp only [ne_eq, Bool.and_eq_true, beq_iff_eq, decide_eq_true_eq]
    have := d.isLt
    have := a.isLt
    have := p.isLt
    have := k.isLt
    omega
  have c2 : (fld w0 0 12 == 0 && fld w0 15 6 == 32) = false := by
    apply Bool.eq_false_iff.mpr; unfold fld; simp only [ne_eq, Bool.and_eq_true, beq_iff_eq, decide_eq_true_eq]
    have := d.isLt
    have := a.isLt
    have := p.isLt
    have := k.isLt
    omega
  have c3 : (fld w0 0 12 == 0 && fld w0 17 4 == 10) = false := by
    apply Bool.eq_false_iff.mpr; unfold fld; simp only [ne_eq, Bool.and_eq_true, beq_iff_eq, decide_eq_true_eq]
    have := d.isLt
    have := a.isLt
    have := p.isLt
    have := k.isLt
    omega
  have r18_3 : fld w0 18 3 = 1 := n5.1
  have c4 : (fld w0 0 9 == 0 && fld w0 18 3 == 0) = false := by simp [r18_3]
  have r0_3 : fld w0 0 3 = 0 := n0.1
  have r8_1 : fld w0 8 1 = 0 := n2.1
  have c5 : (fld w0 0 3 == 0 && fld w0 8 1 == 0 && fld w0 18 3 == 1) = true := by simp [r0_3, r8_1, r18_3]
  unfold decodeMajor; rw [hi]; simp only []; unfold decodeMajor2; rw [lo]; simp only [c0, c1, c2, c3, c4, c5, cond_true, cond_false]; rw [e_d, e_a, e_p, e_k]

theorem RoundTrip.pmovSet (d : BitVec 3) : RoundTrip.Statement (.pmovSet d) := by
  have e : encode (.pmovSet d) = packWord 0 [(0x25, 8), (d.toNat, 3), (524288, 21)] := rfl
  simp only [packWord] at e
  obtain ⟨w0, hw⟩ : ∃ w0, encode (.pmovSet d) = w0 := ⟨_, rfl⟩
  rw [hw] at e
  have g0 := (Nat.div_one w0).trans e
  have n0 := nextField (lo := 0) g0 (by decide)
  have n1 := nextField (lo := 21) n0.2 d.isLt
  have ho : w0 / 2 ^ 24 = 37 := n1.2
  refine laneWord rfl hw ho (by decide) ?_
  have hi : fld w0 28 4 = 2 := (opcode ho).1
  have lo : fld w0 24 4 = 5 := (opcode ho).2
  have e_d : bits w0 21 3 = d := bits_eq n1.1
  have r0_21 : fld w0 0 21 = 524288 := n0.1
  have c0 : (fld w0 0 21 == 524288) = true := by simp [r0_21]
  unfold decodeMajor; rw [hi]; simp only []; unfold decodeMajor2; rw [lo]; simp only [c0, cond_true]; rw [e_d]

theorem RoundTrip.pmovClr (d : BitVec 3) : RoundTrip.Statement (.pmovClr d) := by
  have e : encode (.pmovClr d) = packWord 0 [(0x25, 8), (d.toNat, 3), (786432, 21)] := rfl
  simp only [packWord] at e
  obtain ⟨w0, hw⟩ : ∃ w0, encode (.pmovClr d) = w0 := ⟨_, rfl⟩
  rw [hw] at e
  have g0 := (Nat.div_one w0).trans e
  have n0 := nextField (lo := 0) g0 (by decide)
  have n1 := nextField (lo := 21) n0.2 d.isLt
  have ho : w0 / 2 ^ 24 = 37 := n1.2
  refine laneWord rfl hw ho (by decide) ?_
  have hi : fld w0 28 4 = 2 := (opcode ho).1
  have lo : fld w0 24 4 = 5 := (opcode ho).2
  have e_d : bits w0 21 3 = d := bits_eq n1.1
  have r0_21 : fld w0 0 21 = 786432 := n0.1
  have c0 : (fld w0 0 21 == 524288) = false := by simp [r0_21]
  have c1 : (fld w0 0 21 == 786432) = true := by simp [r0_21]
  unfold decodeMajor; rw [hi]; simp only []; unfold decodeMajor2; rw [lo]; simp only [c0, c1, cond_true, cond_false]; rw [e_d]

theorem RoundTrip.pmovNot (d : BitVec 3) (a : BitVec 3) : RoundTrip.Statement (.pmovNot d a) := by
  have e : encode (.pmovNot d a) = packWord 0 [(0x25, 8), (d.toNat, 3), (32, 6), (a.toNat, 3), (0, 12)] := rfl
  simp only [packWord] at e
  obtain ⟨w0, hw⟩ : ∃ w0, encode (.pmovNot d a) = w0 := ⟨_, rfl⟩
  rw [hw] at e
  have g0 := (Nat.div_one w0).trans e
  have n0 := nextField (lo := 0) g0 (by decide)
  have n1 := nextField (lo := 12) n0.2 a.isLt
  have n2 := nextField (lo := 15) n1.2 (by decide)
  have n3 := nextField (lo := 21) n2.2 d.isLt
  have ho : w0 / 2 ^ 24 = 37 := n3.2
  refine laneWord rfl hw ho (by decide) ?_
  have hi : fld w0 28 4 = 2 := (opcode ho).1
  have lo : fld w0 24 4 = 5 := (opcode ho).2
  have e_d : bits w0 21 3 = d := bits_eq n3.1
  have e_a : bits w0 12 3 = a := bits_eq n1.1
  have c0 : (fld w0 0 21 == 524288) = false := by
    apply Bool.eq_false_iff.mpr; unfold fld; simp only [ne_eq, Bool.and_eq_true, beq_iff_eq, decide_eq_true_eq]
    have := d.isLt
    have := a.isLt
    omega
  have c1 : (fld w0 0 21 == 786432) = false := by
    apply Bool.eq_false_iff.mpr; unfold fld; simp only [ne_eq, Bool.and_eq_true, beq_iff_eq, decide_eq_true_eq]
    have := d.isLt
    have := a.isLt
    omega
  have r0_12 : fld w0 0 12 = 0 := n0.1
  have r15_6 : fld w0 15 6 = 32 := n2.1
  have c2 : (fld w0 0 12 == 0 && fld w0 15 6 == 32) = true := by simp [r0_12, r15_6]
  unfold decodeMajor; rw [hi]; simp only []; unfold decodeMajor2; rw [lo]; simp only [c0, c1, c2, cond_true, cond_false]; rw [e_d, e_a]

theorem RoundTrip.pmovFroms (d : BitVec 3) (a : BitVec 5) : RoundTrip.Statement (.pmovFroms d a) := by
  have e : encode (.pmovFroms d a) = packWord 0 [(0x25, 8), (d.toNat, 3), (10, 4), (a.toNat, 5), (0, 12)] := rfl
  simp only [packWord] at e
  obtain ⟨w0, hw⟩ : ∃ w0, encode (.pmovFroms d a) = w0 := ⟨_, rfl⟩
  rw [hw] at e
  have g0 := (Nat.div_one w0).trans e
  have n0 := nextField (lo := 0) g0 (by decide)
  have n1 := nextField (lo := 12) n0.2 a.isLt
  have n2 := nextField (lo := 17) n1.2 (by decide)
  have n3 := nextField (lo := 21) n2.2 d.isLt
  have ho : w0 / 2 ^ 24 = 37 := n3.2
  refine laneWord rfl hw ho (by decide) ?_
  have hi : fld w0 28 4 = 2 := (opcode ho).1
  have lo : fld w0 24 4 = 5 := (opcode ho).2
  have e_d : bits w0 21 3 = d := bits_eq n3.1
  have e_a : bits w0 12 5 = a := bits_eq n1.1
  have c0 : (fld w0 0 21 == 524288) = false := by
    apply Bool.eq_false_iff.mpr; unfold fld; simp only [ne_eq, Bool.and_eq_true, beq_iff_eq, decide_eq_true_eq]
    have := d.isLt
    have := a.isLt
    omega
  have c1 : (fld w0 0 21 == 786432) = false := by
    apply Bool.eq_false_iff.mpr; unfold fld; simp only [ne_eq, Bool.and_eq_true, beq_iff_eq, decide_eq_true_eq]
    have := d.isLt
    have := a.isLt
    omega
  have r0_12 : fld w0 0 12 = 0 := n0.1
  have c2 : (fld w0 0 12 == 0 && fld w0 15 6 == 32) = false := by
    apply Bool.eq_false_iff.mpr; unfold fld; simp only [ne_eq, Bool.and_eq_true, beq_iff_eq, decide_eq_true_eq]
    have := d.isLt
    have := a.isLt
    omega
  have r17_4 : fld w0 17 4 = 10 := n2.1
  have c3 : (fld w0 0 12 == 0 && fld w0 17 4 == 10) = true := by simp [r0_12, r17_4]
  unfold decodeMajor; rw [hi]; simp only []; unfold decodeMajor2; rw [lo]; simp only [c0, c1, c2, c3, cond_true, cond_false]; rw [e_d, e_a]

theorem RoundTrip.vote (d : BitVec 3) (c : BitVec 3) (a : BitVec 3) : RoundTrip.Statement (.vote d c a) := by
  intro h0; have hv : (decide (c.toNat ≤ 2)) = true := h0
  have e : encode (.vote d c a) = packWord 0 [(0x26, 8), (d.toNat, 3), (c.toNat, 3), (0, 3), (a.toNat, 3), (0, 12)] := rfl
  simp only [packWord] at e
  obtain ⟨w0, hw⟩ : ∃ w0, encode (.vote d c a) = w0 := ⟨_, rfl⟩
  rw [hw] at e
  have g0 := (Nat.div_one w0).trans e
  have n0 := nextField (lo := 0) g0 (by decide)
  have n1 := nextField (lo := 12) n0.2 a.isLt
  have n2 := nextField (lo := 15) n1.2 (by decide)
  have n3 := nextField (lo := 18) n2.2 c.isLt
  have n4 := nextField (lo := 21) n3.2 d.isLt
  have ho : w0 / 2 ^ 24 = 38 := n4.2
  refine laneWord rfl hw ho (by decide) ?_ h0
  have hi : fld w0 28 4 = 2 := (opcode ho).1
  have lo : fld w0 24 4 = 6 := (opcode ho).2
  have e_d : bits w0 21 3 = d := bits_eq n4.1
  have e_c : bits w0 18 3 = c := bits_eq n3.1
  have e_a : bits w0 12 3 = a := bits_eq n1.1
  have r0_12 : fld w0 0 12 = 0 := n0.1
  have r15_3 : fld w0 15 3 = 0 := n2.1
  have r18_3 : fld w0 18 3 = c.toNat := n3.1
  have c0 : (fld w0 0 12 == 0 && fld w0 15 3 == 0 && decide ((fld w0 18 3) ≤ 2)) = true := by simp [r0_12, r15_3, r18_3, hv]
  unfold decodeMajor; rw [hi]; simp only []; unfold decodeMajor2; rw [lo]; simp only [c0, cond_true]; rw [e_d, e_c, e_a]

theorem RoundTrip.voteBallot (d : BitVec 3) (a : BitVec 3) (b : BitVec 5) : RoundTrip.Statement (.voteBallot d a b) := by
  have e : encode (.voteBallot d a b) = packWord 0 [(0x26, 8), (d.toNat, 3), (24, 6), (a.toNat, 3), (0, 4), (b.toNat, 5), (0, 3)] := rfl
  simp only [packWord] at e
  obtain ⟨w0, hw⟩ : ∃ w0, encode (.voteBallot d a b) = w0 := ⟨_, rfl⟩
  rw [hw] at e
  have g0 := (Nat.div_one w0).trans e
  have n0 := nextField (lo := 0) g0 (by decide)
  have n1 := nextField (lo := 3) n0.2 b.isLt
  have n2 := nextField (lo := 8) n1.2 (by decide)
  have n3 := nextField (lo := 12) n2.2 a.isLt
  have n4 := nextField (lo := 15) n3.2 (by decide)
  have n5 := nextField (lo := 21) n4.2 d.isLt
  have ho : w0 / 2 ^ 24 = 38 := n5.2
  refine laneWord rfl hw ho (by decide) ?_
  have hi : fld w0 28 4 = 2 := (opcode ho).1
  have lo : fld w0 24 4 = 6 := (opcode ho).2
  have e_d : bits w0 21 3 = d := bits_eq n5.1
  have e_a : bits w0 12 3 = a := bits_eq n3.1
  have e_b : bits w0 3 5 = b := bits_eq n1.1
  have c0 : (fld w0 0 12 == 0 && fld w0 15 3 == 0 && decide ((fld w0 18 3) ≤ 2)) = false := by
    apply Bool.eq_false_iff.mpr; unfold fld; simp only [ne_eq, Bool.and_eq_true, beq_iff_eq, decide_eq_true_eq]
    have := d.isLt
    have := a.isLt
    have := b.isLt
    omega
  have r0_3 : fld w0 0 3 = 0 := n0.1
  have r8_4 : fld w0 8 4 = 0 := n2.1
  have r15_6 : fld w0 15 6 = 24 := n4.1
  have c1 : (fld w0 0 3 == 0 && fld w0 8 4 == 0 && fld w0 15 6 == 24) = true := by simp [r0_3, r8_4, r15_6]
  unfold decodeMajor; rw [hi]; simp only []; unfold decodeMajor2; rw [lo]; simp only [c0, c1, cond_true, cond_false]; rw [e_d, e_a, e_b]

theorem RoundTrip.xshf (d : BitVec 6) (a : BitVec 6) (b : BitVec 6) (q : BitVec 3) : RoundTrip.Statement (.xshf d a b q) := by
  have e : encode (.xshf d a b q) = packWord 0 [(0x27, 8), (d.toNat, 6), (a.toNat, 6), (0, 3), (b.toNat, 6), (q.toNat, 3)] := rfl
  simp only [packWord] at e
  obtain ⟨w0, hw⟩ : ∃ w0, encode (.xshf d a b q) = w0 := ⟨_, rfl⟩
  rw [hw] at e
  have g0 := (Nat.div_one w0).trans e
  have n0 := nextField (lo := 0) g0 q.isLt
  have n1 := nextField (lo := 3) n0.2 b.isLt
  have n2 := nextField (lo := 9) n1.2 (by decide)
  have n3 := nextField (lo := 12) n2.2 a.isLt
  have n4 := nextField (lo := 18) n3.2 d.isLt
  have ho : w0 / 2 ^ 24 = 39 := n4.2
  refine laneWord rfl hw ho (by decide) ?_
  have hi : fld w0 28 4 = 2 := (opcode ho).1
  have lo : fld w0 24 4 = 7 := (opcode ho).2
  have e_d : bits w0 18 6 = d := bits_eq n4.1
  have e_a : bits w0 12 6 = a := bits_eq n3.1
  have e_b : bits w0 3 6 = b := bits_eq n1.1
  have e_q : bits w0 0 3 = q := bits_eq n0.1
  have r9_3 : fld w0 9 3 = 0 := n2.1
  have c0 : (fld w0 9 3 == 0) = true := by simp [r9_3]
  unfold decodeMajor; rw [hi]; simp only []; unfold decodeMajor2; rw [lo]; simp only [c0, cond_true]; rw [e_d, e_a, e_b, e_q]

theorem RoundTrip.setx (n : BitVec 3) (a : BitVec 5) (b : BitVec 5) : RoundTrip.Statement (.setx n a b) := by
  have e : encode (.setx n a b) = packWord 0 [(0x28, 8), (0, 2), (n.toNat, 3), (a.toNat, 5), (b.toNat, 5), (0, 9)] := rfl
  simp only [packWord] at e
  obtain ⟨w0, hw⟩ : ∃ w0, encode (.setx n a b) = w0 := ⟨_, rfl⟩
  rw [hw] at e
  have g0 := (Nat.div_one w0).trans e
  have n0 := nextField (lo := 0) g0 (by decide)
  have n1 := nextField (lo := 9) n0.2 b.isLt
  have n2 := nextField (lo := 14) n1.2 a.isLt
  have n3 := nextField (lo := 19) n2.2 n.isLt
  have n4 := nextField (lo := 22) n3.2 (by decide)
  have ho : w0 / 2 ^ 24 = 40 := n4.2
  refine laneWord rfl hw ho (by decide) ?_
  have hi : fld w0 28 4 = 2 := (opcode ho).1
  have lo : fld w0 24 4 = 8 := (opcode ho).2
  have e_n : bits w0 19 3 = n := bits_eq n3.1
  have e_a : bits w0 14 5 = a := bits_eq n2.1
  have e_b : bits w0 9 5 = b := bits_eq n1.1
  have r22_2 : fld w0 22 2 = 0 := n4.1
  have r0_9 : fld w0 0 9 = 0 := n0.1
  have c0 : (fld w0 0 9 == 0 && fld w0 22 2 == 0) = true := by simp [r0_9, r22_2]
  unfold decodeMajor; rw [hi]; simp only []; unfold decodeMajor2; rw [lo]; simp only [c0, cond_true]; rw [e_n, e_a, e_b]

theorem RoundTrip.movx (d : BitVec 6) (a : BitVec 6) (p : BitVec 3) (n : BitVec 3) : RoundTrip.Statement (.movx d a p n) := by
  have e : encode (.movx d a p n) = packWord 0 [(0x29, 8), (d.toNat, 6), (a.toNat, 6), (p.toNat, 3), (0, 3), (n.toNat, 3), (0, 3)] := rfl
  simp only [packWord] at e
  obtain ⟨w0, hw⟩ : ∃ w0, encode (.movx d a p n) = w0 := ⟨_, rfl⟩
  rw [hw] at e
  have g0 := (Nat.div_one w0).trans e
  have n0 := nextField (lo := 0) g0 (by decide)
  have n1 := nextField (lo := 3) n0.2 n.isLt
  have n2 := nextField (lo := 6) n1.2 (by decide)
  have n3 := nextField (lo := 9) n2.2 p.isLt
  have n4 := nextField (lo := 12) n3.2 a.isLt
  have n5 := nextField (lo := 18) n4.2 d.isLt
  have ho : w0 / 2 ^ 24 = 41 := n5.2
  refine laneWord rfl hw ho (by decide) ?_
  have hi : fld w0 28 4 = 2 := (opcode ho).1
  have lo : fld w0 24 4 = 9 := (opcode ho).2
  have e_d : bits w0 18 6 = d := bits_eq n5.1
  have e_a : bits w0 12 6 = a := bits_eq n4.1
  have e_p : bits w0 9 3 = p := bits_eq n3.1
  have e_n : bits w0 3 3 = n := bits_eq n1.1
  have r0_3 : fld w0 0 3 = 0 := n0.1
  have r6_3 : fld w0 6 3 = 0 := n2.1
  have c0 : (fld w0 0 3 == 0 && fld w0 6 3 == 0) = true := by simp [r0_3, r6_3]
  unfold decodeMajor; rw [hi]; simp only []; unfold decodeMajor2; rw [lo]; simp only [c0, cond_true]; rw [e_d, e_a, e_p, e_n]

theorem RoundTrip.stx (n : BitVec 3) (a : BitVec 6) (p : BitVec 3) (b : BitVec 6) (q : BitVec 3) : RoundTrip.Statement (.stx n a p b q) := by
  have e : encode (.stx n a p b q) = packWord 0 [(0x2a, 8), (0, 3), (n.toNat, 3), (a.toNat, 6), (p.toNat, 3), (b.toNat, 6), (q.toNat, 3)] := rfl
  simp only [packWord] at e
  obtain ⟨w0, hw⟩ : ∃ w0, encode (.stx n a p b q) = w0 := ⟨_, rfl⟩
  rw [hw] at e
  have g0 := (Nat.div_one w0).trans e
  have n0 := nextField (lo := 0) g0 q.isLt
  have n1 := nextField (lo := 3) n0.2 b.isLt
  have n2 := nextField (lo := 9) n1.2 p.isLt
  have n3 := nextField (lo := 12) n2.2 a.isLt
  have n4 := nextField (lo := 18) n3.2 n.isLt
  have n5 := nextField (lo := 21) n4.2 (by decide)
  have ho : w0 / 2 ^ 24 = 42 := n5.2
  refine laneWord rfl hw ho (by decide) ?_
  have hi : fld w0 28 4 = 2 := (opcode ho).1
  have lo : fld w0 24 4 = 10 := (opcode ho).2
  have e_n : bits w0 18 3 = n := bits_eq n4.1
  have e_a : bits w0 12 6 = a := bits_eq n3.1
  have e_p : bits w0 9 3 = p := bits_eq n2.1
  have e_b : bits w0 3 6 = b := bits_eq n1.1
  have e_q : bits w0 0 3 = q := bits_eq n0.1
  have r21_3 : fld w0 21 3 = 0 := n5.1
  have c0 : (fld w0 21 3 == 0) = true := by simp [r21_3]
  unfold decodeMajor; rw [hi]; simp only []; unfold decodeMajor2; rw [lo]; simp only [c0, cond_true]; rw [e_n, e_a, e_p, e_b, e_q]

theorem RoundTrip.s2v (d : BitVec 6) (a : BitVec 5) : RoundTrip.Statement (.s2v d a) := by
  have e : encode (.s2v d a) = packWord 0 [(0x2b, 8), (d.toNat, 6), (0, 1), (a.toNat, 5), (0, 12)] := rfl
  simp only [packWord] at e
  obtain ⟨w0, hw⟩ : ∃ w0, encode (.s2v d a) = w0 := ⟨_, rfl⟩
  rw [hw] at e
  have g0 := (Nat.div_one w0).trans e
  have n0 := nextField (lo := 0) g0 (by decide)
  have n1 := nextField (lo := 12) n0.2 a.isLt
  have n2 := nextField (lo := 17) n1.2 (by decide)
  have n3 := nextField (lo := 18) n2.2 d.isLt
  have ho : w0 / 2 ^ 24 = 43 := n3.2
  refine laneWord rfl hw ho (by decide) ?_
  have hi : fld w0 28 4 = 2 := (opcode ho).1
  have lo : fld w0 24 4 = 11 := (opcode ho).2
  have e_d : bits w0 18 6 = d := bits_eq n3.1
  have e_a : bits w0 12 5 = a := bits_eq n1.1
  have r0_12 : fld w0 0 12 = 0 := n0.1
  have r17_1 : fld w0 17 1 = 0 := n2.1
  have c0 : (fld w0 0 12 == 0 && fld w0 17 1 == 0) = true := by simp [r0_12, r17_1]
  unfold decodeMajor; rw [hi]; simp only []; unfold decodeMajor2; rw [lo]; simp only [c0, cond_true]; rw [e_d, e_a]

theorem RoundTrip.v2s (d : BitVec 5) (a : BitVec 6) (p : BitVec 3) (l : BitVec 5) : RoundTrip.Statement (.v2s d a p l) := by
  have e : encode (.v2s d a p l) = packWord 0 [(0x2c, 8), (0, 1), (d.toNat, 5), (a.toNat, 6), (p.toNat, 3), (0, 1), (l.toNat, 5), (0, 3)] := rfl
  simp only [packWord] at e
  obtain ⟨w0, hw⟩ : ∃ w0, encode (.v2s d a p l) = w0 := ⟨_, rfl⟩
  rw [hw] at e
  have g0 := (Nat.div_one w0).trans e
  have n0 := nextField (lo := 0) g0 (by decide)
  have n1 := nextField (lo := 3) n0.2 l.isLt
  have n2 := nextField (lo := 8) n1.2 (by decide)
  have n3 := nextField (lo := 9) n2.2 p.isLt
  have n4 := nextField (lo := 12) n3.2 a.isLt
  have n5 := nextField (lo := 18) n4.2 d.isLt
  have n6 := nextField (lo := 23) n5.2 (by decide)
  have ho : w0 / 2 ^ 24 = 44 := n6.2
  refine laneWord rfl hw ho (by decide) ?_
  have hi : fld w0 28 4 = 2 := (opcode ho).1
  have lo : fld w0 24 4 = 12 := (opcode ho).2
  have e_d : bits w0 18 5 = d := bits_eq n5.1
  have e_a : bits w0 12 6 = a := bits_eq n4.1
  have e_p : bits w0 9 3 = p := bits_eq n3.1
  have e_l : bits w0 3 5 = l := bits_eq n1.1
  have r23_1 : fld w0 23 1 = 0 := n6.1
  have r0_3 : fld w0 0 3 = 0 := n0.1
  have r8_1 : fld w0 8 1 = 0 := n2.1
  have c0 : (fld w0 0 3 == 0 && fld w0 8 1 == 0 && fld w0 23 1 == 0) = true := by simp [r0_3, r8_1, r23_1]
  unfold decodeMajor; rw [hi]; simp only []; unfold decodeMajor2; rw [lo]; simp only [c0, cond_true]; rw [e_d, e_a, e_p, e_l]

theorem RoundTrip.sadd (d : BitVec 5) (a : BitVec 5) (b : BitVec 5) : RoundTrip.Statement (.sadd d a b) := by
  have e : encode (.sadd d a b) = packWord 0 [(0x2d, 8), (d.toNat, 5), (a.toNat, 5), (b.toNat, 5), (0, 9)] := rfl
  simp only [packWord] at e
  obtain ⟨w0, hw⟩ : ∃ w0, encode (.sadd d a b) = w0 := ⟨_, rfl⟩
  rw [hw] at e
  have g0 := (Nat.div_one w0).trans e
  have n0 := nextField (lo := 0) g0 (by decide)
  have n1 := nextField (lo := 9) n0.2 b.isLt
  have n2 := nextField (lo := 14) n1.2 a.isLt
  have n3 := nextField (lo := 19) n2.2 d.isLt
  have ho : w0 / 2 ^ 24 = 45 := n3.2
  refine laneWord rfl hw ho (by decide) ?_
  have hi : fld w0 28 4 = 2 := (opcode ho).1
  have lo : fld w0 24 4 = 13 := (opcode ho).2
  have e_d : bits w0 19 5 = d := bits_eq n3.1
  have e_a : bits w0 14 5 = a := bits_eq n2.1
  have e_b : bits w0 9 5 = b := bits_eq n1.1
  have r0_9 : fld w0 0 9 = 0 := n0.1
  have c0 : (fld w0 0 9 == 0) = true := by simp [r0_9]
  unfold decodeMajor; rw [hi]; simp only []; unfold decodeMajor2; rw [lo]; simp only [c0, cond_true]; rw [e_d, e_a, e_b]

theorem RoundTrip.saddImm (d : BitVec 5) (a : BitVec 5) (imm : BitVec 8) : RoundTrip.Statement (.saddImm d a imm) := by
  have e : encode (.saddImm d a imm) = packWord 0 [(0x2d, 8), (d.toNat, 5), (a.toNat, 5), (1, 6), (imm.toNat, 8)] := rfl
  simp only [packWord] at e
  obtain ⟨w0, hw⟩ : ∃ w0, encode (.saddImm d a imm) = w0 := ⟨_, rfl⟩
  rw [hw] at e
  have g0 := (Nat.div_one w0).trans e
  have n0 := nextField (lo := 0) g0 imm.isLt
  have n1 := nextField (lo := 8) n0.2 (by decide)
  have n2 := nextField (lo := 14) n1.2 a.isLt
  have n3 := nextField (lo := 19) n2.2 d.isLt
  have ho : w0 / 2 ^ 24 = 45 := n3.2
  refine laneWord rfl hw ho (by decide) ?_
  have hi : fld w0 28 4 = 2 := (opcode ho).1
  have lo : fld w0 24 4 = 13 := (opcode ho).2
  have e_d : bits w0 19 5 = d := bits_eq n3.1
  have e_a : bits w0 14 5 = a := bits_eq n2.1
  have e_imm : bits w0 0 8 = imm := bits_eq n0.1
  have c0 : (fld w0 0 9 == 0) = false := by
    apply Bool.eq_false_iff.mpr; unfold fld; simp only [ne_eq, Bool.and_eq_true, beq_iff_eq, decide_eq_true_eq]
    have := d.isLt
    have := a.isLt
    have := imm.isLt
    omega
  have r8_6 : fld w0 8 6 = 1 := n1.1
  have c1 : (fld w0 8 6 == 1) = true := by simp [r8_6]
  unfold decodeMajor; rw [hi]; simp only []; unfold decodeMajor2; rw [lo]; simp only [c0, c1, cond_true, cond_false]; rw [e_d, e_a, e_imm]

theorem RoundTrip.ssub (d : BitVec 5) (a : BitVec 5) (b : BitVec 5) : RoundTrip.Statement (.ssub d a b) := by
  have e : encode (.ssub d a b) = packWord 0 [(0x2e, 8), (d.toNat, 5), (a.toNat, 5), (b.toNat, 5), (0, 9)] := rfl
  simp only [packWord] at e
  obtain ⟨w0, hw⟩ : ∃ w0, encode (.ssub d a b) = w0 := ⟨_, rfl⟩
  rw [hw] at e
  have g0 := (Nat.div_one w0).trans e
  have n0 := nextField (lo := 0) g0 (by decide)
  have n1 := nextField (lo := 9) n0.2 b.isLt
  have n2 := nextField (lo := 14) n1.2 a.isLt
  have n3 := nextField (lo := 19) n2.2 d.isLt
  have ho : w0 / 2 ^ 24 = 46 := n3.2
  refine laneWord rfl hw ho (by decide) ?_
  have hi : fld w0 28 4 = 2 := (opcode ho).1
  have lo : fld w0 24 4 = 14 := (opcode ho).2
  have e_d : bits w0 19 5 = d := bits_eq n3.1
  have e_a : bits w0 14 5 = a := bits_eq n2.1
  have e_b : bits w0 9 5 = b := bits_eq n1.1
  have r0_9 : fld w0 0 9 = 0 := n0.1
  have c0 : (fld w0 0 9 == 0) = true := by simp [r0_9]
  unfold decodeMajor; rw [hi]; simp only []; unfold decodeMajor2; rw [lo]; simp only [c0, cond_true]; rw [e_d, e_a, e_b]

theorem RoundTrip.ssubImm (d : BitVec 5) (a : BitVec 5) (imm : BitVec 8) : RoundTrip.Statement (.ssubImm d a imm) := by
  have e : encode (.ssubImm d a imm) = packWord 0 [(0x2e, 8), (d.toNat, 5), (a.toNat, 5), (1, 6), (imm.toNat, 8)] := rfl
  simp only [packWord] at e
  obtain ⟨w0, hw⟩ : ∃ w0, encode (.ssubImm d a imm) = w0 := ⟨_, rfl⟩
  rw [hw] at e
  have g0 := (Nat.div_one w0).trans e
  have n0 := nextField (lo := 0) g0 imm.isLt
  have n1 := nextField (lo := 8) n0.2 (by decide)
  have n2 := nextField (lo := 14) n1.2 a.isLt
  have n3 := nextField (lo := 19) n2.2 d.isLt
  have ho : w0 / 2 ^ 24 = 46 := n3.2
  refine laneWord rfl hw ho (by decide) ?_
  have hi : fld w0 28 4 = 2 := (opcode ho).1
  have lo : fld w0 24 4 = 14 := (opcode ho).2
  have e_d : bits w0 19 5 = d := bits_eq n3.1
  have e_a : bits w0 14 5 = a := bits_eq n2.1
  have e_imm : bits w0 0 8 = imm := bits_eq n0.1
  have c0 : (fld w0 0 9 == 0) = false := by
    apply Bool.eq_false_iff.mpr; unfold fld; simp only [ne_eq, Bool.and_eq_true, beq_iff_eq, decide_eq_true_eq]
    have := d.isLt
    have := a.isLt
    have := imm.isLt
    omega
  have r8_6 : fld w0 8 6 = 1 := n1.1
  have c1 : (fld w0 8 6 == 1) = true := by simp [r8_6]
  unfold decodeMajor; rw [hi]; simp only []; unfold decodeMajor2; rw [lo]; simp only [c0, c1, cond_true, cond_false]; rw [e_d, e_a, e_imm]

theorem RoundTrip.smul (d : BitVec 5) (a : BitVec 5) (b : BitVec 5) : RoundTrip.Statement (.smul d a b) := by
  have e : encode (.smul d a b) = packWord 0 [(0x2f, 8), (d.toNat, 5), (a.toNat, 5), (b.toNat, 5), (0, 9)] := rfl
  simp only [packWord] at e
  obtain ⟨w0, hw⟩ : ∃ w0, encode (.smul d a b) = w0 := ⟨_, rfl⟩
  rw [hw] at e
  have g0 := (Nat.div_one w0).trans e
  have n0 := nextField (lo := 0) g0 (by decide)
  have n1 := nextField (lo := 9) n0.2 b.isLt
  have n2 := nextField (lo := 14) n1.2 a.isLt
  have n3 := nextField (lo := 19) n2.2 d.isLt
  have ho : w0 / 2 ^ 24 = 47 := n3.2
  refine laneWord rfl hw ho (by decide) ?_
  have hi : fld w0 28 4 = 2 := (opcode ho).1
  have lo : fld w0 24 4 = 15 := (opcode ho).2
  have e_d : bits w0 19 5 = d := bits_eq n3.1
  have e_a : bits w0 14 5 = a := bits_eq n2.1
  have e_b : bits w0 9 5 = b := bits_eq n1.1
  have r0_9 : fld w0 0 9 = 0 := n0.1
  have c0 : (fld w0 0 9 == 0) = true := by simp [r0_9]
  unfold decodeMajor; rw [hi]; simp only []; unfold decodeMajor2; rw [lo]; simp only [c0, cond_true]; rw [e_d, e_a, e_b]

theorem RoundTrip.smulImm (d : BitVec 5) (a : BitVec 5) (imm : BitVec 8) : RoundTrip.Statement (.smulImm d a imm) := by
  have e : encode (.smulImm d a imm) = packWord 0 [(0x2f, 8), (d.toNat, 5), (a.toNat, 5), (1, 6), (imm.toNat, 8)] := rfl
  simp only [packWord] at e
  obtain ⟨w0, hw⟩ : ∃ w0, encode (.smulImm d a imm) = w0 := ⟨_, rfl⟩
  rw [hw] at e
  have g0 := (Nat.div_one w0).trans e
  have n0 := nextField (lo := 0) g0 imm.isLt
  have n1 := nextField (lo := 8) n0.2 (by decide)
  have n2 := nextField (lo := 14) n1.2 a.isLt
  have n3 := nextField (lo := 19) n2.2 d.isLt
  have ho : w0 / 2 ^ 24 = 47 := n3.2
  refine laneWord rfl hw ho (by decide) ?_
  have hi : fld w0 28 4 = 2 := (opcode ho).1
  have lo : fld w0 24 4 = 15 := (opcode ho).2
  have e_d : bits w0 19 5 = d := bits_eq n3.1
  have e_a : bits w0 14 5 = a := bits_eq n2.1
  have e_imm : bits w0 0 8 = imm := bits_eq n0.1
  have c0 : (fld w0 0 9 == 0) = false := by
    apply Bool.eq_false_iff.mpr; unfold fld; simp only [ne_eq, Bool.and_eq_true, beq_iff_eq, decide_eq_true_eq]
    have := d.isLt
    have := a.isLt
    have := imm.isLt
    omega
  have r8_6 : fld w0 8 6 = 1 := n1.1
  have c1 : (fld w0 8 6 == 1) = true := by simp [r8_6]
  unfold decodeMajor; rw [hi]; simp only []; unfold decodeMajor2; rw [lo]; simp only [c0, c1, cond_true, cond_false]; rw [e_d, e_a, e_imm]

theorem RoundTrip.sand (d : BitVec 5) (a : BitVec 5) (b : BitVec 5) : RoundTrip.Statement (.sand d a b) := by
  have e : encode (.sand d a b) = packWord 0 [(0x30, 8), (d.toNat, 5), (a.toNat, 5), (b.toNat, 5), (0, 9)] := rfl
  simp only [packWord] at e
  obtain ⟨w0, hw⟩ : ∃ w0, encode (.sand d a b) = w0 := ⟨_, rfl⟩
  rw [hw] at e
  have g0 := (Nat.div_one w0).trans e
  have n0 := nextField (lo := 0) g0 (by decide)
  have n1 := nextField (lo := 9) n0.2 b.isLt
  have n2 := nextField (lo := 14) n1.2 a.isLt
  have n3 := nextField (lo := 19) n2.2 d.isLt
  have ho : w0 / 2 ^ 24 = 48 := n3.2
  refine laneWord rfl hw ho (by decide) ?_
  have hi : fld w0 28 4 = 3 := (opcode ho).1
  have lo : fld w0 24 4 = 0 := (opcode ho).2
  have e_d : bits w0 19 5 = d := bits_eq n3.1
  have e_a : bits w0 14 5 = a := bits_eq n2.1
  have e_b : bits w0 9 5 = b := bits_eq n1.1
  have r0_9 : fld w0 0 9 = 0 := n0.1
  have c0 : (fld w0 0 9 == 0) = true := by simp [r0_9]
  unfold decodeMajor; rw [hi]; simp only []; unfold decodeMajor3; rw [lo]; simp only [c0, cond_true]; rw [e_d, e_a, e_b]

theorem RoundTrip.sandImm (d : BitVec 5) (a : BitVec 5) (imm : BitVec 8) : RoundTrip.Statement (.sandImm d a imm) := by
  have e : encode (.sandImm d a imm) = packWord 0 [(0x30, 8), (d.toNat, 5), (a.toNat, 5), (1, 6), (imm.toNat, 8)] := rfl
  simp only [packWord] at e
  obtain ⟨w0, hw⟩ : ∃ w0, encode (.sandImm d a imm) = w0 := ⟨_, rfl⟩
  rw [hw] at e
  have g0 := (Nat.div_one w0).trans e
  have n0 := nextField (lo := 0) g0 imm.isLt
  have n1 := nextField (lo := 8) n0.2 (by decide)
  have n2 := nextField (lo := 14) n1.2 a.isLt
  have n3 := nextField (lo := 19) n2.2 d.isLt
  have ho : w0 / 2 ^ 24 = 48 := n3.2
  refine laneWord rfl hw ho (by decide) ?_
  have hi : fld w0 28 4 = 3 := (opcode ho).1
  have lo : fld w0 24 4 = 0 := (opcode ho).2
  have e_d : bits w0 19 5 = d := bits_eq n3.1
  have e_a : bits w0 14 5 = a := bits_eq n2.1
  have e_imm : bits w0 0 8 = imm := bits_eq n0.1
  have c0 : (fld w0 0 9 == 0) = false := by
    apply Bool.eq_false_iff.mpr; unfold fld; simp only [ne_eq, Bool.and_eq_true, beq_iff_eq, decide_eq_true_eq]
    have := d.isLt
    have := a.isLt
    have := imm.isLt
    omega
  have r8_6 : fld w0 8 6 = 1 := n1.1
  have c1 : (fld w0 8 6 == 1) = true := by simp [r8_6]
  unfold decodeMajor; rw [hi]; simp only []; unfold decodeMajor3; rw [lo]; simp only [c0, c1, cond_true, cond_false]; rw [e_d, e_a, e_imm]

theorem RoundTrip.sor (d : BitVec 5) (a : BitVec 5) (b : BitVec 5) : RoundTrip.Statement (.sor d a b) := by
  have e : encode (.sor d a b) = packWord 0 [(0x31, 8), (d.toNat, 5), (a.toNat, 5), (b.toNat, 5), (0, 9)] := rfl
  simp only [packWord] at e
  obtain ⟨w0, hw⟩ : ∃ w0, encode (.sor d a b) = w0 := ⟨_, rfl⟩
  rw [hw] at e
  have g0 := (Nat.div_one w0).trans e
  have n0 := nextField (lo := 0) g0 (by decide)
  have n1 := nextField (lo := 9) n0.2 b.isLt
  have n2 := nextField (lo := 14) n1.2 a.isLt
  have n3 := nextField (lo := 19) n2.2 d.isLt
  have ho : w0 / 2 ^ 24 = 49 := n3.2
  refine laneWord rfl hw ho (by decide) ?_
  have hi : fld w0 28 4 = 3 := (opcode ho).1
  have lo : fld w0 24 4 = 1 := (opcode ho).2
  have e_d : bits w0 19 5 = d := bits_eq n3.1
  have e_a : bits w0 14 5 = a := bits_eq n2.1
  have e_b : bits w0 9 5 = b := bits_eq n1.1
  have r0_9 : fld w0 0 9 = 0 := n0.1
  have c0 : (fld w0 0 9 == 0) = true := by simp [r0_9]
  unfold decodeMajor; rw [hi]; simp only []; unfold decodeMajor3; rw [lo]; simp only [c0, cond_true]; rw [e_d, e_a, e_b]

theorem RoundTrip.sorImm (d : BitVec 5) (a : BitVec 5) (imm : BitVec 8) : RoundTrip.Statement (.sorImm d a imm) := by
  have e : encode (.sorImm d a imm) = packWord 0 [(0x31, 8), (d.toNat, 5), (a.toNat, 5), (1, 6), (imm.toNat, 8)] := rfl
  simp only [packWord] at e
  obtain ⟨w0, hw⟩ : ∃ w0, encode (.sorImm d a imm) = w0 := ⟨_, rfl⟩
  rw [hw] at e
  have g0 := (Nat.div_one w0).trans e
  have n0 := nextField (lo := 0) g0 imm.isLt
  have n1 := nextField (lo := 8) n0.2 (by decide)
  have n2 := nextField (lo := 14) n1.2 a.isLt
  have n3 := nextField (lo := 19) n2.2 d.isLt
  have ho : w0 / 2 ^ 24 = 49 := n3.2
  refine laneWord rfl hw ho (by decide) ?_
  have hi : fld w0 28 4 = 3 := (opcode ho).1
  have lo : fld w0 24 4 = 1 := (opcode ho).2
  have e_d : bits w0 19 5 = d := bits_eq n3.1
  have e_a : bits w0 14 5 = a := bits_eq n2.1
  have e_imm : bits w0 0 8 = imm := bits_eq n0.1
  have c0 : (fld w0 0 9 == 0) = false := by
    apply Bool.eq_false_iff.mpr; unfold fld; simp only [ne_eq, Bool.and_eq_true, beq_iff_eq, decide_eq_true_eq]
    have := d.isLt
    have := a.isLt
    have := imm.isLt
    omega
  have r8_6 : fld w0 8 6 = 1 := n1.1
  have c1 : (fld w0 8 6 == 1) = true := by simp [r8_6]
  unfold decodeMajor; rw [hi]; simp only []; unfold decodeMajor3; rw [lo]; simp only [c0, c1, cond_true, cond_false]; rw [e_d, e_a, e_imm]

theorem RoundTrip.sxor (d : BitVec 5) (a : BitVec 5) (b : BitVec 5) : RoundTrip.Statement (.sxor d a b) := by
  have e : encode (.sxor d a b) = packWord 0 [(0x32, 8), (d.toNat, 5), (a.toNat, 5), (b.toNat, 5), (0, 9)] := rfl
  simp only [packWord] at e
  obtain ⟨w0, hw⟩ : ∃ w0, encode (.sxor d a b) = w0 := ⟨_, rfl⟩
  rw [hw] at e
  have g0 := (Nat.div_one w0).trans e
  have n0 := nextField (lo := 0) g0 (by decide)
  have n1 := nextField (lo := 9) n0.2 b.isLt
  have n2 := nextField (lo := 14) n1.2 a.isLt
  have n3 := nextField (lo := 19) n2.2 d.isLt
  have ho : w0 / 2 ^ 24 = 50 := n3.2
  refine laneWord rfl hw ho (by decide) ?_
  have hi : fld w0 28 4 = 3 := (opcode ho).1
  have lo : fld w0 24 4 = 2 := (opcode ho).2
  have e_d : bits w0 19 5 = d := bits_eq n3.1
  have e_a : bits w0 14 5 = a := bits_eq n2.1
  have e_b : bits w0 9 5 = b := bits_eq n1.1
  have r0_9 : fld w0 0 9 = 0 := n0.1
  have c0 : (fld w0 0 9 == 0) = true := by simp [r0_9]
  unfold decodeMajor; rw [hi]; simp only []; unfold decodeMajor3; rw [lo]; simp only [c0, cond_true]; rw [e_d, e_a, e_b]

theorem RoundTrip.sxorImm (d : BitVec 5) (a : BitVec 5) (imm : BitVec 8) : RoundTrip.Statement (.sxorImm d a imm) := by
  have e : encode (.sxorImm d a imm) = packWord 0 [(0x32, 8), (d.toNat, 5), (a.toNat, 5), (1, 6), (imm.toNat, 8)] := rfl
  simp only [packWord] at e
  obtain ⟨w0, hw⟩ : ∃ w0, encode (.sxorImm d a imm) = w0 := ⟨_, rfl⟩
  rw [hw] at e
  have g0 := (Nat.div_one w0).trans e
  have n0 := nextField (lo := 0) g0 imm.isLt
  have n1 := nextField (lo := 8) n0.2 (by decide)
  have n2 := nextField (lo := 14) n1.2 a.isLt
  have n3 := nextField (lo := 19) n2.2 d.isLt
  have ho : w0 / 2 ^ 24 = 50 := n3.2
  refine laneWord rfl hw ho (by decide) ?_
  have hi : fld w0 28 4 = 3 := (opcode ho).1
  have lo : fld w0 24 4 = 2 := (opcode ho).2
  have e_d : bits w0 19 5 = d := bits_eq n3.1
  have e_a : bits w0 14 5 = a := bits_eq n2.1
  have e_imm : bits w0 0 8 = imm := bits_eq n0.1
  have c0 : (fld w0 0 9 == 0) = false := by
    apply Bool.eq_false_iff.mpr; unfold fld; simp only [ne_eq, Bool.and_eq_true, beq_iff_eq, decide_eq_true_eq]
    have := d.isLt
    have := a.isLt
    have := imm.isLt
    omega
  have r8_6 : fld w0 8 6 = 1 := n1.1
  have c1 : (fld w0 8 6 == 1) = true := by simp [r8_6]
  unfold decodeMajor; rw [hi]; simp only []; unfold decodeMajor3; rw [lo]; simp only [c0, c1, cond_true, cond_false]; rw [e_d, e_a, e_imm]

theorem RoundTrip.sshl (d : BitVec 5) (a : BitVec 5) (b : BitVec 5) : RoundTrip.Statement (.sshl d a b) := by
  have e : encode (.sshl d a b) = packWord 0 [(0x33, 8), (d.toNat, 5), (a.toNat, 5), (b.toNat, 5), (0, 9)] := rfl
  simp only [packWord] at e
  obtain ⟨w0, hw⟩ : ∃ w0, encode (.sshl d a b) = w0 := ⟨_, rfl⟩
  rw [hw] at e
  have g0 := (Nat.div_one w0).trans e
  have n0 := nextField (lo := 0) g0 (by decide)
  have n1 := nextField (lo := 9) n0.2 b.isLt
  have n2 := nextField (lo := 14) n1.2 a.isLt
  have n3 := nextField (lo := 19) n2.2 d.isLt
  have ho : w0 / 2 ^ 24 = 51 := n3.2
  refine laneWord rfl hw ho (by decide) ?_
  have hi : fld w0 28 4 = 3 := (opcode ho).1
  have lo : fld w0 24 4 = 3 := (opcode ho).2
  have e_d : bits w0 19 5 = d := bits_eq n3.1
  have e_a : bits w0 14 5 = a := bits_eq n2.1
  have e_b : bits w0 9 5 = b := bits_eq n1.1
  have r0_9 : fld w0 0 9 = 0 := n0.1
  have c0 : (fld w0 0 9 == 0) = true := by simp [r0_9]
  unfold decodeMajor; rw [hi]; simp only []; unfold decodeMajor3; rw [lo]; simp only [c0, cond_true]; rw [e_d, e_a, e_b]

theorem RoundTrip.sshlImm (d : BitVec 5) (a : BitVec 5) (imm : BitVec 8) : RoundTrip.Statement (.sshlImm d a imm) := by
  have e : encode (.sshlImm d a imm) = packWord 0 [(0x33, 8), (d.toNat, 5), (a.toNat, 5), (1, 6), (imm.toNat, 8)] := rfl
  simp only [packWord] at e
  obtain ⟨w0, hw⟩ : ∃ w0, encode (.sshlImm d a imm) = w0 := ⟨_, rfl⟩
  rw [hw] at e
  have g0 := (Nat.div_one w0).trans e
  have n0 := nextField (lo := 0) g0 imm.isLt
  have n1 := nextField (lo := 8) n0.2 (by decide)
  have n2 := nextField (lo := 14) n1.2 a.isLt
  have n3 := nextField (lo := 19) n2.2 d.isLt
  have ho : w0 / 2 ^ 24 = 51 := n3.2
  refine laneWord rfl hw ho (by decide) ?_
  have hi : fld w0 28 4 = 3 := (opcode ho).1
  have lo : fld w0 24 4 = 3 := (opcode ho).2
  have e_d : bits w0 19 5 = d := bits_eq n3.1
  have e_a : bits w0 14 5 = a := bits_eq n2.1
  have e_imm : bits w0 0 8 = imm := bits_eq n0.1
  have c0 : (fld w0 0 9 == 0) = false := by
    apply Bool.eq_false_iff.mpr; unfold fld; simp only [ne_eq, Bool.and_eq_true, beq_iff_eq, decide_eq_true_eq]
    have := d.isLt
    have := a.isLt
    have := imm.isLt
    omega
  have r8_6 : fld w0 8 6 = 1 := n1.1
  have c1 : (fld w0 8 6 == 1) = true := by simp [r8_6]
  unfold decodeMajor; rw [hi]; simp only []; unfold decodeMajor3; rw [lo]; simp only [c0, c1, cond_true, cond_false]; rw [e_d, e_a, e_imm]

theorem RoundTrip.sshr (d : BitVec 5) (a : BitVec 5) (b : BitVec 5) : RoundTrip.Statement (.sshr d a b) := by
  have e : encode (.sshr d a b) = packWord 0 [(0x34, 8), (d.toNat, 5), (a.toNat, 5), (b.toNat, 5), (0, 9)] := rfl
  simp only [packWord] at e
  obtain ⟨w0, hw⟩ : ∃ w0, encode (.sshr d a b) = w0 := ⟨_, rfl⟩
  rw [hw] at e
  have g0 := (Nat.div_one w0).trans e
  have n0 := nextField (lo := 0) g0 (by decide)
  have n1 := nextField (lo := 9) n0.2 b.isLt
  have n2 := nextField (lo := 14) n1.2 a.isLt
  have n3 := nextField (lo := 19) n2.2 d.isLt
  have ho : w0 / 2 ^ 24 = 52 := n3.2
  refine laneWord rfl hw ho (by decide) ?_
  have hi : fld w0 28 4 = 3 := (opcode ho).1
  have lo : fld w0 24 4 = 4 := (opcode ho).2
  have e_d : bits w0 19 5 = d := bits_eq n3.1
  have e_a : bits w0 14 5 = a := bits_eq n2.1
  have e_b : bits w0 9 5 = b := bits_eq n1.1
  have r0_9 : fld w0 0 9 = 0 := n0.1
  have c0 : (fld w0 0 9 == 0) = true := by simp [r0_9]
  unfold decodeMajor; rw [hi]; simp only []; unfold decodeMajor3; rw [lo]; simp only [c0, cond_true]; rw [e_d, e_a, e_b]

theorem RoundTrip.sshrImm (d : BitVec 5) (a : BitVec 5) (imm : BitVec 8) : RoundTrip.Statement (.sshrImm d a imm) := by
  have e : encode (.sshrImm d a imm) = packWord 0 [(0x34, 8), (d.toNat, 5), (a.toNat, 5), (1, 6), (imm.toNat, 8)] := rfl
  simp only [packWord] at e
  obtain ⟨w0, hw⟩ : ∃ w0, encode (.sshrImm d a imm) = w0 := ⟨_, rfl⟩
  rw [hw] at e
  have g0 := (Nat.div_one w0).trans e
  have n0 := nextField (lo := 0) g0 imm.isLt
  have n1 := nextField (lo := 8) n0.2 (by decide)
  have n2 := nextField (lo := 14) n1.2 a.isLt
  have n3 := nextField (lo := 19) n2.2 d.isLt
  have ho : w0 / 2 ^ 24 = 52 := n3.2
  refine laneWord rfl hw ho (by decide) ?_
  have hi : fld w0 28 4 = 3 := (opcode ho).1
  have lo : fld w0 24 4 = 4 := (opcode ho).2
  have e_d : bits w0 19 5 = d := bits_eq n3.1
  have e_a : bits w0 14 5 = a := bits_eq n2.1
  have e_imm : bits w0 0 8 = imm := bits_eq n0.1
  have c0 : (fld w0 0 9 == 0) = false := by
    apply Bool.eq_false_iff.mpr; unfold fld; simp only [ne_eq, Bool.and_eq_true, beq_iff_eq, decide_eq_true_eq]
    have := d.isLt
    have := a.isLt
    have := imm.isLt
    omega
  have r8_6 : fld w0 8 6 = 1 := n1.1
  have c1 : (fld w0 8 6 == 1) = true := by simp [r8_6]
  unfold decodeMajor; rw [hi]; simp only []; unfold decodeMajor3; rw [lo]; simp only [c0, c1, cond_true, cond_false]; rw [e_d, e_a, e_imm]

theorem RoundTrip.scmp (d : BitVec 5) (a : BitVec 5) (b : BitVec 5) (c : BitVec 3) : RoundTrip.Statement (.scmp d a b c) := by
  have e : encode (.scmp d a b c) = packWord 0 [(0x35, 8), (d.toNat, 5), (a.toNat, 5), (b.toNat, 5), (0, 6), (c.toNat, 3)] := rfl
  simp only [packWord] at e
  obtain ⟨w0, hw⟩ : ∃ w0, encode (.scmp d a b c) = w0 := ⟨_, rfl⟩
  rw [hw] at e
  have g0 := (Nat.div_one w0).trans e
  have n0 := nextField (lo := 0) g0 c.isLt
  have n1 := nextField (lo := 3) n0.2 (by decide)
  have n2 := nextField (lo := 9) n1.2 b.isLt
  have n3 := nextField (lo := 14) n2.2 a.isLt
  have n4 := nextField (lo := 19) n3.2 d.isLt
  have ho : w0 / 2 ^ 24 = 53 := n4.2
  refine laneWord rfl hw ho (by decide) ?_
  have hi : fld w0 28 4 = 3 := (opcode ho).1
  have lo : fld w0 24 4 = 5 := (opcode ho).2
  have e_d : bits w0 19 5 = d := bits_eq n4.1
  have e_a : bits w0 14 5 = a := bits_eq n3.1
  have e_b : bits w0 9 5 = b := bits_eq n2.1
  have e_c : bits w0 0 3 = c := bits_eq n0.1
  have r3_6 : fld w0 3 6 = 0 := n1.1
  have c0 : (fld w0 3 6 == 0) = true := by simp [r3_6]
  unfold decodeMajor; rw [hi]; simp only []; unfold decodeMajor3; rw [lo]; simp only [c0, cond_true]; rw [e_d, e_a, e_b, e_c]

theorem RoundTrip.smovi (d : BitVec 5) (imm : BitVec 19) : RoundTrip.Statement (.smovi d imm) := by
  have e : encode (.smovi d imm) = packWord 0 [(0x36, 8), (d.toNat, 5), (imm.toNat, 19)] := rfl
  simp only [packWord] at e
  obtain ⟨w0, hw⟩ : ∃ w0, encode (.smovi d imm) = w0 := ⟨_, rfl⟩
  rw [hw] at e
  have g0 := (Nat.div_one w0).trans e
  have n0 := nextField (lo := 0) g0 imm.isLt
  have n1 := nextField (lo := 19) n0.2 d.isLt
  have ho : w0 / 2 ^ 24 = 54 := n1.2
  refine laneWord rfl hw ho (by decide) ?_
  have hi : fld w0 28 4 = 3 := (opcode ho).1
  have lo : fld w0 24 4 = 6 := (opcode ho).2
  have e_d : bits w0 19 5 = d := bits_eq n1.1
  have e_imm : bits w0 0 19 = imm := bits_eq n0.1
  unfold decodeMajor; rw [hi]; simp only []; unfold decodeMajor3; rw [lo]; simp only []; rw [e_d, e_imm]

theorem RoundTrip.sreg (d : BitVec 5) (n : BitVec 9) : RoundTrip.Statement (.sreg d n) := by
  intro h0; have hv : (decide (n.toNat ≤ 19)) = true := h0
  have e : encode (.sreg d n) = packWord 0 [(0x37, 8), (d.toNat, 5), (0, 10), (n.toNat, 9)] := rfl
  simp only [packWord] at e
  obtain ⟨w0, hw⟩ : ∃ w0, encode (.sreg d n) = w0 := ⟨_, rfl⟩
  rw [hw] at e
  have g0 := (Nat.div_one w0).trans e
  have n0 := nextField (lo := 0) g0 n.isLt
  have n1 := nextField (lo := 9) n0.2 (by decide)
  have n2 := nextField (lo := 19) n1.2 d.isLt
  have ho : w0 / 2 ^ 24 = 55 := n2.2
  refine laneWord rfl hw ho (by decide) ?_ h0
  have hi : fld w0 28 4 = 3 := (opcode ho).1
  have lo : fld w0 24 4 = 7 := (opcode ho).2
  have e_d : bits w0 19 5 = d := bits_eq n2.1
  have e_n : bits w0 0 9 = n := bits_eq n0.1
  have r9_10 : fld w0 9 10 = 0 := n1.1
  have r0_9 : fld w0 0 9 = n.toNat := n0.1
  have c0 : (fld w0 9 10 == 0 && decide ((fld w0 0 9) ≤ 19)) = true := by simp [r0_9, r9_10, hv]
  unfold decodeMajor; rw [hi]; simp only []; unfold decodeMajor3; rw [lo]; simp only [c0, cond_true]; rw [e_d, e_n]

theorem RoundTrip.setm (a : BitVec 5) : RoundTrip.Statement (.setm a) := by
  have e : encode (.setm a) = packWord 0 [(0x38, 8), (0, 5), (a.toNat, 5), (0, 14)] := rfl
  simp only [packWord] at e
  obtain ⟨w0, hw⟩ : ∃ w0, encode (.setm a) = w0 := ⟨_, rfl⟩
  rw [hw] at e
  have g0 := (Nat.div_one w0).trans e
  have n0 := nextField (lo := 0) g0 (by decide)
  have n1 := nextField (lo := 14) n0.2 a.isLt
  have n2 := nextField (lo := 19) n1.2 (by decide)
  have ho : w0 / 2 ^ 24 = 56 := n2.2
  refine laneWord rfl hw ho (by decide) ?_
  have hi : fld w0 28 4 = 3 := (opcode ho).1
  have lo : fld w0 24 4 = 8 := (opcode ho).2
  have e_a : bits w0 14 5 = a := bits_eq n1.1
  have r0_14 : fld w0 0 14 = 0 := n0.1
  have r19_5 : fld w0 19 5 = 0 := n2.1
  have c0 : (fld w0 0 14 == 0 && fld w0 19 5 == 0) = true := by simp [r0_14, r19_5]
  unfold decodeMajor; rw [hi]; simp only []; unfold decodeMajor3; rw [lo]; simp only [c0, cond_true]; rw [e_a]

theorem RoundTrip.modi (f : BitVec 4) (v : BitVec 12) : RoundTrip.Statement (.modi f v) := by
  intro h0; have hv : (decide (f.toNat ≤ 13)) = true := h0
  have e : encode (.modi f v) = packWord 0 [(0x39, 8), (0, 2), (f.toNat, 4), (0, 6), (v.toNat, 12)] := rfl
  simp only [packWord] at e
  obtain ⟨w0, hw⟩ : ∃ w0, encode (.modi f v) = w0 := ⟨_, rfl⟩
  rw [hw] at e
  have g0 := (Nat.div_one w0).trans e
  have n0 := nextField (lo := 0) g0 v.isLt
  have n1 := nextField (lo := 12) n0.2 (by decide)
  have n2 := nextField (lo := 18) n1.2 f.isLt
  have n3 := nextField (lo := 22) n2.2 (by decide)
  have ho : w0 / 2 ^ 24 = 57 := n3.2
  refine laneWord rfl hw ho (by decide) ?_ h0
  have hi : fld w0 28 4 = 3 := (opcode ho).1
  have lo : fld w0 24 4 = 9 := (opcode ho).2
  have e_f : bits w0 18 4 = f := bits_eq n2.1
  have e_v : bits w0 0 12 = v := bits_eq n0.1
  have r22_2 : fld w0 22 2 = 0 := n3.1
  have r12_6 : fld w0 12 6 = 0 := n1.1
  have r18_4 : fld w0 18 4 = f.toNat := n2.1
  have c0 : (fld w0 12 6 == 0 && fld w0 22 2 == 0 && decide ((fld w0 18 4) ≤ 13)) = true := by simp [r12_6, r18_4, r22_2, hv]
  unfold decodeMajor; rw [hi]; simp only []; unfold decodeMajor3; rw [lo]; simp only [c0, cond_true]; rw [e_f, e_v]

theorem RoundTrip.bysel (d : BitVec 6) (a : BitVec 6) (p : BitVec 3) (b : BitVec 6) (q : BitVec 3) : RoundTrip.Statement (.bysel d a p b q) := by
  have e : encode (.bysel d a p b q) = packWord 0 [(0x3a, 8), (d.toNat, 6), (a.toNat, 6), (p.toNat, 3), (b.toNat, 6), (q.toNat, 3)] := rfl
  simp only [packWord] at e
  obtain ⟨w0, hw⟩ : ∃ w0, encode (.bysel d a p b q) = w0 := ⟨_, rfl⟩
  rw [hw] at e
  have g0 := (Nat.div_one w0).trans e
  have n0 := nextField (lo := 0) g0 q.isLt
  have n1 := nextField (lo := 3) n0.2 b.isLt
  have n2 := nextField (lo := 9) n1.2 p.isLt
  have n3 := nextField (lo := 12) n2.2 a.isLt
  have n4 := nextField (lo := 18) n3.2 d.isLt
  have ho : w0 / 2 ^ 24 = 58 := n4.2
  refine laneWord rfl hw ho (by decide) ?_
  have hi : fld w0 28 4 = 3 := (opcode ho).1
  have lo : fld w0 24 4 = 10 := (opcode ho).2
  have e_d : bits w0 18 6 = d := bits_eq n4.1
  have e_a : bits w0 12 6 = a := bits_eq n3.1
  have e_p : bits w0 9 3 = p := bits_eq n2.1
  have e_b : bits w0 3 6 = b := bits_eq n1.1
  have e_q : bits w0 0 3 = q := bits_eq n0.1
  unfold decodeMajor; rw [hi]; simp only []; unfold decodeMajor3; rw [lo]; simp only []; rw [e_d, e_a, e_p, e_b, e_q]

theorem RoundTrip.idot4 (d : BitVec 6) (a : BitVec 6) (p : BitVec 3) (b : BitVec 6) (q : BitVec 3) : RoundTrip.Statement (.idot4 d a p b q) := by
  have e : encode (.idot4 d a p b q) = packWord 0 [(0x3b, 8), (d.toNat, 6), (a.toNat, 6), (p.toNat, 3), (b.toNat, 6), (q.toNat, 3)] := rfl
  simp only [packWord] at e
  obtain ⟨w0, hw⟩ : ∃ w0, encode (.idot4 d a p b q) = w0 := ⟨_, rfl⟩
  rw [hw] at e
  have g0 := (Nat.div_one w0).trans e
  have n0 := nextField (lo := 0) g0 q.isLt
  have n1 := nextField (lo := 3) n0.2 b.isLt
  have n2 := nextField (lo := 9) n1.2 p.isLt
  have n3 := nextField (lo := 12) n2.2 a.isLt
  have n4 := nextField (lo := 18) n3.2 d.isLt
  have ho : w0 / 2 ^ 24 = 59 := n4.2
  refine laneWord rfl hw ho (by decide) ?_
  have hi : fld w0 28 4 = 3 := (opcode ho).1
  have lo : fld w0 24 4 = 11 := (opcode ho).2
  have e_d : bits w0 18 6 = d := bits_eq n4.1
  have e_a : bits w0 12 6 = a := bits_eq n3.1
  have e_p : bits w0 9 3 = p := bits_eq n2.1
  have e_b : bits w0 3 6 = b := bits_eq n1.1
  have e_q : bits w0 0 3 = q := bits_eq n0.1
  unfold decodeMajor; rw [hi]; simp only []; unfold decodeMajor3; rw [lo]; simp only []; rw [e_d, e_a, e_p, e_b, e_q]

theorem RoundTrip.ired (d : BitVec 6) (a : BitVec 6) (o : BitVec 3) : RoundTrip.Statement (.ired d a o) := by
  intro h0; have hv : (decide (o.toNat ≤ 5)) = true := h0
  have e : encode (.ired d a o) = packWord 0 [(0x3c, 8), (d.toNat, 6), (a.toNat, 6), (0, 6), (o.toNat, 3), (0, 3)] := rfl
  simp only [packWord] at e
  obtain ⟨w0, hw⟩ : ∃ w0, encode (.ired d a o) = w0 := ⟨_, rfl⟩
  rw [hw] at e
  have g0 := (Nat.div_one w0).trans e
  have n0 := nextField (lo := 0) g0 (by decide)
  have n1 := nextField (lo := 3) n0.2 o.isLt
  have n2 := nextField (lo := 6) n1.2 (by decide)
  have n3 := nextField (lo := 12) n2.2 a.isLt
  have n4 := nextField (lo := 18) n3.2 d.isLt
  have ho : w0 / 2 ^ 24 = 60 := n4.2
  refine laneWord rfl hw ho (by decide) ?_ h0
  have hi : fld w0 28 4 = 3 := (opcode ho).1
  have lo : fld w0 24 4 = 12 := (opcode ho).2
  have e_d : bits w0 18 6 = d := bits_eq n4.1
  have e_a : bits w0 12 6 = a := bits_eq n3.1
  have e_o : bits w0 3 3 = o := bits_eq n1.1
  have r6_6 : fld w0 6 6 = 0 := n2.1
  have r0_3 : fld w0 0 3 = 0 := n0.1
  have r3_3 : fld w0 3 3 = o.toNat := n1.1
  have c0 : (fld w0 0 3 == 0 && fld w0 6 6 == 0 && decide ((fld w0 3 3) ≤ 5)) = true := by simp [r0_3, r3_3, r6_6, hv]
  unfold decodeMajor; rw [hi]; simp only []; unfold decodeMajor3; rw [lo]; simp only [c0, cond_true]; rw [e_d, e_a, e_o]

theorem RoundTrip.fadd (d : BitVec 6) (a : BitVec 6) (p : BitVec 3) (b : BitVec 6) (q : BitVec 3) : RoundTrip.Statement (.fadd d a p b q) := by
  have e : encode (.fadd d a p b q) = packWord 0 [(0x40, 8), (d.toNat, 6), (a.toNat, 6), (p.toNat, 3), (b.toNat, 6), (q.toNat, 3)] := rfl
  simp only [packWord] at e
  obtain ⟨w0, hw⟩ : ∃ w0, encode (.fadd d a p b q) = w0 := ⟨_, rfl⟩
  rw [hw] at e
  have g0 := (Nat.div_one w0).trans e
  have n0 := nextField (lo := 0) g0 q.isLt
  have n1 := nextField (lo := 3) n0.2 b.isLt
  have n2 := nextField (lo := 9) n1.2 p.isLt
  have n3 := nextField (lo := 12) n2.2 a.isLt
  have n4 := nextField (lo := 18) n3.2 d.isLt
  have ho : w0 / 2 ^ 24 = 64 := n4.2
  refine laneWord rfl hw ho (by decide) ?_
  have hi : fld w0 28 4 = 4 := (opcode ho).1
  have lo : fld w0 24 4 = 0 := (opcode ho).2
  have e_d : bits w0 18 6 = d := bits_eq n4.1
  have e_a : bits w0 12 6 = a := bits_eq n3.1
  have e_p : bits w0 9 3 = p := bits_eq n2.1
  have e_b : bits w0 3 6 = b := bits_eq n1.1
  have e_q : bits w0 0 3 = q := bits_eq n0.1
  unfold decodeMajor; rw [hi]; simp only []; unfold decodeMajor4; rw [lo]; simp only []; rw [e_d, e_a, e_p, e_b, e_q]

theorem RoundTrip.fsub (d : BitVec 6) (a : BitVec 6) (p : BitVec 3) (b : BitVec 6) (q : BitVec 3) : RoundTrip.Statement (.fsub d a p b q) := by
  have e : encode (.fsub d a p b q) = packWord 0 [(0x41, 8), (d.toNat, 6), (a.toNat, 6), (p.toNat, 3), (b.toNat, 6), (q.toNat, 3)] := rfl
  simp only [packWord] at e
  obtain ⟨w0, hw⟩ : ∃ w0, encode (.fsub d a p b q) = w0 := ⟨_, rfl⟩
  rw [hw] at e
  have g0 := (Nat.div_one w0).trans e
  have n0 := nextField (lo := 0) g0 q.isLt
  have n1 := nextField (lo := 3) n0.2 b.isLt
  have n2 := nextField (lo := 9) n1.2 p.isLt
  have n3 := nextField (lo := 12) n2.2 a.isLt
  have n4 := nextField (lo := 18) n3.2 d.isLt
  have ho : w0 / 2 ^ 24 = 65 := n4.2
  refine laneWord rfl hw ho (by decide) ?_
  have hi : fld w0 28 4 = 4 := (opcode ho).1
  have lo : fld w0 24 4 = 1 := (opcode ho).2
  have e_d : bits w0 18 6 = d := bits_eq n4.1
  have e_a : bits w0 12 6 = a := bits_eq n3.1
  have e_p : bits w0 9 3 = p := bits_eq n2.1
  have e_b : bits w0 3 6 = b := bits_eq n1.1
  have e_q : bits w0 0 3 = q := bits_eq n0.1
  unfold decodeMajor; rw [hi]; simp only []; unfold decodeMajor4; rw [lo]; simp only []; rw [e_d, e_a, e_p, e_b, e_q]

theorem RoundTrip.fmul (d : BitVec 6) (a : BitVec 6) (p : BitVec 3) (b : BitVec 6) (q : BitVec 3) : RoundTrip.Statement (.fmul d a p b q) := by
  have e : encode (.fmul d a p b q) = packWord 0 [(0x42, 8), (d.toNat, 6), (a.toNat, 6), (p.toNat, 3), (b.toNat, 6), (q.toNat, 3)] := rfl
  simp only [packWord] at e
  obtain ⟨w0, hw⟩ : ∃ w0, encode (.fmul d a p b q) = w0 := ⟨_, rfl⟩
  rw [hw] at e
  have g0 := (Nat.div_one w0).trans e
  have n0 := nextField (lo := 0) g0 q.isLt
  have n1 := nextField (lo := 3) n0.2 b.isLt
  have n2 := nextField (lo := 9) n1.2 p.isLt
  have n3 := nextField (lo := 12) n2.2 a.isLt
  have n4 := nextField (lo := 18) n3.2 d.isLt
  have ho : w0 / 2 ^ 24 = 66 := n4.2
  refine laneWord rfl hw ho (by decide) ?_
  have hi : fld w0 28 4 = 4 := (opcode ho).1
  have lo : fld w0 24 4 = 2 := (opcode ho).2
  have e_d : bits w0 18 6 = d := bits_eq n4.1
  have e_a : bits w0 12 6 = a := bits_eq n3.1
  have e_p : bits w0 9 3 = p := bits_eq n2.1
  have e_b : bits w0 3 6 = b := bits_eq n1.1
  have e_q : bits w0 0 3 = q := bits_eq n0.1
  unfold decodeMajor; rw [hi]; simp only []; unfold decodeMajor4; rw [lo]; simp only []; rw [e_d, e_a, e_p, e_b, e_q]

theorem RoundTrip.fma (d : BitVec 6) (a : BitVec 6) (p : BitVec 3) (b : BitVec 6) (q : BitVec 3) : RoundTrip.Statement (.fma d a p b q) := by
  have e : encode (.fma d a p b q) = packWord 0 [(0x43, 8), (d.toNat, 6), (a.toNat, 6), (p.toNat, 3), (b.toNat, 6), (q.toNat, 3)] := rfl
  simp only [packWord] at e
  obtain ⟨w0, hw⟩ : ∃ w0, encode (.fma d a p b q) = w0 := ⟨_, rfl⟩
  rw [hw] at e
  have g0 := (Nat.div_one w0).trans e
  have n0 := nextField (lo := 0) g0 q.isLt
  have n1 := nextField (lo := 3) n0.2 b.isLt
  have n2 := nextField (lo := 9) n1.2 p.isLt
  have n3 := nextField (lo := 12) n2.2 a.isLt
  have n4 := nextField (lo := 18) n3.2 d.isLt
  have ho : w0 / 2 ^ 24 = 67 := n4.2
  refine laneWord rfl hw ho (by decide) ?_
  have hi : fld w0 28 4 = 4 := (opcode ho).1
  have lo : fld w0 24 4 = 3 := (opcode ho).2
  have e_d : bits w0 18 6 = d := bits_eq n4.1
  have e_a : bits w0 12 6 = a := bits_eq n3.1
  have e_p : bits w0 9 3 = p := bits_eq n2.1
  have e_b : bits w0 3 6 = b := bits_eq n1.1
  have e_q : bits w0 0 3 = q := bits_eq n0.1
  unfold decodeMajor; rw [hi]; simp only []; unfold decodeMajor4; rw [lo]; simp only []; rw [e_d, e_a, e_p, e_b, e_q]

theorem RoundTrip.fms (d : BitVec 6) (a : BitVec 6) (p : BitVec 3) (b : BitVec 6) (q : BitVec 3) : RoundTrip.Statement (.fms d a p b q) := by
  have e : encode (.fms d a p b q) = packWord 0 [(0x44, 8), (d.toNat, 6), (a.toNat, 6), (p.toNat, 3), (b.toNat, 6), (q.toNat, 3)] := rfl
  simp only [packWord] at e
  obtain ⟨w0, hw⟩ : ∃ w0, encode (.fms d a p b q) = w0 := ⟨_, rfl⟩
  rw [hw] at e
  have g0 := (Nat.div_one w0).trans e
  have n0 := nextField (lo := 0) g0 q.isLt
  have n1 := nextField (lo := 3) n0.2 b.isLt
  have n2 := nextField (lo := 9) n1.2 p.isLt
  have n3 := nextField (lo := 12) n2.2 a.isLt
  have n4 := nextField (lo := 18) n3.2 d.isLt
  have ho : w0 / 2 ^ 24 = 68 := n4.2
  refine laneWord rfl hw ho (by decide) ?_
  have hi : fld w0 28 4 = 4 := (opcode ho).1
  have lo : fld w0 24 4 = 4 := (opcode ho).2
  have e_d : bits w0 18 6 = d := bits_eq n4.1
  have e_a : bits w0 12 6 = a := bits_eq n3.1
  have e_p : bits w0 9 3 = p := bits_eq n2.1
  have e_b : bits w0 3 6 = b := bits_eq n1.1
  have e_q : bits w0 0 3 = q := bits_eq n0.1
  unfold decodeMajor; rw [hi]; simp only []; unfold decodeMajor4; rw [lo]; simp only []; rw [e_d, e_a, e_p, e_b, e_q]

theorem RoundTrip.fnma (d : BitVec 6) (a : BitVec 6) (p : BitVec 3) (b : BitVec 6) (q : BitVec 3) : RoundTrip.Statement (.fnma d a p b q) := by
  have e : encode (.fnma d a p b q) = packWord 0 [(0x45, 8), (d.toNat, 6), (a.toNat, 6), (p.toNat, 3), (b.toNat, 6), (q.toNat, 3)] := rfl
  simp only [packWord] at e
  obtain ⟨w0, hw⟩ : ∃ w0, encode (.fnma d a p b q) = w0 := ⟨_, rfl⟩
  rw [hw] at e
  have g0 := (Nat.div_one w0).trans e
  have n0 := nextField (lo := 0) g0 q.isLt
  have n1 := nextField (lo := 3) n0.2 b.isLt
  have n2 := nextField (lo := 9) n1.2 p.isLt
  have n3 := nextField (lo := 12) n2.2 a.isLt
  have n4 := nextField (lo := 18) n3.2 d.isLt
  have ho : w0 / 2 ^ 24 = 69 := n4.2
  refine laneWord rfl hw ho (by decide) ?_
  have hi : fld w0 28 4 = 4 := (opcode ho).1
  have lo : fld w0 24 4 = 5 := (opcode ho).2
  have e_d : bits w0 18 6 = d := bits_eq n4.1
  have e_a : bits w0 12 6 = a := bits_eq n3.1
  have e_p : bits w0 9 3 = p := bits_eq n2.1
  have e_b : bits w0 3 6 = b := bits_eq n1.1
  have e_q : bits w0 0 3 = q := bits_eq n0.1
  unfold decodeMajor; rw [hi]; simp only []; unfold decodeMajor4; rw [lo]; simp only []; rw [e_d, e_a, e_p, e_b, e_q]

theorem RoundTrip.fmin (d : BitVec 6) (a : BitVec 6) (p : BitVec 3) (b : BitVec 6) (q : BitVec 3) : RoundTrip.Statement (.fmin d a p b q) := by
  have e : encode (.fmin d a p b q) = packWord 0 [(0x46, 8), (d.toNat, 6), (a.toNat, 6), (p.toNat, 3), (b.toNat, 6), (q.toNat, 3)] := rfl
  simp only [packWord] at e
  obtain ⟨w0, hw⟩ : ∃ w0, encode (.fmin d a p b q) = w0 := ⟨_, rfl⟩
  rw [hw] at e
  have g0 := (Nat.div_one w0).trans e
  have n0 := nextField (lo := 0) g0 q.isLt
  have n1 := nextField (lo := 3) n0.2 b.isLt
  have n2 := nextField (lo := 9) n1.2 p.isLt
  have n3 := nextField (lo := 12) n2.2 a.isLt
  have n4 := nextField (lo := 18) n3.2 d.isLt
  have ho : w0 / 2 ^ 24 = 70 := n4.2
  refine laneWord rfl hw ho (by decide) ?_
  have hi : fld w0 28 4 = 4 := (opcode ho).1
  have lo : fld w0 24 4 = 6 := (opcode ho).2
  have e_d : bits w0 18 6 = d := bits_eq n4.1
  have e_a : bits w0 12 6 = a := bits_eq n3.1
  have e_p : bits w0 9 3 = p := bits_eq n2.1
  have e_b : bits w0 3 6 = b := bits_eq n1.1
  have e_q : bits w0 0 3 = q := bits_eq n0.1
  unfold decodeMajor; rw [hi]; simp only []; unfold decodeMajor4; rw [lo]; simp only []; rw [e_d, e_a, e_p, e_b, e_q]

theorem RoundTrip.fmax (d : BitVec 6) (a : BitVec 6) (p : BitVec 3) (b : BitVec 6) (q : BitVec 3) : RoundTrip.Statement (.fmax d a p b q) := by
  have e : encode (.fmax d a p b q) = packWord 0 [(0x47, 8), (d.toNat, 6), (a.toNat, 6), (p.toNat, 3), (b.toNat, 6), (q.toNat, 3)] := rfl
  simp only [packWord] at e
  obtain ⟨w0, hw⟩ : ∃ w0, encode (.fmax d a p b q) = w0 := ⟨_, rfl⟩
  rw [hw] at e
  have g0 := (Nat.div_one w0).trans e
  have n0 := nextField (lo := 0) g0 q.isLt
  have n1 := nextField (lo := 3) n0.2 b.isLt
  have n2 := nextField (lo := 9) n1.2 p.isLt
  have n3 := nextField (lo := 12) n2.2 a.isLt
  have n4 := nextField (lo := 18) n3.2 d.isLt
  have ho : w0 / 2 ^ 24 = 71 := n4.2
  refine laneWord rfl hw ho (by decide) ?_
  have hi : fld w0 28 4 = 4 := (opcode ho).1
  have lo : fld w0 24 4 = 7 := (opcode ho).2
  have e_d : bits w0 18 6 = d := bits_eq n4.1
  have e_a : bits w0 12 6 = a := bits_eq n3.1
  have e_p : bits w0 9 3 = p := bits_eq n2.1
  have e_b : bits w0 3 6 = b := bits_eq n1.1
  have e_q : bits w0 0 3 = q := bits_eq n0.1
  unfold decodeMajor; rw [hi]; simp only []; unfold decodeMajor4; rw [lo]; simp only []; rw [e_d, e_a, e_p, e_b, e_q]

theorem RoundTrip.fabs (d : BitVec 6) (a : BitVec 6) (p : BitVec 3) : RoundTrip.Statement (.fabs d a p) := by
  have e : encode (.fabs d a p) = packWord 0 [(0x48, 8), (d.toNat, 6), (a.toNat, 6), (p.toNat, 3), (0, 9)] := rfl
  simp only [packWord] at e
  obtain ⟨w0, hw⟩ : ∃ w0, encode (.fabs d a p) = w0 := ⟨_, rfl⟩
  rw [hw] at e
  have g0 := (Nat.div_one w0).trans e
  have n0 := nextField (lo := 0) g0 (by decide)
  have n1 := nextField (lo := 9) n0.2 p.isLt
  have n2 := nextField (lo := 12) n1.2 a.isLt
  have n3 := nextField (lo := 18) n2.2 d.isLt
  have ho : w0 / 2 ^ 24 = 72 := n3.2
  refine laneWord rfl hw ho (by decide) ?_
  have hi : fld w0 28 4 = 4 := (opcode ho).1
  have lo : fld w0 24 4 = 8 := (opcode ho).2
  have e_d : bits w0 18 6 = d := bits_eq n3.1
  have e_a : bits w0 12 6 = a := bits_eq n2.1
  have e_p : bits w0 9 3 = p := bits_eq n1.1
  have r0_9 : fld w0 0 9 = 0 := n0.1
  have c0 : (fld w0 0 9 == 0) = true := by simp [r0_9]
  unfold decodeMajor; rw [hi]; simp only []; unfold decodeMajor4; rw [lo]; simp only [c0, cond_true]; rw [e_d, e_a, e_p]

theorem RoundTrip.fneg (d : BitVec 6) (a : BitVec 6) (p : BitVec 3) : RoundTrip.Statement (.fneg d a p) := by
  have e : encode (.fneg d a p) = packWord 0 [(0x49, 8), (d.toNat, 6), (a.toNat, 6), (p.toNat, 3), (0, 9)] := rfl
  simp only [packWord] at e
  obtain ⟨w0, hw⟩ : ∃ w0, encode (.fneg d a p) = w0 := ⟨_, rfl⟩
  rw [hw] at e
  have g0 := (Nat.div_one w0).trans e
  have n0 := nextField (lo := 0) g0 (by decide)
  have n1 := nextField (lo := 9) n0.2 p.isLt
  have n2 := nextField (lo := 12) n1.2 a.isLt
  have n3 := nextField (lo := 18) n2.2 d.isLt
  have ho : w0 / 2 ^ 24 = 73 := n3.2
  refine laneWord rfl hw ho (by decide) ?_
  have hi : fld w0 28 4 = 4 := (opcode ho).1
  have lo : fld w0 24 4 = 9 := (opcode ho).2
  have e_d : bits w0 18 6 = d := bits_eq n3.1
  have e_a : bits w0 12 6 = a := bits_eq n2.1
  have e_p : bits w0 9 3 = p := bits_eq n1.1
  have r0_9 : fld w0 0 9 = 0 := n0.1
  have c0 : (fld w0 0 9 == 0) = true := by simp [r0_9]
  unfold decodeMajor; rw [hi]; simp only []; unfold decodeMajor4; rw [lo]; simp only [c0, cond_true]; rw [e_d, e_a, e_p]

theorem RoundTrip.fsgn (d : BitVec 6) (a : BitVec 6) (p : BitVec 3) (b : BitVec 6) (q : BitVec 3) : RoundTrip.Statement (.fsgn d a p b q) := by
  have e : encode (.fsgn d a p b q) = packWord 0 [(0x4a, 8), (d.toNat, 6), (a.toNat, 6), (p.toNat, 3), (b.toNat, 6), (q.toNat, 3)] := rfl
  simp only [packWord] at e
  obtain ⟨w0, hw⟩ : ∃ w0, encode (.fsgn d a p b q) = w0 := ⟨_, rfl⟩
  rw [hw] at e
  have g0 := (Nat.div_one w0).trans e
  have n0 := nextField (lo := 0) g0 q.isLt
  have n1 := nextField (lo := 3) n0.2 b.isLt
  have n2 := nextField (lo := 9) n1.2 p.isLt
  have n3 := nextField (lo := 12) n2.2 a.isLt
  have n4 := nextField (lo := 18) n3.2 d.isLt
  have ho : w0 / 2 ^ 24 = 74 := n4.2
  refine laneWord rfl hw ho (by decide) ?_
  have hi : fld w0 28 4 = 4 := (opcode ho).1
  have lo : fld w0 24 4 = 10 := (opcode ho).2
  have e_d : bits w0 18 6 = d := bits_eq n4.1
  have e_a : bits w0 12 6 = a := bits_eq n3.1
  have e_p : bits w0 9 3 = p := bits_eq n2.1
  have e_b : bits w0 3 6 = b := bits_eq n1.1
  have e_q : bits w0 0 3 = q := bits_eq n0.1
  unfold decodeMajor; rw [hi]; simp only []; unfold decodeMajor4; rw [lo]; simp only []; rw [e_d, e_a, e_p, e_b, e_q]

theorem RoundTrip.fcmp (d : BitVec 3) (c : BitVec 3) (a : BitVec 6) (p : BitVec 3) (b : BitVec 6) (q : BitVec 3) : RoundTrip.Statement (.fcmp d c a p b q) := by
  have e : encode (.fcmp d c a p b q) = packWord 0 [(0x4b, 8), (d.toNat, 3), (c.toNat, 3), (a.toNat, 6), (p.toNat, 3), (b.toNat, 6), (q.toNat, 3)] := rfl
  simp only [packWord] at e
  obtain ⟨w0, hw⟩ : ∃ w0, encode (.fcmp d c a p b q) = w0 := ⟨_, rfl⟩
  rw [hw] at e
  have g0 := (Nat.div_one w0).trans e
  have n0 := nextField (lo := 0) g0 q.isLt
  have n1 := nextField (lo := 3) n0.2 b.isLt
  have n2 := nextField (lo := 9) n1.2 p.isLt
  have n3 := nextField (lo := 12) n2.2 a.isLt
  have n4 := nextField (lo := 18) n3.2 c.isLt
  have n5 := nextField (lo := 21) n4.2 d.isLt
  have ho : w0 / 2 ^ 24 = 75 := n5.2
  refine laneWord rfl hw ho (by decide) ?_
  have hi : fld w0 28 4 = 4 := (opcode ho).1
  have lo : fld w0 24 4 = 11 := (opcode ho).2
  have e_d : bits w0 21 3 = d := bits_eq n5.1
  have e_c : bits w0 18 3 = c := bits_eq n4.1
  have e_a : bits w0 12 6 = a := bits_eq n3.1
  have e_p : bits w0 9 3 = p := bits_eq n2.1
  have e_b : bits w0 3 6 = b := bits_eq n1.1
  have e_q : bits w0 0 3 = q := bits_eq n0.1
  unfold decodeMajor; rw [hi]; simp only []; unfold decodeMajor4; rw [lo]; simp only []; rw [e_d, e_c, e_a, e_p, e_b, e_q]

theorem RoundTrip.fclass (d : BitVec 6) (a : BitVec 6) (p : BitVec 3) : RoundTrip.Statement (.fclass d a p) := by
  have e : encode (.fclass d a p) = packWord 0 [(0x4c, 8), (d.toNat, 6), (a.toNat, 6), (p.toNat, 3), (0, 9)] := rfl
  simp only [packWord] at e
  obtain ⟨w0, hw⟩ : ∃ w0, encode (.fclass d a p) = w0 := ⟨_, rfl⟩
  rw [hw] at e
  have g0 := (Nat.div_one w0).trans e
  have n0 := nextField (lo := 0) g0 (by decide)
  have n1 := nextField (lo := 9) n0.2 p.isLt
  have n2 := nextField (lo := 12) n1.2 a.isLt
  have n3 := nextField (lo := 18) n2.2 d.isLt
  have ho : w0 / 2 ^ 24 = 76 := n3.2
  refine laneWord rfl hw ho (by decide) ?_
  have hi : fld w0 28 4 = 4 := (opcode ho).1
  have lo : fld w0 24 4 = 12 := (opcode ho).2
  have e_d : bits w0 18 6 = d := bits_eq n3.1
  have e_a : bits w0 12 6 = a := bits_eq n2.1
  have e_p : bits w0 9 3 = p := bits_eq n1.1
  have r0_9 : fld w0 0 9 = 0 := n0.1
  have c0 : (fld w0 0 9 == 0) = true := by simp [r0_9]
  unfold decodeMajor; rw [hi]; simp only []; unfold decodeMajor4; rw [lo]; simp only [c0, cond_true]; rw [e_d, e_a, e_p]

theorem RoundTrip.frint (d : BitVec 6) (a : BitVec 6) (p : BitVec 3) : RoundTrip.Statement (.frint d a p) := by
  have e : encode (.frint d a p) = packWord 0 [(0x4d, 8), (d.toNat, 6), (a.toNat, 6), (p.toNat, 3), (0, 9)] := rfl
  simp only [packWord] at e
  obtain ⟨w0, hw⟩ : ∃ w0, encode (.frint d a p) = w0 := ⟨_, rfl⟩
  rw [hw] at e
  have g0 := (Nat.div_one w0).trans e
  have n0 := nextField (lo := 0) g0 (by decide)
  have n1 := nextField (lo := 9) n0.2 p.isLt
  have n2 := nextField (lo := 12) n1.2 a.isLt
  have n3 := nextField (lo := 18) n2.2 d.isLt
  have ho : w0 / 2 ^ 24 = 77 := n3.2
  refine laneWord rfl hw ho (by decide) ?_
  have hi : fld w0 28 4 = 4 := (opcode ho).1
  have lo : fld w0 24 4 = 13 := (opcode ho).2
  have e_d : bits w0 18 6 = d := bits_eq n3.1
  have e_a : bits w0 12 6 = a := bits_eq n2.1
  have e_p : bits w0 9 3 = p := bits_eq n1.1
  have r0_9 : fld w0 0 9 = 0 := n0.1
  have c0 : (fld w0 0 9 == 0) = true := by simp [r0_9]
  unfold decodeMajor; rw [hi]; simp only []; unfold decodeMajor4; rw [lo]; simp only [c0, cond_true]; rw [e_d, e_a, e_p]

theorem RoundTrip.fscale (d : BitVec 6) (a : BitVec 6) (p : BitVec 3) (b : BitVec 6) (q : BitVec 3) : RoundTrip.Statement (.fscale d a p b q) := by
  have e : encode (.fscale d a p b q) = packWord 0 [(0x4e, 8), (d.toNat, 6), (a.toNat, 6), (p.toNat, 3), (b.toNat, 6), (q.toNat, 3)] := rfl
  simp only [packWord] at e
  obtain ⟨w0, hw⟩ : ∃ w0, encode (.fscale d a p b q) = w0 := ⟨_, rfl⟩
  rw [hw] at e
  have g0 := (Nat.div_one w0).trans e
  have n0 := nextField (lo := 0) g0 q.isLt
  have n1 := nextField (lo := 3) n0.2 b.isLt
  have n2 := nextField (lo := 9) n1.2 p.isLt
  have n3 := nextField (lo := 12) n2.2 a.isLt
  have n4 := nextField (lo := 18) n3.2 d.isLt
  have ho : w0 / 2 ^ 24 = 78 := n4.2
  refine laneWord rfl hw ho (by decide) ?_
  have hi : fld w0 28 4 = 4 := (opcode ho).1
  have lo : fld w0 24 4 = 14 := (opcode ho).2
  have e_d : bits w0 18 6 = d := bits_eq n4.1
  have e_a : bits w0 12 6 = a := bits_eq n3.1
  have e_p : bits w0 9 3 = p := bits_eq n2.1
  have e_b : bits w0 3 6 = b := bits_eq n1.1
  have e_q : bits w0 0 3 = q := bits_eq n0.1
  unfold decodeMajor; rw [hi]; simp only []; unfold decodeMajor4; rw [lo]; simp only []; rw [e_d, e_a, e_p, e_b, e_q]

theorem RoundTrip.fgetexp (d : BitVec 6) (a : BitVec 6) (p : BitVec 3) : RoundTrip.Statement (.fgetexp d a p) := by
  have e : encode (.fgetexp d a p) = packWord 0 [(0x4f, 8), (d.toNat, 6), (a.toNat, 6), (p.toNat, 3), (0, 9)] := rfl
  simp only [packWord] at e
  obtain ⟨w0, hw⟩ : ∃ w0, encode (.fgetexp d a p) = w0 := ⟨_, rfl⟩
  rw [hw] at e
  have g0 := (Nat.div_one w0).trans e
  have n0 := nextField (lo := 0) g0 (by decide)
  have n1 := nextField (lo := 9) n0.2 p.isLt
  have n2 := nextField (lo := 12) n1.2 a.isLt
  have n3 := nextField (lo := 18) n2.2 d.isLt
  have ho : w0 / 2 ^ 24 = 79 := n3.2
  refine laneWord rfl hw ho (by decide) ?_
  have hi : fld w0 28 4 = 4 := (opcode ho).1
  have lo : fld w0 24 4 = 15 := (opcode ho).2
  have e_d : bits w0 18 6 = d := bits_eq n3.1
  have e_a : bits w0 12 6 = a := bits_eq n2.1
  have e_p : bits w0 9 3 = p := bits_eq n1.1
  have r0_9 : fld w0 0 9 = 0 := n0.1
  have c0 : (fld w0 0 9 == 0) = true := by simp [r0_9]
  unfold decodeMajor; rw [hi]; simp only []; unfold decodeMajor4; rw [lo]; simp only [c0, cond_true]; rw [e_d, e_a, e_p]

theorem RoundTrip.fdiv (d : BitVec 6) (a : BitVec 6) (p : BitVec 3) (b : BitVec 6) (q : BitVec 3) : RoundTrip.Statement (.fdiv d a p b q) := by
  have e : encode (.fdiv d a p b q) = packWord 0 [(0x50, 8), (d.toNat, 6), (a.toNat, 6), (p.toNat, 3), (b.toNat, 6), (q.toNat, 3)] := rfl
  simp only [packWord] at e
  obtain ⟨w0, hw⟩ : ∃ w0, encode (.fdiv d a p b q) = w0 := ⟨_, rfl⟩
  rw [hw] at e
  have g0 := (Nat.div_one w0).trans e
  have n0 := nextField (lo := 0) g0 q.isLt
  have n1 := nextField (lo := 3) n0.2 b.isLt
  have n2 := nextField (lo := 9) n1.2 p.isLt
  have n3 := nextField (lo := 12) n2.2 a.isLt
  have n4 := nextField (lo := 18) n3.2 d.isLt
  have ho : w0 / 2 ^ 24 = 80 := n4.2
  refine laneWord rfl hw ho (by decide) ?_
  have hi : fld w0 28 4 = 5 := (opcode ho).1
  have lo : fld w0 24 4 = 0 := (opcode ho).2
  have e_d : bits w0 18 6 = d := bits_eq n4.1
  have e_a : bits w0 12 6 = a := bits_eq n3.1
  have e_p : bits w0 9 3 = p := bits_eq n2.1
  have e_b : bits w0 3 6 = b := bits_eq n1.1
  have e_q : bits w0 0 3 = q := bits_eq n0.1
  unfold decodeMajor; rw [hi]; simp only []; unfold decodeMajor5; rw [lo]; simp only []; rw [e_d, e_a, e_p, e_b, e_q]

theorem RoundTrip.fsqrt (d : BitVec 6) (a : BitVec 6) (p : BitVec 3) : RoundTrip.Statement (.fsqrt d a p) := by
  have e : encode (.fsqrt d a p) = packWord 0 [(0x51, 8), (d.toNat, 6), (a.toNat, 6), (p.toNat, 3), (0, 9)] := rfl
  simp only [packWord] at e
  obtain ⟨w0, hw⟩ : ∃ w0, encode (.fsqrt d a p) = w0 := ⟨_, rfl⟩
  rw [hw] at e
  have g0 := (Nat.div_one w0).trans e
  have n0 := nextField (lo := 0) g0 (by decide)
  have n1 := nextField (lo := 9) n0.2 p.isLt
  have n2 := nextField (lo := 12) n1.2 a.isLt
  have n3 := nextField (lo := 18) n2.2 d.isLt
  have ho : w0 / 2 ^ 24 = 81 := n3.2
  refine laneWord rfl hw ho (by decide) ?_
  have hi : fld w0 28 4 = 5 := (opcode ho).1
  have lo : fld w0 24 4 = 1 := (opcode ho).2
  have e_d : bits w0 18 6 = d := bits_eq n3.1
  have e_a : bits w0 12 6 = a := bits_eq n2.1
  have e_p : bits w0 9 3 = p := bits_eq n1.1
  have r0_9 : fld w0 0 9 = 0 := n0.1
  have c0 : (fld w0 0 9 == 0) = true := by simp [r0_9]
  unfold decodeMajor; rw [hi]; simp only []; unfold decodeMajor5; rw [lo]; simp only [c0, cond_true]; rw [e_d, e_a, e_p]

theorem RoundTrip.frcp (d : BitVec 6) (a : BitVec 6) (p : BitVec 3) : RoundTrip.Statement (.frcp d a p) := by
  have e : encode (.frcp d a p) = packWord 0 [(0x52, 8), (d.toNat, 6), (a.toNat, 6), (p.toNat, 3), (0, 9)] := rfl
  simp only [packWord] at e
  obtain ⟨w0, hw⟩ : ∃ w0, encode (.frcp d a p) = w0 := ⟨_, rfl⟩
  rw [hw] at e
  have g0 := (Nat.div_one w0).trans e
  have n0 := nextField (lo := 0) g0 (by decide)
  have n1 := nextField (lo := 9) n0.2 p.isLt
  have n2 := nextField (lo := 12) n1.2 a.isLt
  have n3 := nextField (lo := 18) n2.2 d.isLt
  have ho : w0 / 2 ^ 24 = 82 := n3.2
  refine laneWord rfl hw ho (by decide) ?_
  have hi : fld w0 28 4 = 5 := (opcode ho).1
  have lo : fld w0 24 4 = 2 := (opcode ho).2
  have e_d : bits w0 18 6 = d := bits_eq n3.1
  have e_a : bits w0 12 6 = a := bits_eq n2.1
  have e_p : bits w0 9 3 = p := bits_eq n1.1
  have r0_9 : fld w0 0 9 = 0 := n0.1
  have c0 : (fld w0 0 9 == 0) = true := by simp [r0_9]
  unfold decodeMajor; rw [hi]; simp only []; unfold decodeMajor5; rw [lo]; simp only [c0, cond_true]; rw [e_d, e_a, e_p]

theorem RoundTrip.frsq (d : BitVec 6) (a : BitVec 6) (p : BitVec 3) : RoundTrip.Statement (.frsq d a p) := by
  have e : encode (.frsq d a p) = packWord 0 [(0x53, 8), (d.toNat, 6), (a.toNat, 6), (p.toNat, 3), (0, 9)] := rfl
  simp only [packWord] at e
  obtain ⟨w0, hw⟩ : ∃ w0, encode (.frsq d a p) = w0 := ⟨_, rfl⟩
  rw [hw] at e
  have g0 := (Nat.div_one w0).trans e
  have n0 := nextField (lo := 0) g0 (by decide)
  have n1 := nextField (lo := 9) n0.2 p.isLt
  have n2 := nextField (lo := 12) n1.2 a.isLt
  have n3 := nextField (lo := 18) n2.2 d.isLt
  have ho : w0 / 2 ^ 24 = 83 := n3.2
  refine laneWord rfl hw ho (by decide) ?_
  have hi : fld w0 28 4 = 5 := (opcode ho).1
  have lo : fld w0 24 4 = 3 := (opcode ho).2
  have e_d : bits w0 18 6 = d := bits_eq n3.1
  have e_a : bits w0 12 6 = a := bits_eq n2.1
  have e_p : bits w0 9 3 = p := bits_eq n1.1
  have r0_9 : fld w0 0 9 = 0 := n0.1
  have c0 : (fld w0 0 9 == 0) = true := by simp [r0_9]
  unfold decodeMajor; rw [hi]; simp only []; unfold decodeMajor5; rw [lo]; simp only [c0, cond_true]; rw [e_d, e_a, e_p]

theorem RoundTrip.fexp2 (d : BitVec 6) (a : BitVec 6) (p : BitVec 3) : RoundTrip.Statement (.fexp2 d a p) := by
  have e : encode (.fexp2 d a p) = packWord 0 [(0x54, 8), (d.toNat, 6), (a.toNat, 6), (p.toNat, 3), (0, 9)] := rfl
  simp only [packWord] at e
  obtain ⟨w0, hw⟩ : ∃ w0, encode (.fexp2 d a p) = w0 := ⟨_, rfl⟩
  rw [hw] at e
  have g0 := (Nat.div_one w0).trans e
  have n0 := nextField (lo := 0) g0 (by decide)
  have n1 := nextField (lo := 9) n0.2 p.isLt
  have n2 := nextField (lo := 12) n1.2 a.isLt
  have n3 := nextField (lo := 18) n2.2 d.isLt
  have ho : w0 / 2 ^ 24 = 84 := n3.2
  refine laneWord rfl hw ho (by decide) ?_
  have hi : fld w0 28 4 = 5 := (opcode ho).1
  have lo : fld w0 24 4 = 4 := (opcode ho).2
  have e_d : bits w0 18 6 = d := bits_eq n3.1
  have e_a : bits w0 12 6 = a := bits_eq n2.1
  have e_p : bits w0 9 3 = p := bits_eq n1.1
  have r0_9 : fld w0 0 9 = 0 := n0.1
  have c0 : (fld w0 0 9 == 0) = true := by simp [r0_9]
  unfold decodeMajor; rw [hi]; simp only []; unfold decodeMajor5; rw [lo]; simp only [c0, cond_true]; rw [e_d, e_a, e_p]

theorem RoundTrip.flog2 (d : BitVec 6) (a : BitVec 6) (p : BitVec 3) : RoundTrip.Statement (.flog2 d a p) := by
  have e : encode (.flog2 d a p) = packWord 0 [(0x55, 8), (d.toNat, 6), (a.toNat, 6), (p.toNat, 3), (0, 9)] := rfl
  simp only [packWord] at e
  obtain ⟨w0, hw⟩ : ∃ w0, encode (.flog2 d a p) = w0 := ⟨_, rfl⟩
  rw [hw] at e
  have g0 := (Nat.div_one w0).trans e
  have n0 := nextField (lo := 0) g0 (by decide)
  have n1 := nextField (lo := 9) n0.2 p.isLt
  have n2 := nextField (lo := 12) n1.2 a.isLt
  have n3 := nextField (lo := 18) n2.2 d.isLt
  have ho : w0 / 2 ^ 24 = 85 := n3.2
  refine laneWord rfl hw ho (by decide) ?_
  have hi : fld w0 28 4 = 5 := (opcode ho).1
  have lo : fld w0 24 4 = 5 := (opcode ho).2
  have e_d : bits w0 18 6 = d := bits_eq n3.1
  have e_a : bits w0 12 6 = a := bits_eq n2.1
  have e_p : bits w0 9 3 = p := bits_eq n1.1
  have r0_9 : fld w0 0 9 = 0 := n0.1
  have c0 : (fld w0 0 9 == 0) = true := by simp [r0_9]
  unfold decodeMajor; rw [hi]; simp only []; unfold decodeMajor5; rw [lo]; simp only [c0, cond_true]; rw [e_d, e_a, e_p]

theorem RoundTrip.fsin (d : BitVec 6) (a : BitVec 6) (p : BitVec 3) : RoundTrip.Statement (.fsin d a p) := by
  have e : encode (.fsin d a p) = packWord 0 [(0x56, 8), (d.toNat, 6), (a.toNat, 6), (p.toNat, 3), (0, 9)] := rfl
  simp only [packWord] at e
  obtain ⟨w0, hw⟩ : ∃ w0, encode (.fsin d a p) = w0 := ⟨_, rfl⟩
  rw [hw] at e
  have g0 := (Nat.div_one w0).trans e
  have n0 := nextField (lo := 0) g0 (by decide)
  have n1 := nextField (lo := 9) n0.2 p.isLt
  have n2 := nextField (lo := 12) n1.2 a.isLt
  have n3 := nextField (lo := 18) n2.2 d.isLt
  have ho : w0 / 2 ^ 24 = 86 := n3.2
  refine laneWord rfl hw ho (by decide) ?_
  have hi : fld w0 28 4 = 5 := (opcode ho).1
  have lo : fld w0 24 4 = 6 := (opcode ho).2
  have e_d : bits w0 18 6 = d := bits_eq n3.1
  have e_a : bits w0 12 6 = a := bits_eq n2.1
  have e_p : bits w0 9 3 = p := bits_eq n1.1
  have r0_9 : fld w0 0 9 = 0 := n0.1
  have c0 : (fld w0 0 9 == 0) = true := by simp [r0_9]
  unfold decodeMajor; rw [hi]; simp only []; unfold decodeMajor5; rw [lo]; simp only [c0, cond_true]; rw [e_d, e_a, e_p]

theorem RoundTrip.fcos (d : BitVec 6) (a : BitVec 6) (p : BitVec 3) : RoundTrip.Statement (.fcos d a p) := by
  have e : encode (.fcos d a p) = packWord 0 [(0x57, 8), (d.toNat, 6), (a.toNat, 6), (p.toNat, 3), (0, 9)] := rfl
  simp only [packWord] at e
  obtain ⟨w0, hw⟩ : ∃ w0, encode (.fcos d a p) = w0 := ⟨_, rfl⟩
  rw [hw] at e
  have g0 := (Nat.div_one w0).trans e
  have n0 := nextField (lo := 0) g0 (by decide)
  have n1 := nextField (lo := 9) n0.2 p.isLt
  have n2 := nextField (lo := 12) n1.2 a.isLt
  have n3 := nextField (lo := 18) n2.2 d.isLt
  have ho : w0 / 2 ^ 24 = 87 := n3.2
  refine laneWord rfl hw ho (by decide) ?_
  have hi : fld w0 28 4 = 5 := (opcode ho).1
  have lo : fld w0 24 4 = 7 := (opcode ho).2
  have e_d : bits w0 18 6 = d := bits_eq n3.1
  have e_a : bits w0 12 6 = a := bits_eq n2.1
  have e_p : bits w0 9 3 = p := bits_eq n1.1
  have r0_9 : fld w0 0 9 = 0 := n0.1
  have c0 : (fld w0 0 9 == 0) = true := by simp [r0_9]
  unfold decodeMajor; rw [hi]; simp only []; unfold decodeMajor5; rw [lo]; simp only [c0, cond_true]; rw [e_d, e_a, e_p]

theorem RoundTrip.ftanh (d : BitVec 6) (a : BitVec 6) (p : BitVec 3) : RoundTrip.Statement (.ftanh d a p) := by
  have e : encode (.ftanh d a p) = packWord 0 [(0x58, 8), (d.toNat, 6), (a.toNat, 6), (p.toNat, 3), (0, 9)] := rfl
  simp only [packWord] at e
  obtain ⟨w0, hw⟩ : ∃ w0, encode (.ftanh d a p) = w0 := ⟨_, rfl⟩
  rw [hw] at e
  have g0 := (Nat.div_one w0).trans e
  have n0 := nextField (lo := 0) g0 (by decide)
  have n1 := nextField (lo := 9) n0.2 p.isLt
  have n2 := nextField (lo := 12) n1.2 a.isLt
  have n3 := nextField (lo := 18) n2.2 d.isLt
  have ho : w0 / 2 ^ 24 = 88 := n3.2
  refine laneWord rfl hw ho (by decide) ?_
  have hi : fld w0 28 4 = 5 := (opcode ho).1
  have lo : fld w0 24 4 = 8 := (opcode ho).2
  have e_d : bits w0 18 6 = d := bits_eq n3.1
  have e_a : bits w0 12 6 = a := bits_eq n2.1
  have e_p : bits w0 9 3 = p := bits_eq n1.1
  have r0_9 : fld w0 0 9 = 0 := n0.1
  have c0 : (fld w0 0 9 == 0) = true := by simp [r0_9]
  unfold decodeMajor; rw [hi]; simp only []; unfold decodeMajor5; rw [lo]; simp only [c0, cond_true]; rw [e_d, e_a, e_p]

theorem RoundTrip.fdot2 (d : BitVec 6) (a : BitVec 6) (p : BitVec 3) (b : BitVec 6) (q : BitVec 3) : RoundTrip.Statement (.fdot2 d a p b q) := by
  have e : encode (.fdot2 d a p b q) = packWord 0 [(0x59, 8), (d.toNat, 6), (a.toNat, 6), (p.toNat, 3), (b.toNat, 6), (q.toNat, 3)] := rfl
  simp only [packWord] at e
  obtain ⟨w0, hw⟩ : ∃ w0, encode (.fdot2 d a p b q) = w0 := ⟨_, rfl⟩
  rw [hw] at e
  have g0 := (Nat.div_one w0).trans e
  have n0 := nextField (lo := 0) g0 q.isLt
  have n1 := nextField (lo := 3) n0.2 b.isLt
  have n2 := nextField (lo := 9) n1.2 p.isLt
  have n3 := nextField (lo := 12) n2.2 a.isLt
  have n4 := nextField (lo := 18) n3.2 d.isLt
  have ho : w0 / 2 ^ 24 = 89 := n4.2
  refine laneWord rfl hw ho (by decide) ?_
  have hi : fld w0 28 4 = 5 := (opcode ho).1
  have lo : fld w0 24 4 = 9 := (opcode ho).2
  have e_d : bits w0 18 6 = d := bits_eq n4.1
  have e_a : bits w0 12 6 = a := bits_eq n3.1
  have e_p : bits w0 9 3 = p := bits_eq n2.1
  have e_b : bits w0 3 6 = b := bits_eq n1.1
  have e_q : bits w0 0 3 = q := bits_eq n0.1
  unfold decodeMajor; rw [hi]; simp only []; unfold decodeMajor5; rw [lo]; simp only []; rw [e_d, e_a, e_p, e_b, e_q]

theorem RoundTrip.fdot4 (d : BitVec 6) (a : BitVec 6) (p : BitVec 3) (b : BitVec 6) (q : BitVec 3) : RoundTrip.Statement (.fdot4 d a p b q) := by
  have e : encode (.fdot4 d a p b q) = packWord 0 [(0x5a, 8), (d.toNat, 6), (a.toNat, 6), (p.toNat, 3), (b.toNat, 6), (q.toNat, 3)] := rfl
  simp only [packWord] at e
  obtain ⟨w0, hw⟩ : ∃ w0, encode (.fdot4 d a p b q) = w0 := ⟨_, rfl⟩
  rw [hw] at e
  have g0 := (Nat.div_one w0).trans e
  have n0 := nextField (lo := 0) g0 q.isLt
  have n1 := nextField (lo := 3) n0.2 b.isLt
  have n2 := nextField (lo := 9) n1.2 p.isLt
  have n3 := nextField (lo := 12) n2.2 a.isLt
  have n4 := nextField (lo := 18) n3.2 d.isLt
  have ho : w0 / 2 ^ 24 = 90 := n4.2
  refine laneWord rfl hw ho (by decide) ?_
  have hi : fld w0 28 4 = 5 := (opcode ho).1
  have lo : fld w0 24 4 = 10 := (opcode ho).2
  have e_d : bits w0 18 6 = d := bits_eq n4.1
  have e_a : bits w0 12 6 = a := bits_eq n3.1
  have e_p : bits w0 9 3 = p := bits_eq n2.1
  have e_b : bits w0 3 6 = b := bits_eq n1.1
  have e_q : bits w0 0 3 = q := bits_eq n0.1
  unfold decodeMajor; rw [hi]; simp only []; unfold decodeMajor5; rw [lo]; simp only []; rw [e_d, e_a, e_p, e_b, e_q]

theorem RoundTrip.fred (d : BitVec 6) (a : BitVec 6) (o : BitVec 3) : RoundTrip.Statement (.fred d a o) := by
  intro h0; have hv : (decide (o.toNat ≤ 2)) = true := h0
  have e : encode (.fred d a o) = packWord 0 [(0x5b, 8), (d.toNat, 6), (a.toNat, 6), (0, 6), (o.toNat, 3), (0, 3)] := rfl
  simp only [packWord] at e
  obtain ⟨w0, hw⟩ : ∃ w0, encode (.fred d a o) = w0 := ⟨_, rfl⟩
  rw [hw] at e
  have g0 := (Nat.div_one w0).trans e
  have n0 := nextField (lo := 0) g0 (by decide)
  have n1 := nextField (lo := 3) n0.2 o.isLt
  have n2 := nextField (lo := 6) n1.2 (by decide)
  have n3 := nextField (lo := 12) n2.2 a.isLt
  have n4 := nextField (lo := 18) n3.2 d.isLt
  have ho : w0 / 2 ^ 24 = 91 := n4.2
  refine laneWord rfl hw ho (by decide) ?_ h0
  have hi : fld w0 28 4 = 5 := (opcode ho).1
  have lo : fld w0 24 4 = 11 := (opcode ho).2
  have e_d : bits w0 18 6 = d := bits_eq n4.1
  have e_a : bits w0 12 6 = a := bits_eq n3.1
  have e_o : bits w0 3 3 = o := bits_eq n1.1
  have r6_6 : fld w0 6 6 = 0 := n2.1
  have r0_3 : fld w0 0 3 = 0 := n0.1
  have r3_3 : fld w0 3 3 = o.toNat := n1.1
  have c0 : (fld w0 0 3 == 0 && fld w0 6 6 == 0 && decide ((fld w0 3 3) ≤ 2)) = true := by simp [r0_3, r3_3, r6_6, hv]
  unfold decodeMajor; rw [hi]; simp only []; unfold decodeMajor5; rw [lo]; simp only [c0, cond_true]; rw [e_d, e_a, e_o]

theorem RoundTrip.argmx (d : BitVec 6) (a : BitVec 6) (p : BitVec 3) (b : BitVec 6) (q : BitVec 3) : RoundTrip.Statement (.argmx d a p b q) := by
  have e : encode (.argmx d a p b q) = packWord 0 [(0x5c, 8), (d.toNat, 6), (a.toNat, 6), (p.toNat, 3), (b.toNat, 6), (q.toNat, 3)] := rfl
  simp only [packWord] at e
  obtain ⟨w0, hw⟩ : ∃ w0, encode (.argmx d a p b q) = w0 := ⟨_, rfl⟩
  rw [hw] at e
  have g0 := (Nat.div_one w0).trans e
  have n0 := nextField (lo := 0) g0 q.isLt
  have n1 := nextField (lo := 3) n0.2 b.isLt
  have n2 := nextField (lo := 9) n1.2 p.isLt
  have n3 := nextField (lo := 12) n2.2 a.isLt
  have n4 := nextField (lo := 18) n3.2 d.isLt
  have ho : w0 / 2 ^ 24 = 92 := n4.2
  refine laneWord rfl hw ho (by decide) ?_
  have hi : fld w0 28 4 = 5 := (opcode ho).1
  have lo : fld w0 24 4 = 12 := (opcode ho).2
  have e_d : bits w0 18 6 = d := bits_eq n4.1
  have e_a : bits w0 12 6 = a := bits_eq n3.1
  have e_p : bits w0 9 3 = p := bits_eq n2.1
  have e_b : bits w0 3 6 = b := bits_eq n1.1
  have e_q : bits w0 0 3 = q := bits_eq n0.1
  unfold decodeMajor; rw [hi]; simp only []; unfold decodeMajor5; rw [lo]; simp only []; rw [e_d, e_a, e_p, e_b, e_q]

theorem RoundTrip.cvt (d : BitVec 6) (a : BitVec 6) (p : BitVec 3) (x : BitVec 2) (t : BitVec 4) : RoundTrip.Statement (.cvt d a p x t) := by
  have e : encode (.cvt d a p x t) = packWord 0 [(0x60, 8), (d.toNat, 6), (a.toNat, 6), (p.toNat, 3), (x.toNat, 2), (t.toNat, 4), (0, 3)] := rfl
  simp only [packWord] at e
  obtain ⟨w0, hw⟩ : ∃ w0, encode (.cvt d a p x t) = w0 := ⟨_, rfl⟩
  rw [hw] at e
  have g0 := (Nat.div_one w0).trans e
  have n0 := nextField (lo := 0) g0 (by decide)
  have n1 := nextField (lo := 3) n0.2 t.isLt
  have n2 := nextField (lo := 7) n1.2 x.isLt
  have n3 := nextField (lo := 9) n2.2 p.isLt
  have n4 := nextField (lo := 12) n3.2 a.isLt
  have n5 := nextField (lo := 18) n4.2 d.isLt
  have ho : w0 / 2 ^ 24 = 96 := n5.2
  refine laneWord rfl hw ho (by decide) ?_
  have hi : fld w0 28 4 = 6 := (opcode ho).1
  have lo : fld w0 24 4 = 0 := (opcode ho).2
  have e_d : bits w0 18 6 = d := bits_eq n5.1
  have e_a : bits w0 12 6 = a := bits_eq n4.1
  have e_p : bits w0 9 3 = p := bits_eq n3.1
  have e_x : bits w0 7 2 = x := bits_eq n2.1
  have e_t : bits w0 3 4 = t := bits_eq n1.1
  have r0_3 : fld w0 0 3 = 0 := n0.1
  have c0 : (fld w0 0 3 == 0) = true := by simp [r0_3]
  unfold decodeMajor; rw [hi]; simp only []; unfold decodeMajor6; rw [lo]; simp only [c0, cond_true]; rw [e_d, e_a, e_p, e_x, e_t]

theorem RoundTrip.cvtp (d : BitVec 6) (a : BitVec 6) (p : BitVec 3) (b : BitVec 6) (q : BitVec 3) : RoundTrip.Statement (.cvtp d a p b q) := by
  have e : encode (.cvtp d a p b q) = packWord 0 [(0x61, 8), (d.toNat, 6), (a.toNat, 6), (p.toNat, 3), (b.toNat, 6), (q.toNat, 3)] := rfl
  simp only [packWord] at e
  obtain ⟨w0, hw⟩ : ∃ w0, encode (.cvtp d a p b q) = w0 := ⟨_, rfl⟩
  rw [hw] at e
  have g0 := (Nat.div_one w0).trans e
  have n0 := nextField (lo := 0) g0 q.isLt
  have n1 := nextField (lo := 3) n0.2 b.isLt
  have n2 := nextField (lo := 9) n1.2 p.isLt
  have n3 := nextField (lo := 12) n2.2 a.isLt
  have n4 := nextField (lo := 18) n3.2 d.isLt
  have ho : w0 / 2 ^ 24 = 97 := n4.2
  refine laneWord rfl hw ho (by decide) ?_
  have hi : fld w0 28 4 = 6 := (opcode ho).1
  have lo : fld w0 24 4 = 1 := (opcode ho).2
  have e_d : bits w0 18 6 = d := bits_eq n4.1
  have e_a : bits w0 12 6 = a := bits_eq n3.1
  have e_p : bits w0 9 3 = p := bits_eq n2.1
  have e_b : bits w0 3 6 = b := bits_eq n1.1
  have e_q : bits w0 0 3 = q := bits_eq n0.1
  unfold decodeMajor; rw [hi]; simp only []; unfold decodeMajor6; rw [lo]; simp only []; rw [e_d, e_a, e_p, e_b, e_q]

theorem RoundTrip.seed (a : BitVec 5) : RoundTrip.Statement (.seed a) := by
  have e : encode (.seed a) = packWord 0 [(0x62, 8), (0, 5), (a.toNat, 5), (0, 14)] := rfl
  simp only [packWord] at e
  obtain ⟨w0, hw⟩ : ∃ w0, encode (.seed a) = w0 := ⟨_, rfl⟩
  rw [hw] at e
  have g0 := (Nat.div_one w0).trans e
  have n0 := nextField (lo := 0) g0 (by decide)
  have n1 := nextField (lo := 14) n0.2 a.isLt
  have n2 := nextField (lo := 19) n1.2 (by decide)
  have ho : w0 / 2 ^ 24 = 98 := n2.2
  refine laneWord rfl hw ho (by decide) ?_
  have hi : fld w0 28 4 = 6 := (opcode ho).1
  have lo : fld w0 24 4 = 2 := (opcode ho).2
  have e_a : bits w0 14 5 = a := bits_eq n1.1
  have r0_14 : fld w0 0 14 = 0 := n0.1
  have r19_5 : fld w0 19 5 = 0 := n2.1
  have c0 : (fld w0 0 14 == 0 && fld w0 19 5 == 0) = true := by simp [r0_14, r19_5]
  unfold decodeMajor; rw [hi]; simp only []; unfold decodeMajor6; rw [lo]; simp only [c0, cond_true]; rw [e_a]

theorem RoundTrip.rngU32 (d : BitVec 6) : RoundTrip.Statement (.rngU32 d) := by
  have e : encode (.rngU32 d) = packWord 0 [(0x63, 8), (d.toNat, 6), (0, 18)] := rfl
  simp only [packWord] at e
  obtain ⟨w0, hw⟩ : ∃ w0, encode (.rngU32 d) = w0 := ⟨_, rfl⟩
  rw [hw] at e
  have g0 := (Nat.div_one w0).trans e
  have n0 := nextField (lo := 0) g0 (by decide)
  have n1 := nextField (lo := 18) n0.2 d.isLt
  have ho : w0 / 2 ^ 24 = 99 := n1.2
  refine laneWord rfl hw ho (by decide) ?_
  have hi : fld w0 28 4 = 6 := (opcode ho).1
  have lo : fld w0 24 4 = 3 := (opcode ho).2
  have e_d : bits w0 18 6 = d := bits_eq n1.1
  have r0_18 : fld w0 0 18 = 0 := n0.1
  have c0 : (fld w0 0 18 == 0) = true := by simp [r0_18]
  unfold decodeMajor; rw [hi]; simp only []; unfold decodeMajor6; rw [lo]; simp only [c0, cond_true]; rw [e_d]

theorem RoundTrip.rngUnit (d : BitVec 6) : RoundTrip.Statement (.rngUnit d) := by
  have e : encode (.rngUnit d) = packWord 0 [(0x63, 8), (d.toNat, 6), (8, 18)] := rfl
  simp only [packWord] at e
  obtain ⟨w0, hw⟩ : ∃ w0, encode (.rngUnit d) = w0 := ⟨_, rfl⟩
  rw [hw] at e
  have g0 := (Nat.div_one w0).trans e
  have n0 := nextField (lo := 0) g0 (by decide)
  have n1 := nextField (lo := 18) n0.2 d.isLt
  have ho : w0 / 2 ^ 24 = 99 := n1.2
  refine laneWord rfl hw ho (by decide) ?_
  have hi : fld w0 28 4 = 6 := (opcode ho).1
  have lo : fld w0 24 4 = 3 := (opcode ho).2
  have e_d : bits w0 18 6 = d := bits_eq n1.1
  have r0_18 : fld w0 0 18 = 8 := n0.1
  have c0 : (fld w0 0 18 == 0) = false := by simp [r0_18]
  have c1 : (fld w0 0 18 == 8) = true := by simp [r0_18]
  unfold decodeMajor; rw [hi]; simp only []; unfold decodeMajor6; rw [lo]; simp only [c0, c1, cond_true, cond_false]; rw [e_d]

theorem RoundTrip.rngGet (d : BitVec 6) : RoundTrip.Statement (.rngGet d) := by
  have e : encode (.rngGet d) = packWord 0 [(0x63, 8), (d.toNat, 6), (16, 18)] := rfl
  simp only [packWord] at e
  obtain ⟨w0, hw⟩ : ∃ w0, encode (.rngGet d) = w0 := ⟨_, rfl⟩
  rw [hw] at e
  have g0 := (Nat.div_one w0).trans e
  have n0 := nextField (lo := 0) g0 (by decide)
  have n1 := nextField (lo := 18) n0.2 d.isLt
  have ho : w0 / 2 ^ 24 = 99 := n1.2
  refine laneWord rfl hw ho (by decide) ?_
  have hi : fld w0 28 4 = 6 := (opcode ho).1
  have lo : fld w0 24 4 = 3 := (opcode ho).2
  have e_d : bits w0 18 6 = d := bits_eq n1.1
  have r0_18 : fld w0 0 18 = 16 := n0.1
  have c0 : (fld w0 0 18 == 0) = false := by simp [r0_18]
  have c1 : (fld w0 0 18 == 8) = false := by simp [r0_18]
  have c2 : (fld w0 0 18 == 16) = true := by simp [r0_18]
  unfold decodeMajor; rw [hi]; simp only []; unfold decodeMajor6; rw [lo]; simp only [c0, c1, c2, cond_true, cond_false]; rw [e_d]

theorem RoundTrip.rngSet (a : BitVec 6) (p : BitVec 3) : RoundTrip.Statement (.rngSet a p) := by
  have e : encode (.rngSet a p) = packWord 0 [(0x63, 8), (0, 6), (a.toNat, 6), (p.toNat, 3), (24, 9)] := rfl
  simp only [packWord] at e
  obtain ⟨w0, hw⟩ : ∃ w0, encode (.rngSet a p) = w0 := ⟨_, rfl⟩
  rw [hw] at e
  have g0 := (Nat.div_one w0).trans e
  have n0 := nextField (lo := 0) g0 (by decide)
  have n1 := nextField (lo := 9) n0.2 p.isLt
  have n2 := nextField (lo := 12) n1.2 a.isLt
  have n3 := nextField (lo := 18) n2.2 (by decide)
  have ho : w0 / 2 ^ 24 = 99 := n3.2
  refine laneWord rfl hw ho (by decide) ?_
  have hi : fld w0 28 4 = 6 := (opcode ho).1
  have lo : fld w0 24 4 = 3 := (opcode ho).2
  have e_a : bits w0 12 6 = a := bits_eq n2.1
  have e_p : bits w0 9 3 = p := bits_eq n1.1
  have c0 : (fld w0 0 18 == 0) = false := by
    apply Bool.eq_false_iff.mpr; unfold fld; simp only [ne_eq, Bool.and_eq_true, beq_iff_eq, decide_eq_true_eq]
    have := a.isLt
    have := p.isLt
    omega
  have c1 : (fld w0 0 18 == 8) = false := by
    apply Bool.eq_false_iff.mpr; unfold fld; simp only [ne_eq, Bool.and_eq_true, beq_iff_eq, decide_eq_true_eq]
    have := a.isLt
    have := p.isLt
    omega
  have c2 : (fld w0 0 18 == 16) = false := by
    apply Bool.eq_false_iff.mpr; unfold fld; simp only [ne_eq, Bool.and_eq_true, beq_iff_eq, decide_eq_true_eq]
    have := a.isLt
    have := p.isLt
    omega
  have r18_6 : fld w0 18 6 = 0 := n3.1
  have r0_9 : fld w0 0 9 = 24 := n0.1
  have c3 : (fld w0 0 9 == 24 && fld w0 18 6 == 0) = true := by simp [r0_9, r18_6]
  unfold decodeMajor; rw [hi]; simp only []; unfold decodeMajor6; rw [lo]; simp only [c0, c1, c2, c3, cond_true, cond_false]; rw [e_a, e_p]

theorem RoundTrip.qmx (d : BitVec 6) (a : BitVec 6) (p : BitVec 3) : RoundTrip.Statement (.qmx d a p) := by
  have e : encode (.qmx d a p) = packWord 0 [(0x64, 8), (d.toNat, 6), (a.toNat, 6), (p.toNat, 3), (0, 9)] := rfl
  simp only [packWord] at e
  obtain ⟨w0, hw⟩ : ∃ w0, encode (.qmx d a p) = w0 := ⟨_, rfl⟩
  rw [hw] at e
  have g0 := (Nat.div_one w0).trans e
  have n0 := nextField (lo := 0) g0 (by decide)
  have n1 := nextField (lo := 9) n0.2 p.isLt
  have n2 := nextField (lo := 12) n1.2 a.isLt
  have n3 := nextField (lo := 18) n2.2 d.isLt
  have ho : w0 / 2 ^ 24 = 100 := n3.2
  refine laneWord rfl hw ho (by decide) ?_
  have hi : fld w0 28 4 = 6 := (opcode ho).1
  have lo : fld w0 24 4 = 4 := (opcode ho).2
  have e_d : bits w0 18 6 = d := bits_eq n3.1
  have e_a : bits w0 12 6 = a := bits_eq n2.1
  have e_p : bits w0 9 3 = p := bits_eq n1.1
  have r0_9 : fld w0 0 9 = 0 := n0.1
  have c0 : (fld w0 0 9 == 0) = true := by simp [r0_9]
  unfold decodeMajor; rw [hi]; simp only []; unfold decodeMajor6; rw [lo]; simp only [c0, cond_true]; rw [e_d, e_a, e_p]

theorem RoundTrip.qmxa (d : BitVec 6) (a : BitVec 6) (p : BitVec 3) (b : BitVec 6) (q : BitVec 3) : RoundTrip.Statement (.qmxa d a p b q) := by
  have e : encode (.qmxa d a p b q) = packWord 0 [(0x65, 8), (d.toNat, 6), (a.toNat, 6), (p.toNat, 3), (b.toNat, 6), (q.toNat, 3)] := rfl
  simp only [packWord] at e
  obtain ⟨w0, hw⟩ : ∃ w0, encode (.qmxa d a p b q) = w0 := ⟨_, rfl⟩
  rw [hw] at e
  have g0 := (Nat.div_one w0).trans e
  have n0 := nextField (lo := 0) g0 q.isLt
  have n1 := nextField (lo := 3) n0.2 b.isLt
  have n2 := nextField (lo := 9) n1.2 p.isLt
  have n3 := nextField (lo := 12) n2.2 a.isLt
  have n4 := nextField (lo := 18) n3.2 d.isLt
  have ho : w0 / 2 ^ 24 = 101 := n4.2
  refine laneWord rfl hw ho (by decide) ?_
  have hi : fld w0 28 4 = 6 := (opcode ho).1
  have lo : fld w0 24 4 = 5 := (opcode ho).2
  have e_d : bits w0 18 6 = d := bits_eq n4.1
  have e_a : bits w0 12 6 = a := bits_eq n3.1
  have e_p : bits w0 9 3 = p := bits_eq n2.1
  have e_b : bits w0 3 6 = b := bits_eq n1.1
  have e_q : bits w0 0 3 = q := bits_eq n0.1
  unfold decodeMajor; rw [hi]; simp only []; unfold decodeMajor6; rw [lo]; simp only []; rw [e_d, e_a, e_p, e_b, e_q]

theorem RoundTrip.bra (imm : BitVec 24) : RoundTrip.Statement (.bra imm) := by
  have e : encode (.bra imm) = packWord 0 [(0x70, 8), (imm.toNat, 24)] := rfl
  simp only [packWord] at e
  obtain ⟨w0, hw⟩ : ∃ w0, encode (.bra imm) = w0 := ⟨_, rfl⟩
  rw [hw] at e
  have g0 := (Nat.div_one w0).trans e
  have n0 := nextField (lo := 0) g0 imm.isLt
  have ho : w0 / 2 ^ 24 = 112 := n0.2
  refine laneWord rfl hw ho (by decide) ?_
  have hi : fld w0 28 4 = 7 := (opcode ho).1
  have lo : fld w0 24 4 = 0 := (opcode ho).2
  have e_imm : bits w0 0 24 = imm := bits_eq n0.1
  unfold decodeMajor; rw [hi]; simp only []; unfold decodeMajor7; rw [lo]; simp only []; rw [e_imm]

theorem RoundTrip.brall (imm : BitVec 24) : RoundTrip.Statement (.brall imm) := by
  have e : encode (.brall imm) = packWord 0 [(0x71, 8), (imm.toNat, 24)] := rfl
  simp only [packWord] at e
  obtain ⟨w0, hw⟩ : ∃ w0, encode (.brall imm) = w0 := ⟨_, rfl⟩
  rw [hw] at e
  have g0 := (Nat.div_one w0).trans e
  have n0 := nextField (lo := 0) g0 imm.isLt
  have ho : w0 / 2 ^ 24 = 113 := n0.2
  refine laneWord rfl hw ho (by decide) ?_
  have hi : fld w0 28 4 = 7 := (opcode ho).1
  have lo : fld w0 24 4 = 1 := (opcode ho).2
  have e_imm : bits w0 0 24 = imm := bits_eq n0.1
  unfold decodeMajor; rw [hi]; simp only []; unfold decodeMajor7; rw [lo]; simp only []; rw [e_imm]

theorem RoundTrip.brany (imm : BitVec 24) : RoundTrip.Statement (.brany imm) := by
  have e : encode (.brany imm) = packWord 0 [(0x72, 8), (imm.toNat, 24)] := rfl
  simp only [packWord] at e
  obtain ⟨w0, hw⟩ : ∃ w0, encode (.brany imm) = w0 := ⟨_, rfl⟩
  rw [hw] at e
  have g0 := (Nat.div_one w0).trans e
  have n0 := nextField (lo := 0) g0 imm.isLt
  have ho : w0 / 2 ^ 24 = 114 := n0.2
  refine laneWord rfl hw ho (by decide) ?_
  have hi : fld w0 28 4 = 7 := (opcode ho).1
  have lo : fld w0 24 4 = 2 := (opcode ho).2
  have e_imm : bits w0 0 24 = imm := bits_eq n0.1
  unfold decodeMajor; rw [hi]; simp only []; unfold decodeMajor7; rw [lo]; simp only []; rw [e_imm]

theorem RoundTrip.brx (a : BitVec 6) : RoundTrip.Statement (.brx a) := by
  intro h0; have hv : (a.toNat % 2 == 0) = true := h0
  have e : encode (.brx a) = packWord 0 [(0x73, 8), (0, 6), (a.toNat, 6), (0, 12)] := rfl
  simp only [packWord] at e
  obtain ⟨w0, hw⟩ : ∃ w0, encode (.brx a) = w0 := ⟨_, rfl⟩
  rw [hw] at e
  have g0 := (Nat.div_one w0).trans e
  have n0 := nextField (lo := 0) g0 (by decide)
  have n1 := nextField (lo := 12) n0.2 a.isLt
  have n2 := nextField (lo := 18) n1.2 (by decide)
  have ho : w0 / 2 ^ 24 = 115 := n2.2
  refine laneWord rfl hw ho (by decide) ?_ h0
  have hi : fld w0 28 4 = 7 := (opcode ho).1
  have lo : fld w0 24 4 = 3 := (opcode ho).2
  have e_a : bits w0 12 6 = a := bits_eq n1.1
  have r0_12 : fld w0 0 12 = 0 := n0.1
  have r12_6 : fld w0 12 6 = a.toNat := n1.1
  have r18_6 : fld w0 18 6 = 0 := n2.1
  have c0 : (fld w0 0 12 == 0 && fld w0 18 6 == 0 && (fld w0 12 6) % 2 == 0) = true := by simp [r0_12, r12_6, r18_6, hv]
  unfold decodeMajor; rw [hi]; simp only []; unfold decodeMajor7; rw [lo]; simp only [c0, cond_true]; rw [e_a]

theorem RoundTrip.call (imm : BitVec 24) : RoundTrip.Statement (.call imm) := by
  have e : encode (.call imm) = packWord 0 [(0x74, 8), (imm.toNat, 24)] := rfl
  simp only [packWord] at e
  obtain ⟨w0, hw⟩ : ∃ w0, encode (.call imm) = w0 := ⟨_, rfl⟩
  rw [hw] at e
  have g0 := (Nat.div_one w0).trans e
  have n0 := nextField (lo := 0) g0 imm.isLt
  have ho : w0 / 2 ^ 24 = 116 := n0.2
  refine laneWord rfl hw ho (by decide) ?_
  have hi : fld w0 28 4 = 7 := (opcode ho).1
  have lo : fld w0 24 4 = 4 := (opcode ho).2
  have e_imm : bits w0 0 24 = imm := bits_eq n0.1
  unfold decodeMajor; rw [hi]; simp only []; unfold decodeMajor7; rw [lo]; simp only []; rw [e_imm]

theorem RoundTrip.callx (a : BitVec 6) : RoundTrip.Statement (.callx a) := by
  intro h0; have hv : (a.toNat % 2 == 0) = true := h0
  have e : encode (.callx a) = packWord 0 [(0x75, 8), (0, 6), (a.toNat, 6), (0, 12)] := rfl
  simp only [packWord] at e
  obtain ⟨w0, hw⟩ : ∃ w0, encode (.callx a) = w0 := ⟨_, rfl⟩
  rw [hw] at e
  have g0 := (Nat.div_one w0).trans e
  have n0 := nextField (lo := 0) g0 (by decide)
  have n1 := nextField (lo := 12) n0.2 a.isLt
  have n2 := nextField (lo := 18) n1.2 (by decide)
  have ho : w0 / 2 ^ 24 = 117 := n2.2
  refine laneWord rfl hw ho (by decide) ?_ h0
  have hi : fld w0 28 4 = 7 := (opcode ho).1
  have lo : fld w0 24 4 = 5 := (opcode ho).2
  have e_a : bits w0 12 6 = a := bits_eq n1.1
  have r0_12 : fld w0 0 12 = 0 := n0.1
  have r12_6 : fld w0 12 6 = a.toNat := n1.1
  have r18_6 : fld w0 18 6 = 0 := n2.1
  have c0 : (fld w0 0 12 == 0 && fld w0 18 6 == 0 && (fld w0 12 6) % 2 == 0) = true := by simp [r0_12, r12_6, r18_6, hv]
  unfold decodeMajor; rw [hi]; simp only []; unfold decodeMajor7; rw [lo]; simp only [c0, cond_true]; rw [e_a]

theorem RoundTrip.ret (a : BitVec 5) : RoundTrip.Statement (.ret a) := by
  have e : encode (.ret a) = packWord 0 [(0x76, 8), (0, 7), (a.toNat, 5), (0, 12)] := rfl
  simp only [packWord] at e
  obtain ⟨w0, hw⟩ : ∃ w0, encode (.ret a) = w0 := ⟨_, rfl⟩
  rw [hw] at e
  have g0 := (Nat.div_one w0).trans e
  have n0 := nextField (lo := 0) g0 (by decide)
  have n1 := nextField (lo := 12) n0.2 a.isLt
  have n2 := nextField (lo := 17) n1.2 (by decide)
  have ho : w0 / 2 ^ 24 = 118 := n2.2
  refine laneWord rfl hw ho (by decide) ?_
  have hi : fld w0 28 4 = 7 := (opcode ho).1
  have lo : fld w0 24 4 = 6 := (opcode ho).2
  have e_a : bits w0 12 5 = a := bits_eq n1.1
  have r0_12 : fld w0 0 12 = 0 := n0.1
  have r17_7 : fld w0 17 7 = 0 := n2.1
  have c0 : (fld w0 0 12 == 0 && fld w0 17 7 == 0) = true := by simp [r0_12, r17_7]
  unfold decodeMajor; rw [hi]; simp only []; unfold decodeMajor7; rw [lo]; simp only [c0, cond_true]; rw [e_a]

theorem RoundTrip.split (imm : BitVec 24) : RoundTrip.Statement (.split imm) := by
  have e : encode (.split imm) = packWord 0 [(0x77, 8), (imm.toNat, 24)] := rfl
  simp only [packWord] at e
  obtain ⟨w0, hw⟩ : ∃ w0, encode (.split imm) = w0 := ⟨_, rfl⟩
  rw [hw] at e
  have g0 := (Nat.div_one w0).trans e
  have n0 := nextField (lo := 0) g0 imm.isLt
  have ho : w0 / 2 ^ 24 = 119 := n0.2
  refine laneWord rfl hw ho (by decide) ?_
  have hi : fld w0 28 4 = 7 := (opcode ho).1
  have lo : fld w0 24 4 = 7 := (opcode ho).2
  have e_imm : bits w0 0 24 = imm := bits_eq n0.1
  unfold decodeMajor; rw [hi]; simp only []; unfold decodeMajor7; rw [lo]; simp only []; rw [e_imm]

theorem RoundTrip.rcv (imm : BitVec 24) : RoundTrip.Statement (.rcv imm) := by
  have e : encode (.rcv imm) = packWord 0 [(0x78, 8), (imm.toNat, 24)] := rfl
  simp only [packWord] at e
  obtain ⟨w0, hw⟩ : ∃ w0, encode (.rcv imm) = w0 := ⟨_, rfl⟩
  rw [hw] at e
  have g0 := (Nat.div_one w0).trans e
  have n0 := nextField (lo := 0) g0 imm.isLt
  have ho : w0 / 2 ^ 24 = 120 := n0.2
  refine laneWord rfl hw ho (by decide) ?_
  have hi : fld w0 28 4 = 7 := (opcode ho).1
  have lo : fld w0 24 4 = 8 := (opcode ho).2
  have e_imm : bits w0 0 24 = imm := bits_eq n0.1
  unfold decodeMajor; rw [hi]; simp only []; unfold decodeMajor7; rw [lo]; simp only []; rw [e_imm]

theorem RoundTrip.join : RoundTrip.Statement (.join) := by
  have e : encode (.join) = packWord 0 [(0x79, 8), (0, 24)] := rfl
  simp only [packWord] at e
  obtain ⟨w0, hw⟩ : ∃ w0, encode (.join) = w0 := ⟨_, rfl⟩
  rw [hw] at e
  have g0 := (Nat.div_one w0).trans e
  have n0 := nextField (lo := 0) g0 (by decide)
  have ho : w0 / 2 ^ 24 = 121 := n0.2
  refine laneWord rfl hw ho (by decide) ?_
  have hi : fld w0 28 4 = 7 := (opcode ho).1
  have lo : fld w0 24 4 = 9 := (opcode ho).2
  have r0_24 : fld w0 0 24 = 0 := n0.1
  have c0 : (fld w0 0 24 == 0) = true := by simp [r0_24]
  unfold decodeMajor; rw [hi]; simp only []; unfold decodeMajor7; rw [lo]; simp only [c0, cond_true]

theorem RoundTrip.exit : RoundTrip.Statement (.exit) := by
  have e : encode (.exit) = packWord 0 [(0x7a, 8), (0, 24)] := rfl
  simp only [packWord] at e
  obtain ⟨w0, hw⟩ : ∃ w0, encode (.exit) = w0 := ⟨_, rfl⟩
  rw [hw] at e
  have g0 := (Nat.div_one w0).trans e
  have n0 := nextField (lo := 0) g0 (by decide)
  have ho : w0 / 2 ^ 24 = 122 := n0.2
  refine laneWord rfl hw ho (by decide) ?_
  have hi : fld w0 28 4 = 7 := (opcode ho).1
  have lo : fld w0 24 4 = 10 := (opcode ho).2
  have r0_24 : fld w0 0 24 = 0 := n0.1
  have c0 : (fld w0 0 24 == 0) = true := by simp [r0_24]
  unfold decodeMajor; rw [hi]; simp only []; unfold decodeMajor7; rw [lo]; simp only [c0, cond_true]

theorem RoundTrip.yield : RoundTrip.Statement (.yield) := by
  have e : encode (.yield) = packWord 0 [(0x7b, 8), (0, 24)] := rfl
  simp only [packWord] at e
  obtain ⟨w0, hw⟩ : ∃ w0, encode (.yield) = w0 := ⟨_, rfl⟩
  rw [hw] at e
  have g0 := (Nat.div_one w0).trans e
  have n0 := nextField (lo := 0) g0 (by decide)
  have ho : w0 / 2 ^ 24 = 123 := n0.2
  refine laneWord rfl hw ho (by decide) ?_
  have hi : fld w0 28 4 = 7 := (opcode ho).1
  have lo : fld w0 24 4 = 11 := (opcode ho).2
  have r0_24 : fld w0 0 24 = 0 := n0.1
  have c0 : (fld w0 0 24 == 0) = true := by simp [r0_24]
  unfold decodeMajor; rw [hi]; simp only []; unfold decodeMajor7; rw [lo]; simp only [c0, cond_true]

theorem RoundTrip.wait (p : BitVec 3) (b : BitVec 5) : RoundTrip.Statement (.wait p b) := by
  have e : encode (.wait p b) = packWord 0 [(0x7c, 8), (0, 2), (p.toNat, 3), (0, 5), (b.toNat, 5), (0, 9)] := rfl
  simp only [packWord] at e
  obtain ⟨w0, hw⟩ : ∃ w0, encode (.wait p b) = w0 := ⟨_, rfl⟩
  rw [hw] at e
  have g0 := (Nat.div_one w0).trans e
  have n0 := nextField (lo := 0) g0 (by decide)
  have n1 := nextField (lo := 9) n0.2 b.isLt
  have n2 := nextField (lo := 14) n1.2 (by decide)
  have n3 := nextField (lo := 19) n2.2 p.isLt
  have n4 := nextField (lo := 22) n3.2 (by decide)
  have ho : w0 / 2 ^ 24 = 124 := n4.2
  refine laneWord rfl hw ho (by decide) ?_
  have hi : fld w0 28 4 = 7 := (opcode ho).1
  have lo : fld w0 24 4 = 12 := (opcode ho).2
  have e_p : bits w0 19 3 = p := bits_eq n3.1
  have e_b : bits w0 9 5 = b := bits_eq n1.1
  have r22_2 : fld w0 22 2 = 0 := n4.1
  have r0_9 : fld w0 0 9 = 0 := n0.1
  have r14_5 : fld w0 14 5 = 0 := n2.1
  have c0 : (fld w0 0 9 == 0 && fld w0 14 5 == 0 && fld w0 22 2 == 0) = true := by simp [r0_9, r14_5, r22_2]
  unfold decodeMajor; rw [hi]; simp only []; unfold decodeMajor7; rw [lo]; simp only [c0, cond_true]; rw [e_p, e_b]

theorem RoundTrip.waitImm (p : BitVec 3) (n : BitVec 6) : RoundTrip.Statement (.waitImm p n) := by
  have e : encode (.waitImm p n) = packWord 0 [(0x7c, 8), (0, 2), (p.toNat, 3), (4, 13), (n.toNat, 6)] := rfl
  simp only [packWord] at e
  obtain ⟨w0, hw⟩ : ∃ w0, encode (.waitImm p n) = w0 := ⟨_, rfl⟩
  rw [hw] at e
  have g0 := (Nat.div_one w0).trans e
  have n0 := nextField (lo := 0) g0 n.isLt
  have n1 := nextField (lo := 6) n0.2 (by decide)
  have n2 := nextField (lo := 19) n1.2 p.isLt
  have n3 := nextField (lo := 22) n2.2 (by decide)
  have ho : w0 / 2 ^ 24 = 124 := n3.2
  refine laneWord rfl hw ho (by decide) ?_
  have hi : fld w0 28 4 = 7 := (opcode ho).1
  have lo : fld w0 24 4 = 12 := (opcode ho).2
  have e_p : bits w0 19 3 = p := bits_eq n2.1
  have e_n : bits w0 0 6 = n := bits_eq n0.1
  have r22_2 : fld w0 22 2 = 0 := n3.1
  have c0 : (fld w0 0 9 == 0 && fld w0 14 5 == 0 && fld w0 22 2 == 0) = false := by
    apply Bool.eq_false_iff.mpr; unfold fld; simp only [ne_eq, Bool.and_eq_true, beq_iff_eq, decide_eq_true_eq]
    have := p.isLt
    have := n.isLt
    omega
  have r6_13 : fld w0 6 13 = 4 := n1.1
  have c1 : (fld w0 6 13 == 4 && fld w0 22 2 == 0) = true := by simp [r6_13, r22_2]
  unfold decodeMajor; rw [hi]; simp only []; unfold decodeMajor7; rw [lo]; simp only [c0, c1, cond_true, cond_false]; rw [e_p, e_n]

theorem RoundTrip.bkpt (imm : BitVec 12) : RoundTrip.Statement (.bkpt imm) := by
  have e : encode (.bkpt imm) = packWord 0 [(0x7d, 8), (0, 12), (imm.toNat, 12)] := rfl
  simp only [packWord] at e
  obtain ⟨w0, hw⟩ : ∃ w0, encode (.bkpt imm) = w0 := ⟨_, rfl⟩
  rw [hw] at e
  have g0 := (Nat.div_one w0).trans e
  have n0 := nextField (lo := 0) g0 imm.isLt
  have n1 := nextField (lo := 12) n0.2 (by decide)
  have ho : w0 / 2 ^ 24 = 125 := n1.2
  refine laneWord rfl hw ho (by decide) ?_
  have hi : fld w0 28 4 = 7 := (opcode ho).1
  have lo : fld w0 24 4 = 13 := (opcode ho).2
  have e_imm : bits w0 0 12 = imm := bits_eq n0.1
  have r12_12 : fld w0 12 12 = 0 := n1.1
  have c0 : (fld w0 12 12 == 0) = true := by simp [r12_12]
  unfold decodeMajor; rw [hi]; simp only []; unfold decodeMajor7; rw [lo]; simp only [c0, cond_true]; rw [e_imm]

theorem RoundTrip.msqStart (x : BitVec 5) (l : BitVec 4) : RoundTrip.Statement (.msqStart x l) := by
  have e : encode (.msqStart x l) = packWord 0 [(0x7e, 8), (x.toNat, 5), (0, 10), (l.toNat, 4), (0, 5)] := rfl
  simp only [packWord] at e
  obtain ⟨w0, hw⟩ : ∃ w0, encode (.msqStart x l) = w0 := ⟨_, rfl⟩
  rw [hw] at e
  have g0 := (Nat.div_one w0).trans e
  have n0 := nextField (lo := 0) g0 (by decide)
  have n1 := nextField (lo := 5) n0.2 l.isLt
  have n2 := nextField (lo := 9) n1.2 (by decide)
  have n3 := nextField (lo := 19) n2.2 x.isLt
  have ho : w0 / 2 ^ 24 = 126 := n3.2
  refine laneWord rfl hw ho (by decide) ?_
  have hi : fld w0 28 4 = 7 := (opcode ho).1
  have lo : fld w0 24 4 = 14 := (opcode ho).2
  have e_x : bits w0 19 5 = x := bits_eq n3.1
  have e_l : bits w0 5 4 = l := bits_eq n1.1
  have r9_10 : fld w0 9 10 = 0 := n2.1
  have r0_5 : fld w0 0 5 = 0 := n0.1
  have c0 : (fld w0 0 5 == 0 && fld w0 9 10 == 0) = true := by simp [r0_5, r9_10]
  unfold decodeMajor; rw [hi]; simp only []; unfold decodeMajor7; rw [lo]; simp only [c0, cond_true]; rw [e_x, e_l]

theorem RoundTrip.msqQry (z : BitVec 5) (l : BitVec 4) : RoundTrip.Statement (.msqQry z l) := by
  have e : encode (.msqQry z l) = packWord 0 [(0x7e, 8), (0, 10), (z.toNat, 5), (l.toNat, 4), (1, 5)] := rfl
  simp only [packWord] at e
  obtain ⟨w0, hw⟩ : ∃ w0, encode (.msqQry z l) = w0 := ⟨_, rfl⟩
  rw [hw] at e
  have g0 := (Nat.div_one w0).trans e
  have n0 := nextField (lo := 0) g0 (by decide)
  have n1 := nextField (lo := 5) n0.2 l.isLt
  have n2 := nextField (lo := 9) n1.2 z.isLt
  have n3 := nextField (lo := 14) n2.2 (by decide)
  have ho : w0 / 2 ^ 24 = 126 := n3.2
  refine laneWord rfl hw ho (by decide) ?_
  have hi : fld w0 28 4 = 7 := (opcode ho).1
  have lo : fld w0 24 4 = 14 := (opcode ho).2
  have e_z : bits w0 9 5 = z := bits_eq n2.1
  have e_l : bits w0 5 4 = l := bits_eq n1.1
  have r0_5 : fld w0 0 5 = 1 := n0.1
  have c0 : (fld w0 0 5 == 0 && fld w0 9 10 == 0) = false := by simp [r0_5]
  have r14_10 : fld w0 14 10 = 0 := n3.1
  have c1 : (fld w0 0 5 == 1 && fld w0 14 10 == 0) = true := by simp [r0_5, r14_10]
  unfold decodeMajor; rw [hi]; simp only []; unfold decodeMajor7; rw [lo]; simp only [c0, c1, cond_true, cond_false]; rw [e_z, e_l]

theorem RoundTrip.ldb (d : BitVec 6) (a : BitVec 6) (sb : BitVec 5) (l : BitVec 4) (q : BitVec 3) : RoundTrip.Statement (.ldb d a sb l q) := by
  have e : encode (.ldb d a sb l q) = packWord 0 [(0x80, 8), (d.toNat, 6), (a.toNat, 6), (sb.toNat, 5), (l.toNat, 4), (q.toNat, 3)] := rfl
  simp only [packWord] at e
  obtain ⟨w0, hw⟩ : ∃ w0, encode (.ldb d a sb l q) = w0 := ⟨_, rfl⟩
  rw [hw] at e
  have g0 := (Nat.div_one w0).trans e
  have n0 := nextField (lo := 0) g0 q.isLt
  have n1 := nextField (lo := 3) n0.2 l.isLt
  have n2 := nextField (lo := 7) n1.2 sb.isLt
  have n3 := nextField (lo := 12) n2.2 a.isLt
  have n4 := nextField (lo := 18) n3.2 d.isLt
  have ho : w0 / 2 ^ 24 = 128 := n4.2
  refine laneWord rfl hw ho (by decide) ?_
  have hi : fld w0 28 4 = 8 := (opcode ho).1
  have lo : fld w0 24 4 = 0 := (opcode ho).2
  have e_d : bits w0 18 6 = d := bits_eq n4.1
  have e_a : bits w0 12 6 = a := bits_eq n3.1
  have e_sb : bits w0 7 5 = sb := bits_eq n2.1
  have e_l : bits w0 3 4 = l := bits_eq n1.1
  have e_q : bits w0 0 3 = q := bits_eq n0.1
  unfold decodeMajor; rw [hi]; simp only []; unfold decodeMajor8; rw [lo]; simp only []; rw [e_d, e_a, e_sb, e_l, e_q]

theorem RoundTrip.ldh (d : BitVec 6) (a : BitVec 6) (sb : BitVec 5) (l : BitVec 4) (q : BitVec 3) : RoundTrip.Statement (.ldh d a sb l q) := by
  have e : encode (.ldh d a sb l q) = packWord 0 [(0x81, 8), (d.toNat, 6), (a.toNat, 6), (sb.toNat, 5), (l.toNat, 4), (q.toNat, 3)] := rfl
  simp only [packWord] at e
  obtain ⟨w0, hw⟩ : ∃ w0, encode (.ldh d a sb l q) = w0 := ⟨_, rfl⟩
  rw [hw] at e
  have g0 := (Nat.div_one w0).trans e
  have n0 := nextField (lo := 0) g0 q.isLt
  have n1 := nextField (lo := 3) n0.2 l.isLt
  have n2 := nextField (lo := 7) n1.2 sb.isLt
  have n3 := nextField (lo := 12) n2.2 a.isLt
  have n4 := nextField (lo := 18) n3.2 d.isLt
  have ho : w0 / 2 ^ 24 = 129 := n4.2
  refine laneWord rfl hw ho (by decide) ?_
  have hi : fld w0 28 4 = 8 := (opcode ho).1
  have lo : fld w0 24 4 = 1 := (opcode ho).2
  have e_d : bits w0 18 6 = d := bits_eq n4.1
  have e_a : bits w0 12 6 = a := bits_eq n3.1
  have e_sb : bits w0 7 5 = sb := bits_eq n2.1
  have e_l : bits w0 3 4 = l := bits_eq n1.1
  have e_q : bits w0 0 3 = q := bits_eq n0.1
  unfold decodeMajor; rw [hi]; simp only []; unfold decodeMajor8; rw [lo]; simp only []; rw [e_d, e_a, e_sb, e_l, e_q]

theorem RoundTrip.ldw (d : BitVec 6) (a : BitVec 6) (sb : BitVec 5) (l : BitVec 4) (q : BitVec 3) : RoundTrip.Statement (.ldw d a sb l q) := by
  have e : encode (.ldw d a sb l q) = packWord 0 [(0x82, 8), (d.toNat, 6), (a.toNat, 6), (sb.toNat, 5), (l.toNat, 4), (q.toNat, 3)] := rfl
  simp only [packWord] at e
  obtain ⟨w0, hw⟩ : ∃ w0, encode (.ldw d a sb l q) = w0 := ⟨_, rfl⟩
  rw [hw] at e
  have g0 := (Nat.div_one w0).trans e
  have n0 := nextField (lo := 0) g0 q.isLt
  have n1 := nextField (lo := 3) n0.2 l.isLt
  have n2 := nextField (lo := 7) n1.2 sb.isLt
  have n3 := nextField (lo := 12) n2.2 a.isLt
  have n4 := nextField (lo := 18) n3.2 d.isLt
  have ho : w0 / 2 ^ 24 = 130 := n4.2
  refine laneWord rfl hw ho (by decide) ?_
  have hi : fld w0 28 4 = 8 := (opcode ho).1
  have lo : fld w0 24 4 = 2 := (opcode ho).2
  have e_d : bits w0 18 6 = d := bits_eq n4.1
  have e_a : bits w0 12 6 = a := bits_eq n3.1
  have e_sb : bits w0 7 5 = sb := bits_eq n2.1
  have e_l : bits w0 3 4 = l := bits_eq n1.1
  have e_q : bits w0 0 3 = q := bits_eq n0.1
  unfold decodeMajor; rw [hi]; simp only []; unfold decodeMajor8; rw [lo]; simp only []; rw [e_d, e_a, e_sb, e_l, e_q]

theorem RoundTrip.ldd (d : BitVec 6) (a : BitVec 6) (sb : BitVec 5) (l : BitVec 4) (q : BitVec 3) : RoundTrip.Statement (.ldd d a sb l q) := by
  intro h0; have hv : (d.toNat % 2 == 0) = true := h0
  have e : encode (.ldd d a sb l q) = packWord 0 [(0x83, 8), (d.toNat, 6), (a.toNat, 6), (sb.toNat, 5), (l.toNat, 4), (q.toNat, 3)] := rfl
  simp only [packWord] at e
  obtain ⟨w0, hw⟩ : ∃ w0, encode (.ldd d a sb l q) = w0 := ⟨_, rfl⟩
  rw [hw] at e
  have g0 := (Nat.div_one w0).trans e
  have n0 := nextField (lo := 0) g0 q.isLt
  have n1 := nextField (lo := 3) n0.2 l.isLt
  have n2 := nextField (lo := 7) n1.2 sb.isLt
  have n3 := nextField (lo := 12) n2.2 a.isLt
  have n4 := nextField (lo := 18) n3.2 d.isLt
  have ho : w0 / 2 ^ 24 = 131 := n4.2
  refine laneWord rfl hw ho (by decide) ?_ h0
  have hi : fld w0 28 4 = 8 := (opcode ho).1
  have lo : fld w0 24 4 = 3 := (opcode ho).2
  have e_d : bits w0 18 6 = d := bits_eq n4.1
  have e_a : bits w0 12 6 = a := bits_eq n3.1
  have e_sb : bits w0 7 5 = sb := bits_eq n2.1
  have e_l : bits w0 3 4 = l := bits_eq n1.1
  have e_q : bits w0 0 3 = q := bits_eq n0.1
  have r18_6 : fld w0 18 6 = d.toNat := n4.1
  have c0 : ((fld w0 18 6) % 2 == 0) = true := by simp [r18_6, hv]
  unfold decodeMajor; rw [hi]; simp only []; unfold decodeMajor8; rw [lo]; simp only [c0, cond_true]; rw [e_d, e_a, e_sb, e_l, e_q]

theorem RoundTrip.ldq (d : BitVec 6) (a : BitVec 6) (sb : BitVec 5) (l : BitVec 4) (q : BitVec 3) : RoundTrip.Statement (.ldq d a sb l q) := by
  intro h0; have hv : (d.toNat % 4 == 0) = true := h0
  have e : encode (.ldq d a sb l q) = packWord 0 [(0x84, 8), (d.toNat, 6), (a.toNat, 6), (sb.toNat, 5), (l.toNat, 4), (q.toNat, 3)] := rfl
  simp only [packWord] at e
  obtain ⟨w0, hw⟩ : ∃ w0, encode (.ldq d a sb l q) = w0 := ⟨_, rfl⟩
  rw [hw] at e
  have g0 := (Nat.div_one w0).trans e
  have n0 := nextField (lo := 0) g0 q.isLt
  have n1 := nextField (lo := 3) n0.2 l.isLt
  have n2 := nextField (lo := 7) n1.2 sb.isLt
  have n3 := nextField (lo := 12) n2.2 a.isLt
  have n4 := nextField (lo := 18) n3.2 d.isLt
  have ho : w0 / 2 ^ 24 = 132 := n4.2
  refine laneWord rfl hw ho (by decide) ?_ h0
  have hi : fld w0 28 4 = 8 := (opcode ho).1
  have lo : fld w0 24 4 = 4 := (opcode ho).2
  have e_d : bits w0 18 6 = d := bits_eq n4.1
  have e_a : bits w0 12 6 = a := bits_eq n3.1
  have e_sb : bits w0 7 5 = sb := bits_eq n2.1
  have e_l : bits w0 3 4 = l := bits_eq n1.1
  have e_q : bits w0 0 3 = q := bits_eq n0.1
  have r18_6 : fld w0 18 6 = d.toNat := n4.1
  have c0 : ((fld w0 18 6) % 4 == 0) = true := by simp [r18_6, hv]
  unfold decodeMajor; rw [hi]; simp only []; unfold decodeMajor8; rw [lo]; simp only [c0, cond_true]; rw [e_d, e_a, e_sb, e_l, e_q]

theorem RoundTrip.stb (d : BitVec 6) (a : BitVec 6) (sb : BitVec 5) (l : BitVec 4) (q : BitVec 3) : RoundTrip.Statement (.stb d a sb l q) := by
  have e : encode (.stb d a sb l q) = packWord 0 [(0x85, 8), (d.toNat, 6), (a.toNat, 6), (sb.toNat, 5), (l.toNat, 4), (q.toNat, 3)] := rfl
  simp only [packWord] at e
  obtain ⟨w0, hw⟩ : ∃ w0, encode (.stb d a sb l q) = w0 := ⟨_, rfl⟩
  rw [hw] at e
  have g0 := (Nat.div_one w0).trans e
  have n0 := nextField (lo := 0) g0 q.isLt
  have n1 := nextField (lo := 3) n0.2 l.isLt
  have n2 := nextField (lo := 7) n1.2 sb.isLt
  have n3 := nextField (lo := 12) n2.2 a.isLt
  have n4 := nextField (lo := 18) n3.2 d.isLt
  have ho : w0 / 2 ^ 24 = 133 := n4.2
  refine laneWord rfl hw ho (by decide) ?_
  have hi : fld w0 28 4 = 8 := (opcode ho).1
  have lo : fld w0 24 4 = 5 := (opcode ho).2
  have e_d : bits w0 18 6 = d := bits_eq n4.1
  have e_a : bits w0 12 6 = a := bits_eq n3.1
  have e_sb : bits w0 7 5 = sb := bits_eq n2.1
  have e_l : bits w0 3 4 = l := bits_eq n1.1
  have e_q : bits w0 0 3 = q := bits_eq n0.1
  unfold decodeMajor; rw [hi]; simp only []; unfold decodeMajor8; rw [lo]; simp only []; rw [e_d, e_a, e_sb, e_l, e_q]

theorem RoundTrip.sth (d : BitVec 6) (a : BitVec 6) (sb : BitVec 5) (l : BitVec 4) (q : BitVec 3) : RoundTrip.Statement (.sth d a sb l q) := by
  have e : encode (.sth d a sb l q) = packWord 0 [(0x86, 8), (d.toNat, 6), (a.toNat, 6), (sb.toNat, 5), (l.toNat, 4), (q.toNat, 3)] := rfl
  simp only [packWord] at e
  obtain ⟨w0, hw⟩ : ∃ w0, encode (.sth d a sb l q) = w0 := ⟨_, rfl⟩
  rw [hw] at e
  have g0 := (Nat.div_one w0).trans e
  have n0 := nextField (lo := 0) g0 q.isLt
  have n1 := nextField (lo := 3) n0.2 l.isLt
  have n2 := nextField (lo := 7) n1.2 sb.isLt
  have n3 := nextField (lo := 12) n2.2 a.isLt
  have n4 := nextField (lo := 18) n3.2 d.isLt
  have ho : w0 / 2 ^ 24 = 134 := n4.2
  refine laneWord rfl hw ho (by decide) ?_
  have hi : fld w0 28 4 = 8 := (opcode ho).1
  have lo : fld w0 24 4 = 6 := (opcode ho).2
  have e_d : bits w0 18 6 = d := bits_eq n4.1
  have e_a : bits w0 12 6 = a := bits_eq n3.1
  have e_sb : bits w0 7 5 = sb := bits_eq n2.1
  have e_l : bits w0 3 4 = l := bits_eq n1.1
  have e_q : bits w0 0 3 = q := bits_eq n0.1
  unfold decodeMajor; rw [hi]; simp only []; unfold decodeMajor8; rw [lo]; simp only []; rw [e_d, e_a, e_sb, e_l, e_q]

theorem RoundTrip.stw (d : BitVec 6) (a : BitVec 6) (sb : BitVec 5) (l : BitVec 4) (q : BitVec 3) : RoundTrip.Statement (.stw d a sb l q) := by
  have e : encode (.stw d a sb l q) = packWord 0 [(0x87, 8), (d.toNat, 6), (a.toNat, 6), (sb.toNat, 5), (l.toNat, 4), (q.toNat, 3)] := rfl
  simp only [packWord] at e
  obtain ⟨w0, hw⟩ : ∃ w0, encode (.stw d a sb l q) = w0 := ⟨_, rfl⟩
  rw [hw] at e
  have g0 := (Nat.div_one w0).trans e
  have n0 := nextField (lo := 0) g0 q.isLt
  have n1 := nextField (lo := 3) n0.2 l.isLt
  have n2 := nextField (lo := 7) n1.2 sb.isLt
  have n3 := nextField (lo := 12) n2.2 a.isLt
  have n4 := nextField (lo := 18) n3.2 d.isLt
  have ho : w0 / 2 ^ 24 = 135 := n4.2
  refine laneWord rfl hw ho (by decide) ?_
  have hi : fld w0 28 4 = 8 := (opcode ho).1
  have lo : fld w0 24 4 = 7 := (opcode ho).2
  have e_d : bits w0 18 6 = d := bits_eq n4.1
  have e_a : bits w0 12 6 = a := bits_eq n3.1
  have e_sb : bits w0 7 5 = sb := bits_eq n2.1
  have e_l : bits w0 3 4 = l := bits_eq n1.1
  have e_q : bits w0 0 3 = q := bits_eq n0.1
  unfold decodeMajor; rw [hi]; simp only []; unfold decodeMajor8; rw [lo]; simp only []; rw [e_d, e_a, e_sb, e_l, e_q]

theorem RoundTrip.std (d : BitVec 6) (a : BitVec 6) (sb : BitVec 5) (l : BitVec 4) (q : BitVec 3) : RoundTrip.Statement (.std d a sb l q) := by
  intro h0; have hv : (d.toNat % 2 == 0) = true := h0
  have e : encode (.std d a sb l q) = packWord 0 [(0x88, 8), (d.toNat, 6), (a.toNat, 6), (sb.toNat, 5), (l.toNat, 4), (q.toNat, 3)] := rfl
  simp only [packWord] at e
  obtain ⟨w0, hw⟩ : ∃ w0, encode (.std d a sb l q) = w0 := ⟨_, rfl⟩
  rw [hw] at e
  have g0 := (Nat.div_one w0).trans e
  have n0 := nextField (lo := 0) g0 q.isLt
  have n1 := nextField (lo := 3) n0.2 l.isLt
  have n2 := nextField (lo := 7) n1.2 sb.isLt
  have n3 := nextField (lo := 12) n2.2 a.isLt
  have n4 := nextField (lo := 18) n3.2 d.isLt
  have ho : w0 / 2 ^ 24 = 136 := n4.2
  refine laneWord rfl hw ho (by decide) ?_ h0
  have hi : fld w0 28 4 = 8 := (opcode ho).1
  have lo : fld w0 24 4 = 8 := (opcode ho).2
  have e_d : bits w0 18 6 = d := bits_eq n4.1
  have e_a : bits w0 12 6 = a := bits_eq n3.1
  have e_sb : bits w0 7 5 = sb := bits_eq n2.1
  have e_l : bits w0 3 4 = l := bits_eq n1.1
  have e_q : bits w0 0 3 = q := bits_eq n0.1
  have r18_6 : fld w0 18 6 = d.toNat := n4.1
  have c0 : ((fld w0 18 6) % 2 == 0) = true := by simp [r18_6, hv]
  unfold decodeMajor; rw [hi]; simp only []; unfold decodeMajor8; rw [lo]; simp only [c0, cond_true]; rw [e_d, e_a, e_sb, e_l, e_q]

theorem RoundTrip.stq (d : BitVec 6) (a : BitVec 6) (sb : BitVec 5) (l : BitVec 4) (q : BitVec 3) : RoundTrip.Statement (.stq d a sb l q) := by
  intro h0; have hv : (d.toNat % 4 == 0) = true := h0
  have e : encode (.stq d a sb l q) = packWord 0 [(0x89, 8), (d.toNat, 6), (a.toNat, 6), (sb.toNat, 5), (l.toNat, 4), (q.toNat, 3)] := rfl
  simp only [packWord] at e
  obtain ⟨w0, hw⟩ : ∃ w0, encode (.stq d a sb l q) = w0 := ⟨_, rfl⟩
  rw [hw] at e
  have g0 := (Nat.div_one w0).trans e
  have n0 := nextField (lo := 0) g0 q.isLt
  have n1 := nextField (lo := 3) n0.2 l.isLt
  have n2 := nextField (lo := 7) n1.2 sb.isLt
  have n3 := nextField (lo := 12) n2.2 a.isLt
  have n4 := nextField (lo := 18) n3.2 d.isLt
  have ho : w0 / 2 ^ 24 = 137 := n4.2
  refine laneWord rfl hw ho (by decide) ?_ h0
  have hi : fld w0 28 4 = 8 := (opcode ho).1
  have lo : fld w0 24 4 = 9 := (opcode ho).2
  have e_d : bits w0 18 6 = d := bits_eq n4.1
  have e_a : bits w0 12 6 = a := bits_eq n3.1
  have e_sb : bits w0 7 5 = sb := bits_eq n2.1
  have e_l : bits w0 3 4 = l := bits_eq n1.1
  have e_q : bits w0 0 3 = q := bits_eq n0.1
  have r18_6 : fld w0 18 6 = d.toNat := n4.1
  have c0 : ((fld w0 18 6) % 4 == 0) = true := by simp [r18_6, hv]
  unfold decodeMajor; rw [hi]; simp only []; unfold decodeMajor8; rw [lo]; simp only [c0, cond_true]; rw [e_d, e_a, e_sb, e_l, e_q]

theorem RoundTrip.ldc (d : BitVec 5) (sb : BitVec 5) (l : BitVec 4) (q : BitVec 3) : RoundTrip.Statement (.ldc d sb l q) := by
  have e : encode (.ldc d sb l q) = packWord 0 [(0x8a, 8), (0, 1), (d.toNat, 5), (0, 6), (sb.toNat, 5), (l.toNat, 4), (q.toNat, 3)] := rfl
  simp only [packWord] at e
  obtain ⟨w0, hw⟩ : ∃ w0, encode (.ldc d sb l q) = w0 := ⟨_, rfl⟩
  rw [hw] at e
  have g0 := (Nat.div_one w0).trans e
  have n0 := nextField (lo := 0) g0 q.isLt
  have n1 := nextField (lo := 3) n0.2 l.isLt
  have n2 := nextField (lo := 7) n1.2 sb.isLt
  have n3 := nextField (lo := 12) n2.2 (by decide)
  have n4 := nextField (lo := 18) n3.2 d.isLt
  have n5 := nextField (lo := 23) n4.2 (by decide)
  have ho : w0 / 2 ^ 24 = 138 := n5.2
  refine laneWord rfl hw ho (by decide) ?_
  have hi : fld w0 28 4 = 8 := (opcode ho).1
  have lo : fld w0 24 4 = 10 := (opcode ho).2
  have e_d : bits w0 18 5 = d := bits_eq n4.1
  have e_sb : bits w0 7 5 = sb := bits_eq n2.1
  have e_l : bits w0 3 4 = l := bits_eq n1.1
  have e_q : bits w0 0 3 = q := bits_eq n0.1
  have r12_6 : fld w0 12 6 = 0 := n3.1
  have r23_1 : fld w0 23 1 = 0 := n5.1
  have c0 : (fld w0 12 6 == 0 && fld w0 23 1 == 0) = true := by simp [r12_6, r23_1]
  unfold decodeMajor; rw [hi]; simp only []; unfold decodeMajor8; rw [lo]; simp only [c0, cond_true]; rw [e_d, e_sb, e_l, e_q]

theorem RoundTrip.pref (v : BitVec 2) (a : BitVec 6) (sb : BitVec 5) (l : BitVec 4) : RoundTrip.Statement (.pref v a sb l) := by
  intro h0; have hv : (decide (v.toNat ≤ 1)) = true := h0
  have e : encode (.pref v a sb l) = packWord 0 [(0x8b, 8), (0, 4), (v.toNat, 2), (a.toNat, 6), (sb.toNat, 5), (l.toNat, 4), (0, 3)] := rfl
  simp only [packWord] at e
  obtain ⟨w0, hw⟩ : ∃ w0, encode (.pref v a sb l) = w0 := ⟨_, rfl⟩
  rw [hw] at e
  have g0 := (Nat.div_one w0).trans e
  have n0 := nextField (lo := 0) g0 (by decide)
  have n1 := nextField (lo := 3) n0.2 l.isLt
  have n2 := nextField (lo := 7) n1.2 sb.isLt
  have n3 := nextField (lo := 12) n2.2 a.isLt
  have n4 := nextField (lo := 18) n3.2 v.isLt
  have n5 := nextField (lo := 20) n4.2 (by decide)
  have ho : w0 / 2 ^ 24 = 139 := n5.2
  refine laneWord rfl hw ho (by decide) ?_ h0
  have hi : fld w0 28 4 = 8 := (opcode ho).1
  have lo : fld w0 24 4 = 11 := (opcode ho).2
  have e_v : bits w0 18 2 = v := bits_eq n4.1
  have e_a : bits w0 12 6 = a := bits_eq n3.1
  have e_sb : bits w0 7 5 = sb := bits_eq n2.1
  have e_l : bits w0 3 4 = l := bits_eq n1.1
  have r0_3 : fld w0 0 3 = 0 := n0.1
  have r18_2 : fld w0 18 2 = v.toNat := n4.1
  have r20_4 : fld w0 20 4 = 0 := n5.1
  have c0 : (fld w0 0 3 == 0 && fld w0 20 4 == 0 && decide ((fld w0 18 2) ≤ 1)) = true := by simp [r0_3, r18_2, r20_4, hv]
  unfold decodeMajor; rw [hi]; simp only []; unfold decodeMajor8; rw [lo]; simp only [c0, cond_true]; rw [e_v, e_a, e_sb, e_l]

theorem RoundTrip.cctlL1inv (a : BitVec 6) (sb : BitVec 5) (l : BitVec 4) : RoundTrip.Statement (.cctlL1inv a sb l) := by
  have e : encode (.cctlL1inv a sb l) = packWord 0 [(0x8c, 8), (0, 6), (a.toNat, 6), (sb.toNat, 5), (l.toNat, 4), (0, 3)] := rfl
  simp only [packWord] at e
  obtain ⟨w0, hw⟩ : ∃ w0, encode (.cctlL1inv a sb l) = w0 := ⟨_, rfl⟩
  rw [hw] at e
  have g0 := (Nat.div_one w0).trans e
  have n0 := nextField (lo := 0) g0 (by decide)
  have n1 := nextField (lo := 3) n0.2 l.isLt
  have n2 := nextField (lo := 7) n1.2 sb.isLt
  have n3 := nextField (lo := 12) n2.2 a.isLt
  have n4 := nextField (lo := 18) n3.2 (by decide)
  have ho : w0 / 2 ^ 24 = 140 := n4.2
  refine laneWord rfl hw ho (by decide) ?_
  have hi : fld w0 28 4 = 8 := (opcode ho).1
  have lo : fld w0 24 4 = 12 := (opcode ho).2
  have e_a : bits w0 12 6 = a := bits_eq n3.1
  have e_sb : bits w0 7 5 = sb := bits_eq n2.1
  have e_l : bits w0 3 4 = l := bits_eq n1.1
  have r0_3 : fld w0 0 3 = 0 := n0.1
  have r18_6 : fld w0 18 6 = 0 := n4.1
  have c0 : (fld w0 0 3 == 0 && fld w0 18 6 == 0) = true := by simp [r0_3, r18_6]
  unfold decodeMajor; rw [hi]; simp only []; unfold decodeMajor8; rw [lo]; simp only [c0, cond_true]; rw [e_a, e_sb, e_l]

theorem RoundTrip.cctlRdcinv (a : BitVec 6) (sb : BitVec 5) (l : BitVec 4) : RoundTrip.Statement (.cctlRdcinv a sb l) := by
  have e : encode (.cctlRdcinv a sb l) = packWord 0 [(0x8c, 8), (1, 6), (a.toNat, 6), (sb.toNat, 5), (l.toNat, 4), (0, 3)] := rfl
  simp only [packWord] at e
  obtain ⟨w0, hw⟩ : ∃ w0, encode (.cctlRdcinv a sb l) = w0 := ⟨_, rfl⟩
  rw [hw] at e
  have g0 := (Nat.div_one w0).trans e
  have n0 := nextField (lo := 0) g0 (by decide)
  have n1 := nextField (lo := 3) n0.2 l.isLt
  have n2 := nextField (lo := 7) n1.2 sb.isLt
  have n3 := nextField (lo := 12) n2.2 a.isLt
  have n4 := nextField (lo := 18) n3.2 (by decide)
  have ho : w0 / 2 ^ 24 = 140 := n4.2
  refine laneWord rfl hw ho (by decide) ?_
  have hi : fld w0 28 4 = 8 := (opcode ho).1
  have lo : fld w0 24 4 = 12 := (opcode ho).2
  have e_a : bits w0 12 6 = a := bits_eq n3.1
  have e_sb : bits w0 7 5 = sb := bits_eq n2.1
  have e_l : bits w0 3 4 = l := bits_eq n1.1
  have r0_3 : fld w0 0 3 = 0 := n0.1
  have r18_6 : fld w0 18 6 = 1 := n4.1
  have c0 : (fld w0 0 3 == 0 && fld w0 18 6 == 0) = false := by simp [r18_6]
  have c1 : (fld w0 0 3 == 0 && fld w0 18 6 == 1) = true := by simp [r0_3, r18_6]
  unfold decodeMajor; rw [hi]; simp only []; unfold decodeMajor8; rw [lo]; simp only [c0, c1, cond_true, cond_false]; rw [e_a, e_sb, e_l]

theorem RoundTrip.cctlWb (a : BitVec 6) (sb : BitVec 5) (l : BitVec 4) : RoundTrip.Statement (.cctlWb a sb l) := by
  have e : encode (.cctlWb a sb l) = packWord 0 [(0x8c, 8), (2, 6), (a.toNat, 6), (sb.toNat, 5), (l.toNat, 4), (0, 3)] := rfl
  simp only [packWord] at e
  obtain ⟨w0, hw⟩ : ∃ w0, encode (.cctlWb a sb l) = w0 := ⟨_, rfl⟩
  rw [hw] at e
  have g0 := (Nat.div_one w0).trans e
  have n0 := nextField (lo := 0) g0 (by decide)
  have n1 := nextField (lo := 3) n0.2 l.isLt
  have n2 := nextField (lo := 7) n1.2 sb.isLt
  have n3 := nextField (lo := 12) n2.2 a.isLt
  have n4 := nextField (lo := 18) n3.2 (by decide)
  have ho : w0 / 2 ^ 24 = 140 := n4.2
  refine laneWord rfl hw ho (by decide) ?_
  have hi : fld w0 28 4 = 8 := (opcode ho).1
  have lo : fld w0 24 4 = 12 := (opcode ho).2
  have e_a : bits w0 12 6 = a := bits_eq n3.1
  have e_sb : bits w0 7 5 = sb := bits_eq n2.1
  have e_l : bits w0 3 4 = l := bits_eq n1.1
  have r0_3 : fld w0 0 3 = 0 := n0.1
  have r18_6 : fld w0 18 6 = 2 := n4.1
  have c0 : (fld w0 0 3 == 0 && fld w0 18 6 == 0) = false := by simp [r18_6]
  have c1 : (fld w0 0 3 == 0 && fld w0 18 6 == 1) = false := by simp [r18_6]
  have c2 : (fld w0 0 3 == 0 && fld w0 18 6 == 2) = true := by simp [r0_3, r18_6]
  unfold decodeMajor; rw [hi]; simp only []; unfold decodeMajor8; rw [lo]; simp only [c0, c1, c2, cond_true, cond_false]; rw [e_a, e_sb, e_l]

theorem RoundTrip.cctlWbinv (a : BitVec 6) (sb : BitVec 5) (l : BitVec 4) : RoundTrip.Statement (.cctlWbinv a sb l) := by
  have e : encode (.cctlWbinv a sb l) = packWord 0 [(0x8c, 8), (3, 6), (a.toNat, 6), (sb.toNat, 5), (l.toNat, 4), (0, 3)] := rfl
  simp only [packWord] at e
  obtain ⟨w0, hw⟩ : ∃ w0, encode (.cctlWbinv a sb l) = w0 := ⟨_, rfl⟩
  rw [hw] at e
  have g0 := (Nat.div_one w0).trans e
  have n0 := nextField (lo := 0) g0 (by decide)
  have n1 := nextField (lo := 3) n0.2 l.isLt
  have n2 := nextField (lo := 7) n1.2 sb.isLt
  have n3 := nextField (lo := 12) n2.2 a.isLt
  have n4 := nextField (lo := 18) n3.2 (by decide)
  have ho : w0 / 2 ^ 24 = 140 := n4.2
  refine laneWord rfl hw ho (by decide) ?_
  have hi : fld w0 28 4 = 8 := (opcode ho).1
  have lo : fld w0 24 4 = 12 := (opcode ho).2
  have e_a : bits w0 12 6 = a := bits_eq n3.1
  have e_sb : bits w0 7 5 = sb := bits_eq n2.1
  have e_l : bits w0 3 4 = l := bits_eq n1.1
  have r0_3 : fld w0 0 3 = 0 := n0.1
  have r18_6 : fld w0 18 6 = 3 := n4.1
  have c0 : (fld w0 0 3 == 0 && fld w0 18 6 == 0) = false := by simp [r18_6]
  have c1 : (fld w0 0 3 == 0 && fld w0 18 6 == 1) = false := by simp [r18_6]
  have c2 : (fld w0 0 3 == 0 && fld w0 18 6 == 2) = false := by simp [r18_6]
  have c3 : (fld w0 0 3 == 0 && fld w0 18 6 == 3) = true := by simp [r0_3, r18_6]
  unfold decodeMajor; rw [hi]; simp only []; unfold decodeMajor8; rw [lo]; simp only [c0, c1, c2, c3, cond_true, cond_false]; rw [e_a, e_sb, e_l]

theorem RoundTrip.pinSet (x : BitVec 5) (y : BitVec 5) (z : BitVec 5) (l : BitVec 4) : RoundTrip.Statement (.pinSet x y z l) := by
  have e : encode (.pinSet x y z l) = packWord 0 [(0x8d, 8), (x.toNat, 5), (y.toNat, 5), (z.toNat, 5), (l.toNat, 4), (0, 5)] := rfl
  simp only [packWord] at e
  obtain ⟨w0, hw⟩ : ∃ w0, encode (.pinSet x y z l) = w0 := ⟨_, rfl⟩
  rw [hw] at e
  have g0 := (Nat.div_one w0).trans e
  have n0 := nextField (lo := 0) g0 (by decide)
  have n1 := nextField (lo := 5) n0.2 l.isLt
  have n2 := nextField (lo := 9) n1.2 z.isLt
  have n3 := nextField (lo := 14) n2.2 y.isLt
  have n4 := nextField (lo := 19) n3.2 x.isLt
  have ho : w0 / 2 ^ 24 = 141 := n4.2
  refine laneWord rfl hw ho (by decide) ?_
  have hi : fld w0 28 4 = 8 := (opcode ho).1
  have lo : fld w0 24 4 = 13 := (opcode ho).2
  have e_x : bits w0 19 5 = x := bits_eq n4.1
  have e_y : bits w0 14 5 = y := bits_eq n3.1
  have e_z : bits w0 9 5 = z := bits_eq n2.1
  have e_l : bits w0 5 4 = l := bits_eq n1.1
  have r0_5 : fld w0 0 5 = 0 := n0.1
  have c0 : (fld w0 0 5 == 3 && fld w0 14 10 == 0) = false := by simp [r0_5]
  have r19_5 : fld w0 19 5 = x.toNat := n4.1
  have c1 : (fld w0 0 5 == 2 && fld w0 19 5 == 0) = false := by simp [r0_5]
  have c2 : (fld w0 0 5 == 0) = true := by simp [r0_5]
  unfold decodeMajor; rw [hi]; simp only []; unfold decodeMajor8; rw [lo]; simp only [c0, c1, c2, cond_true, cond_false]; rw [e_x, e_y, e_z, e_l]

theorem RoundTrip.pinClr (x : BitVec 5) (y : BitVec 5) (z : BitVec 5) (l : BitVec 4) : RoundTrip.Statement (.pinClr x y z l) := by
  have e : encode (.pinClr x y z l) = packWord 0 [(0x8d, 8), (x.toNat, 5), (y.toNat, 5), (z.toNat, 5), (l.toNat, 4), (1, 5)] := rfl
  simp only [packWord] at e
  obtain ⟨w0, hw⟩ : ∃ w0, encode (.pinClr x y z l) = w0 := ⟨_, rfl⟩
  rw [hw] at e
  have g0 := (Nat.div_one w0).trans e
  have n0 := nextField (lo := 0) g0 (by decide)
  have n1 := nextField (lo := 5) n0.2 l.isLt
  have n2 := nextField (lo := 9) n1.2 z.isLt
  have n3 := nextField (lo := 14) n2.2 y.isLt
  have n4 := nextField (lo := 19) n3.2 x.isLt
  have ho : w0 / 2 ^ 24 = 141 := n4.2
  refine laneWord rfl hw ho (by decide) ?_
  have hi : fld w0 28 4 = 8 := (opcode ho).1
  have lo : fld w0 24 4 = 13 := (opcode ho).2
  have e_x : bits w0 19 5 = x := bits_eq n4.1
  have e_y : bits w0 14 5 = y := bits_eq n3.1
  have e_z : bits w0 9 5 = z := bits_eq n2.1
  have e_l : bits w0 5 4 = l := bits_eq n1.1
  have r0_5 : fld w0 0 5 = 1 := n0.1
  have c0 : (fld w0 0 5 == 3 && fld w0 14 10 == 0) = false := by simp [r0_5]
  have r19_5 : fld w0 19 5 = x.toNat := n4.1
  have c1 : (fld w0 0 5 == 2 && fld w0 19 5 == 0) = false := by simp [r0_5]
  have c2 : (fld w0 0 5 == 0) = false := by simp [r0_5]
  have c3 : (fld w0 0 5 == 1) = true := by simp [r0_5]
  unfold decodeMajor; rw [hi]; simp only []; unfold decodeMajor8; rw [lo]; simp only [c0, c1, c2, c3, cond_true, cond_false]; rw [e_x, e_y, e_z, e_l]

theorem RoundTrip.pinQry (y : BitVec 5) (z : BitVec 5) (l : BitVec 4) : RoundTrip.Statement (.pinQry y z l) := by
  have e : encode (.pinQry y z l) = packWord 0 [(0x8d, 8), (0, 5), (y.toNat, 5), (z.toNat, 5), (l.toNat, 4), (2, 5)] := rfl
  simp only [packWord] at e
  obtain ⟨w0, hw⟩ : ∃ w0, encode (.pinQry y z l) = w0 := ⟨_, rfl⟩
  rw [hw] at e
  have g0 := (Nat.div_one w0).trans e
  have n0 := nextField (lo := 0) g0 (by decide)
  have n1 := nextField (lo := 5) n0.2 l.isLt
  have n2 := nextField (lo := 9) n1.2 z.isLt
  have n3 := nextField (lo := 14) n2.2 y.isLt
  have n4 := nextField (lo := 19) n3.2 (by decide)
  have ho : w0 / 2 ^ 24 = 141 := n4.2
  refine laneWord rfl hw ho (by decide) ?_
  have hi : fld w0 28 4 = 8 := (opcode ho).1
  have lo : fld w0 24 4 = 13 := (opcode ho).2
  have e_y : bits w0 14 5 = y := bits_eq n3.1
  have e_z : bits w0 9 5 = z := bits_eq n2.1
  have e_l : bits w0 5 4 = l := bits_eq n1.1
  have r0_5 : fld w0 0 5 = 2 := n0.1
  have c0 : (fld w0 0 5 == 3 && fld w0 14 10 == 0) = false := by simp [r0_5]
  have r19_5 : fld w0 19 5 = 0 := n4.1
  have c1 : (fld w0 0 5 == 2 && fld w0 19 5 == 0) = true := by simp [r0_5, r19_5]
  unfold decodeMajor; rw [hi]; simp only []; unfold decodeMajor8; rw [lo]; simp only [c0, c1, cond_true, cond_false]; rw [e_y, e_z, e_l]

theorem RoundTrip.pinAll (z : BitVec 5) (l : BitVec 4) : RoundTrip.Statement (.pinAll z l) := by
  have e : encode (.pinAll z l) = packWord 0 [(0x8d, 8), (0, 10), (z.toNat, 5), (l.toNat, 4), (3, 5)] := rfl
  simp only [packWord] at e
  obtain ⟨w0, hw⟩ : ∃ w0, encode (.pinAll z l) = w0 := ⟨_, rfl⟩
  rw [hw] at e
  have g0 := (Nat.div_one w0).trans e
  have n0 := nextField (lo := 0) g0 (by decide)
  have n1 := nextField (lo := 5) n0.2 l.isLt
  have n2 := nextField (lo := 9) n1.2 z.isLt
  have n3 := nextField (lo := 14) n2.2 (by decide)
  have ho : w0 / 2 ^ 24 = 141 := n3.2
  refine laneWord rfl hw ho (by decide) ?_
  have hi : fld w0 28 4 = 8 := (opcode ho).1
  have lo : fld w0 24 4 = 13 := (opcode ho).2
  have e_z : bits w0 9 5 = z := bits_eq n2.1
  have e_l : bits w0 5 4 = l := bits_eq n1.1
  have r14_10 : fld w0 14 10 = 0 := n3.1
  have r0_5 : fld w0 0 5 = 3 := n0.1
  have c0 : (fld w0 0 5 == 3 && fld w0 14 10 == 0) = true := by simp [r0_5, r14_10]
  unfold decodeMajor; rw [hi]; simp only []; unfold decodeMajor8; rw [lo]; simp only [c0, cond_true]; rw [e_z, e_l]

theorem RoundTrip.atrn (d : BitVec 6) (a : BitVec 6) (sb : BitVec 5) (l : BitVec 4) (w : BitVec 1) : RoundTrip.Statement (.atrn d a sb l w) := by
  intro h0; have hv : (d.toNat % 2 == 0) = true := h0
  have e : encode (.atrn d a sb l w) = packWord 0 [(0x8e, 8), (d.toNat, 6), (a.toNat, 6), (sb.toNat, 5), (l.toNat, 4), (0, 2), (w.toNat, 1)] := rfl
  simp only [packWord] at e
  obtain ⟨w0, hw⟩ : ∃ w0, encode (.atrn d a sb l w) = w0 := ⟨_, rfl⟩
  rw [hw] at e
  have g0 := (Nat.div_one w0).trans e
  have n0 := nextField (lo := 0) g0 w.isLt
  have n1 := nextField (lo := 1) n0.2 (by decide)
  have n2 := nextField (lo := 3) n1.2 l.isLt
  have n3 := nextField (lo := 7) n2.2 sb.isLt
  have n4 := nextField (lo := 12) n3.2 a.isLt
  have n5 := nextField (lo := 18) n4.2 d.isLt
  have ho : w0 / 2 ^ 24 = 142 := n5.2
  refine laneWord rfl hw ho (by decide) ?_ h0
  have hi : fld w0 28 4 = 8 := (opcode ho).1
  have lo : fld w0 24 4 = 14 := (opcode ho).2
  have e_d : bits w0 18 6 = d := bits_eq n5.1
  have e_a : bits w0 12 6 = a := bits_eq n4.1
  have e_sb : bits w0 7 5 = sb := bits_eq n3.1
  have e_l : bits w0 3 4 = l := bits_eq n2.1
  have e_w : bits w0 0 1 = w := bits_eq n0.1
  have r1_2 : fld w0 1 2 = 0 := n1.1
  have r18_6 : fld w0 18 6 = d.toNat := n5.1
  have c0 : (fld w0 1 2 == 0 && (fld w0 18 6) % 2 == 0) = true := by simp [r1_2, r18_6, hv]
  unfold decodeMajor; rw [hi]; simp only []; unfold decodeMajor8; rw [lo]; simp only [c0, cond_true]; rw [e_d, e_a, e_sb, e_l, e_w]

theorem RoundTrip.fence (n : BitVec 1) (c : BitVec 3) : RoundTrip.Statement (.fence n c) := by
  intro h0; have hv : (decide (1 ≤ c.toNat) && decide (c.toNat ≤ 5)) = true := h0
  have e : encode (.fence n c) = packWord 0 [(0xa0, 8), (0, 20), (n.toNat, 1), (c.toNat, 3)] := rfl
  simp only [packWord] at e
  obtain ⟨w0, hw⟩ : ∃ w0, encode (.fence n c) = w0 := ⟨_, rfl⟩
  rw [hw] at e
  have g0 := (Nat.div_one w0).trans e
  have n0 := nextField (lo := 0) g0 c.isLt
  have n1 := nextField (lo := 3) n0.2 n.isLt
  have n2 := nextField (lo := 4) n1.2 (by decide)
  have ho : w0 / 2 ^ 24 = 160 := n2.2
  refine laneWord rfl hw ho (by decide) ?_ h0
  have hi : fld w0 28 4 = 10 := (opcode ho).1
  have lo : fld w0 24 4 = 0 := (opcode ho).2
  have e_n : bits w0 3 1 = n := bits_eq n1.1
  have e_c : bits w0 0 3 = c := bits_eq n0.1
  have r0_3 : fld w0 0 3 = c.toNat := n0.1
  have r4_20 : fld w0 4 20 = 0 := n2.1
  have c0 : (fld w0 4 20 == 0 && decide (1 ≤ (fld w0 0 3)) && decide ((fld w0 0 3) ≤ 5)) = true := by simp only [Bool.and_eq_true] at hv; simp [r0_3, r4_20, hv]
  unfold decodeMajor; rw [hi]; simp only []; unfold decodeMajorA; rw [lo]; simp only [c0, cond_true]; rw [e_n, e_c]

theorem RoundTrip.binit (x : BitVec 5) (y : BitVec 5) (l : BitVec 4) : RoundTrip.Statement (.binit x y l) := by
  have e : encode (.binit x y l) = packWord 0 [(0xa1, 8), (x.toNat, 5), (y.toNat, 5), (0, 5), (l.toNat, 4), (0, 5)] := rfl
  simp only [packWord] at e
  obtain ⟨w0, hw⟩ : ∃ w0, encode (.binit x y l) = w0 := ⟨_, rfl⟩
  rw [hw] at e
  have g0 := (Nat.div_one w0).trans e
  have n0 := nextField (lo := 0) g0 (by decide)
  have n1 := nextField (lo := 5) n0.2 l.isLt
  have n2 := nextField (lo := 9) n1.2 (by decide)
  have n3 := nextField (lo := 14) n2.2 y.isLt
  have n4 := nextField (lo := 19) n3.2 x.isLt
  have ho : w0 / 2 ^ 24 = 161 := n4.2
  refine laneWord rfl hw ho (by decide) ?_
  have hi : fld w0 28 4 = 10 := (opcode ho).1
  have lo : fld w0 24 4 = 1 := (opcode ho).2
  have e_x : bits w0 19 5 = x := bits_eq n4.1
  have e_y : bits w0 14 5 = y := bits_eq n3.1
  have e_l : bits w0 5 4 = l := bits_eq n1.1
  have r9_5 : fld w0 9 5 = 0 := n2.1
  have r0_5 : fld w0 0 5 = 0 := n0.1
  have c0 : (fld w0 0 5 == 0 && fld w0 9 5 == 0) = true := by simp [r0_5, r9_5]
  unfold decodeMajor; rw [hi]; simp only []; unfold decodeMajorA; rw [lo]; simp only [c0, cond_true]; rw [e_x, e_y, e_l]

theorem RoundTrip.barv (x : BitVec 5) (z : BitVec 5) (l : BitVec 4) (c : BitVec 3) : RoundTrip.Statement (.barv x z l c) := by
  intro h0; have hv : (decide (c.toNat ≤ 5)) = true := h0
  have e : encode (.barv x z l c) = packWord 0 [(0xa2, 8), (x.toNat, 5), (0, 5), (z.toNat, 5), (l.toNat, 4), (0, 2), (c.toNat, 3)] := rfl
  simp only [packWord] at e
  obtain ⟨w0, hw⟩ : ∃ w0, encode (.barv x z l c) = w0 := ⟨_, rfl⟩
  rw [hw] at e
  have g0 := (Nat.div_one w0).trans e
  have n0 := nextField (lo := 0) g0 c.isLt
  have n1 := nextField (lo := 3) n0.2 (by decide)
  have n2 := nextField (lo := 5) n1.2 l.isLt
  have n3 := nextField (lo := 9) n2.2 z.isLt
  have n4 := nextField (lo := 14) n3.2 (by decide)
  have n5 := nextField (lo := 19) n4.2 x.isLt
  have ho : w0 / 2 ^ 24 = 162 := n5.2
  refine laneWord rfl hw ho (by decide) ?_ h0
  have hi : fld w0 28 4 = 10 := (opcode ho).1
  have lo : fld w0 24 4 = 2 := (opcode ho).2
  have e_x : bits w0 19 5 = x := bits_eq n5.1
  have e_z : bits w0 9 5 = z := bits_eq n3.1
  have e_l : bits w0 5 4 = l := bits_eq n2.1
  have e_c : bits w0 0 3 = c := bits_eq n0.1
  have r3_2 : fld w0 3 2 = 0 := n1.1
  have r0_3 : fld w0 0 3 = c.toNat := n0.1
  have r14_5 : fld w0 14 5 = 0 := n4.1
  have c0 : (fld w0 3 2 == 0 && fld w0 14 5 == 0 && decide ((fld w0 0 3) ≤ 5)) = true := by simp [r0_3, r3_2, r14_5, hv]
  unfold decodeMajor; rw [hi]; simp only []; unfold decodeMajorA; rw [lo]; simp only [c0, cond_true]; rw [e_x, e_z, e_l, e_c]

theorem RoundTrip.barvB (x : BitVec 5) (y : BitVec 5) (z : BitVec 5) (l : BitVec 4) (c : BitVec 3) : RoundTrip.Statement (.barvB x y z l c) := by
  intro h0; have hv : (decide (c.toNat ≤ 5)) = true := h0
  have e : encode (.barvB x y z l c) = packWord 0 [(0xa2, 8), (x.toNat, 5), (y.toNat, 5), (z.toNat, 5), (l.toNat, 4), (1, 2), (c.toNat, 3)] := rfl
  simp only [packWord] at e
  obtain ⟨w0, hw⟩ : ∃ w0, encode (.barvB x y z l c) = w0 := ⟨_, rfl⟩
  rw [hw] at e
  have g0 := (Nat.div_one w0).trans e
  have n0 := nextField (lo := 0) g0 c.isLt
  have n1 := nextField (lo := 3) n0.2 (by decide)
  have n2 := nextField (lo := 5) n1.2 l.isLt
  have n3 := nextField (lo := 9) n2.2 z.isLt
  have n4 := nextField (lo := 14) n3.2 y.isLt
  have n5 := nextField (lo := 19) n4.2 x.isLt
  have ho : w0 / 2 ^ 24 = 162 := n5.2
  refine laneWord rfl hw ho (by decide) ?_ h0
  have hi : fld w0 28 4 = 10 := (opcode ho).1
  have lo : fld w0 24 4 = 2 := (opcode ho).2
  have e_x : bits w0 19 5 = x := bits_eq n5.1
  have e_y : bits w0 14 5 = y := bits_eq n4.1
  have e_z : bits w0 9 5 = z := bits_eq n3.1
  have e_l : bits w0 5 4 = l := bits_eq n2.1
  have e_c : bits w0 0 3 = c := bits_eq n0.1
  have r3_2 : fld w0 3 2 = 1 := n1.1
  have r0_3 : fld w0 0 3 = c.toNat := n0.1
  have r14_5 : fld w0 14 5 = y.toNat := n4.1
  have c0 : (fld w0 3 2 == 0 && fld w0 14 5 == 0 && decide ((fld w0 0 3) ≤ 5)) = false := by simp [r3_2]
  have c1 : (fld w0 3 2 == 1 && decide ((fld w0 0 3) ≤ 5)) = true := by simp [r0_3, r3_2, hv]
  unfold decodeMajor; rw [hi]; simp only []; unfold decodeMajorA; rw [lo]; simp only [c0, c1, cond_true, cond_false]; rw [e_x, e_y, e_z, e_l, e_c]

theorem RoundTrip.bexp (x : BitVec 5) (y : BitVec 5) (l : BitVec 4) : RoundTrip.Statement (.bexp x y l) := by
  have e : encode (.bexp x y l) = packWord 0 [(0xa3, 8), (x.toNat, 5), (y.toNat, 5), (0, 5), (l.toNat, 4), (0, 5)] := rfl
  simp only [packWord] at e
  obtain ⟨w0, hw⟩ : ∃ w0, encode (.bexp x y l) = w0 := ⟨_, rfl⟩
  rw [hw] at e
  have g0 := (Nat.div_one w0).trans e
  have n0 := nextField (lo := 0) g0 (by decide)
  have n1 := nextField (lo := 5) n0.2 l.isLt
  have n2 := nextField (lo := 9) n1.2 (by decide)
  have n3 := nextField (lo := 14) n2.2 y.isLt
  have n4 := nextField (lo := 19) n3.2 x.isLt
  have ho : w0 / 2 ^ 24 = 163 := n4.2
  refine laneWord rfl hw ho (by decide) ?_
  have hi : fld w0 28 4 = 10 := (opcode ho).1
  have lo : fld w0 24 4 = 3 := (opcode ho).2
  have e_x : bits w0 19 5 = x := bits_eq n4.1
  have e_y : bits w0 14 5 = y := bits_eq n3.1
  have e_l : bits w0 5 4 = l := bits_eq n1.1
  have r9_5 : fld w0 9 5 = 0 := n2.1
  have r0_5 : fld w0 0 5 = 0 := n0.1
  have c0 : (fld w0 0 5 == 0 && fld w0 9 5 == 0) = true := by simp [r0_5, r9_5]
  unfold decodeMajor; rw [hi]; simp only []; unfold decodeMajorA; rw [lo]; simp only [c0, cond_true]; rw [e_x, e_y, e_l]

theorem RoundTrip.bwait (x : BitVec 5) (y : BitVec 5) (c : BitVec 3) : RoundTrip.Statement (.bwait x y c) := by
  intro h0; have hv : (decide (c.toNat ≤ 5)) = true := h0
  have e : encode (.bwait x y c) = packWord 0 [(0xa4, 8), (x.toNat, 5), (y.toNat, 5), (0, 11), (c.toNat, 3)] := rfl
  simp only [packWord] at e
  obtain ⟨w0, hw⟩ : ∃ w0, encode (.bwait x y c) = w0 := ⟨_, rfl⟩
  rw [hw] at e
  have g0 := (Nat.div_one w0).trans e
  have n0 := nextField (lo := 0) g0 c.isLt
  have n1 := nextField (lo := 3) n0.2 (by decide)
  have n2 := nextField (lo := 14) n1.2 y.isLt
  have n3 := nextField (lo := 19) n2.2 x.isLt
  have ho : w0 / 2 ^ 24 = 164 := n3.2
  refine laneWord rfl hw ho (by decide) ?_ h0
  have hi : fld w0 28 4 = 10 := (opcode ho).1
  have lo : fld w0 24 4 = 4 := (opcode ho).2
  have e_x : bits w0 19 5 = x := bits_eq n3.1
  have e_y : bits w0 14 5 = y := bits_eq n2.1
  have e_c : bits w0 0 3 = c := bits_eq n0.1
  have r0_3 : fld w0 0 3 = c.toNat := n0.1
  have r3_11 : fld w0 3 11 = 0 := n1.1
  have c0 : (fld w0 3 11 == 0 && decide ((fld w0 0 3) ≤ 5)) = true := by simp [r0_3, r3_11, hv]
  unfold decodeMajor; rw [hi]; simp only []; unfold decodeMajorA; rw [lo]; simp only [c0, cond_true]; rw [e_x, e_y, e_c]

theorem RoundTrip.btest (x : BitVec 5) (z : BitVec 5) (l : BitVec 4) (h : BitVec 1) : RoundTrip.Statement (.btest x z l h) := by
  have e : encode (.btest x z l h) = packWord 0 [(0xa5, 8), (x.toNat, 5), (0, 5), (z.toNat, 5), (l.toNat, 4), (0, 4), (h.toNat, 1)] := rfl
  simp only [packWord] at e
  obtain ⟨w0, hw⟩ : ∃ w0, encode (.btest x z l h) = w0 := ⟨_, rfl⟩
  rw [hw] at e
  have g0 := (Nat.div_one w0).trans e
  have n0 := nextField (lo := 0) g0 h.isLt
  have n1 := nextField (lo := 1) n0.2 (by decide)
  have n2 := nextField (lo := 5) n1.2 l.isLt
  have n3 := nextField (lo := 9) n2.2 z.isLt
  have n4 := nextField (lo := 14) n3.2 (by decide)
  have n5 := nextField (lo := 19) n4.2 x.isLt
  have ho : w0 / 2 ^ 24 = 165 := n5.2
  refine laneWord rfl hw ho (by decide) ?_
  have hi : fld w0 28 4 = 10 := (opcode ho).1
  have lo : fld w0 24 4 = 5 := (opcode ho).2
  have e_x : bits w0 19 5 = x := bits_eq n5.1
  have e_z : bits w0 9 5 = z := bits_eq n3.1
  have e_l : bits w0 5 4 = l := bits_eq n2.1
  have e_h : bits w0 0 1 = h := bits_eq n0.1
  have r14_5 : fld w0 14 5 = 0 := n4.1
  have r1_4 : fld w0 1 4 = 0 := n1.1
  have c0 : (fld w0 1 4 == 0 && fld w0 14 5 == 0) = true := by simp [r1_4, r14_5]
  unfold decodeMajor; rw [hi]; simp only []; unfold decodeMajorA; rw [lo]; simp only [c0, cond_true]; rw [e_x, e_z, e_l, e_h]

theorem RoundTrip.rinit (y : BitVec 5) (k : BitVec 5) : RoundTrip.Statement (.rinit y k) := by
  have e : encode (.rinit y k) = packWord 0 [(0xa6, 8), (0, 5), (y.toNat, 5), (0, 9), (k.toNat, 5)] := rfl
  simp only [packWord] at e
  obtain ⟨w0, hw⟩ : ∃ w0, encode (.rinit y k) = w0 := ⟨_, rfl⟩
  rw [hw] at e
  have g0 := (Nat.div_one w0).trans e
  have n0 := nextField (lo := 0) g0 k.isLt
  have n1 := nextField (lo := 5) n0.2 (by decide)
  have n2 := nextField (lo := 14) n1.2 y.isLt
  have n3 := nextField (lo := 19) n2.2 (by decide)
  have ho : w0 / 2 ^ 24 = 166 := n3.2
  refine laneWord rfl hw ho (by decide) ?_
  have hi : fld w0 28 4 = 10 := (opcode ho).1
  have lo : fld w0 24 4 = 6 := (opcode ho).2
  have e_y : bits w0 14 5 = y := bits_eq n2.1
  have e_k : bits w0 0 5 = k := bits_eq n0.1
  have r5_9 : fld w0 5 9 = 0 := n1.1
  have r19_5 : fld w0 19 5 = 0 := n3.1
  have c0 : (fld w0 5 9 == 0 && fld w0 19 5 == 0) = true := by simp [r5_9, r19_5]
  unfold decodeMajor; rw [hi]; simp only []; unfold decodeMajorA; rw [lo]; simp only [c0, cond_true]; rw [e_y, e_k]

theorem RoundTrip.rarv (z : BitVec 5) (k : BitVec 5) : RoundTrip.Statement (.rarv z k) := by
  have e : encode (.rarv z k) = packWord 0 [(0xa7, 8), (0, 10), (z.toNat, 5), (0, 4), (k.toNat, 5)] := rfl
  simp only [packWord] at e
  obtain ⟨w0, hw⟩ : ∃ w0, encode (.rarv z k) = w0 := ⟨_, rfl⟩
  rw [hw] at e
  have g0 := (Nat.div_one w0).trans e
  have n0 := nextField (lo := 0) g0 k.isLt
  have n1 := nextField (lo := 5) n0.2 (by decide)
  have n2 := nextField (lo := 9) n1.2 z.isLt
  have n3 := nextField (lo := 14) n2.2 (by decide)
  have ho : w0 / 2 ^ 24 = 167 := n3.2
  refine laneWord rfl hw ho (by decide) ?_
  have hi : fld w0 28 4 = 10 := (opcode ho).1
  have lo : fld w0 24 4 = 7 := (opcode ho).2
  have e_z : bits w0 9 5 = z := bits_eq n2.1
  have e_k : bits w0 0 5 = k := bits_eq n0.1
  have r5_4 : fld w0 5 4 = 0 := n1.1
  have r14_10 : fld w0 14 10 = 0 := n3.1
  have c0 : (fld w0 5 4 == 0 && fld w0 14 10 == 0) = true := by simp [r5_4, r14_10]
  unfold decodeMajor; rw [hi]; simp only []; unfold decodeMajorA; rw [lo]; simp only [c0, cond_true]; rw [e_z, e_k]

theorem RoundTrip.rwait (y : BitVec 5) (k : BitVec 5) : RoundTrip.Statement (.rwait y k) := by
  have e : encode (.rwait y k) = packWord 0 [(0xa8, 8), (0, 5), (y.toNat, 5), (0, 9), (k.toNat, 5)] := rfl
  simp only [packWord] at e
  obtain ⟨w0, hw⟩ : ∃ w0, encode (.rwait y k) = w0 := ⟨_, rfl⟩
  rw [hw] at e
  have g0 := (Nat.div_one w0).trans e
  have n0 := nextField (lo := 0) g0 k.isLt
  have n1 := nextField (lo := 5) n0.2 (by decide)
  have n2 := nextField (lo := 14) n1.2 y.isLt
  have n3 := nextField (lo := 19) n2.2 (by decide)
  have ho : w0 / 2 ^ 24 = 168 := n3.2
  refine laneWord rfl hw ho (by decide) ?_
  have hi : fld w0 28 4 = 10 := (opcode ho).1
  have lo : fld w0 24 4 = 8 := (opcode ho).2
  have e_y : bits w0 14 5 = y := bits_eq n2.1
  have e_k : bits w0 0 5 = k := bits_eq n0.1
  have r5_9 : fld w0 5 9 = 0 := n1.1
  have r19_5 : fld w0 19 5 = 0 := n3.1
  have c0 : (fld w0 5 9 == 0 && fld w0 19 5 == 0) = true := by simp [r5_9, r19_5]
  unfold decodeMajor; rw [hi]; simp only []; unfold decodeMajorA; rw [lo]; simp only [c0, cond_true]; rw [e_y, e_k]

theorem RoundTrip.rsync (z : BitVec 5) (k : BitVec 5) : RoundTrip.Statement (.rsync z k) := by
  have e : encode (.rsync z k) = packWord 0 [(0xa9, 8), (0, 10), (z.toNat, 5), (0, 4), (k.toNat, 5)] := rfl
  simp only [packWord] at e
  obtain ⟨w0, hw⟩ : ∃ w0, encode (.rsync z k) = w0 := ⟨_, rfl⟩
  rw [hw] at e
  have g0 := (Nat.div_one w0).trans e
  have n0 := nextField (lo := 0) g0 k.isLt
  have n1 := nextField (lo := 5) n0.2 (by decide)
  have n2 := nextField (lo := 9) n1.2 z.isLt
  have n3 := nextField (lo := 14) n2.2 (by decide)
  have ho : w0 / 2 ^ 24 = 169 := n3.2
  refine laneWord rfl hw ho (by decide) ?_
  have hi : fld w0 28 4 = 10 := (opcode ho).1
  have lo : fld w0 24 4 = 9 := (opcode ho).2
  have e_z : bits w0 9 5 = z := bits_eq n2.1
  have e_k : bits w0 0 5 = k := bits_eq n0.1
  have r5_4 : fld w0 5 4 = 0 := n1.1
  have r14_10 : fld w0 14 10 = 0 := n3.1
  have c0 : (fld w0 5 4 == 0 && fld w0 14 10 == 0) = true := by simp [r5_4, r14_10]
  unfold decodeMajor; rw [hi]; simp only []; unfold decodeMajorA; rw [lo]; simp only [c0, cond_true]; rw [e_z, e_k]

theorem RoundTrip.aadd (d : BitVec 6) (a : BitVec 6) (b : BitVec 6) (l : BitVec 4) (o : BitVec 2) : RoundTrip.Statement (.aadd d a b l o) := by
  intro h0; have hv : (a.toNat % 2 == 0) = true := h0
  have e : encode (.aadd d a b l o) = packWord 0 [(0xb0, 8), (d.toNat, 6), (a.toNat, 6), (b.toNat, 6), (l.toNat, 4), (o.toNat, 2)] := rfl
  simp only [packWord] at e
  obtain ⟨w0, hw⟩ : ∃ w0, encode (.aadd d a b l o) = w0 := ⟨_, rfl⟩
  rw [hw] at e
  have g0 := (Nat.div_one w0).trans e
  have n0 := nextField (lo := 0) g0 o.isLt
  have n1 := nextField (lo := 2) n0.2 l.isLt
  have n2 := nextField (lo := 6) n1.2 b.isLt
  have n3 := nextField (lo := 12) n2.2 a.isLt
  have n4 := nextField (lo := 18) n3.2 d.isLt
  have ho : w0 / 2 ^ 24 = 176 := n4.2
  refine laneWord rfl hw ho (by decide) ?_ h0
  have hi : fld w0 28 4 = 11 := (opcode ho).1
  have lo : fld w0 24 4 = 0 := (opcode ho).2
  have e_d : bits w0 18 6 = d := bits_eq n4.1
  have e_a : bits w0 12 6 = a := bits_eq n3.1
  have e_b : bits w0 6 6 = b := bits_eq n2.1
  have e_l : bits w0 2 4 = l := bits_eq n1.1
  have e_o : bits w0 0 2 = o := bits_eq n0.1
  have r12_6 : fld w0 12 6 = a.toNat := n3.1
  have c0 : ((fld w0 12 6) % 2 == 0) = true := by simp [r12_6, hv]
  unfold decodeMajor; rw [hi]; simp only []; unfold decodeMajorB; rw [lo]; simp only [c0, cond_true]; rw [e_d, e_a, e_b, e_l, e_o]

theorem RoundTrip.amin (d : BitVec 6) (a : BitVec 6) (b : BitVec 6) (l : BitVec 4) (o : BitVec 2) : RoundTrip.Statement (.amin d a b l o) := by
  intro h0; have hv : (a.toNat % 2 == 0) = true := h0
  have e : encode (.amin d a b l o) = packWord 0 [(0xb1, 8), (d.toNat, 6), (a.toNat, 6), (b.toNat, 6), (l.toNat, 4), (o.toNat, 2)] := rfl
  simp only [packWord] at e
  obtain ⟨w0, hw⟩ : ∃ w0, encode (.amin d a b l o) = w0 := ⟨_, rfl⟩
  rw [hw] at e
  have g0 := (Nat.div_one w0).trans e
  have n0 := nextField (lo := 0) g0 o.isLt
  have n1 := nextField (lo := 2) n0.2 l.isLt
  have n2 := nextField (lo := 6) n1.2 b.isLt
  have n3 := nextField (lo := 12) n2.2 a.isLt
  have n4 := nextField (lo := 18) n3.2 d.isLt
  have ho : w0 / 2 ^ 24 = 177 := n4.2
  refine laneWord rfl hw ho (by decide) ?_ h0
  have hi : fld w0 28 4 = 11 := (opcode ho).1
  have lo : fld w0 24 4 = 1 := (opcode ho).2
  have e_d : bits w0 18 6 = d := bits_eq n4.1
  have e_a : bits w0 12 6 = a := bits_eq n3.1
  have e_b : bits w0 6 6 = b := bits_eq n2.1
  have e_l : bits w0 2 4 = l := bits_eq n1.1
  have e_o : bits w0 0 2 = o := bits_eq n0.1
  have r12_6 : fld w0 12 6 = a.toNat := n3.1
  have c0 : ((fld w0 12 6) % 2 == 0) = true := by simp [r12_6, hv]
  unfold decodeMajor; rw [hi]; simp only []; unfold decodeMajorB; rw [lo]; simp only [c0, cond_true]; rw [e_d, e_a, e_b, e_l, e_o]

theorem RoundTrip.amax (d : BitVec 6) (a : BitVec 6) (b : BitVec 6) (l : BitVec 4) (o : BitVec 2) : RoundTrip.Statement (.amax d a b l o) := by
  intro h0; have hv : (a.toNat % 2 == 0) = true := h0
  have e : encode (.amax d a b l o) = packWord 0 [(0xb2, 8), (d.toNat, 6), (a.toNat, 6), (b.toNat, 6), (l.toNat, 4), (o.toNat, 2)] := rfl
  simp only [packWord] at e
  obtain ⟨w0, hw⟩ : ∃ w0, encode (.amax d a b l o) = w0 := ⟨_, rfl⟩
  rw [hw] at e
  have g0 := (Nat.div_one w0).trans e
  have n0 := nextField (lo := 0) g0 o.isLt
  have n1 := nextField (lo := 2) n0.2 l.isLt
  have n2 := nextField (lo := 6) n1.2 b.isLt
  have n3 := nextField (lo := 12) n2.2 a.isLt
  have n4 := nextField (lo := 18) n3.2 d.isLt
  have ho : w0 / 2 ^ 24 = 178 := n4.2
  refine laneWord rfl hw ho (by decide) ?_ h0
  have hi : fld w0 28 4 = 11 := (opcode ho).1
  have lo : fld w0 24 4 = 2 := (opcode ho).2
  have e_d : bits w0 18 6 = d := bits_eq n4.1
  have e_a : bits w0 12 6 = a := bits_eq n3.1
  have e_b : bits w0 6 6 = b := bits_eq n2.1
  have e_l : bits w0 2 4 = l := bits_eq n1.1
  have e_o : bits w0 0 2 = o := bits_eq n0.1
  have r12_6 : fld w0 12 6 = a.toNat := n3.1
  have c0 : ((fld w0 12 6) % 2 == 0) = true := by simp [r12_6, hv]
  unfold decodeMajor; rw [hi]; simp only []; unfold decodeMajorB; rw [lo]; simp only [c0, cond_true]; rw [e_d, e_a, e_b, e_l, e_o]

theorem RoundTrip.aand (d : BitVec 6) (a : BitVec 6) (b : BitVec 6) (l : BitVec 4) (o : BitVec 2) : RoundTrip.Statement (.aand d a b l o) := by
  intro h0; have hv : (a.toNat % 2 == 0) = true := h0
  have e : encode (.aand d a b l o) = packWord 0 [(0xb3, 8), (d.toNat, 6), (a.toNat, 6), (b.toNat, 6), (l.toNat, 4), (o.toNat, 2)] := rfl
  simp only [packWord] at e
  obtain ⟨w0, hw⟩ : ∃ w0, encode (.aand d a b l o) = w0 := ⟨_, rfl⟩
  rw [hw] at e
  have g0 := (Nat.div_one w0).trans e
  have n0 := nextField (lo := 0) g0 o.isLt
  have n1 := nextField (lo := 2) n0.2 l.isLt
  have n2 := nextField (lo := 6) n1.2 b.isLt
  have n3 := nextField (lo := 12) n2.2 a.isLt
  have n4 := nextField (lo := 18) n3.2 d.isLt
  have ho : w0 / 2 ^ 24 = 179 := n4.2
  refine laneWord rfl hw ho (by decide) ?_ h0
  have hi : fld w0 28 4 = 11 := (opcode ho).1
  have lo : fld w0 24 4 = 3 := (opcode ho).2
  have e_d : bits w0 18 6 = d := bits_eq n4.1
  have e_a : bits w0 12 6 = a := bits_eq n3.1
  have e_b : bits w0 6 6 = b := bits_eq n2.1
  have e_l : bits w0 2 4 = l := bits_eq n1.1
  have e_o : bits w0 0 2 = o := bits_eq n0.1
  have r12_6 : fld w0 12 6 = a.toNat := n3.1
  have c0 : ((fld w0 12 6) % 2 == 0) = true := by simp [r12_6, hv]
  unfold decodeMajor; rw [hi]; simp only []; unfold decodeMajorB; rw [lo]; simp only [c0, cond_true]; rw [e_d, e_a, e_b, e_l, e_o]

theorem RoundTrip.aor (d : BitVec 6) (a : BitVec 6) (b : BitVec 6) (l : BitVec 4) (o : BitVec 2) : RoundTrip.Statement (.aor d a b l o) := by
  intro h0; have hv : (a.toNat % 2 == 0) = true := h0
  have e : encode (.aor d a b l o) = packWord 0 [(0xb4, 8), (d.toNat, 6), (a.toNat, 6), (b.toNat, 6), (l.toNat, 4), (o.toNat, 2)] := rfl
  simp only [packWord] at e
  obtain ⟨w0, hw⟩ : ∃ w0, encode (.aor d a b l o) = w0 := ⟨_, rfl⟩
  rw [hw] at e
  have g0 := (Nat.div_one w0).trans e
  have n0 := nextField (lo := 0) g0 o.isLt
  have n1 := nextField (lo := 2) n0.2 l.isLt
  have n2 := nextField (lo := 6) n1.2 b.isLt
  have n3 := nextField (lo := 12) n2.2 a.isLt
  have n4 := nextField (lo := 18) n3.2 d.isLt
  have ho : w0 / 2 ^ 24 = 180 := n4.2
  refine laneWord rfl hw ho (by decide) ?_ h0
  have hi : fld w0 28 4 = 11 := (opcode ho).1
  have lo : fld w0 24 4 = 4 := (opcode ho).2
  have e_d : bits w0 18 6 = d := bits_eq n4.1
  have e_a : bits w0 12 6 = a := bits_eq n3.1
  have e_b : bits w0 6 6 = b := bits_eq n2.1
  have e_l : bits w0 2 4 = l := bits_eq n1.1
  have e_o : bits w0 0 2 = o := bits_eq n0.1
  have r12_6 : fld w0 12 6 = a.toNat := n3.1
  have c0 : ((fld w0 12 6) % 2 == 0) = true := by simp [r12_6, hv]
  unfold decodeMajor; rw [hi]; simp only []; unfold decodeMajorB; rw [lo]; simp only [c0, cond_true]; rw [e_d, e_a, e_b, e_l, e_o]

theorem RoundTrip.axor (d : BitVec 6) (a : BitVec 6) (b : BitVec 6) (l : BitVec 4) (o : BitVec 2) : RoundTrip.Statement (.axor d a b l o) := by
  intro h0; have hv : (a.toNat % 2 == 0) = true := h0
  have e : encode (.axor d a b l o) = packWord 0 [(0xb5, 8), (d.toNat, 6), (a.toNat, 6), (b.toNat, 6), (l.toNat, 4), (o.toNat, 2)] := rfl
  simp only [packWord] at e
  obtain ⟨w0, hw⟩ : ∃ w0, encode (.axor d a b l o) = w0 := ⟨_, rfl⟩
  rw [hw] at e
  have g0 := (Nat.div_one w0).trans e
  have n0 := nextField (lo := 0) g0 o.isLt
  have n1 := nextField (lo := 2) n0.2 l.isLt
  have n2 := nextField (lo := 6) n1.2 b.isLt
  have n3 := nextField (lo := 12) n2.2 a.isLt
  have n4 := nextField (lo := 18) n3.2 d.isLt
  have ho : w0 / 2 ^ 24 = 181 := n4.2
  refine laneWord rfl hw ho (by decide) ?_ h0
  have hi : fld w0 28 4 = 11 := (opcode ho).1
  have lo : fld w0 24 4 = 5 := (opcode ho).2
  have e_d : bits w0 18 6 = d := bits_eq n4.1
  have e_a : bits w0 12 6 = a := bits_eq n3.1
  have e_b : bits w0 6 6 = b := bits_eq n2.1
  have e_l : bits w0 2 4 = l := bits_eq n1.1
  have e_o : bits w0 0 2 = o := bits_eq n0.1
  have r12_6 : fld w0 12 6 = a.toNat := n3.1
  have c0 : ((fld w0 12 6) % 2 == 0) = true := by simp [r12_6, hv]
  unfold decodeMajor; rw [hi]; simp only []; unfold decodeMajorB; rw [lo]; simp only [c0, cond_true]; rw [e_d, e_a, e_b, e_l, e_o]

theorem RoundTrip.axch (d : BitVec 6) (a : BitVec 6) (b : BitVec 6) (l : BitVec 4) (o : BitVec 2) : RoundTrip.Statement (.axch d a b l o) := by
  intro h0; have hv : (a.toNat % 2 == 0) = true := h0
  have e : encode (.axch d a b l o) = packWord 0 [(0xb6, 8), (d.toNat, 6), (a.toNat, 6), (b.toNat, 6), (l.toNat, 4), (o.toNat, 2)] := rfl
  simp only [packWord] at e
  obtain ⟨w0, hw⟩ : ∃ w0, encode (.axch d a b l o) = w0 := ⟨_, rfl⟩
  rw [hw] at e
  have g0 := (Nat.div_one w0).trans e
  have n0 := nextField (lo := 0) g0 o.isLt
  have n1 := nextField (lo := 2) n0.2 l.isLt
  have n2 := nextField (lo := 6) n1.2 b.isLt
  have n3 := nextField (lo := 12) n2.2 a.isLt
  have n4 := nextField (lo := 18) n3.2 d.isLt
  have ho : w0 / 2 ^ 24 = 182 := n4.2
  refine laneWord rfl hw ho (by decide) ?_ h0
  have hi : fld w0 28 4 = 11 := (opcode ho).1
  have lo : fld w0 24 4 = 6 := (opcode ho).2
  have e_d : bits w0 18 6 = d := bits_eq n4.1
  have e_a : bits w0 12 6 = a := bits_eq n3.1
  have e_b : bits w0 6 6 = b := bits_eq n2.1
  have e_l : bits w0 2 4 = l := bits_eq n1.1
  have e_o : bits w0 0 2 = o := bits_eq n0.1
  have r12_6 : fld w0 12 6 = a.toNat := n3.1
  have c0 : ((fld w0 12 6) % 2 == 0) = true := by simp [r12_6, hv]
  unfold decodeMajor; rw [hi]; simp only []; unfold decodeMajorB; rw [lo]; simp only [c0, cond_true]; rw [e_d, e_a, e_b, e_l, e_o]

theorem RoundTrip.acas (d : BitVec 6) (a : BitVec 6) (b : BitVec 6) (l : BitVec 4) (o : BitVec 2) : RoundTrip.Statement (.acas d a b l o) := by
  intro h0; have hv : (a.toNat % 2 == 0) = true := h0
  have e : encode (.acas d a b l o) = packWord 0 [(0xb7, 8), (d.toNat, 6), (a.toNat, 6), (b.toNat, 6), (l.toNat, 4), (o.toNat, 2)] := rfl
  simp only [packWord] at e
  obtain ⟨w0, hw⟩ : ∃ w0, encode (.acas d a b l o) = w0 := ⟨_, rfl⟩
  rw [hw] at e
  have g0 := (Nat.div_one w0).trans e
  have n0 := nextField (lo := 0) g0 o.isLt
  have n1 := nextField (lo := 2) n0.2 l.isLt
  have n2 := nextField (lo := 6) n1.2 b.isLt
  have n3 := nextField (lo := 12) n2.2 a.isLt
  have n4 := nextField (lo := 18) n3.2 d.isLt
  have ho : w0 / 2 ^ 24 = 183 := n4.2
  refine laneWord rfl hw ho (by decide) ?_ h0
  have hi : fld w0 28 4 = 11 := (opcode ho).1
  have lo : fld w0 24 4 = 7 := (opcode ho).2
  have e_d : bits w0 18 6 = d := bits_eq n4.1
  have e_a : bits w0 12 6 = a := bits_eq n3.1
  have e_b : bits w0 6 6 = b := bits_eq n2.1
  have e_l : bits w0 2 4 = l := bits_eq n1.1
  have e_o : bits w0 0 2 = o := bits_eq n0.1
  have r12_6 : fld w0 12 6 = a.toNat := n3.1
  have c0 : ((fld w0 12 6) % 2 == 0) = true := by simp [r12_6, hv]
  unfold decodeMajor; rw [hi]; simp only []; unfold decodeMajorB; rw [lo]; simp only [c0, cond_true]; rw [e_d, e_a, e_b, e_l, e_o]

theorem RoundTrip.afadd (d : BitVec 6) (a : BitVec 6) (b : BitVec 6) (l : BitVec 4) (o : BitVec 2) : RoundTrip.Statement (.afadd d a b l o) := by
  intro h0; have hv : (a.toNat % 2 == 0) = true := h0
  have e : encode (.afadd d a b l o) = packWord 0 [(0xb8, 8), (d.toNat, 6), (a.toNat, 6), (b.toNat, 6), (l.toNat, 4), (o.toNat, 2)] := rfl
  simp only [packWord] at e
  obtain ⟨w0, hw⟩ : ∃ w0, encode (.afadd d a b l o) = w0 := ⟨_, rfl⟩
  rw [hw] at e
  have g0 := (Nat.div_one w0).trans e
  have n0 := nextField (lo := 0) g0 o.isLt
  have n1 := nextField (lo := 2) n0.2 l.isLt
  have n2 := nextField (lo := 6) n1.2 b.isLt
  have n3 := nextField (lo := 12) n2.2 a.isLt
  have n4 := nextField (lo := 18) n3.2 d.isLt
  have ho : w0 / 2 ^ 24 = 184 := n4.2
  refine laneWord rfl hw ho (by decide) ?_ h0
  have hi : fld w0 28 4 = 11 := (opcode ho).1
  have lo : fld w0 24 4 = 8 := (opcode ho).2
  have e_d : bits w0 18 6 = d := bits_eq n4.1
  have e_a : bits w0 12 6 = a := bits_eq n3.1
  have e_b : bits w0 6 6 = b := bits_eq n2.1
  have e_l : bits w0 2 4 = l := bits_eq n1.1
  have e_o : bits w0 0 2 = o := bits_eq n0.1
  have r12_6 : fld w0 12 6 = a.toNat := n3.1
  have c0 : ((fld w0 12 6) % 2 == 0) = true := by simp [r12_6, hv]
  unfold decodeMajor; rw [hi]; simp only []; unfold decodeMajorB; rw [lo]; simp only [c0, cond_true]; rw [e_d, e_a, e_b, e_l, e_o]

theorem RoundTrip.red (o : BitVec 3) (a : BitVec 6) (b : BitVec 6) (l : BitVec 4) (r : BitVec 1) : RoundTrip.Statement (.red o a b l r) := by
  intro h0; have hv : (a.toNat % 2 == 0 && decide (o.toNat ≤ 6)) = true := h0
  have e : encode (.red o a b l r) = packWord 0 [(0xb9, 8), (0, 3), (o.toNat, 3), (a.toNat, 6), (b.toNat, 6), (l.toNat, 4), (r.toNat, 1), (0, 1)] := rfl
  simp only [packWord] at e
  obtain ⟨w0, hw⟩ : ∃ w0, encode (.red o a b l r) = w0 := ⟨_, rfl⟩
  rw [hw] at e
  have g0 := (Nat.div_one w0).trans e
  have n0 := nextField (lo := 0) g0 (by decide)
  have n1 := nextField (lo := 1) n0.2 r.isLt
  have n2 := nextField (lo := 2) n1.2 l.isLt
  have n3 := nextField (lo := 6) n2.2 b.isLt
  have n4 := nextField (lo := 12) n3.2 a.isLt
  have n5 := nextField (lo := 18) n4.2 o.isLt
  have n6 := nextField (lo := 21) n5.2 (by decide)
  have ho : w0 / 2 ^ 24 = 185 := n6.2
  refine laneWord rfl hw ho (by decide) ?_ h0
  have hi : fld w0 28 4 = 11 := (opcode ho).1
  have lo : fld w0 24 4 = 9 := (opcode ho).2
  have e_o : bits w0 18 3 = o := bits_eq n5.1
  have e_a : bits w0 12 6 = a := bits_eq n4.1
  have e_b : bits w0 6 6 = b := bits_eq n3.1
  have e_l : bits w0 2 4 = l := bits_eq n2.1
  have e_r : bits w0 1 1 = r := bits_eq n1.1
  have r0_1 : fld w0 0 1 = 0 := n0.1
  have r21_3 : fld w0 21 3 = 0 := n6.1
  have r12_6 : fld w0 12 6 = a.toNat := n4.1
  have r18_3 : fld w0 18 3 = o.toNat := n5.1
  have c0 : (fld w0 0 1 == 0 && fld w0 21 3 == 0 && (fld w0 12 6) % 2 == 0 && decide ((fld w0 18 3) ≤ 6)) = true := by simp only [Bool.and_eq_true] at hv; simp [r0_1, r12_6, r18_3, r21_3, hv]
  unfold decodeMajor; rw [hi]; simp only []; unfold decodeMajorB; rw [lo]; simp only [c0, cond_true]; rw [e_o, e_a, e_b, e_l, e_r]

theorem RoundTrip.bump (d : BitVec 6) (a : BitVec 6) (b : BitVec 6) (l : BitVec 4) (o : BitVec 2) : RoundTrip.Statement (.bump d a b l o) := by
  intro h0; have hv : (d.toNat % 2 == 0 && a.toNat % 2 == 0) = true := h0
  have e : encode (.bump d a b l o) = packWord 0 [(0xba, 8), (d.toNat, 6), (a.toNat, 6), (b.toNat, 6), (l.toNat, 4), (o.toNat, 2)] := rfl
  simp only [packWord] at e
  obtain ⟨w0, hw⟩ : ∃ w0, encode (.bump d a b l o) = w0 := ⟨_, rfl⟩
  rw [hw] at e
  have g0 := (Nat.div_one w0).trans e
  have n0 := nextField (lo := 0) g0 o.isLt
  have n1 := nextField (lo := 2) n0.2 l.isLt
  have n2 := nextField (lo := 6) n1.2 b.isLt
  have n3 := nextField (lo := 12) n2.2 a.isLt
  have n4 := nextField (lo := 18) n3.2 d.isLt
  have ho : w0 / 2 ^ 24 = 186 := n4.2
  refine laneWord rfl hw ho (by decide) ?_ h0
  have hi : fld w0 28 4 = 11 := (opcode ho).1
  have lo : fld w0 24 4 = 10 := (opcode ho).2
  have e_d : bits w0 18 6 = d := bits_eq n4.1
  have e_a : bits w0 12 6 = a := bits_eq n3.1
  have e_b : bits w0 6 6 = b := bits_eq n2.1
  have e_l : bits w0 2 4 = l := bits_eq n1.1
  have e_o : bits w0 0 2 = o := bits_eq n0.1
  have r12_6 : fld w0 12 6 = a.toNat := n3.1
  have r18_6 : fld w0 18 6 = d.toNat := n4.1
  have c0 : ((fld w0 18 6) % 2 == 0 && (fld w0 12 6) % 2 == 0) = true := by simp only [Bool.and_eq_true] at hv; simp [r12_6, r18_6, hv]
  unfold decodeMajor; rw [hi]; simp only []; unfold decodeMajorB; rw [lo]; simp only [c0, cond_true]; rw [e_d, e_a, e_b, e_l, e_o]

theorem RoundTrip.sigi (d : BitVec 6) (a : BitVec 6) (b : BitVec 6) (o : BitVec 2) : RoundTrip.Statement (.sigi d a b o) := by
  intro h0; have hv : (a.toNat % 2 == 0 && d.toNat % 2 == 0) = true := h0
  have e : encode (.sigi d a b o) = packWord 0 [(0xbb, 8), (d.toNat, 6), (a.toNat, 6), (b.toNat, 6), (0, 4), (o.toNat, 2)] := rfl
  simp only [packWord] at e
  obtain ⟨w0, hw⟩ : ∃ w0, encode (.sigi d a b o) = w0 := ⟨_, rfl⟩
  rw [hw] at e
  have g0 := (Nat.div_one w0).trans e
  have n0 := nextField (lo := 0) g0 o.isLt
  have n1 := nextField (lo := 2) n0.2 (by decide)
  have n2 := nextField (lo := 6) n1.2 b.isLt
  have n3 := nextField (lo := 12) n2.2 a.isLt
  have n4 := nextField (lo := 18) n3.2 d.isLt
  have ho : w0 / 2 ^ 24 = 187 := n4.2
  refine laneWord rfl hw ho (by decide) ?_ h0
  have hi : fld w0 28 4 = 11 := (opcode ho).1
  have lo : fld w0 24 4 = 11 := (opcode ho).2
  have e_d : bits w0 18 6 = d := bits_eq n4.1
  have e_a : bits w0 12 6 = a := bits_eq n3.1
  have e_b : bits w0 6 6 = b := bits_eq n2.1
  have e_o : bits w0 0 2 = o := bits_eq n0.1
  have r12_6 : fld w0 12 6 = a.toNat := n3.1
  have r2_4 : fld w0 2 4 = 0 := n1.1
  have r18_6 : fld w0 18 6 = d.toNat := n4.1
  have c0 : (fld w0 2 4 == 0 && (fld w0 12 6) % 2 == 0 && (fld w0 18 6) % 2 == 0) = true := by simp only [Bool.and_eq_true] at hv; simp [r2_4, r12_6, r18_6, hv]
  unfold decodeMajor; rw [hi]; simp only []; unfold decodeMajorB; rw [lo]; simp only [c0, cond_true]; rw [e_d, e_a, e_b, e_o]

theorem RoundTrip.sigd (d : BitVec 6) (a : BitVec 6) (b : BitVec 6) (o : BitVec 2) : RoundTrip.Statement (.sigd d a b o) := by
  intro h0; have hv : (a.toNat % 2 == 0 && d.toNat % 2 == 0) = true := h0
  have e : encode (.sigd d a b o) = packWord 0 [(0xbc, 8), (d.toNat, 6), (a.toNat, 6), (b.toNat, 6), (0, 4), (o.toNat, 2)] := rfl
  simp only [packWord] at e
  obtain ⟨w0, hw⟩ : ∃ w0, encode (.sigd d a b o) = w0 := ⟨_, rfl⟩
  rw [hw] at e
  have g0 := (Nat.div_one w0).trans e
  have n0 := nextField (lo := 0) g0 o.isLt
  have n1 := nextField (lo := 2) n0.2 (by decide)
  have n2 := nextField (lo := 6) n1.2 b.isLt
  have n3 := nextField (lo := 12) n2.2 a.isLt
  have n4 := nextField (lo := 18) n3.2 d.isLt
  have ho : w0 / 2 ^ 24 = 188 := n4.2
  refine laneWord rfl hw ho (by decide) ?_ h0
  have hi : fld w0 28 4 = 11 := (opcode ho).1
  have lo : fld w0 24 4 = 12 := (opcode ho).2
  have e_d : bits w0 18 6 = d := bits_eq n4.1
  have e_a : bits w0 12 6 = a := bits_eq n3.1
  have e_b : bits w0 6 6 = b := bits_eq n2.1
  have e_o : bits w0 0 2 = o := bits_eq n0.1
  have r12_6 : fld w0 12 6 = a.toNat := n3.1
  have r2_4 : fld w0 2 4 = 0 := n1.1
  have r18_6 : fld w0 18 6 = d.toNat := n4.1
  have c0 : (fld w0 2 4 == 0 && (fld w0 12 6) % 2 == 0 && (fld w0 18 6) % 2 == 0) = true := by simp only [Bool.and_eq_true] at hv; simp [r2_4, r12_6, r18_6, hv]
  unfold decodeMajor; rw [hi]; simp only []; unfold decodeMajorB; rw [lo]; simp only [c0, cond_true]; rw [e_d, e_a, e_b, e_o]

theorem RoundTrip.tlsig (d : BitVec 6) (a : BitVec 6) (b : BitVec 6) (o : BitVec 2) : RoundTrip.Statement (.tlsig d a b o) := by
  intro h0; have hv : (a.toNat % 2 == 0 && d.toNat % 2 == 0 && b.toNat % 2 == 0) = true := h0
  have e : encode (.tlsig d a b o) = packWord 0 [(0xbd, 8), (d.toNat, 6), (a.toNat, 6), (b.toNat, 6), (0, 4), (o.toNat, 2)] := rfl
  simp only [packWord] at e
  obtain ⟨w0, hw⟩ : ∃ w0, encode (.tlsig d a b o) = w0 := ⟨_, rfl⟩
  rw [hw] at e
  have g0 := (Nat.div_one w0).trans e
  have n0 := nextField (lo := 0) g0 o.isLt
  have n1 := nextField (lo := 2) n0.2 (by decide)
  have n2 := nextField (lo := 6) n1.2 b.isLt
  have n3 := nextField (lo := 12) n2.2 a.isLt
  have n4 := nextField (lo := 18) n3.2 d.isLt
  have ho : w0 / 2 ^ 24 = 189 := n4.2
  refine laneWord rfl hw ho (by decide) ?_ h0
  have hi : fld w0 28 4 = 11 := (opcode ho).1
  have lo : fld w0 24 4 = 13 := (opcode ho).2
  have e_d : bits w0 18 6 = d := bits_eq n4.1
  have e_a : bits w0 12 6 = a := bits_eq n3.1
  have e_b : bits w0 6 6 = b := bits_eq n2.1
  have e_o : bits w0 0 2 = o := bits_eq n0.1
  have r12_6 : fld w0 12 6 = a.toNat := n3.1
  have r2_4 : fld w0 2 4 = 0 := n1.1
  have r18_6 : fld w0 18 6 = d.toNat := n4.1
  have r6_6 : fld w0 6 6 = b.toNat := n2.1
  have c0 : (fld w0 2 4 == 0 && (fld w0 12 6) % 2 == 0 && (fld w0 18 6) % 2 == 0 && (fld w0 6 6) % 2 == 0) = true := by simp only [Bool.and_eq_true] at hv; simp [r2_4, r6_6, r12_6, r18_6, hv]
  unfold decodeMajor; rw [hi]; simp only []; unfold decodeMajorB; rw [lo]; simp only [c0, cond_true]; rw [e_d, e_a, e_b, e_o]

theorem RoundTrip.carm (x : BitVec 5) (y : BitVec 5) (z : BitVec 5) (l : BitVec 4) (c : BitVec 5) : RoundTrip.Statement (.carm x y z l c) := by
  intro h0; have hv : (decide (c.toNat ≤ 5)) = true := h0
  have e : encode (.carm x y z l c) = packWord 0 [(0xbe, 8), (x.toNat, 5), (y.toNat, 5), (z.toNat, 5), (l.toNat, 4), (c.toNat, 5)] := rfl
  simp only [packWord] at e
  obtain ⟨w0, hw⟩ : ∃ w0, encode (.carm x y z l c) = w0 := ⟨_, rfl⟩
  rw [hw] at e
  have g0 := (Nat.div_one w0).trans e
  have n0 := nextField (lo := 0) g0 c.isLt
  have n1 := nextField (lo := 5) n0.2 l.isLt
  have n2 := nextField (lo := 9) n1.2 z.isLt
  have n3 := nextField (lo := 14) n2.2 y.isLt
  have n4 := nextField (lo := 19) n3.2 x.isLt
  have ho : w0 / 2 ^ 24 = 190 := n4.2
  refine laneWord rfl hw ho (by decide) ?_ h0
  have hi : fld w0 28 4 = 11 := (opcode ho).1
  have lo : fld w0 24 4 = 14 := (opcode ho).2
  have e_x : bits w0 19 5 = x := bits_eq n4.1
  have e_y : bits w0 14 5 = y := bits_eq n3.1
  have e_z : bits w0 9 5 = z := bits_eq n2.1
  have e_l : bits w0 5 4 = l := bits_eq n1.1
  have e_c : bits w0 0 5 = c := bits_eq n0.1
  have r19_5 : fld w0 19 5 = x.toNat := n4.1
  have r0_5 : fld w0 0 5 = c.toNat := n0.1
  have c0 : (fld w0 0 5 == 6 && fld w0 19 5 == 0) = false := by
    apply Bool.eq_false_iff.mpr; unfold fld; simp only [ne_eq, Bool.and_eq_true, beq_iff_eq, decide_eq_true_eq]
    have := x.isLt
    have := y.isLt
    have := z.isLt
    have := l.isLt
    have := c.isLt
    simp only [Bool.and_eq_true, beq_iff_eq, decide_eq_true_eq] at hv
    omega
  have c1 : (decide ((fld w0 0 5) ≤ 5)) = true := by simp [r0_5, hv]
  unfold decodeMajor; rw [hi]; simp only []; unfold decodeMajorB; rw [lo]; simp only [c0, c1, cond_true, cond_false]; rw [e_x, e_y, e_z, e_l, e_c]

theorem RoundTrip.carmCancel (y : BitVec 5) (z : BitVec 5) (l : BitVec 4) : RoundTrip.Statement (.carmCancel y z l) := by
  have e : encode (.carmCancel y z l) = packWord 0 [(0xbe, 8), (0, 5), (y.toNat, 5), (z.toNat, 5), (l.toNat, 4), (6, 5)] := rfl
  simp only [packWord] at e
  obtain ⟨w0, hw⟩ : ∃ w0, encode (.carmCancel y z l) = w0 := ⟨_, rfl⟩
  rw [hw] at e
  have g0 := (Nat.div_one w0).trans e
  have n0 := nextField (lo := 0) g0 (by decide)
  have n1 := nextField (lo := 5) n0.2 l.isLt
  have n2 := nextField (lo := 9) n1.2 z.isLt
  have n3 := nextField (lo := 14) n2.2 y.isLt
  have n4 := nextField (lo := 19) n3.2 (by decide)
  have ho : w0 / 2 ^ 24 = 190 := n4.2
  refine laneWord rfl hw ho (by decide) ?_
  have hi : fld w0 28 4 = 11 := (opcode ho).1
  have lo : fld w0 24 4 = 14 := (opcode ho).2
  have e_y : bits w0 14 5 = y := bits_eq n3.1
  have e_z : bits w0 9 5 = z := bits_eq n2.1
  have e_l : bits w0 5 4 = l := bits_eq n1.1
  have r19_5 : fld w0 19 5 = 0 := n4.1
  have r0_5 : fld w0 0 5 = 6 := n0.1
  have c0 : (fld w0 0 5 == 6 && fld w0 19 5 == 0) = true := by simp [r0_5, r19_5]
  unfold decodeMajor; rw [hi]; simp only []; unfold decodeMajorB; rw [lo]; simp only [c0, cond_true]; rw [e_y, e_z, e_l]

theorem RoundTrip.cpa (d : BitVec 6) (a : BitVec 6) (sb : BitVec 5) (l : BitVec 4) (t : BitVec 2) : RoundTrip.Statement (.cpa d a sb l t) := by
  intro h0; have hv : (d.toNat % 2 == 0) = true := h0
  have e : encode (.cpa d a sb l t) = packWord 0 [(0xc0, 8), (d.toNat, 6), (a.toNat, 6), (sb.toNat, 5), (l.toNat, 4), (0, 1), (t.toNat, 2)] := rfl
  simp only [packWord] at e
  obtain ⟨w0, hw⟩ : ∃ w0, encode (.cpa d a sb l t) = w0 := ⟨_, rfl⟩
  rw [hw] at e
  have g0 := (Nat.div_one w0).trans e
  have n0 := nextField (lo := 0) g0 t.isLt
  have n1 := nextField (lo := 2) n0.2 (by decide)
  have n2 := nextField (lo := 3) n1.2 l.isLt
  have n3 := nextField (lo := 7) n2.2 sb.isLt
  have n4 := nextField (lo := 12) n3.2 a.isLt
  have n5 := nextField (lo := 18) n4.2 d.isLt
  have ho : w0 / 2 ^ 24 = 192 := n5.2
  refine laneWord rfl hw ho (by decide) ?_ h0
  have hi : fld w0 28 4 = 12 := (opcode ho).1
  have lo : fld w0 24 4 = 0 := (opcode ho).2
  have e_d : bits w0 18 6 = d := bits_eq n5.1
  have e_a : bits w0 12 6 = a := bits_eq n4.1
  have e_sb : bits w0 7 5 = sb := bits_eq n3.1
  have e_l : bits w0 3 4 = l := bits_eq n2.1
  have e_t : bits w0 0 2 = t := bits_eq n0.1
  have r18_6 : fld w0 18 6 = d.toNat := n5.1
  have r2_1 : fld w0 2 1 = 0 := n1.1
  have c0 : (fld w0 2 1 == 0 && (fld w0 18 6) % 2 == 0) = true := by simp [r2_1, r18_6, hv]
  unfold decodeMajor; rw [hi]; simp only []; unfold decodeMajorC; rw [lo]; simp only [c0, cond_true]; rw [e_d, e_a, e_sb, e_l, e_t]

theorem RoundTrip.hdefChk (y : BitVec 5) (z : BitVec 5) (l : BitVec 4) : RoundTrip.Statement (.hdefChk y z l) := by
  have e : encode (.hdefChk y z l) = packWord 0 [(0xc1, 8), (0, 5), (y.toNat, 5), (z.toNat, 5), (l.toNat, 4), (0, 5)] := rfl
  simp only [packWord] at e
  obtain ⟨w0, hw⟩ : ∃ w0, encode (.hdefChk y z l) = w0 := ⟨_, rfl⟩
  rw [hw] at e
  have g0 := (Nat.div_one w0).trans e
  have n0 := nextField (lo := 0) g0 (by decide)
  have n1 := nextField (lo := 5) n0.2 l.isLt
  have n2 := nextField (lo := 9) n1.2 z.isLt
  have n3 := nextField (lo := 14) n2.2 y.isLt
  have n4 := nextField (lo := 19) n3.2 (by decide)
  have ho : w0 / 2 ^ 24 = 193 := n4.2
  refine laneWord rfl hw ho (by decide) ?_
  have hi : fld w0 28 4 = 12 := (opcode ho).1
  have lo : fld w0 24 4 = 1 := (opcode ho).2
  have e_y : bits w0 14 5 = y := bits_eq n3.1
  have e_z : bits w0 9 5 = z := bits_eq n2.1
  have e_l : bits w0 5 4 = l := bits_eq n1.1
  have r19_5 : fld w0 19 5 = 0 := n4.1
  have r0_5 : fld w0 0 5 = 0 := n0.1
  have c0 : (fld w0 0 5 == 0 && fld w0 19 5 == 0) = true := by simp [r0_5, r19_5]
  unfold decodeMajor; rw [hi]; simp only []; unfold decodeMajorC; rw [lo]; simp only [c0, cond_true]; rw [e_y, e_z, e_l]

theorem RoundTrip.hdefBase (x : BitVec 5) (y : BitVec 5) (l : BitVec 4) : RoundTrip.Statement (.hdefBase x y l) := by
  have e : encode (.hdefBase x y l) = packWord 0 [(0xc1, 8), (x.toNat, 5), (y.toNat, 5), (0, 5), (l.toNat, 4), (1, 5)] := rfl
  simp only [packWord] at e
  obtain ⟨w0, hw⟩ : ∃ w0, encode (.hdefBase x y l) = w0 := ⟨_, rfl⟩
  rw [hw] at e
  have g0 := (Nat.div_one w0).trans e
  have n0 := nextField (lo := 0) g0 (by decide)
  have n1 := nextField (lo := 5) n0.2 l.isLt
  have n2 := nextField (lo := 9) n1.2 (by decide)
  have n3 := nextField (lo := 14) n2.2 y.isLt
  have n4 := nextField (lo := 19) n3.2 x.isLt
  have ho : w0 / 2 ^ 24 = 193 := n4.2
  refine laneWord rfl hw ho (by decide) ?_
  have hi : fld w0 28 4 = 12 := (opcode ho).1
  have lo : fld w0 24 4 = 1 := (opcode ho).2
  have e_x : bits w0 19 5 = x := bits_eq n4.1
  have e_y : bits w0 14 5 = y := bits_eq n3.1
  have e_l : bits w0 5 4 = l := bits_eq n1.1
  have r19_5 : fld w0 19 5 = x.toNat := n4.1
  have r0_5 : fld w0 0 5 = 1 := n0.1
  have c0 : (fld w0 0 5 == 0 && fld w0 19 5 == 0) = false := by simp [r0_5]
  have r9_5 : fld w0 9 5 = 0 := n2.1
  have c1 : (fld w0 0 5 == 1 && fld w0 9 5 == 0) = true := by simp [r0_5, r9_5]
  unfold decodeMajor; rw [hi]; simp only []; unfold decodeMajorC; rw [lo]; simp only [c0, c1, cond_true, cond_false]; rw [e_x, e_y, e_l]

theorem RoundTrip.hdefOrg (x : BitVec 5) (y : BitVec 5) (l : BitVec 4) : RoundTrip.Statement (.hdefOrg x y l) := by
  have e : encode (.hdefOrg x y l) = packWord 0 [(0xc1, 8), (x.toNat, 5), (y.toNat, 5), (0, 5), (l.toNat, 4), (2, 5)] := rfl
  simp only [packWord] at e
  obtain ⟨w0, hw⟩ : ∃ w0, encode (.hdefOrg x y l) = w0 := ⟨_, rfl⟩
  rw [hw] at e
  have g0 := (Nat.div_one w0).trans e
  have n0 := nextField (lo := 0) g0 (by decide)
  have n1 := nextField (lo := 5) n0.2 l.isLt
  have n2 := nextField (lo := 9) n1.2 (by decide)
  have n3 := nextField (lo := 14) n2.2 y.isLt
  have n4 := nextField (lo := 19) n3.2 x.isLt
  have ho : w0 / 2 ^ 24 = 193 := n4.2
  refine laneWord rfl hw ho (by decide) ?_
  have hi : fld w0 28 4 = 12 := (opcode ho).1
  have lo : fld w0 24 4 = 1 := (opcode ho).2
  have e_x : bits w0 19 5 = x := bits_eq n4.1
  have e_y : bits w0 14 5 = y := bits_eq n3.1
  have e_l : bits w0 5 4 = l := bits_eq n1.1
  have r19_5 : fld w0 19 5 = x.toNat := n4.1
  have r0_5 : fld w0 0 5 = 2 := n0.1
  have c0 : (fld w0 0 5 == 0 && fld w0 19 5 == 0) = false := by simp [r0_5]
  have r9_5 : fld w0 9 5 = 0 := n2.1
  have c1 : (fld w0 0 5 == 1 && fld w0 9 5 == 0) = false := by simp [r0_5]
  have c2 : (fld w0 0 5 == 2 && fld w0 9 5 == 0) = true := by simp [r0_5, r9_5]
  unfold decodeMajor; rw [hi]; simp only []; unfold decodeMajorC; rw [lo]; simp only [c0, c1, c2, cond_true, cond_false]; rw [e_x, e_y, e_l]

theorem RoundTrip.hdefAdv (x : BitVec 5) (y : BitVec 5) (l : BitVec 4) : RoundTrip.Statement (.hdefAdv x y l) := by
  have e : encode (.hdefAdv x y l) = packWord 0 [(0xc1, 8), (x.toNat, 5), (y.toNat, 5), (0, 5), (l.toNat, 4), (3, 5)] := rfl
  simp only [packWord] at e
  obtain ⟨w0, hw⟩ : ∃ w0, encode (.hdefAdv x y l) = w0 := ⟨_, rfl⟩
  rw [hw] at e
  have g0 := (Nat.div_one w0).trans e
  have n0 := nextField (lo := 0) g0 (by decide)
  have n1 := nextField (lo := 5) n0.2 l.isLt
  have n2 := nextField (lo := 9) n1.2 (by decide)
  have n3 := nextField (lo := 14) n2.2 y.isLt
  have n4 := nextField (lo := 19) n3.2 x.isLt
  have ho : w0 / 2 ^ 24 = 193 := n4.2
  refine laneWord rfl hw ho (by decide) ?_
  have hi : fld w0 28 4 = 12 := (opcode ho).1
  have lo : fld w0 24 4 = 1 := (opcode ho).2
  have e_x : bits w0 19 5 = x := bits_eq n4.1
  have e_y : bits w0 14 5 = y := bits_eq n3.1
  have e_l : bits w0 5 4 = l := bits_eq n1.1
  have r19_5 : fld w0 19 5 = x.toNat := n4.1
  have r0_5 : fld w0 0 5 = 3 := n0.1
  have c0 : (fld w0 0 5 == 0 && fld w0 19 5 == 0) = false := by simp [r0_5]
  have r9_5 : fld w0 9 5 = 0 := n2.1
  have c1 : (fld w0 0 5 == 1 && fld w0 9 5 == 0) = false := by simp [r0_5]
  have c2 : (fld w0 0 5 == 2 && fld w0 9 5 == 0) = false := by simp [r0_5]
  have c3 : (fld w0 0 5 == 3 && fld w0 9 5 == 0) = true := by simp [r0_5, r9_5]
  unfold decodeMajor; rw [hi]; simp only []; unfold decodeMajorC; rw [lo]; simp only [c0, c1, c2, c3, cond_true, cond_false]; rw [e_x, e_y, e_l]

theorem RoundTrip.hdefOrgh (x : BitVec 5) (y : BitVec 5) (l : BitVec 4) : RoundTrip.Statement (.hdefOrgh x y l) := by
  have e : encode (.hdefOrgh x y l) = packWord 0 [(0xc1, 8), (x.toNat, 5), (y.toNat, 5), (0, 5), (l.toNat, 4), (4, 5)] := rfl
  simp only [packWord] at e
  obtain ⟨w0, hw⟩ : ∃ w0, encode (.hdefOrgh x y l) = w0 := ⟨_, rfl⟩
  rw [hw] at e
  have g0 := (Nat.div_one w0).trans e
  have n0 := nextField (lo := 0) g0 (by decide)
  have n1 := nextField (lo := 5) n0.2 l.isLt
  have n2 := nextField (lo := 9) n1.2 (by decide)
  have n3 := nextField (lo := 14) n2.2 y.isLt
  have n4 := nextField (lo := 19) n3.2 x.isLt
  have ho : w0 / 2 ^ 24 = 193 := n4.2
  refine laneWord rfl hw ho (by decide) ?_
  have hi : fld w0 28 4 = 12 := (opcode ho).1
  have lo : fld w0 24 4 = 1 := (opcode ho).2
  have e_x : bits w0 19 5 = x := bits_eq n4.1
  have e_y : bits w0 14 5 = y := bits_eq n3.1
  have e_l : bits w0 5 4 = l := bits_eq n1.1
  have r19_5 : fld w0 19 5 = x.toNat := n4.1
  have r0_5 : fld w0 0 5 = 4 := n0.1
  have c0 : (fld w0 0 5 == 0 && fld w0 19 5 == 0) = false := by simp [r0_5]
  have r9_5 : fld w0 9 5 = 0 := n2.1
  have c1 : (fld w0 0 5 == 1 && fld w0 9 5 == 0) = false := by simp [r0_5]
  have c2 : (fld w0 0 5 == 2 && fld w0 9 5 == 0) = false := by simp [r0_5]
  have c3 : (fld w0 0 5 == 3 && fld w0 9 5 == 0) = false := by simp [r0_5]
  have c4 : (fld w0 0 5 == 4 && fld w0 9 5 == 0) = true := by simp [r0_5, r9_5]
  unfold decodeMajor; rw [hi]; simp only []; unfold decodeMajorC; rw [lo]; simp only [c0, c1, c2, c3, c4, cond_true, cond_false]; rw [e_x, e_y, e_l]

theorem RoundTrip.tcpy (x : BitVec 5) (y : BitVec 5) (z : BitVec 5) (l : BitVec 4) (u : BitVec 1) (n : BitVec 1) : RoundTrip.Statement (.tcpy x y z l u n) := by
  have e : encode (.tcpy x y z l u n) = packWord 0 [(0xc2, 8), (x.toNat, 5), (y.toNat, 5), (z.toNat, 5), (l.toNat, 4), (0, 3), (u.toNat, 1), (n.toNat, 1)] := rfl
  simp only [packWord] at e
  obtain ⟨w0, hw⟩ : ∃ w0, encode (.tcpy x y z l u n) = w0 := ⟨_, rfl⟩
  rw [hw] at e
  have g0 := (Nat.div_one w0).trans e
  have n0 := nextField (lo := 0) g0 n.isLt
  have n1 := nextField (lo := 1) n0.2 u.isLt
  have n2 := nextField (lo := 2) n1.2 (by decide)
  have n3 := nextField (lo := 5) n2.2 l.isLt
  have n4 := nextField (lo := 9) n3.2 z.isLt
  have n5 := nextField (lo := 14) n4.2 y.isLt
  have n6 := nextField (lo := 19) n5.2 x.isLt
  have ho : w0 / 2 ^ 24 = 194 := n6.2
  refine laneWord rfl hw ho (by decide) ?_
  have hi : fld w0 28 4 = 12 := (opcode ho).1
  have lo : fld w0 24 4 = 2 := (opcode ho).2
  have e_x : bits w0 19 5 = x := bits_eq n6.1
  have e_y : bits w0 14 5 = y := bits_eq n5.1
  have e_z : bits w0 9 5 = z := bits_eq n4.1
  have e_l : bits w0 5 4 = l := bits_eq n3.1
  have e_u : bits w0 1 1 = u := bits_eq n1.1
  have e_n : bits w0 0 1 = n := bits_eq n0.1
  have r2_3 : fld w0 2 3 = 0 := n2.1
  have c0 : (fld w0 2 3 == 0) = true := by simp [r2_3]
  unfold decodeMajor; rw [hi]; simp only []; unfold decodeMajorC; rw [lo]; simp only [c0, cond_true]; rw [e_x, e_y, e_z, e_l, e_u, e_n]

theorem RoundTrip.tsto (x : BitVec 5) (y : BitVec 5) (z : BitVec 5) (l : BitVec 4) (u : BitVec 1) (n : BitVec 1) : RoundTrip.Statement (.tsto x y z l u n) := by
  have e : encode (.tsto x y z l u n) = packWord 0 [(0xc3, 8), (x.toNat, 5), (y.toNat, 5), (z.toNat, 5), (l.toNat, 4), (0, 3), (u.toNat, 1), (n.toNat, 1)] := rfl
  simp only [packWord] at e
  obtain ⟨w0, hw⟩ : ∃ w0, encode (.tsto x y z l u n) = w0 := ⟨_, rfl⟩
  rw [hw] at e
  have g0 := (Nat.div_one w0).trans e
  have n0 := nextField (lo := 0) g0 n.isLt
  have n1 := nextField (lo := 1) n0.2 u.isLt
  have n2 := nextField (lo := 2) n1.2 (by decide)
  have n3 := nextField (lo := 5) n2.2 l.isLt
  have n4 := nextField (lo := 9) n3.2 z.isLt
  have n5 := nextField (lo := 14) n4.2 y.isLt
  have n6 := nextField (lo := 19) n5.2 x.isLt
  have ho : w0 / 2 ^ 24 = 195 := n6.2
  refine laneWord rfl hw ho (by decide) ?_
  have hi : fld w0 28 4 = 12 := (opcode ho).1
  have lo : fld w0 24 4 = 3 := (opcode ho).2
  have e_x : bits w0 19 5 = x := bits_eq n6.1
  have e_y : bits w0 14 5 = y := bits_eq n5.1
  have e_z : bits w0 9 5 = z := bits_eq n4.1
  have e_l : bits w0 5 4 = l := bits_eq n3.1
  have e_u : bits w0 1 1 = u := bits_eq n1.1
  have e_n : bits w0 0 1 = n := bits_eq n0.1
  have r2_3 : fld w0 2 3 = 0 := n2.1
  have c0 : (fld w0 2 3 == 0) = true := by simp [r2_3]
  unfold decodeMajor; rw [hi]; simp only []; unfold decodeMajorC; rw [lo]; simp only [c0, cond_true]; rw [e_x, e_y, e_z, e_l, e_u, e_n]

theorem RoundTrip.tred (x : BitVec 5) (y : BitVec 5) (z : BitVec 5) (l : BitVec 4) (u : BitVec 1) (n : BitVec 1) : RoundTrip.Statement (.tred x y z l u n) := by
  have e : encode (.tred x y z l u n) = packWord 0 [(0xc4, 8), (x.toNat, 5), (y.toNat, 5), (z.toNat, 5), (l.toNat, 4), (0, 3), (u.toNat, 1), (n.toNat, 1)] := rfl
  simp only [packWord] at e
  obtain ⟨w0, hw⟩ : ∃ w0, encode (.tred x y z l u n) = w0 := ⟨_, rfl⟩
  rw [hw] at e
  have g0 := (Nat.div_one w0).trans e
  have n0 := nextField (lo := 0) g0 n.isLt
  have n1 := nextField (lo := 1) n0.2 u.isLt
  have n2 := nextField (lo := 2) n1.2 (by decide)
  have n3 := nextField (lo := 5) n2.2 l.isLt
  have n4 := nextField (lo := 9) n3.2 z.isLt
  have n5 := nextField (lo := 14) n4.2 y.isLt
  have n6 := nextField (lo := 19) n5.2 x.isLt
  have ho : w0 / 2 ^ 24 = 196 := n6.2
  refine laneWord rfl hw ho (by decide) ?_
  have hi : fld w0 28 4 = 12 := (opcode ho).1
  have lo : fld w0 24 4 = 4 := (opcode ho).2
  have e_x : bits w0 19 5 = x := bits_eq n6.1
  have e_y : bits w0 14 5 = y := bits_eq n5.1
  have e_z : bits w0 9 5 = z := bits_eq n4.1
  have e_l : bits w0 5 4 = l := bits_eq n3.1
  have e_u : bits w0 1 1 = u := bits_eq n1.1
  have e_n : bits w0 0 1 = n := bits_eq n0.1
  have r2_3 : fld w0 2 3 = 0 := n2.1
  have c0 : (fld w0 2 3 == 0) = true := by simp [r2_3]
  unfold decodeMajor; rw [hi]; simp only []; unfold decodeMajorC; rw [lo]; simp only [c0, cond_true]; rw [e_x, e_y, e_z, e_l, e_u, e_n]

theorem RoundTrip.tsct (x : BitVec 5) (y : BitVec 5) (z : BitVec 5) (l : BitVec 4) (k : BitVec 5) : RoundTrip.Statement (.tsct x y z l k) := by
  have e : encode (.tsct x y z l k) = packWord 0 [(0xc5, 8), (x.toNat, 5), (y.toNat, 5), (z.toNat, 5), (l.toNat, 4), (k.toNat, 5)] := rfl
  simp only [packWord] at e
  obtain ⟨w0, hw⟩ : ∃ w0, encode (.tsct x y z l k) = w0 := ⟨_, rfl⟩
  rw [hw] at e
  have g0 := (Nat.div_one w0).trans e
  have n0 := nextField (lo := 0) g0 k.isLt
  have n1 := nextField (lo := 5) n0.2 l.isLt
  have n2 := nextField (lo := 9) n1.2 z.isLt
  have n3 := nextField (lo := 14) n2.2 y.isLt
  have n4 := nextField (lo := 19) n3.2 x.isLt
  have ho : w0 / 2 ^ 24 = 197 := n4.2
  refine laneWord rfl hw ho (by decide) ?_
  have hi : fld w0 28 4 = 12 := (opcode ho).1
  have lo : fld w0 24 4 = 5 := (opcode ho).2
  have e_x : bits w0 19 5 = x := bits_eq n4.1
  have e_y : bits w0 14 5 = y := bits_eq n3.1
  have e_z : bits w0 9 5 = z := bits_eq n2.1
  have e_l : bits w0 5 4 = l := bits_eq n1.1
  have e_k : bits w0 0 5 = k := bits_eq n0.1
  unfold decodeMajor; rw [hi]; simp only []; unfold decodeMajorC; rw [lo]; simp only []; rw [e_x, e_y, e_z, e_l, e_k]

theorem RoundTrip.tgth (x : BitVec 5) (y : BitVec 5) (z : BitVec 5) (l : BitVec 4) (u : BitVec 1) (n : BitVec 1) : RoundTrip.Statement (.tgth x y z l u n) := by
  have e : encode (.tgth x y z l u n) = packWord 0 [(0xc6, 8), (x.toNat, 5), (y.toNat, 5), (z.toNat, 5), (l.toNat, 4), (0, 3), (u.toNat, 1), (n.toNat, 1)] := rfl
  simp only [packWord] at e
  obtain ⟨w0, hw⟩ : ∃ w0, encode (.tgth x y z l u n) = w0 := ⟨_, rfl⟩
  rw [hw] at e
  have g0 := (Nat.div_one w0).trans e
  have n0 := nextField (lo := 0) g0 n.isLt
  have n1 := nextField (lo := 1) n0.2 u.isLt
  have n2 := nextField (lo := 2) n1.2 (by decide)
  have n3 := nextField (lo := 5) n2.2 l.isLt
  have n4 := nextField (lo := 9) n3.2 z.isLt
  have n5 := nextField (lo := 14) n4.2 y.isLt
  have n6 := nextField (lo := 19) n5.2 x.isLt
  have ho : w0 / 2 ^ 24 = 198 := n6.2
  refine laneWord rfl hw ho (by decide) ?_
  have hi : fld w0 28 4 = 12 := (opcode ho).1
  have lo : fld w0 24 4 = 6 := (opcode ho).2
  have e_x : bits w0 19 5 = x := bits_eq n6.1
  have e_y : bits w0 14 5 = y := bits_eq n5.1
  have e_z : bits w0 9 5 = z := bits_eq n4.1
  have e_l : bits w0 5 4 = l := bits_eq n3.1
  have e_u : bits w0 1 1 = u := bits_eq n1.1
  have e_n : bits w0 0 1 = n := bits_eq n0.1
  have r2_3 : fld w0 2 3 = 0 := n2.1
  have c0 : (fld w0 2 3 == 0) = true := by simp [r2_3]
  unfold decodeMajor; rw [hi]; simp only []; unfold decodeMajorC; rw [lo]; simp only [c0, cond_true]; rw [e_x, e_y, e_z, e_l, e_u, e_n]

theorem RoundTrip.crset (x : BitVec 5) (y : BitVec 5) (l : BitVec 4) : RoundTrip.Statement (.crset x y l) := by
  have e : encode (.crset x y l) = packWord 0 [(0xc7, 8), (x.toNat, 5), (y.toNat, 5), (0, 5), (l.toNat, 4), (0, 5)] := rfl
  simp only [packWord] at e
  obtain ⟨w0, hw⟩ : ∃ w0, encode (.crset x y l) = w0 := ⟨_, rfl⟩
  rw [hw] at e
  have g0 := (Nat.div_one w0).trans e
  have n0 := nextField (lo := 0) g0 (by decide)
  have n1 := nextField (lo := 5) n0.2 l.isLt
  have n2 := nextField (lo := 9) n1.2 (by decide)
  have n3 := nextField (lo := 14) n2.2 y.isLt
  have n4 := nextField (lo := 19) n3.2 x.isLt
  have ho : w0 / 2 ^ 24 = 199 := n4.2
  refine laneWord rfl hw ho (by decide) ?_
  have hi : fld w0 28 4 = 12 := (opcode ho).1
  have lo : fld w0 24 4 = 7 := (opcode ho).2
  have e_x : bits w0 19 5 = x := bits_eq n4.1
  have e_y : bits w0 14 5 = y := bits_eq n3.1
  have e_l : bits w0 5 4 = l := bits_eq n1.1
  have r9_5 : fld w0 9 5 = 0 := n2.1
  have r0_5 : fld w0 0 5 = 0 := n0.1
  have c0 : (fld w0 0 5 == 0 && fld w0 9 5 == 0) = true := by simp [r0_5, r9_5]
  unfold decodeMajor; rw [hi]; simp only []; unfold decodeMajorC; rw [lo]; simp only [c0, cond_true]; rw [e_x, e_y, e_l]

theorem RoundTrip.crpop (z : BitVec 5) (l : BitVec 4) : RoundTrip.Statement (.crpop z l) := by
  intro h0; have hv : (z.toNat % 4 == 0) = true := h0
  have e : encode (.crpop z l) = packWord 0 [(0xc8, 8), (0, 10), (z.toNat, 5), (l.toNat, 4), (0, 5)] := rfl
  simp only [packWord] at e
  obtain ⟨w0, hw⟩ : ∃ w0, encode (.crpop z l) = w0 := ⟨_, rfl⟩
  rw [hw] at e
  have g0 := (Nat.div_one w0).trans e
  have n0 := nextField (lo := 0) g0 (by decide)
  have n1 := nextField (lo := 5) n0.2 l.isLt
  have n2 := nextField (lo := 9) n1.2 z.isLt
  have n3 := nextField (lo := 14) n2.2 (by decide)
  have ho : w0 / 2 ^ 24 = 200 := n3.2
  refine laneWord rfl hw ho (by decide) ?_ h0
  have hi : fld w0 28 4 = 12 := (opcode ho).1
  have lo : fld w0 24 4 = 8 := (opcode ho).2
  have e_z : bits w0 9 5 = z := bits_eq n2.1
  have e_l : bits w0 5 4 = l := bits_eq n1.1
  have r9_5 : fld w0 9 5 = z.toNat := n2.1
  have r14_10 : fld w0 14 10 = 0 := n3.1
  have r0_5 : fld w0 0 5 = 0 := n0.1
  have c0 : (fld w0 0 5 == 0 && fld w0 14 10 == 0 && (fld w0 9 5) % 4 == 0) = true := by simp [r0_5, r9_5, r14_10, hv]
  unfold decodeMajor; rw [hi]; simp only []; unfold decodeMajorC; rw [lo]; simp only [c0, cond_true]; rw [e_z, e_l]

theorem RoundTrip.crpopSeq (z : BitVec 5) (l : BitVec 4) : RoundTrip.Statement (.crpopSeq z l) := by
  have e : encode (.crpopSeq z l) = packWord 0 [(0xc8, 8), (0, 10), (z.toNat, 5), (l.toNat, 4), (1, 5)] := rfl
  simp only [packWord] at e
  obtain ⟨w0, hw⟩ : ∃ w0, encode (.crpopSeq z l) = w0 := ⟨_, rfl⟩
  rw [hw] at e
  have g0 := (Nat.div_one w0).trans e
  have n0 := nextField (lo := 0) g0 (by decide)
  have n1 := nextField (lo := 5) n0.2 l.isLt
  have n2 := nextField (lo := 9) n1.2 z.isLt
  have n3 := nextField (lo := 14) n2.2 (by decide)
  have ho : w0 / 2 ^ 24 = 200 := n3.2
  refine laneWord rfl hw ho (by decide) ?_
  have hi : fld w0 28 4 = 12 := (opcode ho).1
  have lo : fld w0 24 4 = 8 := (opcode ho).2
  have e_z : bits w0 9 5 = z := bits_eq n2.1
  have e_l : bits w0 5 4 = l := bits_eq n1.1
  have r9_5 : fld w0 9 5 = z.toNat := n2.1
  have r14_10 : fld w0 14 10 = 0 := n3.1
  have r0_5 : fld w0 0 5 = 1 := n0.1
  have c0 : (fld w0 0 5 == 0 && fld w0 14 10 == 0 && (fld w0 9 5) % 4 == 0) = false := by simp [r0_5]
  have c1 : (fld w0 0 5 == 1 && fld w0 14 10 == 0) = true := by simp [r0_5, r14_10]
  unfold decodeMajor; rw [hi]; simp only []; unfold decodeMajorC; rw [lo]; simp only [c0, c1, cond_true, cond_false]; rw [e_z, e_l]

theorem RoundTrip.crpopDrop (z : BitVec 5) (l : BitVec 4) : RoundTrip.Statement (.crpopDrop z l) := by
  have e : encode (.crpopDrop z l) = packWord 0 [(0xc8, 8), (0, 10), (z.toNat, 5), (l.toNat, 4), (2, 5)] := rfl
  simp only [packWord] at e
  obtain ⟨w0, hw⟩ : ∃ w0, encode (.crpopDrop z l) = w0 := ⟨_, rfl⟩
  rw [hw] at e
  have g0 := (Nat.div_one w0).trans e
  have n0 := nextField (lo := 0) g0 (by decide)
  have n1 := nextField (lo := 5) n0.2 l.isLt
  have n2 := nextField (lo := 9) n1.2 z.isLt
  have n3 := nextField (lo := 14) n2.2 (by decide)
  have ho : w0 / 2 ^ 24 = 200 := n3.2
  refine laneWord rfl hw ho (by decide) ?_
  have hi : fld w0 28 4 = 12 := (opcode ho).1
  have lo : fld w0 24 4 = 8 := (opcode ho).2
  have e_z : bits w0 9 5 = z := bits_eq n2.1
  have e_l : bits w0 5 4 = l := bits_eq n1.1
  have r9_5 : fld w0 9 5 = z.toNat := n2.1
  have r14_10 : fld w0 14 10 = 0 := n3.1
  have r0_5 : fld w0 0 5 = 2 := n0.1
  have c0 : (fld w0 0 5 == 0 && fld w0 14 10 == 0 && (fld w0 9 5) % 4 == 0) = false := by simp [r0_5]
  have c1 : (fld w0 0 5 == 1 && fld w0 14 10 == 0) = false := by simp [r0_5]
  have c2 : (fld w0 0 5 == 2 && fld w0 14 10 == 0) = true := by simp [r0_5, r14_10]
  unfold decodeMajor; rw [hi]; simp only []; unfold decodeMajorC; rw [lo]; simp only [c0, c1, c2, cond_true, cond_false]; rw [e_z, e_l]

theorem RoundTrip.mbxget (z : BitVec 5) (l : BitVec 4) : RoundTrip.Statement (.mbxget z l) := by
  intro h0; have hv : (z.toNat % 8 == 0) = true := h0
  have e : encode (.mbxget z l) = packWord 0 [(0xd0, 8), (0, 10), (z.toNat, 5), (l.toNat, 4), (0, 5)] := rfl
  simp only [packWord] at e
  obtain ⟨w0, hw⟩ : ∃ w0, encode (.mbxget z l) = w0 := ⟨_, rfl⟩
  rw [hw] at e
  have g0 := (Nat.div_one w0).trans e
  have n0 := nextField (lo := 0) g0 (by decide)
  have n1 := nextField (lo := 5) n0.2 l.isLt
  have n2 := nextField (lo := 9) n1.2 z.isLt
  have n3 := nextField (lo := 14) n2.2 (by decide)
  have ho : w0 / 2 ^ 24 = 208 := n3.2
  refine laneWord rfl hw ho (by decide) ?_ h0
  have hi : fld w0 28 4 = 13 := (opcode ho).1
  have lo : fld w0 24 4 = 0 := (opcode ho).2
  have e_z : bits w0 9 5 = z := bits_eq n2.1
  have e_l : bits w0 5 4 = l := bits_eq n1.1
  have r9_5 : fld w0 9 5 = z.toNat := n2.1
  have r14_10 : fld w0 14 10 = 0 := n3.1
  have r0_5 : fld w0 0 5 = 0 := n0.1
  have c0 : (fld w0 0 5 == 0 && fld w0 14 10 == 0 && (fld w0 9 5) % 8 == 0) = true := by simp [r0_5, r9_5, r14_10, hv]
  unfold decodeMajor; rw [hi]; simp only []; unfold decodeMajorD; rw [lo]; simp only [c0, cond_true]; rw [e_z, e_l]

theorem RoundTrip.mbxgetSp (y : BitVec 5) (z : BitVec 5) (l : BitVec 4) : RoundTrip.Statement (.mbxgetSp y z l) := by
  have e : encode (.mbxgetSp y z l) = packWord 0 [(0xd0, 8), (0, 5), (y.toNat, 5), (z.toNat, 5), (l.toNat, 4), (1, 5)] := rfl
  simp only [packWord] at e
  obtain ⟨w0, hw⟩ : ∃ w0, encode (.mbxgetSp y z l) = w0 := ⟨_, rfl⟩
  rw [hw] at e
  have g0 := (Nat.div_one w0).trans e
  have n0 := nextField (lo := 0) g0 (by decide)
  have n1 := nextField (lo := 5) n0.2 l.isLt
  have n2 := nextField (lo := 9) n1.2 z.isLt
  have n3 := nextField (lo := 14) n2.2 y.isLt
  have n4 := nextField (lo := 19) n3.2 (by decide)
  have ho : w0 / 2 ^ 24 = 208 := n4.2
  refine laneWord rfl hw ho (by decide) ?_
  have hi : fld w0 28 4 = 13 := (opcode ho).1
  have lo : fld w0 24 4 = 0 := (opcode ho).2
  have e_y : bits w0 14 5 = y := bits_eq n3.1
  have e_z : bits w0 9 5 = z := bits_eq n2.1
  have e_l : bits w0 5 4 = l := bits_eq n1.1
  have r9_5 : fld w0 9 5 = z.toNat := n2.1
  have r0_5 : fld w0 0 5 = 1 := n0.1
  have c0 : (fld w0 0 5 == 0 && fld w0 14 10 == 0 && (fld w0 9 5) % 8 == 0) = false := by simp [r0_5]
  have r19_5 : fld w0 19 5 = 0 := n4.1
  have c1 : (fld w0 0 5 == 1 && fld w0 19 5 == 0) = true := by simp [r0_5, r19_5]
  unfold decodeMajor; rw [hi]; simp only []; unfold decodeMajorD; rw [lo]; simp only [c0, c1, cond_true, cond_false]; rw [e_y, e_z, e_l]

theorem RoundTrip.mbxarm (y : BitVec 5) : RoundTrip.Statement (.mbxarm y) := by
  have e : encode (.mbxarm y) = packWord 0 [(0xd1, 8), (0, 5), (y.toNat, 5), (0, 14)] := rfl
  simp only [packWord] at e
  obtain ⟨w0, hw⟩ : ∃ w0, encode (.mbxarm y) = w0 := ⟨_, rfl⟩
  rw [hw] at e
  have g0 := (Nat.div_one w0).trans e
  have n0 := nextField (lo := 0) g0 (by decide)
  have n1 := nextField (lo := 14) n0.2 y.isLt
  have n2 := nextField (lo := 19) n1.2 (by decide)
  have ho : w0 / 2 ^ 24 = 209 := n2.2
  refine laneWord rfl hw ho (by decide) ?_
  have hi : fld w0 28 4 = 13 := (opcode ho).1
  have lo : fld w0 24 4 = 1 := (opcode ho).2
  have e_y : bits w0 14 5 = y := bits_eq n1.1
  have r0_14 : fld w0 0 14 = 0 := n0.1
  have r19_5 : fld w0 19 5 = 0 := n2.1
  have c0 : (fld w0 0 14 == 0 && fld w0 19 5 == 0) = true := by simp [r0_14, r19_5]
  unfold decodeMajor; rw [hi]; simp only []; unfold decodeMajorD; rw [lo]; simp only [c0, cond_true]; rw [e_y]

theorem RoundTrip.mbxarmCancel (y : BitVec 5) (z : BitVec 5) : RoundTrip.Statement (.mbxarmCancel y z) := by
  have e : encode (.mbxarmCancel y z) = packWord 0 [(0xd1, 8), (0, 5), (y.toNat, 5), (z.toNat, 5), (1, 9)] := rfl
  simp only [packWord] at e
  obtain ⟨w0, hw⟩ : ∃ w0, encode (.mbxarmCancel y z) = w0 := ⟨_, rfl⟩
  rw [hw] at e
  have g0 := (Nat.div_one w0).trans e
  have n0 := nextField (lo := 0) g0 (by decide)
  have n1 := nextField (lo := 9) n0.2 z.isLt
  have n2 := nextField (lo := 14) n1.2 y.isLt
  have n3 := nextField (lo := 19) n2.2 (by decide)
  have ho : w0 / 2 ^ 24 = 209 := n3.2
  refine laneWord rfl hw ho (by decide) ?_
  have hi : fld w0 28 4 = 13 := (opcode ho).1
  have lo : fld w0 24 4 = 1 := (opcode ho).2
  have e_y : bits w0 14 5 = y := bits_eq n2.1
  have e_z : bits w0 9 5 = z := bits_eq n1.1
  have r19_5 : fld w0 19 5 = 0 := n3.1
  have c0 : (fld w0 0 14 == 0 && fld w0 19 5 == 0) = false := by
    apply Bool.eq_false_iff.mpr; unfold fld; simp only [ne_eq, Bool.and_eq_true, beq_iff_eq, decide_eq_true_eq]
    have := y.isLt
    have := z.isLt
    omega
  have r0_9 : fld w0 0 9 = 1 := n0.1
  have c1 : (fld w0 0 9 == 1 && fld w0 19 5 == 0) = true := by simp [r0_9, r19_5]
  unfold decodeMajor; rw [hi]; simp only []; unfold decodeMajorD; rw [lo]; simp only [c0, c1, cond_true, cond_false]; rw [e_y, e_z]

theorem RoundTrip.jobdone : RoundTrip.Statement (.jobdone) := by
  have e : encode (.jobdone) = packWord 0 [(0xd2, 8), (0, 24)] := rfl
  simp only [packWord] at e
  obtain ⟨w0, hw⟩ : ∃ w0, encode (.jobdone) = w0 := ⟨_, rfl⟩
  rw [hw] at e
  have g0 := (Nat.div_one w0).trans e
  have n0 := nextField (lo := 0) g0 (by decide)
  have ho : w0 / 2 ^ 24 = 210 := n0.2
  refine laneWord rfl hw ho (by decide) ?_
  have hi : fld w0 28 4 = 13 := (opcode ho).1
  have lo : fld w0 24 4 = 2 := (opcode ho).2
  have r0_24 : fld w0 0 24 = 0 := n0.1
  have c0 : (fld w0 0 24 == 0) = true := by simp [r0_24]
  unfold decodeMajor; rw [hi]; simp only []; unfold decodeMajorD; rw [lo]; simp only [c0, cond_true]

theorem RoundTrip.evsigAdd (x : BitVec 5) (y : BitVec 5) : RoundTrip.Statement (.evsigAdd x y) := by
  have e : encode (.evsigAdd x y) = packWord 0 [(0xd3, 8), (x.toNat, 5), (y.toNat, 5), (0, 14)] := rfl
  simp only [packWord] at e
  obtain ⟨w0, hw⟩ : ∃ w0, encode (.evsigAdd x y) = w0 := ⟨_, rfl⟩
  rw [hw] at e
  have g0 := (Nat.div_one w0).trans e
  have n0 := nextField (lo := 0) g0 (by decide)
  have n1 := nextField (lo := 14) n0.2 y.isLt
  have n2 := nextField (lo := 19) n1.2 x.isLt
  have ho : w0 / 2 ^ 24 = 211 := n2.2
  refine laneWord rfl hw ho (by decide) ?_
  have hi : fld w0 28 4 = 13 := (opcode ho).1
  have lo : fld w0 24 4 = 3 := (opcode ho).2
  have e_x : bits w0 19 5 = x := bits_eq n2.1
  have e_y : bits w0 14 5 = y := bits_eq n1.1
  have r0_14 : fld w0 0 14 = 0 := n0.1
  have c0 : (fld w0 0 14 == 0) = true := by simp [r0_14]
  unfold decodeMajor; rw [hi]; simp only []; unfold decodeMajorD; rw [lo]; simp only [c0, cond_true]; rw [e_x, e_y]

theorem RoundTrip.evsigReset (x : BitVec 5) (y : BitVec 5) (z : BitVec 5) : RoundTrip.Statement (.evsigReset x y z) := by
  have e : encode (.evsigReset x y z) = packWord 0 [(0xd3, 8), (x.toNat, 5), (y.toNat, 5), (z.toNat, 5), (1, 9)] := rfl
  simp only [packWord] at e
  obtain ⟨w0, hw⟩ : ∃ w0, encode (.evsigReset x y z) = w0 := ⟨_, rfl⟩
  rw [hw] at e
  have g0 := (Nat.div_one w0).trans e
  have n0 := nextField (lo := 0) g0 (by decide)
  have n1 := nextField (lo := 9) n0.2 z.isLt
  have n2 := nextField (lo := 14) n1.2 y.isLt
  have n3 := nextField (lo := 19) n2.2 x.isLt
  have ho : w0 / 2 ^ 24 = 211 := n3.2
  refine laneWord rfl hw ho (by decide) ?_
  have hi : fld w0 28 4 = 13 := (opcode ho).1
  have lo : fld w0 24 4 = 3 := (opcode ho).2
  have e_x : bits w0 19 5 = x := bits_eq n3.1
  have e_y : bits w0 14 5 = y := bits_eq n2.1
  have e_z : bits w0 9 5 = z := bits_eq n1.1
  have c0 : (fld w0 0 14 == 0) = false := by
    apply Bool.eq_false_iff.mpr; unfold fld; simp only [ne_eq, Bool.and_eq_true, beq_iff_eq, decide_eq_true_eq]
    have := x.isLt
    have := y.isLt
    have := z.isLt
    omega
  have r0_9 : fld w0 0 9 = 1 := n0.1
  have c1 : (fld w0 0 9 == 1) = true := by simp [r0_9]
  unfold decodeMajor; rw [hi]; simp only []; unfold decodeMajorD; rw [lo]; simp only [c0, c1, cond_true, cond_false]; rw [e_x, e_y, e_z]

theorem RoundTrip.evarm (x : BitVec 5) (y : BitVec 5) (z : BitVec 5) : RoundTrip.Statement (.evarm x y z) := by
  have e : encode (.evarm x y z) = packWord 0 [(0xd4, 8), (x.toNat, 5), (y.toNat, 5), (z.toNat, 5), (0, 9)] := rfl
  simp only [packWord] at e
  obtain ⟨w0, hw⟩ : ∃ w0, encode (.evarm x y z) = w0 := ⟨_, rfl⟩
  rw [hw] at e
  have g0 := (Nat.div_one w0).trans e
  have n0 := nextField (lo := 0) g0 (by decide)
  have n1 := nextField (lo := 9) n0.2 z.isLt
  have n2 := nextField (lo := 14) n1.2 y.isLt
  have n3 := nextField (lo := 19) n2.2 x.isLt
  have ho : w0 / 2 ^ 24 = 212 := n3.2
  refine laneWord rfl hw ho (by decide) ?_
  have hi : fld w0 28 4 = 13 := (opcode ho).1
  have lo : fld w0 24 4 = 4 := (opcode ho).2
  have e_x : bits w0 19 5 = x := bits_eq n3.1
  have e_y : bits w0 14 5 = y := bits_eq n2.1
  have e_z : bits w0 9 5 = z := bits_eq n1.1
  have r0_9 : fld w0 0 9 = 0 := n0.1
  have r19_5 : fld w0 19 5 = x.toNat := n3.1
  have c0 : (fld w0 0 9 == 1 && fld w0 19 5 == 0) = false := by simp [r0_9]
  have c1 : (fld w0 0 9 == 0) = true := by simp [r0_9]
  unfold decodeMajor; rw [hi]; simp only []; unfold decodeMajorD; rw [lo]; simp only [c0, c1, cond_true, cond_false]; rw [e_x, e_y, e_z]

theorem RoundTrip.evarmCancel (y : BitVec 5) (z : BitVec 5) : RoundTrip.Statement (.evarmCancel y z) := by
  have e : encode (.evarmCancel y z) = packWord 0 [(0xd4, 8), (0, 5), (y.toNat, 5), (z.toNat, 5), (1, 9)] := rfl
  simp only [packWord] at e
  obtain ⟨w0, hw⟩ : ∃ w0, encode (.evarmCancel y z) = w0 := ⟨_, rfl⟩
  rw [hw] at e
  have g0 := (Nat.div_one w0).trans e
  have n0 := nextField (lo := 0) g0 (by decide)
  have n1 := nextField (lo := 9) n0.2 z.isLt
  have n2 := nextField (lo := 14) n1.2 y.isLt
  have n3 := nextField (lo := 19) n2.2 (by decide)
  have ho : w0 / 2 ^ 24 = 212 := n3.2
  refine laneWord rfl hw ho (by decide) ?_
  have hi : fld w0 28 4 = 13 := (opcode ho).1
  have lo : fld w0 24 4 = 4 := (opcode ho).2
  have e_y : bits w0 14 5 = y := bits_eq n2.1
  have e_z : bits w0 9 5 = z := bits_eq n1.1
  have r0_9 : fld w0 0 9 = 1 := n0.1
  have r19_5 : fld w0 19 5 = 0 := n3.1
  have c0 : (fld w0 0 9 == 1 && fld w0 19 5 == 0) = true := by simp [r0_9, r19_5]
  unfold decodeMajor; rw [hi]; simp only []; unfold decodeMajorD; rw [lo]; simp only [c0, cond_true]; rw [e_y, e_z]

theorem RoundTrip.evqry (x : BitVec 5) (z : BitVec 5) (l : BitVec 4) (h : BitVec 1) : RoundTrip.Statement (.evqry x z l h) := by
  have e : encode (.evqry x z l h) = packWord 0 [(0xd5, 8), (x.toNat, 5), (0, 5), (z.toNat, 5), (l.toNat, 4), (0, 4), (h.toNat, 1)] := rfl
  simp only [packWord] at e
  obtain ⟨w0, hw⟩ : ∃ w0, encode (.evqry x z l h) = w0 := ⟨_, rfl⟩
  rw [hw] at e
  have g0 := (Nat.div_one w0).trans e
  have n0 := nextField (lo := 0) g0 h.isLt
  have n1 := nextField (lo := 1) n0.2 (by decide)
  have n2 := nextField (lo := 5) n1.2 l.isLt
  have n3 := nextField (lo := 9) n2.2 z.isLt
  have n4 := nextField (lo := 14) n3.2 (by decide)
  have n5 := nextField (lo := 19) n4.2 x.isLt
  have ho : w0 / 2 ^ 24 = 213 := n5.2
  refine laneWord rfl hw ho (by decide) ?_
  have hi : fld w0 28 4 = 13 := (opcode ho).1
  have lo : fld w0 24 4 = 5 := (opcode ho).2
  have e_x : bits w0 19 5 = x := bits_eq n5.1
  have e_z : bits w0 9 5 = z := bits_eq n3.1
  have e_l : bits w0 5 4 = l := bits_eq n2.1
  have e_h : bits w0 0 1 = h := bits_eq n0.1
  have r14_5 : fld w0 14 5 = 0 := n4.1
  have r1_4 : fld w0 1 4 = 0 := n1.1
  have c0 : (fld w0 1 4 == 0 && fld w0 14 5 == 0) = true := by simp [r1_4, r14_5]
  unfold decodeMajor; rw [hi]; simp only []; unfold decodeMajorD; rw [lo]; simp only [c0, cond_true]; rw [e_x, e_z, e_l, e_h]

theorem RoundTrip.opapp (x : BitVec 5) (y : BitVec 5) (z : BitVec 5) (l : BitVec 4) : RoundTrip.Statement (.opapp x y z l) := by
  have e : encode (.opapp x y z l) = packWord 0 [(0xd6, 8), (x.toNat, 5), (y.toNat, 5), (z.toNat, 5), (l.toNat, 4), (0, 5)] := rfl
  simp only [packWord] at e
  obtain ⟨w0, hw⟩ : ∃ w0, encode (.opapp x y z l) = w0 := ⟨_, rfl⟩
  rw [hw] at e
  have g0 := (Nat.div_one w0).trans e
  have n0 := nextField (lo := 0) g0 (by decide)
  have n1 := nextField (lo := 5) n0.2 l.isLt
  have n2 := nextField (lo := 9) n1.2 z.isLt
  have n3 := nextField (lo := 14) n2.2 y.isLt
  have n4 := nextField (lo := 19) n3.2 x.isLt
  have ho : w0 / 2 ^ 24 = 214 := n4.2
  refine laneWord rfl hw ho (by decide) ?_
  have hi : fld w0 28 4 = 13 := (opcode ho).1
  have lo : fld w0 24 4 = 6 := (opcode ho).2
  have e_x : bits w0 19 5 = x := bits_eq n4.1
  have e_y : bits w0 14 5 = y := bits_eq n3.1
  have e_z : bits w0 9 5 = z := bits_eq n2.1
  have e_l : bits w0 5 4 = l := bits_eq n1.1
  have r0_5 : fld w0 0 5 = 0 := n0.1
  have c0 : (fld w0 0 5 == 0) = true := by simp [r0_5]
  unfold decodeMajor; rw [hi]; simp only []; unfold decodeMajorD; rw [lo]; simp only [c0, cond_true]; rw [e_x, e_y, e_z, e_l]

theorem RoundTrip.fixup (x : BitVec 5) (z : BitVec 5) : RoundTrip.Statement (.fixup x z) := by
  have e : encode (.fixup x z) = packWord 0 [(0xd7, 8), (x.toNat, 5), (0, 5), (z.toNat, 5), (0, 9)] := rfl
  simp only [packWord] at e
  obtain ⟨w0, hw⟩ : ∃ w0, encode (.fixup x z) = w0 := ⟨_, rfl⟩
  rw [hw] at e
  have g0 := (Nat.div_one w0).trans e
  have n0 := nextField (lo := 0) g0 (by decide)
  have n1 := nextField (lo := 9) n0.2 z.isLt
  have n2 := nextField (lo := 14) n1.2 (by decide)
  have n3 := nextField (lo := 19) n2.2 x.isLt
  have ho : w0 / 2 ^ 24 = 215 := n3.2
  refine laneWord rfl hw ho (by decide) ?_
  have hi : fld w0 28 4 = 13 := (opcode ho).1
  have lo : fld w0 24 4 = 7 := (opcode ho).2
  have e_x : bits w0 19 5 = x := bits_eq n3.1
  have e_z : bits w0 9 5 = z := bits_eq n1.1
  have r0_9 : fld w0 0 9 = 0 := n0.1
  have r14_5 : fld w0 14 5 = 0 := n2.1
  have c0 : (fld w0 0 9 == 0 && fld w0 14 5 == 0) = true := by simp [r0_9, r14_5]
  unfold decodeMajor; rw [hi]; simp only []; unfold decodeMajorD; rw [lo]; simp only [c0, cond_true]; rw [e_x, e_z]

theorem RoundTrip.lmap (y : BitVec 5) (z : BitVec 5) (l : BitVec 4) (n : BitVec 3) : RoundTrip.Statement (.lmap y z l n) := by
  have e : encode (.lmap y z l n) = packWord 0 [(0xe0, 8), (0, 5), (y.toNat, 5), (z.toNat, 5), (l.toNat, 4), (0, 2), (n.toNat, 3)] := rfl
  simp only [packWord] at e
  obtain ⟨w0, hw⟩ : ∃ w0, encode (.lmap y z l n) = w0 := ⟨_, rfl⟩
  rw [hw] at e
  have g0 := (Nat.div_one w0).trans e
  have n0 := nextField (lo := 0) g0 n.isLt
  have n1 := nextField (lo := 3) n0.2 (by decide)
  have n2 := nextField (lo := 5) n1.2 l.isLt
  have n3 := nextField (lo := 9) n2.2 z.isLt
  have n4 := nextField (lo := 14) n3.2 y.isLt
  have n5 := nextField (lo := 19) n4.2 (by decide)
  have ho : w0 / 2 ^ 24 = 224 := n5.2
  refine laneWord rfl hw ho (by decide) ?_
  have hi : fld w0 28 4 = 14 := (opcode ho).1
  have lo : fld w0 24 4 = 0 := (opcode ho).2
  have e_y : bits w0 14 5 = y := bits_eq n4.1
  have e_z : bits w0 9 5 = z := bits_eq n3.1
  have e_l : bits w0 5 4 = l := bits_eq n2.1
  have e_n : bits w0 0 3 = n := bits_eq n0.1
  have r3_2 : fld w0 3 2 = 0 := n1.1
  have r19_5 : fld w0 19 5 = 0 := n5.1
  have c0 : (fld w0 3 2 == 0 && fld w0 19 5 == 0) = true := by simp [r3_2, r19_5]
  unfold decodeMajor; rw [hi]; simp only []; unfold decodeMajorE; rw [lo]; simp only [c0, cond_true]; rw [e_y, e_z, e_l, e_n]

theorem RoundTrip.xa2a (x : BitVec 5) (y : BitVec 5) (z : BitVec 5) (l : BitVec 4) (n : BitVec 1) (m : BitVec 3) : RoundTrip.Statement (.xa2a x y z l n m) := by
  have e : encode (.xa2a x y z l n m) = packWord 0 [(0xe1, 8), (x.toNat, 5), (y.toNat, 5), (z.toNat, 5), (l.toNat, 4), (0, 1), (n.toNat, 1), (m.toNat, 3)] := rfl
  simp only [packWord] at e
  obtain ⟨w0, hw⟩ : ∃ w0, encode (.xa2a x y z l n m) = w0 := ⟨_, rfl⟩
  rw [hw] at e
  have g0 := (Nat.div_one w0).trans e
  have n0 := nextField (lo := 0) g0 m.isLt
  have n1 := nextField (lo := 3) n0.2 n.isLt
  have n2 := nextField (lo := 4) n1.2 (by decide)
  have n3 := nextField (lo := 5) n2.2 l.isLt
  have n4 := nextField (lo := 9) n3.2 z.isLt
  have n5 := nextField (lo := 14) n4.2 y.isLt
  have n6 := nextField (lo := 19) n5.2 x.isLt
  have ho : w0 / 2 ^ 24 = 225 := n6.2
  refine laneWord rfl hw ho (by decide) ?_
  have hi : fld w0 28 4 = 14 := (opcode ho).1
  have lo : fld w0 24 4 = 1 := (opcode ho).2
  have e_x : bits w0 19 5 = x := bits_eq n6.1
  have e_y : bits w0 14 5 = y := bits_eq n5.1
  have e_z : bits w0 9 5 = z := bits_eq n4.1
  have e_l : bits w0 5 4 = l := bits_eq n3.1
  have e_n : bits w0 3 1 = n := bits_eq n1.1
  have e_m : bits w0 0 3 = m := bits_eq n0.1
  have r4_1 : fld w0 4 1 = 0 := n2.1
  have c0 : (fld w0 4 1 == 0) = true := by simp [r4_1]
  unfold decodeMajor; rw [hi]; simp only []; unfold decodeMajorE; rw [lo]; simp only [c0, cond_true]; rw [e_x, e_y, e_z, e_l, e_n, e_m]

theorem RoundTrip.xag (x : BitVec 5) (y : BitVec 5) (z : BitVec 5) (l : BitVec 4) (n : BitVec 1) (m : BitVec 3) : RoundTrip.Statement (.xag x y z l n m) := by
  have e : encode (.xag x y z l n m) = packWord 0 [(0xe2, 8), (x.toNat, 5), (y.toNat, 5), (z.toNat, 5), (l.toNat, 4), (0, 1), (n.toNat, 1), (m.toNat, 3)] := rfl
  simp only [packWord] at e
  obtain ⟨w0, hw⟩ : ∃ w0, encode (.xag x y z l n m) = w0 := ⟨_, rfl⟩
  rw [hw] at e
  have g0 := (Nat.div_one w0).trans e
  have n0 := nextField (lo := 0) g0 m.isLt
  have n1 := nextField (lo := 3) n0.2 n.isLt
  have n2 := nextField (lo := 4) n1.2 (by decide)
  have n3 := nextField (lo := 5) n2.2 l.isLt
  have n4 := nextField (lo := 9) n3.2 z.isLt
  have n5 := nextField (lo := 14) n4.2 y.isLt
  have n6 := nextField (lo := 19) n5.2 x.isLt
  have ho : w0 / 2 ^ 24 = 226 := n6.2
  refine laneWord rfl hw ho (by decide) ?_
  have hi : fld w0 28 4 = 14 := (opcode ho).1
  have lo : fld w0 24 4 = 2 := (opcode ho).2
  have e_x : bits w0 19 5 = x := bits_eq n6.1
  have e_y : bits w0 14 5 = y := bits_eq n5.1
  have e_z : bits w0 9 5 = z := bits_eq n4.1
  have e_l : bits w0 5 4 = l := bits_eq n3.1
  have e_n : bits w0 3 1 = n := bits_eq n1.1
  have e_m : bits w0 0 3 = m := bits_eq n0.1
  have r4_1 : fld w0 4 1 = 0 := n2.1
  have c0 : (fld w0 4 1 == 0) = true := by simp [r4_1]
  unfold decodeMajor; rw [hi]; simp only []; unfold decodeMajorE; rw [lo]; simp only [c0, cond_true]; rw [e_x, e_y, e_z, e_l, e_n, e_m]

theorem RoundTrip.xrs (x : BitVec 5) (y : BitVec 5) (z : BitVec 5) (l : BitVec 4) (n : BitVec 1) (m : BitVec 3) : RoundTrip.Statement (.xrs x y z l n m) := by
  have e : encode (.xrs x y z l n m) = packWord 0 [(0xe3, 8), (x.toNat, 5), (y.toNat, 5), (z.toNat, 5), (l.toNat, 4), (0, 1), (n.toNat, 1), (m.toNat, 3)] := rfl
  simp only [packWord] at e
  obtain ⟨w0, hw⟩ : ∃ w0, encode (.xrs x y z l n m) = w0 := ⟨_, rfl⟩
  rw [hw] at e
  have g0 := (Nat.div_one w0).trans e
  have n0 := nextField (lo := 0) g0 m.isLt
  have n1 := nextField (lo := 3) n0.2 n.isLt
  have n2 := nextField (lo := 4) n1.2 (by decide)
  have n3 := nextField (lo := 5) n2.2 l.isLt
  have n4 := nextField (lo := 9) n3.2 z.isLt
  have n5 := nextField (lo := 14) n4.2 y.isLt
  have n6 := nextField (lo := 19) n5.2 x.isLt
  have ho : w0 / 2 ^ 24 = 227 := n6.2
  refine laneWord rfl hw ho (by decide) ?_
  have hi : fld w0 28 4 = 14 := (opcode ho).1
  have lo : fld w0 24 4 = 3 := (opcode ho).2
  have e_x : bits w0 19 5 = x := bits_eq n6.1
  have e_y : bits w0 14 5 = y := bits_eq n5.1
  have e_z : bits w0 9 5 = z := bits_eq n4.1
  have e_l : bits w0 5 4 = l := bits_eq n3.1
  have e_n : bits w0 3 1 = n := bits_eq n1.1
  have e_m : bits w0 0 3 = m := bits_eq n0.1
  have r4_1 : fld w0 4 1 = 0 := n2.1
  have c0 : (fld w0 4 1 == 0) = true := by simp [r4_1]
  unfold decodeMajor; rw [hi]; simp only []; unfold decodeMajorE; rw [lo]; simp only [c0, cond_true]; rw [e_x, e_y, e_z, e_l, e_n, e_m]

theorem RoundTrip.rdcfRange (x : BitVec 5) (y : BitVec 5) (z : BitVec 5) (l : BitVec 4) : RoundTrip.Statement (.rdcfRange x y z l) := by
  have e : encode (.rdcfRange x y z l) = packWord 0 [(0xe4, 8), (x.toNat, 5), (y.toNat, 5), (z.toNat, 5), (l.toNat, 4), (0, 5)] := rfl
  simp only [packWord] at e
  obtain ⟨w0, hw⟩ : ∃ w0, encode (.rdcfRange x y z l) = w0 := ⟨_, rfl⟩
  rw [hw] at e
  have g0 := (Nat.div_one w0).trans e
  have n0 := nextField (lo := 0) g0 (by decide)
  have n1 := nextField (lo := 5) n0.2 l.isLt
  have n2 := nextField (lo := 9) n1.2 z.isLt
  have n3 := nextField (lo := 14) n2.2 y.isLt
  have n4 := nextField (lo := 19) n3.2 x.isLt
  have ho : w0 / 2 ^ 24 = 228 := n4.2
  refine laneWord rfl hw ho (by decide) ?_
  have hi : fld w0 28 4 = 14 := (opcode ho).1
  have lo : fld w0 24 4 = 4 := (opcode ho).2
  have e_x : bits w0 19 5 = x := bits_eq n4.1
  have e_y : bits w0 14 5 = y := bits_eq n3.1
  have e_z : bits w0 9 5 = z := bits_eq n2.1
  have e_l : bits w0 5 4 = l := bits_eq n1.1
  have r19_5 : fld w0 19 5 = x.toNat := n4.1
  have r0_5 : fld w0 0 5 = 0 := n0.1
  have c0 : (fld w0 0 5 == 1 && fld w0 19 5 == 0) = false := by simp [r0_5]
  have c1 : (fld w0 0 5 == 0) = true := by simp [r0_5]
  unfold decodeMajor; rw [hi]; simp only []; unfold decodeMajorE; rw [lo]; simp only [c0, c1, cond_true, cond_false]; rw [e_x, e_y, e_z, e_l]

theorem RoundTrip.rdcfMod (y : BitVec 5) (z : BitVec 5) (l : BitVec 4) : RoundTrip.Statement (.rdcfMod y z l) := by
  have e : encode (.rdcfMod y z l) = packWord 0 [(0xe4, 8), (0, 5), (y.toNat, 5), (z.toNat, 5), (l.toNat, 4), (1, 5)] := rfl
  simp only [packWord] at e
  obtain ⟨w0, hw⟩ : ∃ w0, encode (.rdcfMod y z l) = w0 := ⟨_, rfl⟩
  rw [hw] at e
  have g0 := (Nat.div_one w0).trans e
  have n0 := nextField (lo := 0) g0 (by decide)
  have n1 := nextField (lo := 5) n0.2 l.isLt
  have n2 := nextField (lo := 9) n1.2 z.isLt
  have n3 := nextField (lo := 14) n2.2 y.isLt
  have n4 := nextField (lo := 19) n3.2 (by decide)
  have ho : w0 / 2 ^ 24 = 228 := n4.2
  refine laneWord rfl hw ho (by decide) ?_
  have hi : fld w0 28 4 = 14 := (opcode ho).1
  have lo : fld w0 24 4 = 4 := (opcode ho).2
  have e_y : bits w0 14 5 = y := bits_eq n3.1
  have e_z : bits w0 9 5 = z := bits_eq n2.1
  have e_l : bits w0 5 4 = l := bits_eq n1.1
  have r19_5 : fld w0 19 5 = 0 := n4.1
  have r0_5 : fld w0 0 5 = 1 := n0.1
  have c0 : (fld w0 0 5 == 1 && fld w0 19 5 == 0) = true := by simp [r0_5, r19_5]
  unfold decodeMajor; rw [hi]; simp only []; unfold decodeMajorE; rw [lo]; simp only [c0, cond_true]; rw [e_y, e_z, e_l]

theorem RoundTrip.fqryPort (y : BitVec 5) (z : BitVec 5) (l : BitVec 4) : RoundTrip.Statement (.fqryPort y z l) := by
  have e : encode (.fqryPort y z l) = packWord 0 [(0xe5, 8), (0, 5), (y.toNat, 5), (z.toNat, 5), (l.toNat, 4), (0, 5)] := rfl
  simp only [packWord] at e
  obtain ⟨w0, hw⟩ : ∃ w0, encode (.fqryPort y z l) = w0 := ⟨_, rfl⟩
  rw [hw] at e
  have g0 := (Nat.div_one w0).trans e
  have n0 := nextField (lo := 0) g0 (by decide)
  have n1 := nextField (lo := 5) n0.2 l.isLt
  have n2 := nextField (lo := 9) n1.2 z.isLt
  have n3 := nextField (lo := 14) n2.2 y.isLt
  have n4 := nextField (lo := 19) n3.2 (by decide)
  have ho : w0 / 2 ^ 24 = 229 := n4.2
  refine laneWord rfl hw ho (by decide) ?_
  have hi : fld w0 28 4 = 14 := (opcode ho).1
  have lo : fld w0 24 4 = 5 := (opcode ho).2
  have e_y : bits w0 14 5 = y := bits_eq n3.1
  have e_z : bits w0 9 5 = z := bits_eq n2.1
  have e_l : bits w0 5 4 = l := bits_eq n1.1
  have r19_5 : fld w0 19 5 = 0 := n4.1
  have r0_5 : fld w0 0 5 = 0 := n0.1
  have c0 : (fld w0 0 5 == 0 && fld w0 19 5 == 0) = true := by simp [r0_5, r19_5]
  unfold decodeMajor; rw [hi]; simp only []; unfold decodeMajorE; rw [lo]; simp only [c0, cond_true]; rw [e_y, e_z, e_l]

theorem RoundTrip.fqryPlane (y : BitVec 5) (z : BitVec 5) (l : BitVec 4) : RoundTrip.Statement (.fqryPlane y z l) := by
  have e : encode (.fqryPlane y z l) = packWord 0 [(0xe5, 8), (0, 5), (y.toNat, 5), (z.toNat, 5), (l.toNat, 4), (1, 5)] := rfl
  simp only [packWord] at e
  obtain ⟨w0, hw⟩ : ∃ w0, encode (.fqryPlane y z l) = w0 := ⟨_, rfl⟩
  rw [hw] at e
  have g0 := (Nat.div_one w0).trans e
  have n0 := nextField (lo := 0) g0 (by decide)
  have n1 := nextField (lo := 5) n0.2 l.isLt
  have n2 := nextField (lo := 9) n1.2 z.isLt
  have n3 := nextField (lo := 14) n2.2 y.isLt
  have n4 := nextField (lo := 19) n3.2 (by decide)
  have ho : w0 / 2 ^ 24 = 229 := n4.2
  refine laneWord rfl hw ho (by decide) ?_
  have hi : fld w0 28 4 = 14 := (opcode ho).1
  have lo : fld w0 24 4 = 5 := (opcode ho).2
  have e_y : bits w0 14 5 = y := bits_eq n3.1
  have e_z : bits w0 9 5 = z := bits_eq n2.1
  have e_l : bits w0 5 4 = l := bits_eq n1.1
  have r19_5 : fld w0 19 5 = 0 := n4.1
  have r0_5 : fld w0 0 5 = 1 := n0.1
  have c0 : (fld w0 0 5 == 0 && fld w0 19 5 == 0) = false := by simp [r0_5]
  have c1 : (fld w0 0 5 == 1 && fld w0 19 5 == 0) = true := by simp [r0_5, r19_5]
  unfold decodeMajor; rw [hi]; simp only []; unfold decodeMajorE; rw [lo]; simp only [c0, c1, cond_true, cond_false]; rw [e_y, e_z, e_l]

theorem RoundTrip.fqryReach (y : BitVec 5) (z : BitVec 5) (l : BitVec 4) : RoundTrip.Statement (.fqryReach y z l) := by
  have e : encode (.fqryReach y z l) = packWord 0 [(0xe5, 8), (0, 5), (y.toNat, 5), (z.toNat, 5), (l.toNat, 4), (2, 5)] := rfl
  simp only [packWord] at e
  obtain ⟨w0, hw⟩ : ∃ w0, encode (.fqryReach y z l) = w0 := ⟨_, rfl⟩
  rw [hw] at e
  have g0 := (Nat.div_one w0).trans e
  have n0 := nextField (lo := 0) g0 (by decide)
  have n1 := nextField (lo := 5) n0.2 l.isLt
  have n2 := nextField (lo := 9) n1.2 z.isLt
  have n3 := nextField (lo := 14) n2.2 y.isLt
  have n4 := nextField (lo := 19) n3.2 (by decide)
  have ho : w0 / 2 ^ 24 = 229 := n4.2
  refine laneWord rfl hw ho (by decide) ?_
  have hi : fld w0 28 4 = 14 := (opcode ho).1
  have lo : fld w0 24 4 = 5 := (opcode ho).2
  have e_y : bits w0 14 5 = y := bits_eq n3.1
  have e_z : bits w0 9 5 = z := bits_eq n2.1
  have e_l : bits w0 5 4 = l := bits_eq n1.1
  have r19_5 : fld w0 19 5 = 0 := n4.1
  have r0_5 : fld w0 0 5 = 2 := n0.1
  have c0 : (fld w0 0 5 == 0 && fld w0 19 5 == 0) = false := by simp [r0_5]
  have c1 : (fld w0 0 5 == 1 && fld w0 19 5 == 0) = false := by simp [r0_5]
  have c2 : (fld w0 0 5 == 2 && fld w0 19 5 == 0) = true := by simp [r0_5, r19_5]
  unfold decodeMajor; rw [hi]; simp only []; unfold decodeMajorE; rw [lo]; simp only [c0, c1, c2, cond_true, cond_false]; rw [e_y, e_z, e_l]

theorem RoundTrip.digs (a : BitVec 6) (p : BitVec 3) (b : BitVec 6) (q : BitVec 3) : RoundTrip.Statement (.digs a p b q) := by
  have e : encode (.digs a p b q) = packWord 0 [(0xe8, 8), (0, 6), (a.toNat, 6), (p.toNat, 3), (b.toNat, 6), (q.toNat, 3)] := rfl
  simp only [packWord] at e
  obtain ⟨w0, hw⟩ : ∃ w0, encode (.digs a p b q) = w0 := ⟨_, rfl⟩
  rw [hw] at e
  have g0 := (Nat.div_one w0).trans e
  have n0 := nextField (lo := 0) g0 q.isLt
  have n1 := nextField (lo := 3) n0.2 b.isLt
  have n2 := nextField (lo := 9) n1.2 p.isLt
  have n3 := nextField (lo := 12) n2.2 a.isLt
  have n4 := nextField (lo := 18) n3.2 (by decide)
  have ho : w0 / 2 ^ 24 = 232 := n4.2
  refine laneWord rfl hw ho (by decide) ?_
  have hi : fld w0 28 4 = 14 := (opcode ho).1
  have lo : fld w0 24 4 = 8 := (opcode ho).2
  have e_a : bits w0 12 6 = a := bits_eq n3.1
  have e_p : bits w0 9 3 = p := bits_eq n2.1
  have e_b : bits w0 3 6 = b := bits_eq n1.1
  have e_q : bits w0 0 3 = q := bits_eq n0.1
  have r18_6 : fld w0 18 6 = 0 := n4.1
  have c0 : (fld w0 18 6 == 0) = true := by simp [r18_6]
  unfold decodeMajor; rw [hi]; simp only []; unfold decodeMajorE; rw [lo]; simp only [c0, cond_true]; rw [e_a, e_p, e_b, e_q]

theorem RoundTrip.clonSync : RoundTrip.Statement (.clonSync) := by
  have e : encode (.clonSync) = packWord 0 [(0xe9, 8), (0, 24)] := rfl
  simp only [packWord] at e
  obtain ⟨w0, hw⟩ : ∃ w0, encode (.clonSync) = w0 := ⟨_, rfl⟩
  rw [hw] at e
  have g0 := (Nat.div_one w0).trans e
  have n0 := nextField (lo := 0) g0 (by decide)
  have ho : w0 / 2 ^ 24 = 233 := n0.2
  refine laneWord rfl hw ho (by decide) ?_
  have hi : fld w0 28 4 = 14 := (opcode ho).1
  have lo : fld w0 24 4 = 9 := (opcode ho).2
  have r0_24 : fld w0 0 24 = 0 := n0.1
  have c0 : (fld w0 0 24 == 0) = true := by simp [r0_24]
  unfold decodeMajor; rw [hi]; simp only []; unfold decodeMajorE; rw [lo]; simp only [c0, cond_true]

theorem RoundTrip.clonChk (d : BitVec 5) : RoundTrip.Statement (.clonChk d) := by
  have e : encode (.clonChk d) = packWord 0 [(0xe9, 8), (0, 1), (d.toNat, 5), (8, 18)] := rfl
  simp only [packWord] at e
  obtain ⟨w0, hw⟩ : ∃ w0, encode (.clonChk d) = w0 := ⟨_, rfl⟩
  rw [hw] at e
  have g0 := (Nat.div_one w0).trans e
  have n0 := nextField (lo := 0) g0 (by decide)
  have n1 := nextField (lo := 18) n0.2 d.isLt
  have n2 := nextField (lo := 23) n1.2 (by decide)
  have ho : w0 / 2 ^ 24 = 233 := n2.2
  refine laneWord rfl hw ho (by decide) ?_
  have hi : fld w0 28 4 = 14 := (opcode ho).1
  have lo : fld w0 24 4 = 9 := (opcode ho).2
  have e_d : bits w0 18 5 = d := bits_eq n1.1
  have c0 : (fld w0 0 24 == 0) = false := by
    apply Bool.eq_false_iff.mpr; unfold fld; simp only [ne_eq, Bool.and_eq_true, beq_iff_eq, decide_eq_true_eq]
    have := d.isLt
    omega
  have r0_18 : fld w0 0 18 = 8 := n0.1
  have r23_1 : fld w0 23 1 = 0 := n2.1
  have c1 : (fld w0 0 18 == 8 && fld w0 23 1 == 0) = true := by simp [r0_18, r23_1]
  unfold decodeMajor; rw [hi]; simp only []; unfold decodeMajorE; rw [lo]; simp only [c0, c1, cond_true, cond_false]; rw [e_d]

theorem RoundTrip.clonDrop (d : BitVec 5) : RoundTrip.Statement (.clonDrop d) := by
  have e : encode (.clonDrop d) = packWord 0 [(0xe9, 8), (0, 1), (d.toNat, 5), (16, 18)] := rfl
  simp only [packWord] at e
  obtain ⟨w0, hw⟩ : ∃ w0, encode (.clonDrop d) = w0 := ⟨_, rfl⟩
  rw [hw] at e
  have g0 := (Nat.div_one w0).trans e
  have n0 := nextField (lo := 0) g0 (by decide)
  have n1 := nextField (lo := 18) n0.2 d.isLt
  have n2 := nextField (lo := 23) n1.2 (by decide)
  have ho : w0 / 2 ^ 24 = 233 := n2.2
  refine laneWord rfl hw ho (by decide) ?_
  have hi : fld w0 28 4 = 14 := (opcode ho).1
  have lo : fld w0 24 4 = 9 := (opcode ho).2
  have e_d : bits w0 18 5 = d := bits_eq n1.1
  have c0 : (fld w0 0 24 == 0) = false := by
    apply Bool.eq_false_iff.mpr; unfold fld; simp only [ne_eq, Bool.and_eq_true, beq_iff_eq, decide_eq_true_eq]
    have := d.isLt
    omega
  have r0_18 : fld w0 0 18 = 16 := n0.1
  have r23_1 : fld w0 23 1 = 0 := n2.1
  have c1 : (fld w0 0 18 == 8 && fld w0 23 1 == 0) = false := by simp [r0_18]
  have c2 : (fld w0 0 18 == 16 && fld w0 23 1 == 0) = true := by simp [r0_18, r23_1]
  unfold decodeMajor; rw [hi]; simp only []; unfold decodeMajorE; rw [lo]; simp only [c0, c1, c2, cond_true, cond_false]; rw [e_d]

theorem RoundTrip.clonTrans (d : BitVec 5) : RoundTrip.Statement (.clonTrans d) := by
  have e : encode (.clonTrans d) = packWord 0 [(0xe9, 8), (0, 1), (d.toNat, 5), (24, 18)] := rfl
  simp only [packWord] at e
  obtain ⟨w0, hw⟩ : ∃ w0, encode (.clonTrans d) = w0 := ⟨_, rfl⟩
  rw [hw] at e
  have g0 := (Nat.div_one w0).trans e
  have n0 := nextField (lo := 0) g0 (by decide)
  have n1 := nextField (lo := 18) n0.2 d.isLt
  have n2 := nextField (lo := 23) n1.2 (by decide)
  have ho : w0 / 2 ^ 24 = 233 := n2.2
  refine laneWord rfl hw ho (by decide) ?_
  have hi : fld w0 28 4 = 14 := (opcode ho).1
  have lo : fld w0 24 4 = 9 := (opcode ho).2
  have e_d : bits w0 18 5 = d := bits_eq n1.1
  have c0 : (fld w0 0 24 == 0) = false := by
    apply Bool.eq_false_iff.mpr; unfold fld; simp only [ne_eq, Bool.and_eq_true, beq_iff_eq, decide_eq_true_eq]
    have := d.isLt
    omega
  have r0_18 : fld w0 0 18 = 24 := n0.1
  have r23_1 : fld w0 23 1 = 0 := n2.1
  have c1 : (fld w0 0 18 == 8 && fld w0 23 1 == 0) = false := by simp [r0_18]
  have c2 : (fld w0 0 18 == 16 && fld w0 23 1 == 0) = false := by simp [r0_18]
  have c3 : (fld w0 0 18 == 24 && fld w0 23 1 == 0) = true := by simp [r0_18, r23_1]
  unfold decodeMajor; rw [hi]; simp only []; unfold decodeMajorE; rw [lo]; simp only [c0, c1, c2, c3, cond_true, cond_false]; rw [e_d]

theorem RoundTrip.scrnDig (z : BitVec 5) : RoundTrip.Statement (.scrnDig z) := by
  have e : encode (.scrnDig z) = packWord 0 [(0xea, 8), (0, 10), (z.toNat, 5), (0, 9)] := rfl
  simp only [packWord] at e
  obtain ⟨w0, hw⟩ : ∃ w0, encode (.scrnDig z) = w0 := ⟨_, rfl⟩
  rw [hw] at e
  have g0 := (Nat.div_one w0).trans e
  have n0 := nextField (lo := 0) g0 (by decide)
  have n1 := nextField (lo := 9) n0.2 z.isLt
  have n2 := nextField (lo := 14) n1.2 (by decide)
  have ho : w0 / 2 ^ 24 = 234 := n2.2
  refine laneWord rfl hw ho (by decide) ?_
  have hi : fld w0 28 4 = 14 := (opcode ho).1
  have lo : fld w0 24 4 = 10 := (opcode ho).2
  have e_z : bits w0 9 5 = z := bits_eq n1.1
  have c0 : (fld w0 0 24 == 1) = false := by
    apply Bool.eq_false_iff.mpr; unfold fld; simp only [ne_eq, Bool.and_eq_true, beq_iff_eq, decide_eq_true_eq]
    have := z.isLt
    omega
  have r0_9 : fld w0 0 9 = 0 := n0.1
  have r14_10 : fld w0 14 10 = 0 := n2.1
  have c1 : (fld w0 0 9 == 0 && fld w0 14 10 == 0) = true := by simp [r0_9, r14_10]
  unfold decodeMajor; rw [hi]; simp only []; unfold decodeMajorE; rw [lo]; simp only [c0, c1, cond_true, cond_false]; rw [e_z]

theorem RoundTrip.scrnSkip : RoundTrip.Statement (.scrnSkip) := by
  have e : encode (.scrnSkip) = packWord 0 [(0xea, 8), (1, 24)] := rfl
  simp only [packWord] at e
  obtain ⟨w0, hw⟩ : ∃ w0, encode (.scrnSkip) = w0 := ⟨_, rfl⟩
  rw [hw] at e
  have g0 := (Nat.div_one w0).trans e
  have n0 := nextField (lo := 0) g0 (by decide)
  have ho : w0 / 2 ^ 24 = 234 := n0.2
  refine laneWord rfl hw ho (by decide) ?_
  have hi : fld w0 28 4 = 14 := (opcode ho).1
  have lo : fld w0 24 4 = 10 := (opcode ho).2
  have r0_24 : fld w0 0 24 = 1 := n0.1
  have c0 : (fld w0 0 24 == 1) = true := by simp [r0_24]
  unfold decodeMajor; rw [hi]; simp only []; unfold decodeMajorE; rw [lo]; simp only [c0, cond_true]

theorem RoundTrip.susqScore (y : BitVec 5) (z : BitVec 5) : RoundTrip.Statement (.susqScore y z) := by
  have e : encode (.susqScore y z) = packWord 0 [(0xeb, 8), (0, 5), (y.toNat, 5), (z.toNat, 5), (0, 9)] := rfl
  simp only [packWord] at e
  obtain ⟨w0, hw⟩ : ∃ w0, encode (.susqScore y z) = w0 := ⟨_, rfl⟩
  rw [hw] at e
  have g0 := (Nat.div_one w0).trans e
  have n0 := nextField (lo := 0) g0 (by decide)
  have n1 := nextField (lo := 9) n0.2 z.isLt
  have n2 := nextField (lo := 14) n1.2 y.isLt
  have n3 := nextField (lo := 19) n2.2 (by decide)
  have ho : w0 / 2 ^ 24 = 235 := n3.2
  refine laneWord rfl hw ho (by decide) ?_
  have hi : fld w0 28 4 = 14 := (opcode ho).1
  have lo : fld w0 24 4 = 11 := (opcode ho).2
  have e_y : bits w0 14 5 = y := bits_eq n2.1
  have e_z : bits w0 9 5 = z := bits_eq n1.1
  have r0_9 : fld w0 0 9 = 0 := n0.1
  have r19_5 : fld w0 19 5 = 0 := n3.1
  have c0 : (fld w0 0 9 == 0 && fld w0 19 5 == 0) = true := by simp [r0_9, r19_5]
  unfold decodeMajor; rw [hi]; simp only []; unfold decodeMajorE; rw [lo]; simp only [c0, cond_true]; rw [e_y, e_z]

theorem RoundTrip.susqQmask (y : BitVec 5) (z : BitVec 5) : RoundTrip.Statement (.susqQmask y z) := by
  have e : encode (.susqQmask y z) = packWord 0 [(0xeb, 8), (0, 5), (y.toNat, 5), (z.toNat, 5), (1, 9)] := rfl
  simp only [packWord] at e
  obtain ⟨w0, hw⟩ : ∃ w0, encode (.susqQmask y z) = w0 := ⟨_, rfl⟩
  rw [hw] at e
  have g0 := (Nat.div_one w0).trans e
  have n0 := nextField (lo := 0) g0 (by decide)
  have n1 := nextField (lo := 9) n0.2 z.isLt
  have n2 := nextField (lo := 14) n1.2 y.isLt
  have n3 := nextField (lo := 19) n2.2 (by decide)
  have ho : w0 / 2 ^ 24 = 235 := n3.2
  refine laneWord rfl hw ho (by decide) ?_
  have hi : fld w0 28 4 = 14 := (opcode ho).1
  have lo : fld w0 24 4 = 11 := (opcode ho).2
  have e_y : bits w0 14 5 = y := bits_eq n2.1
  have e_z : bits w0 9 5 = z := bits_eq n1.1
  have r0_9 : fld w0 0 9 = 1 := n0.1
  have r19_5 : fld w0 19 5 = 0 := n3.1
  have c0 : (fld w0 0 9 == 0 && fld w0 19 5 == 0) = false := by simp [r0_9]
  have c1 : (fld w0 0 9 == 1 && fld w0 19 5 == 0) = true := by simp [r0_9, r19_5]
  unfold decodeMajor; rw [hi]; simp only []; unfold decodeMajorE; rw [lo]; simp only [c0, c1, cond_true, cond_false]; rw [e_y, e_z]

theorem RoundTrip.susqStat (y : BitVec 5) (z : BitVec 5) : RoundTrip.Statement (.susqStat y z) := by
  have e : encode (.susqStat y z) = packWord 0 [(0xeb, 8), (0, 5), (y.toNat, 5), (z.toNat, 5), (2, 9)] := rfl
  simp only [packWord] at e
  obtain ⟨w0, hw⟩ : ∃ w0, encode (.susqStat y z) = w0 := ⟨_, rfl⟩
  rw [hw] at e
  have g0 := (Nat.div_one w0).trans e
  have n0 := nextField (lo := 0) g0 (by decide)
  have n1 := nextField (lo := 9) n0.2 z.isLt
  have n2 := nextField (lo := 14) n1.2 y.isLt
  have n3 := nextField (lo := 19) n2.2 (by decide)
  have ho : w0 / 2 ^ 24 = 235 := n3.2
  refine laneWord rfl hw ho (by decide) ?_
  have hi : fld w0 28 4 = 14 := (opcode ho).1
  have lo : fld w0 24 4 = 11 := (opcode ho).2
  have e_y : bits w0 14 5 = y := bits_eq n2.1
  have e_z : bits w0 9 5 = z := bits_eq n1.1
  have r0_9 : fld w0 0 9 = 2 := n0.1
  have r19_5 : fld w0 19 5 = 0 := n3.1
  have c0 : (fld w0 0 9 == 0 && fld w0 19 5 == 0) = false := by simp [r0_9]
  have c1 : (fld w0 0 9 == 1 && fld w0 19 5 == 0) = false := by simp [r0_9]
  have c2 : (fld w0 0 9 == 2 && fld w0 19 5 == 0) = true := by simp [r0_9, r19_5]
  unfold decodeMajor; rw [hi]; simp only []; unfold decodeMajorE; rw [lo]; simp only [c0, c1, c2, cond_true, cond_false]; rw [e_y, e_z]

theorem RoundTrip.trap (imm : BitVec 12) : RoundTrip.Statement (.trap imm) := by
  have e : encode (.trap imm) = packWord 0 [(0xf0, 8), (0, 12), (imm.toNat, 12)] := rfl
  simp only [packWord] at e
  obtain ⟨w0, hw⟩ : ∃ w0, encode (.trap imm) = w0 := ⟨_, rfl⟩
  rw [hw] at e
  have g0 := (Nat.div_one w0).trans e
  have n0 := nextField (lo := 0) g0 imm.isLt
  have n1 := nextField (lo := 12) n0.2 (by decide)
  have ho : w0 / 2 ^ 24 = 240 := n1.2
  refine laneWord rfl hw ho (by decide) ?_
  have hi : fld w0 28 4 = 15 := (opcode ho).1
  have lo : fld w0 24 4 = 0 := (opcode ho).2
  have e_imm : bits w0 0 12 = imm := bits_eq n0.1
  have r12_12 : fld w0 12 12 = 0 := n1.1
  have c0 : (fld w0 12 12 == 0) = true := by simp [r12_12]
  unfold decodeMajor; rw [hi]; simp only []; unfold decodeMajorF; rw [lo]; simp only [c0, cond_true]; rw [e_imm]

theorem RoundTrip.rte : RoundTrip.Statement (.rte) := by
  have e : encode (.rte) = packWord 0 [(0xf1, 8), (0, 24)] := rfl
  simp only [packWord] at e
  obtain ⟨w0, hw⟩ : ∃ w0, encode (.rte) = w0 := ⟨_, rfl⟩
  rw [hw] at e
  have g0 := (Nat.div_one w0).trans e
  have n0 := nextField (lo := 0) g0 (by decide)
  have ho : w0 / 2 ^ 24 = 241 := n0.2
  refine laneWord rfl hw ho (by decide) ?_
  have hi : fld w0 28 4 = 15 := (opcode ho).1
  have lo : fld w0 24 4 = 1 := (opcode ho).2
  have r0_24 : fld w0 0 24 = 0 := n0.1
  have c0 : (fld w0 0 24 == 0) = true := by simp [r0_24]
  unfold decodeMajor; rw [hi]; simp only []; unfold decodeMajorF; rw [lo]; simp only [c0, cond_true]

theorem RoundTrip.csrr (d : BitVec 5) (c : BitVec 9) : RoundTrip.Statement (.csrr d c) := by
  intro h0; have hv : (csrListed c.toNat) = true := h0
  have e : encode (.csrr d c) = packWord 0 [(0xf2, 8), (d.toNat, 5), (0, 10), (c.toNat, 9)] := rfl
  simp only [packWord] at e
  obtain ⟨w0, hw⟩ : ∃ w0, encode (.csrr d c) = w0 := ⟨_, rfl⟩
  rw [hw] at e
  have g0 := (Nat.div_one w0).trans e
  have n0 := nextField (lo := 0) g0 c.isLt
  have n1 := nextField (lo := 9) n0.2 (by decide)
  have n2 := nextField (lo := 19) n1.2 d.isLt
  have ho : w0 / 2 ^ 24 = 242 := n2.2
  refine laneWord rfl hw ho (by decide) ?_ h0
  have hi : fld w0 28 4 = 15 := (opcode ho).1
  have lo : fld w0 24 4 = 2 := (opcode ho).2
  have e_d : bits w0 19 5 = d := bits_eq n2.1
  have e_c : bits w0 0 9 = c := bits_eq n0.1
  have r9_10 : fld w0 9 10 = 0 := n1.1
  have r0_9 : fld w0 0 9 = c.toNat := n0.1
  have c0 : (fld w0 9 10 == 0 && csrListed (fld w0 0 9)) = true := by simp [r0_9, r9_10, hv]
  unfold decodeMajor; rw [hi]; simp only []; unfold decodeMajorF; rw [lo]; simp only [c0, cond_true]; rw [e_d, e_c]

theorem RoundTrip.csrw (a : BitVec 5) (c : BitVec 9) : RoundTrip.Statement (.csrw a c) := by
  intro h0; have hv : (csrListed c.toNat && c.toNat != 17 && c.toNat != 19) = true := h0
  have e : encode (.csrw a c) = packWord 0 [(0xf3, 8), (0, 5), (a.toNat, 5), (0, 5), (c.toNat, 9)] := rfl
  simp only [packWord] at e
  obtain ⟨w0, hw⟩ : ∃ w0, encode (.csrw a c) = w0 := ⟨_, rfl⟩
  rw [hw] at e
  have g0 := (Nat.div_one w0).trans e
  have n0 := nextField (lo := 0) g0 c.isLt
  have n1 := nextField (lo := 9) n0.2 (by decide)
  have n2 := nextField (lo := 14) n1.2 a.isLt
  have n3 := nextField (lo := 19) n2.2 (by decide)
  have ho : w0 / 2 ^ 24 = 243 := n3.2
  refine laneWord rfl hw ho (by decide) ?_ h0
  have hi : fld w0 28 4 = 15 := (opcode ho).1
  have lo : fld w0 24 4 = 3 := (opcode ho).2
  have e_a : bits w0 14 5 = a := bits_eq n2.1
  have e_c : bits w0 0 9 = c := bits_eq n0.1
  have r19_5 : fld w0 19 5 = 0 := n3.1
  have c0 : (fld w0 0 14 == 17 && fld w0 19 5 == 0) = false := by
    have f14 : fld w0 0 14 % 512 = c.toNat := by unfold fld; omega
    have ne : c.toNat ≠ 17 ∧ c.toNat ≠ 19 := by
      simp only [Bool.and_eq_true, bne_iff_ne] at hv; exact ⟨hv.1.2, hv.2⟩
    apply Bool.eq_false_iff.mpr; simp only [ne_eq, Bool.and_eq_true, beq_iff_eq]; omega
  have c1 : (fld w0 0 14 == 19 && fld w0 19 5 == 0) = false := by
    have f14 : fld w0 0 14 % 512 = c.toNat := by unfold fld; omega
    have ne : c.toNat ≠ 17 ∧ c.toNat ≠ 19 := by
      simp only [Bool.and_eq_true, bne_iff_ne] at hv; exact ⟨hv.1.2, hv.2⟩
    apply Bool.eq_false_iff.mpr; simp only [ne_eq, Bool.and_eq_true, beq_iff_eq]; omega
  have r9_5 : fld w0 9 5 = 0 := n1.1
  have r0_9 : fld w0 0 9 = c.toNat := n0.1
  have c2 : (fld w0 9 5 == 0 && fld w0 19 5 == 0 && csrListed (fld w0 0 9) && (fld w0 0 9) != 17 && (fld w0 0 9) != 19) = true := by simp only [Bool.and_eq_true] at hv; simp [r0_9, r9_5, r19_5, hv]
  unfold decodeMajor; rw [hi]; simp only []; unfold decodeMajorF; rw [lo]; simp only [c0, c1, c2, cond_true, cond_false]; rw [e_a, e_c]

theorem RoundTrip.tlbiWrite (a : BitVec 5) : RoundTrip.Statement (.tlbiWrite a) := by
  have e : encode (.tlbiWrite a) = packWord 0 [(0xf3, 8), (0, 5), (a.toNat, 5), (17, 14)] := rfl
  simp only [packWord] at e
  obtain ⟨w0, hw⟩ : ∃ w0, encode (.tlbiWrite a) = w0 := ⟨_, rfl⟩
  rw [hw] at e
  have g0 := (Nat.div_one w0).trans e
  have n0 := nextField (lo := 0) g0 (by decide)
  have n1 := nextField (lo := 14) n0.2 a.isLt
  have n2 := nextField (lo := 19) n1.2 (by decide)
  have ho : w0 / 2 ^ 24 = 243 := n2.2
  refine laneWord rfl hw ho (by decide) ?_
  have hi : fld w0 28 4 = 15 := (opcode ho).1
  have lo : fld w0 24 4 = 3 := (opcode ho).2
  have e_a : bits w0 14 5 = a := bits_eq n1.1
  have r0_14 : fld w0 0 14 = 17 := n0.1
  have r19_5 : fld w0 19 5 = 0 := n2.1
  have c0 : (fld w0 0 14 == 17 && fld w0 19 5 == 0) = true := by simp [r0_14, r19_5]
  unfold decodeMajor; rw [hi]; simp only []; unfold decodeMajorF; rw [lo]; simp only [c0, cond_true]; rw [e_a]

theorem RoundTrip.fpmapWrite (a : BitVec 5) : RoundTrip.Statement (.fpmapWrite a) := by
  have e : encode (.fpmapWrite a) = packWord 0 [(0xf3, 8), (0, 5), (a.toNat, 5), (19, 14)] := rfl
  simp only [packWord] at e
  obtain ⟨w0, hw⟩ : ∃ w0, encode (.fpmapWrite a) = w0 := ⟨_, rfl⟩
  rw [hw] at e
  have g0 := (Nat.div_one w0).trans e
  have n0 := nextField (lo := 0) g0 (by decide)
  have n1 := nextField (lo := 14) n0.2 a.isLt
  have n2 := nextField (lo := 19) n1.2 (by decide)
  have ho : w0 / 2 ^ 24 = 243 := n2.2
  refine laneWord rfl hw ho (by decide) ?_
  have hi : fld w0 28 4 = 15 := (opcode ho).1
  have lo : fld w0 24 4 = 3 := (opcode ho).2
  have e_a : bits w0 14 5 = a := bits_eq n1.1
  have r0_14 : fld w0 0 14 = 19 := n0.1
  have r19_5 : fld w0 19 5 = 0 := n2.1
  have c0 : (fld w0 0 14 == 17 && fld w0 19 5 == 0) = false := by simp [r0_14]
  have c1 : (fld w0 0 14 == 19 && fld w0 19 5 == 0) = true := by simp [r0_14, r19_5]
  unfold decodeMajor; rw [hi]; simp only []; unfold decodeMajorF; rw [lo]; simp only [c0, c1, cond_true, cond_false]; rw [e_a]

theorem RoundTrip.ppt : RoundTrip.Statement (.ppt) := by
  have e : encode (.ppt) = packWord 0 [(0xf4, 8), (0, 24)] := rfl
  simp only [packWord] at e
  obtain ⟨w0, hw⟩ : ∃ w0, encode (.ppt) = w0 := ⟨_, rfl⟩
  rw [hw] at e
  have g0 := (Nat.div_one w0).trans e
  have n0 := nextField (lo := 0) g0 (by decide)
  have ho : w0 / 2 ^ 24 = 244 := n0.2
  refine laneWord rfl hw ho (by decide) ?_
  have hi : fld w0 28 4 = 15 := (opcode ho).1
  have lo : fld w0 24 4 = 4 := (opcode ho).2
  have r0_24 : fld w0 0 24 = 0 := n0.1
  have c0 : (fld w0 0 24 == 0) = true := by simp [r0_24]
  unfold decodeMajor; rw [hi]; simp only []; unfold decodeMajorF; rw [lo]; simp only [c0, cond_true]

theorem RoundTrip.pptQry (z : BitVec 5) : RoundTrip.Statement (.pptQry z) := by
  have e : encode (.pptQry z) = packWord 0 [(0xf4, 8), (0, 10), (z.toNat, 5), (1, 9)] := rfl
  simp only [packWord] at e
  obtain ⟨w0, hw⟩ : ∃ w0, encode (.pptQry z) = w0 := ⟨_, rfl⟩
  rw [hw] at e
  have g0 := (Nat.div_one w0).trans e
  have n0 := nextField (lo := 0) g0 (by decide)
  have n1 := nextField (lo := 9) n0.2 z.isLt
  have n2 := nextField (lo := 14) n1.2 (by decide)
  have ho : w0 / 2 ^ 24 = 244 := n2.2
  refine laneWord rfl hw ho (by decide) ?_
  have hi : fld w0 28 4 = 15 := (opcode ho).1
  have lo : fld w0 24 4 = 4 := (opcode ho).2
  have e_z : bits w0 9 5 = z := bits_eq n1.1
  have c0 : (fld w0 0 24 == 0) = false := by
    apply Bool.eq_false_iff.mpr; unfold fld; simp only [ne_eq, Bool.and_eq_true, beq_iff_eq, decide_eq_true_eq]
    have := z.isLt
    omega
  have r0_9 : fld w0 0 9 = 1 := n0.1
  have r14_10 : fld w0 14 10 = 0 := n2.1
  have c1 : (fld w0 0 9 == 1 && fld w0 14 10 == 0) = true := by simp [r0_9, r14_10]
  unfold decodeMajor; rw [hi]; simp only []; unfold decodeMajorF; rw [lo]; simp only [c0, c1, cond_true, cond_false]; rw [e_z]

theorem RoundTrip.bswp (z : BitVec 5) : RoundTrip.Statement (.bswp z) := by
  have e : encode (.bswp z) = packWord 0 [(0xf5, 8), (0, 10), (z.toNat, 5), (0, 9)] := rfl
  simp only [packWord] at e
  obtain ⟨w0, hw⟩ : ∃ w0, encode (.bswp z) = w0 := ⟨_, rfl⟩
  rw [hw] at e
  have g0 := (Nat.div_one w0).trans e
  have n0 := nextField (lo := 0) g0 (by decide)
  have n1 := nextField (lo := 9) n0.2 z.isLt
  have n2 := nextField (lo := 14) n1.2 (by decide)
  have ho : w0 / 2 ^ 24 = 245 := n2.2
  refine laneWord rfl hw ho (by decide) ?_
  have hi : fld w0 28 4 = 15 := (opcode ho).1
  have lo : fld w0 24 4 = 5 := (opcode ho).2
  have e_z : bits w0 9 5 = z := bits_eq n1.1
  have r0_9 : fld w0 0 9 = 0 := n0.1
  have r14_10 : fld w0 14 10 = 0 := n2.1
  have c0 : (fld w0 0 9 == 0 && fld w0 14 10 == 0) = true := by simp [r0_9, r14_10]
  unfold decodeMajor; rw [hi]; simp only []; unfold decodeMajorF; rw [lo]; simp only [c0, cond_true]; rw [e_z]

theorem RoundTrip.bswpQry (z : BitVec 5) : RoundTrip.Statement (.bswpQry z) := by
  have e : encode (.bswpQry z) = packWord 0 [(0xf5, 8), (0, 10), (z.toNat, 5), (1, 9)] := rfl
  simp only [packWord] at e
  obtain ⟨w0, hw⟩ : ∃ w0, encode (.bswpQry z) = w0 := ⟨_, rfl⟩
  rw [hw] at e
  have g0 := (Nat.div_one w0).trans e
  have n0 := nextField (lo := 0) g0 (by decide)
  have n1 := nextField (lo := 9) n0.2 z.isLt
  have n2 := nextField (lo := 14) n1.2 (by decide)
  have ho : w0 / 2 ^ 24 = 245 := n2.2
  refine laneWord rfl hw ho (by decide) ?_
  have hi : fld w0 28 4 = 15 := (opcode ho).1
  have lo : fld w0 24 4 = 5 := (opcode ho).2
  have e_z : bits w0 9 5 = z := bits_eq n1.1
  have r0_9 : fld w0 0 9 = 1 := n0.1
  have r14_10 : fld w0 14 10 = 0 := n2.1
  have c0 : (fld w0 0 9 == 0 && fld w0 14 10 == 0) = false := by simp [r0_9]
  have c1 : (fld w0 0 9 == 1 && fld w0 14 10 == 0) = true := by simp [r0_9, r14_10]
  unfold decodeMajor; rw [hi]; simp only []; unfold decodeMajorF; rw [lo]; simp only [c0, c1, cond_true, cond_false]; rw [e_z]

theorem RoundTrip.ctxs (x : BitVec 5) (y : BitVec 5) (z : BitVec 5) : RoundTrip.Statement (.ctxs x y z) := by
  have e : encode (.ctxs x y z) = packWord 0 [(0xf6, 8), (x.toNat, 5), (y.toNat, 5), (z.toNat, 5), (0, 9)] := rfl
  simp only [packWord] at e
  obtain ⟨w0, hw⟩ : ∃ w0, encode (.ctxs x y z) = w0 := ⟨_, rfl⟩
  rw [hw] at e
  have g0 := (Nat.div_one w0).trans e
  have n0 := nextField (lo := 0) g0 (by decide)
  have n1 := nextField (lo := 9) n0.2 z.isLt
  have n2 := nextField (lo := 14) n1.2 y.isLt
  have n3 := nextField (lo := 19) n2.2 x.isLt
  have ho : w0 / 2 ^ 24 = 246 := n3.2
  refine laneWord rfl hw ho (by decide) ?_
  have hi : fld w0 28 4 = 15 := (opcode ho).1
  have lo : fld w0 24 4 = 6 := (opcode ho).2
  have e_x : bits w0 19 5 = x := bits_eq n3.1
  have e_y : bits w0 14 5 = y := bits_eq n2.1
  have e_z : bits w0 9 5 = z := bits_eq n1.1
  have r0_9 : fld w0 0 9 = 0 := n0.1
  have c0 : (fld w0 0 9 == 0) = true := by simp [r0_9]
  unfold decodeMajor; rw [hi]; simp only []; unfold decodeMajorF; rw [lo]; simp only [c0, cond_true]; rw [e_x, e_y, e_z]

theorem RoundTrip.ctxl (x : BitVec 5) (y : BitVec 5) (z : BitVec 5) : RoundTrip.Statement (.ctxl x y z) := by
  have e : encode (.ctxl x y z) = packWord 0 [(0xf7, 8), (x.toNat, 5), (y.toNat, 5), (z.toNat, 5), (0, 9)] := rfl
  simp only [packWord] at e
  obtain ⟨w0, hw⟩ : ∃ w0, encode (.ctxl x y z) = w0 := ⟨_, rfl⟩
  rw [hw] at e
  have g0 := (Nat.div_one w0).trans e
  have n0 := nextField (lo := 0) g0 (by decide)
  have n1 := nextField (lo := 9) n0.2 z.isLt
  have n2 := nextField (lo := 14) n1.2 y.isLt
  have n3 := nextField (lo := 19) n2.2 x.isLt
  have ho : w0 / 2 ^ 24 = 247 := n3.2
  refine laneWord rfl hw ho (by decide) ?_
  have hi : fld w0 28 4 = 15 := (opcode ho).1
  have lo : fld w0 24 4 = 7 := (opcode ho).2
  have e_x : bits w0 19 5 = x := bits_eq n3.1
  have e_y : bits w0 14 5 = y := bits_eq n2.1
  have e_z : bits w0 9 5 = z := bits_eq n1.1
  have r0_9 : fld w0 0 9 = 0 := n0.1
  have c0 : (fld w0 0 9 == 0) = true := by simp [r0_9]
  unfold decodeMajor; rw [hi]; simp only []; unfold decodeMajorF; rw [lo]; simp only [c0, cond_true]; rw [e_x, e_y, e_z]

theorem RoundTrip.ctxlTeam (x : BitVec 5) (y : BitVec 5) (z : BitVec 5) (t : BitVec 4) : RoundTrip.Statement (.ctxlTeam x y z t) := by
  have e : encode (.ctxlTeam x y z t) = packWord 0 [(0xf7, 8), (x.toNat, 5), (y.toNat, 5), (z.toNat, 5), (0, 4), (t.toNat, 4), (1, 1)] := rfl
  simp only [packWord] at e
  obtain ⟨w0, hw⟩ : ∃ w0, encode (.ctxlTeam x y z t) = w0 := ⟨_, rfl⟩
  rw [hw] at e
  have g0 := (Nat.div_one w0).trans e
  have n0 := nextField (lo := 0) g0 (by decide)
  have n1 := nextField (lo := 1) n0.2 t.isLt
  have n2 := nextField (lo := 5) n1.2 (by decide)
  have n3 := nextField (lo := 9) n2.2 z.isLt
  have n4 := nextField (lo := 14) n3.2 y.isLt
  have n5 := nextField (lo := 19) n4.2 x.isLt
  have ho : w0 / 2 ^ 24 = 247 := n5.2
  refine laneWord rfl hw ho (by decide) ?_
  have hi : fld w0 28 4 = 15 := (opcode ho).1
  have lo : fld w0 24 4 = 7 := (opcode ho).2
  have e_x : bits w0 19 5 = x := bits_eq n5.1
  have e_y : bits w0 14 5 = y := bits_eq n4.1
  have e_z : bits w0 9 5 = z := bits_eq n3.1
  have e_t : bits w0 1 4 = t := bits_eq n1.1
  have c0 : (fld w0 0 9 == 0) = false := by
    apply Bool.eq_false_iff.mpr; unfold fld; simp only [ne_eq, Bool.and_eq_true, beq_iff_eq, decide_eq_true_eq]
    have := x.isLt
    have := y.isLt
    have := z.isLt
    have := t.isLt
    omega
  have r0_1 : fld w0 0 1 = 1 := n0.1
  have r5_4 : fld w0 5 4 = 0 := n2.1
  have c1 : (fld w0 0 1 == 1 && fld w0 5 4 == 0) = true := by simp [r0_1, r5_4]
  unfold decodeMajor; rw [hi]; simp only []; unfold decodeMajorF; rw [lo]; simp only [c0, c1, cond_true, cond_false]; rw [e_x, e_y, e_z, e_t]

theorem RoundTrip.tagsSet (y : BitVec 5) : RoundTrip.Statement (.tagsSet y) := by
  have e : encode (.tagsSet y) = packWord 0 [(0xf8, 8), (0, 5), (y.toNat, 5), (0, 14)] := rfl
  simp only [packWord] at e
  obtain ⟨w0, hw⟩ : ∃ w0, encode (.tagsSet y) = w0 := ⟨_, rfl⟩
  rw [hw] at e
  have g0 := (Nat.div_one w0).trans e
  have n0 := nextField (lo := 0) g0 (by decide)
  have n1 := nextField (lo := 14) n0.2 y.isLt
  have n2 := nextField (lo := 19) n1.2 (by decide)
  have ho : w0 / 2 ^ 24 = 248 := n2.2
  refine laneWord rfl hw ho (by decide) ?_
  have hi : fld w0 28 4 = 15 := (opcode ho).1
  have lo : fld w0 24 4 = 8 := (opcode ho).2
  have e_y : bits w0 14 5 = y := bits_eq n1.1
  have r0_14 : fld w0 0 14 = 0 := n0.1
  have r19_5 : fld w0 19 5 = 0 := n2.1
  have c0 : (fld w0 0 14 == 0 && fld w0 19 5 == 0) = true := by simp [r0_14, r19_5]
  unfold decodeMajor; rw [hi]; simp only []; unfold decodeMajorF; rw [lo]; simp only [c0, cond_true]; rw [e_y]

theorem RoundTrip.tagsCnt (y : BitVec 5) (z : BitVec 5) : RoundTrip.Statement (.tagsCnt y z) := by
  have e : encode (.tagsCnt y z) = packWord 0 [(0xf8, 8), (0, 5), (y.toNat, 5), (z.toNat, 5), (1, 9)] := rfl
  simp only [packWord] at e
  obtain ⟨w0, hw⟩ : ∃ w0, encode (.tagsCnt y z) = w0 := ⟨_, rfl⟩
  rw [hw] at e
  have g0 := (Nat.div_one w0).trans e
  have n0 := nextField (lo := 0) g0 (by decide)
  have n1 := nextField (lo := 9) n0.2 z.isLt
  have n2 := nextField (lo := 14) n1.2 y.isLt
  have n3 := nextField (lo := 19) n2.2 (by decide)
  have ho : w0 / 2 ^ 24 = 248 := n3.2
  refine laneWord rfl hw ho (by decide) ?_
  have hi : fld w0 28 4 = 15 := (opcode ho).1
  have lo : fld w0 24 4 = 8 := (opcode ho).2
  have e_y : bits w0 14 5 = y := bits_eq n2.1
  have e_z : bits w0 9 5 = z := bits_eq n1.1
  have r19_5 : fld w0 19 5 = 0 := n3.1
  have c0 : (fld w0 0 14 == 0 && fld w0 19 5 == 0) = false := by
    apply Bool.eq_false_iff.mpr; unfold fld; simp only [ne_eq, Bool.and_eq_true, beq_iff_eq, decide_eq_true_eq]
    have := y.isLt
    have := z.isLt
    omega
  have r0_9 : fld w0 0 9 = 1 := n0.1
  have c1 : (fld w0 0 9 == 1 && fld w0 19 5 == 0) = true := by simp [r0_9, r19_5]
  unfold decodeMajor; rw [hi]; simp only []; unfold decodeMajorF; rw [lo]; simp only [c0, c1, cond_true, cond_false]; rw [e_y, e_z]

theorem RoundTrip.purg (y : BitVec 5) : RoundTrip.Statement (.purg y) := by
  have e : encode (.purg y) = packWord 0 [(0xf9, 8), (0, 5), (y.toNat, 5), (0, 14)] := rfl
  simp only [packWord] at e
  obtain ⟨w0, hw⟩ : ∃ w0, encode (.purg y) = w0 := ⟨_, rfl⟩
  rw [hw] at e
  have g0 := (Nat.div_one w0).trans e
  have n0 := nextField (lo := 0) g0 (by decide)
  have n1 := nextField (lo := 14) n0.2 y.isLt
  have n2 := nextField (lo := 19) n1.2 (by decide)
  have ho : w0 / 2 ^ 24 = 249 := n2.2
  refine laneWord rfl hw ho (by decide) ?_
  have hi : fld w0 28 4 = 15 := (opcode ho).1
  have lo : fld w0 24 4 = 9 := (opcode ho).2
  have e_y : bits w0 14 5 = y := bits_eq n1.1
  have r0_14 : fld w0 0 14 = 0 := n0.1
  have r19_5 : fld w0 19 5 = 0 := n2.1
  have c0 : (fld w0 0 14 == 0 && fld w0 19 5 == 0) = true := by simp [r0_14, r19_5]
  unfold decodeMajor; rw [hi]; simp only []; unfold decodeMajorF; rw [lo]; simp only [c0, cond_true]; rw [e_y]

theorem RoundTrip.purgClr (y : BitVec 5) : RoundTrip.Statement (.purgClr y) := by
  have e : encode (.purgClr y) = packWord 0 [(0xf9, 8), (0, 5), (y.toNat, 5), (1, 14)] := rfl
  simp only [packWord] at e
  obtain ⟨w0, hw⟩ : ∃ w0, encode (.purgClr y) = w0 := ⟨_, rfl⟩
  rw [hw] at e
  have g0 := (Nat.div_one w0).trans e
  have n0 := nextField (lo := 0) g0 (by decide)
  have n1 := nextField (lo := 14) n0.2 y.isLt
  have n2 := nextField (lo := 19) n1.2 (by decide)
  have ho : w0 / 2 ^ 24 = 249 := n2.2
  refine laneWord rfl hw ho (by decide) ?_
  have hi : fld w0 28 4 = 15 := (opcode ho).1
  have lo : fld w0 24 4 = 9 := (opcode ho).2
  have e_y : bits w0 14 5 = y := bits_eq n1.1
  have r0_14 : fld w0 0 14 = 1 := n0.1
  have r19_5 : fld w0 19 5 = 0 := n2.1
  have c0 : (fld w0 0 14 == 0 && fld w0 19 5 == 0) = false := by simp [r0_14]
  have c1 : (fld w0 0 14 == 1 && fld w0 19 5 == 0) = true := by simp [r0_14, r19_5]
  unfold decodeMajor; rw [hi]; simp only []; unfold decodeMajorF; rw [lo]; simp only [c0, c1, cond_true, cond_false]; rw [e_y]

theorem RoundTrip.purgQry (y : BitVec 5) (z : BitVec 5) : RoundTrip.Statement (.purgQry y z) := by
  have e : encode (.purgQry y z) = packWord 0 [(0xf9, 8), (0, 5), (y.toNat, 5), (z.toNat, 5), (2, 9)] := rfl
  simp only [packWord] at e
  obtain ⟨w0, hw⟩ : ∃ w0, encode (.purgQry y z) = w0 := ⟨_, rfl⟩
  rw [hw] at e
  have g0 := (Nat.div_one w0).trans e
  have n0 := nextField (lo := 0) g0 (by decide)
  have n1 := nextField (lo := 9) n0.2 z.isLt
  have n2 := nextField (lo := 14) n1.2 y.isLt
  have n3 := nextField (lo := 19) n2.2 (by decide)
  have ho : w0 / 2 ^ 24 = 249 := n3.2
  refine laneWord rfl hw ho (by decide) ?_
  have hi : fld w0 28 4 = 15 := (opcode ho).1
  have lo : fld w0 24 4 = 9 := (opcode ho).2
  have e_y : bits w0 14 5 = y := bits_eq n2.1
  have e_z : bits w0 9 5 = z := bits_eq n1.1
  have r19_5 : fld w0 19 5 = 0 := n3.1
  have c0 : (fld w0 0 14 == 0 && fld w0 19 5 == 0) = false := by
    apply Bool.eq_false_iff.mpr; unfold fld; simp only [ne_eq, Bool.and_eq_true, beq_iff_eq, decide_eq_true_eq]
    have := y.isLt
    have := z.isLt
    omega
  have c1 : (fld w0 0 14 == 1 && fld w0 19 5 == 0) = false := by
    apply Bool.eq_false_iff.mpr; unfold fld; simp only [ne_eq, Bool.and_eq_true, beq_iff_eq, decide_eq_true_eq]
    have := y.isLt
    have := z.isLt
    omega
  have r0_9 : fld w0 0 9 = 2 := n0.1
  have c2 : (fld w0 0 9 == 2 && fld w0 19 5 == 0) = true := by simp [r0_9, r19_5]
  unfold decodeMajor; rw [hi]; simp only []; unfold decodeMajorF; rw [lo]; simp only [c0, c1, c2, cond_true, cond_false]; rw [e_y, e_z]

theorem RoundTrip.halt : RoundTrip.Statement (.halt) := by
  have e : encode (.halt) = packWord 0 [(0xfa, 8), (0, 24)] := rfl
  simp only [packWord] at e
  obtain ⟨w0, hw⟩ : ∃ w0, encode (.halt) = w0 := ⟨_, rfl⟩
  rw [hw] at e
  have g0 := (Nat.div_one w0).trans e
  have n0 := nextField (lo := 0) g0 (by decide)
  have ho : w0 / 2 ^ 24 = 250 := n0.2
  refine laneWord rfl hw ho (by decide) ?_
  have hi : fld w0 28 4 = 15 := (opcode ho).1
  have lo : fld w0 24 4 = 10 := (opcode ho).2
  have r0_24 : fld w0 0 24 = 0 := n0.1
  have c0 : (fld w0 0 24 == 0) = true := by simp [r0_24]
  unfold decodeMajor; rw [hi]; simp only []; unfold decodeMajorF; rw [lo]; simp only [c0, cond_true]

theorem RoundTrip.lim (imm : BitVec 24) : RoundTrip.Statement (.lim imm) := by
  have e : encode (.lim imm) = packWord 0 [(0xff, 8), (imm.toNat, 24)] := rfl
  simp only [packWord] at e
  obtain ⟨w0, hw⟩ : ∃ w0, encode (.lim imm) = w0 := ⟨_, rfl⟩
  rw [hw] at e
  have g0 := (Nat.div_one w0).trans e
  have n0 := nextField (lo := 0) g0 imm.isLt
  have ho : w0 / 2 ^ 24 = 255 := n0.2
  have hi : fld w0 28 4 = 15 := (opcode ho).1
  have lo : fld w0 24 4 = 15 := (opcode ho).2
  have e_imm : bits w0 0 24 = imm := bits_eq n0.1
  have d : decodeMajor w0 = .error .immediateWord := by unfold decodeMajor; rw [hi]; simp only []; unfold decodeMajorF; rw [lo]; simp only []
  intro _; rw [show Instr.isMWord (.lim imm) = false from rfl, hw]; refine ⟨?_, by omega⟩
  show decodeWord w0 = _; unfold decodeWord; rw [d]; simp only []; rw [e_imm]

theorem RoundTrip.mzero (m : BitVec 2) (v : BitVec 1) : RoundTrip.Statement (.mzero m v) := by
  have e : encode (.mzero m v) = packWord 0 [(0x1, 8), (m.toNat, 2), (0, 9), (v.toNat, 1), (0, 12)] := rfl
  simp only [packWord] at e
  obtain ⟨w0, hw⟩ : ∃ w0, encode (.mzero m v) = w0 := ⟨_, rfl⟩
  rw [hw] at e
  have g0 := (Nat.div_one w0).trans e
  have n0 := nextField (lo := 0) g0 (by decide)
  have n1 := nextField (lo := 12) n0.2 v.isLt
  have n2 := nextField (lo := 13) n1.2 (by decide)
  have n3 := nextField (lo := 22) n2.2 m.isLt
  have ho : w0 / 2 ^ 24 = 1 := n3.2
  refine streamWord rfl hw ho (by decide) ?_
  have hi : fld w0 28 4 = 0 := (opcode ho).1
  have lo : fld w0 24 4 = 1 := (opcode ho).2
  have e_m : bits w0 22 2 = m := bits_eq n3.1
  have e_v : bits w0 12 1 = v := bits_eq n1.1
  have r0_12 : fld w0 0 12 = 0 := n0.1
  have r13_9 : fld w0 13 9 = 0 := n2.1
  have c0 : (fld w0 0 12 == 0 && fld w0 13 9 == 0) = true := by simp [r0_12, r13_9]
  unfold decodeM; rw [hi]; simp only []; unfold decodeM0; rw [lo]; simp only [c0, cond_true]; rw [e_m, e_v]

theorem RoundTrip.mma (m : BitVec 2) (a : BitVec 5) (b : BitVec 5) (k : BitVec 6) (n : BitVec 1) (u : BitVec 1) (t : BitVec 1) : RoundTrip.Statement (.mma m a b k n u t) := by
  have e : encode (.mma m a b k n u t) = packWord 0 [(0x2, 8), (m.toNat, 2), (a.toNat, 5), (b.toNat, 5), (k.toNat, 6), (0, 3), (n.toNat, 1), (u.toNat, 1), (t.toNat, 1)] := rfl
  simp only [packWord] at e
  obtain ⟨w0, hw⟩ : ∃ w0, encode (.mma m a b k n u t) = w0 := ⟨_, rfl⟩
  rw [hw] at e
  have g0 := (Nat.div_one w0).trans e
  have n0 := nextField (lo := 0) g0 t.isLt
  have n1 := nextField (lo := 1) n0.2 u.isLt
  have n2 := nextField (lo := 2) n1.2 n.isLt
  have n3 := nextField (lo := 3) n2.2 (by decide)
  have n4 := nextField (lo := 6) n3.2 k.isLt
  have n5 := nextField (lo := 12) n4.2 b.isLt
  have n6 := nextField (lo := 17) n5.2 a.isLt
  have n7 := nextField (lo := 22) n6.2 m.isLt
  have ho : w0 / 2 ^ 24 = 2 := n7.2
  refine streamWord rfl hw ho (by decide) ?_
  have hi : fld w0 28 4 = 0 := (opcode ho).1
  have lo : fld w0 24 4 = 2 := (opcode ho).2
  have e_m : bits w0 22 2 = m := bits_eq n7.1
  have e_a : bits w0 17 5 = a := bits_eq n6.1
  have e_b : bits w0 12 5 = b := bits_eq n5.1
  have e_k : bits w0 6 6 = k := bits_eq n4.1
  have e_n : bits w0 2 1 = n := bits_eq n2.1
  have e_u : bits w0 1 1 = u := bits_eq n1.1
  have e_t : bits w0 0 1 = t := bits_eq n0.1
  have r3_3 : fld w0 3 3 = 0 := n3.1
  have c0 : (fld w0 3 3 == 0) = true := by simp [r3_3]
  unfold decodeM; rw [hi]; simp only []; unfold decodeM0; rw [lo]; simp only [c0, cond_true]; rw [e_m, e_a, e_b, e_k, e_n, e_u, e_t]

theorem RoundTrip.mmas (m : BitVec 2) (a : BitVec 5) (b : BitVec 5) (k : BitVec 6) (n : BitVec 1) (u : BitVec 1) : RoundTrip.Statement (.mmas m a b k n u) := by
  have e : encode (.mmas m a b k n u) = packWord 0 [(0x3, 8), (m.toNat, 2), (a.toNat, 5), (b.toNat, 5), (k.toNat, 6), (0, 3), (n.toNat, 1), (u.toNat, 1), (0, 1)] := rfl
  simp only [packWord] at e
  obtain ⟨w0, hw⟩ : ∃ w0, encode (.mmas m a b k n u) = w0 := ⟨_, rfl⟩
  rw [hw] at e
  have g0 := (Nat.div_one w0).trans e
  have n0 := nextField (lo := 0) g0 (by decide)
  have n1 := nextField (lo := 1) n0.2 u.isLt
  have n2 := nextField (lo := 2) n1.2 n.isLt
  have n3 := nextField (lo := 3) n2.2 (by decide)
  have n4 := nextField (lo := 6) n3.2 k.isLt
  have n5 := nextField (lo := 12) n4.2 b.isLt
  have n6 := nextField (lo := 17) n5.2 a.isLt
  have n7 := nextField (lo := 22) n6.2 m.isLt
  have ho : w0 / 2 ^ 24 = 3 := n7.2
  refine streamWord rfl hw ho (by decide) ?_
  have hi : fld w0 28 4 = 0 := (opcode ho).1
  have lo : fld w0 24 4 = 3 := (opcode ho).2
  have e_m : bits w0 22 2 = m := bits_eq n7.1
  have e_a : bits w0 17 5 = a := bits_eq n6.1
  have e_b : bits w0 12 5 = b := bits_eq n5.1
  have e_k : bits w0 6 6 = k := bits_eq n4.1
  have e_n : bits w0 2 1 = n := bits_eq n2.1
  have e_u : bits w0 1 1 = u := bits_eq n1.1
  have r0_1 : fld w0 0 1 = 0 := n0.1
  have r3_3 : fld w0 3 3 = 0 := n3.1
  have c0 : (fld w0 0 1 == 0 && fld w0 3 3 == 0) = true := by simp [r0_1, r3_3]
  unfold decodeM; rw [hi]; simp only []; unfold decodeM0; rw [lo]; simp only [c0, cond_true]; rw [e_m, e_a, e_b, e_k, e_n, e_u]

theorem RoundTrip.mmax (m : BitVec 2) (a : BitVec 5) (b : BitVec 5) (k : BitVec 6) (n : BitVec 1) (u : BitVec 1) (t : BitVec 1) : RoundTrip.Statement (.mmax m a b k n u t) := by
  have e : encode (.mmax m a b k n u t) = packWord 0 [(0x4, 8), (m.toNat, 2), (a.toNat, 5), (b.toNat, 5), (k.toNat, 6), (0, 3), (n.toNat, 1), (u.toNat, 1), (t.toNat, 1)] := rfl
  simp only [packWord] at e
  obtain ⟨w0, hw⟩ : ∃ w0, encode (.mmax m a b k n u t) = w0 := ⟨_, rfl⟩
  rw [hw] at e
  have g0 := (Nat.div_one w0).trans e
  have n0 := nextField (lo := 0) g0 t.isLt
  have n1 := nextField (lo := 1) n0.2 u.isLt
  have n2 := nextField (lo := 2) n1.2 n.isLt
  have n3 := nextField (lo := 3) n2.2 (by decide)
  have n4 := nextField (lo := 6) n3.2 k.isLt
  have n5 := nextField (lo := 12) n4.2 b.isLt
  have n6 := nextField (lo := 17) n5.2 a.isLt
  have n7 := nextField (lo := 22) n6.2 m.isLt
  have ho : w0 / 2 ^ 24 = 4 := n7.2
  refine streamWord rfl hw ho (by decide) ?_
  have hi : fld w0 28 4 = 0 := (opcode ho).1
  have lo : fld w0 24 4 = 4 := (opcode ho).2
  have e_m : bits w0 22 2 = m := bits_eq n7.1
  have e_a : bits w0 17 5 = a := bits_eq n6.1
  have e_b : bits w0 12 5 = b := bits_eq n5.1
  have e_k : bits w0 6 6 = k := bits_eq n4.1
  have e_n : bits w0 2 1 = n := bits_eq n2.1
  have e_u : bits w0 1 1 = u := bits_eq n1.1
  have e_t : bits w0 0 1 = t := bits_eq n0.1
  have r3_3 : fld w0 3 3 = 0 := n3.1
  have c0 : (fld w0 3 3 == 0) = true := by simp [r3_3]
  unfold decodeM; rw [hi]; simp only []; unfold decodeM0; rw [lo]; simp only [c0, cond_true]; rw [e_m, e_a, e_b, e_k, e_n, e_u, e_t]

theorem RoundTrip.mlda (m : BitVec 2) (a : BitVec 5) (v : BitVec 1) (t : BitVec 1) : RoundTrip.Statement (.mlda m a v t) := by
  have e : encode (.mlda m a v t) = packWord 0 [(0x5, 8), (m.toNat, 2), (a.toNat, 5), (0, 4), (v.toNat, 1), (0, 11), (t.toNat, 1)] := rfl
  simp only [packWord] at e
  obtain ⟨w0, hw⟩ : ∃ w0, encode (.mlda m a v t) = w0 := ⟨_, rfl⟩
  rw [hw] at e
  have g0 := (Nat.div_one w0).trans e
  have n0 := nextField (lo := 0) g0 t.isLt
  have n1 := nextField (lo := 1) n0.2 (by decide)
  have n2 := nextField (lo := 12) n1.2 v.isLt
  have n3 := nextField (lo := 13) n2.2 (by decide)
  have n4 := nextField (lo := 17) n3.2 a.isLt
  have n5 := nextField (lo := 22) n4.2 m.isLt
  have ho : w0 / 2 ^ 24 = 5 := n5.2
  refine streamWord rfl hw ho (by decide) ?_
  have hi : fld w0 28 4 = 0 := (opcode ho).1
  have lo : fld w0 24 4 = 5 := (opcode ho).2
  have e_m : bits w0 22 2 = m := bits_eq n5.1
  have e_a : bits w0 17 5 = a := bits_eq n4.1
  have e_v : bits w0 12 1 = v := bits_eq n2.1
  have e_t : bits w0 0 1 = t := bits_eq n0.1
  have r1_11 : fld w0 1 11 = 0 := n1.1
  have r13_4 : fld w0 13 4 = 0 := n3.1
  have c0 : (fld w0 1 11 == 0 && fld w0 13 4 == 0) = true := by simp [r1_11, r13_4]
  unfold decodeM; rw [hi]; simp only []; unfold decodeM0; rw [lo]; simp only [c0, cond_true]; rw [e_m, e_a, e_v, e_t]

theorem RoundTrip.msta (m : BitVec 2) (a : BitVec 5) (v : BitVec 1) (sb : BitVec 1) (r : BitVec 2) (t : BitVec 1) : RoundTrip.Statement (.msta m a v sb r t) := by
  intro h0; have hv : (decide (r.toNat ≤ 2)) = true := h0
  have e : encode (.msta m a v sb r t) = packWord 0 [(0x6, 8), (m.toNat, 2), (a.toNat, 5), (0, 4), (v.toNat, 1), (0, 6), (sb.toNat, 1), (r.toNat, 2), (0, 2), (t.toNat, 1)] := rfl
  simp only [packWord] at e
  obtain ⟨w0, hw⟩ : ∃ w0, encode (.msta m a v sb r t) = w0 := ⟨_, rfl⟩
  rw [hw] at e
  have g0 := (Nat.div_one w0).trans e
  have n0 := nextField (lo := 0) g0 t.isLt
  have n1 := nextField (lo := 1) n0.2 (by decide)
  have n2 := nextField (lo := 3) n1.2 r.isLt
  have n3 := nextField (lo := 5) n2.2 sb.isLt
  have n4 := nextField (lo := 6) n3.2 (by decide)
  have n5 := nextField (lo := 12) n4.2 v.isLt
  have n6 := nextField (lo := 13) n5.2 (by decide)
  have n7 := nextField (lo := 17) n6.2 a.isLt
  have n8 := nextField (lo := 22) n7.2 m.isLt
  have ho : w0 / 2 ^ 24 = 6 := n8.2
  refine streamWord rfl hw ho (by decide) ?_ h0
  have hi : fld w0 28 4 = 0 := (opcode ho).1
  have lo : fld w0 24 4 = 6 := (opcode ho).2
  have e_m : bits w0 22 2 = m := bits_eq n8.1
  have e_a : bits w0 17 5 = a := bits_eq n7.1
  have e_v : bits w0 12 1 = v := bits_eq n5.1
  have e_sb : bits w0 5 1 = sb := bits_eq n3.1
  have e_r : bits w0 3 2 = r := bits_eq n2.1
  have e_t : bits w0 0 1 = t := bits_eq n0.1
  have r6_6 : fld w0 6 6 = 0 := n4.1
  have r13_4 : fld w0 13 4 = 0 := n6.1
  have r1_2 : fld w0 1 2 = 0 := n1.1
  have r3_2 : fld w0 3 2 = r.toNat := n2.1
  have c0 : (fld w0 1 2 == 0 && fld w0 6 6 == 0 && fld w0 13 4 == 0 && decide ((fld w0 3 2) ≤ 2)) = true := by simp [r1_2, r3_2, r6_6, r13_4, hv]
  unfold decodeM; rw [hi]; simp only []; unfold decodeM0; rw [lo]; simp only [c0, cond_true]; rw [e_m, e_a, e_v, e_sb, e_r, e_t]

theorem RoundTrip.mcmp (a : BitVec 5) (b : BitVec 5) (k : BitVec 6) : RoundTrip.Statement (.mcmp a b k) := by
  have e : encode (.mcmp a b k) = packWord 0 [(0x7, 8), (0, 2), (a.toNat, 5), (b.toNat, 5), (k.toNat, 6), (0, 6)] := rfl
  simp only [packWord] at e
  obtain ⟨w0, hw⟩ : ∃ w0, encode (.mcmp a b k) = w0 := ⟨_, rfl⟩
  rw [hw] at e
  have g0 := (Nat.div_one w0).trans e
  have n0 := nextField (lo := 0) g0 (by decide)
  have n1 := nextField (lo := 6) n0.2 k.isLt
  have n2 := nextField (lo := 12) n1.2 b.isLt
  have n3 := nextField (lo := 17) n2.2 a.isLt
  have n4 := nextField (lo := 22) n3.2 (by decide)
  have ho : w0 / 2 ^ 24 = 7 := n4.2
  refine streamWord rfl hw ho (by decide) ?_
  have hi : fld w0 28 4 = 0 := (opcode ho).1
  have lo : fld w0 24 4 = 7 := (opcode ho).2
  have e_a : bits w0 17 5 = a := bits_eq n3.1
  have e_b : bits w0 12 5 = b := bits_eq n2.1
  have e_k : bits w0 6 6 = k := bits_eq n1.1
  have r22_2 : fld w0 22 2 = 0 := n4.1
  have r0_6 : fld w0 0 6 = 0 := n0.1
  have c0 : (fld w0 0 6 == 0 && fld w0 22 2 == 0) = true := by simp [r0_6, r22_2]
  unfold decodeM; rw [hi]; simp only []; unfold decodeM0; rw [lo]; simp only [c0, cond_true]; rw [e_a, e_b, e_k]

theorem RoundTrip.marv (k : BitVec 5) : RoundTrip.Statement (.marv k) := by
  have e : encode (.marv k) = packWord 0 [(0x8, 8), (0, 2), (k.toNat, 5), (0, 17)] := rfl
  simp only [packWord] at e
  obtain ⟨w0, hw⟩ : ∃ w0, encode (.marv k) = w0 := ⟨_, rfl⟩
  rw [hw] at e
  have g0 := (Nat.div_one w0).trans e
  have n0 := nextField (lo := 0) g0 (by decide)
  have n1 := nextField (lo := 17) n0.2 k.isLt
  have n2 := nextField (lo := 22) n1.2 (by decide)
  have ho : w0 / 2 ^ 24 = 8 := n2.2
  refine streamWord rfl hw ho (by decide) ?_
  have hi : fld w0 28 4 = 0 := (opcode ho).1
  have lo : fld w0 24 4 = 8 := (opcode ho).2
  have e_k : bits w0 17 5 = k := bits_eq n1.1
  have r22_2 : fld w0 22 2 = 0 := n2.1
  have r0_17 : fld w0 0 17 = 0 := n0.1
  have c0 : (fld w0 0 17 == 0 && fld w0 22 2 == 0) = true := by simp [r0_17, r22_2]
  unfold decodeM; rw [hi]; simp only []; unfold decodeM0; rw [lo]; simp only [c0, cond_true]; rw [e_k]

theorem RoundTrip.mwat (k : BitVec 5) : RoundTrip.Statement (.mwat k) := by
  have e : encode (.mwat k) = packWord 0 [(0x9, 8), (0, 2), (k.toNat, 5), (0, 17)] := rfl
  simp only [packWord] at e
  obtain ⟨w0, hw⟩ : ∃ w0, encode (.mwat k) = w0 := ⟨_, rfl⟩
  rw [hw] at e
  have g0 := (Nat.div_one w0).trans e
  have n0 := nextField (lo := 0) g0 (by decide)
  have n1 := nextField (lo := 17) n0.2 k.isLt
  have n2 := nextField (lo := 22) n1.2 (by decide)
  have ho : w0 / 2 ^ 24 = 9 := n2.2
  refine streamWord rfl hw ho (by decide) ?_
  have hi : fld w0 28 4 = 0 := (opcode ho).1
  have lo : fld w0 24 4 = 9 := (opcode ho).2
  have e_k : bits w0 17 5 = k := bits_eq n1.1
  have r22_2 : fld w0 22 2 = 0 := n2.1
  have r0_17 : fld w0 0 17 = 0 := n0.1
  have c0 : (fld w0 0 17 == 0 && fld w0 22 2 == 0) = true := by simp [r0_17, r22_2]
  unfold decodeM; rw [hi]; simp only []; unfold decodeM0; rw [lo]; simp only [c0, cond_true]; rw [e_k]

theorem RoundTrip.mhdl (h : BitVec 5) (imm : BitVec 17) : RoundTrip.Statement (.mhdl h imm) := by
  have e : encode (.mhdl h imm) = packWord 0 [(0xa, 8), (0, 2), (h.toNat, 5), (imm.toNat, 17)] := rfl
  simp only [packWord] at e
  obtain ⟨w0, hw⟩ : ∃ w0, encode (.mhdl h imm) = w0 := ⟨_, rfl⟩
  rw [hw] at e
  have g0 := (Nat.div_one w0).trans e
  have n0 := nextField (lo := 0) g0 imm.isLt
  have n1 := nextField (lo := 17) n0.2 h.isLt
  have n2 := nextField (lo := 22) n1.2 (by decide)
  have ho : w0 / 2 ^ 24 = 10 := n2.2
  refine streamWord rfl hw ho (by decide) ?_
  have hi : fld w0 28 4 = 0 := (opcode ho).1
  have lo : fld w0 24 4 = 10 := (opcode ho).2
  have e_h : bits w0 17 5 = h := bits_eq n1.1
  have e_imm : bits w0 0 17 = imm := bits_eq n0.1
  have r22_2 : fld w0 22 2 = 0 := n2.1
  have c0 : (fld w0 22 2 == 0) = true := by simp [r22_2]
  unfold decodeM; rw [hi]; simp only []; unfold decodeM0; rw [lo]; simp only [c0, cond_true]; rw [e_h, e_imm]

theorem RoundTrip.mjmp (imm : BitVec 24) : RoundTrip.Statement (.mjmp imm) := by
  have e : encode (.mjmp imm) = packWord 0 [(0xb, 8), (imm.toNat, 24)] := rfl
  simp only [packWord] at e
  obtain ⟨w0, hw⟩ : ∃ w0, encode (.mjmp imm) = w0 := ⟨_, rfl⟩
  rw [hw] at e
  have g0 := (Nat.div_one w0).trans e
  have n0 := nextField (lo := 0) g0 imm.isLt
  have ho : w0 / 2 ^ 24 = 11 := n0.2
  refine streamWord rfl hw ho (by decide) ?_
  have hi : fld w0 28 4 = 0 := (opcode ho).1
  have lo : fld w0 24 4 = 11 := (opcode ho).2
  have e_imm : bits w0 0 24 = imm := bits_eq n0.1
  unfold decodeM; rw [hi]; simp only []; unfold decodeM0; rw [lo]; simp only []; rw [e_imm]

theorem RoundTrip.mloop (n : BitVec 12) (imm : BitVec 12) : RoundTrip.Statement (.mloop n imm) := by
  intro h0; have hv : (decide (2048 ≤ imm.toNat)) = true := h0
  have e : encode (.mloop n imm) = packWord 0 [(0xc, 8), (n.toNat, 12), (imm.toNat, 12)] := rfl
  simp only [packWord] at e
  obtain ⟨w0, hw⟩ : ∃ w0, encode (.mloop n imm) = w0 := ⟨_, rfl⟩
  rw [hw] at e
  have g0 := (Nat.div_one w0).trans e
  have n0 := nextField (lo := 0) g0 imm.isLt
  have n1 := nextField (lo := 12) n0.2 n.isLt
  have ho : w0 / 2 ^ 24 = 12 := n1.2
  refine streamWord rfl hw ho (by decide) ?_ h0
  have hi : fld w0 28 4 = 0 := (opcode ho).1
  have lo : fld w0 24 4 = 12 := (opcode ho).2
  have e_n : bits w0 12 12 = n := bits_eq n1.1
  have e_imm : bits w0 0 12 = imm := bits_eq n0.1
  have r0_12 : fld w0 0 12 = imm.toNat := n0.1
  have c0 : (decide (2048 ≤ (fld w0 0 12))) = true := by simp [r0_12, hv]
  unfold decodeM; rw [hi]; simp only []; unfold decodeM0; rw [lo]; simp only [c0, cond_true]; rw [e_n, e_imm]

theorem RoundTrip.mend : RoundTrip.Statement (.mend) := by
  have e : encode (.mend) = packWord 0 [(0xd, 8), (0, 24)] := rfl
  simp only [packWord] at e
  obtain ⟨w0, hw⟩ : ∃ w0, encode (.mend) = w0 := ⟨_, rfl⟩
  rw [hw] at e
  have g0 := (Nat.div_one w0).trans e
  have n0 := nextField (lo := 0) g0 (by decide)
  have ho : w0 / 2 ^ 24 = 13 := n0.2
  refine streamWord rfl hw ho (by decide) ?_
  have hi : fld w0 28 4 = 0 := (opcode ho).1
  have lo : fld w0 24 4 = 13 := (opcode ho).2
  have r0_24 : fld w0 0 24 = 0 := n0.1
  have c0 : (fld w0 0 24 == 0) = true := by simp [r0_24]
  unfold decodeM; rw [hi]; simp only []; unfold decodeM0; rw [lo]; simp only [c0, cond_true]

theorem RoundTrip.mtrn (m : BitVec 2) (t : BitVec 2) (v : BitVec 1) (c : BitVec 1) : RoundTrip.Statement (.mtrn m t v c) := by
  have e : encode (.mtrn m t v c) = packWord 0 [(0xe, 8), (m.toNat, 2), (0, 3), (t.toNat, 2), (0, 4), (v.toNat, 1), (0, 8), (c.toNat, 1), (0, 3)] := rfl
  simp only [packWord] at e
  obtain ⟨w0, hw⟩ : ∃ w0, encode (.mtrn m t v c) = w0 := ⟨_, rfl⟩
  rw [hw] at e
  have g0 := (Nat.div_one w0).trans e
  have n0 := nextField (lo := 0) g0 (by decide)
  have n1 := nextField (lo := 3) n0.2 c.isLt
  have n2 := nextField (lo := 4) n1.2 (by decide)
  have n3 := nextField (lo := 12) n2.2 v.isLt
  have n4 := nextField (lo := 13) n3.2 (by decide)
  have n5 := nextField (lo := 17) n4.2 t.isLt
  have n6 := nextField (lo := 19) n5.2 (by decide)
  have n7 := nextField (lo := 22) n6.2 m.isLt
  have ho : w0 / 2 ^ 24 = 14 := n7.2
  have hi : fld w0 28 4 = 0 := (opcode ho).1
  have lo : fld w0 24 4 = 14 := (opcode ho).2
  have e_m : bits w0 22 2 = m := bits_eq n7.1
  have e_t : bits w0 17 2 = t := bits_eq n5.1
  have e_v : bits w0 12 1 = v := bits_eq n3.1
  have e_c : bits w0 3 1 = c := bits_eq n1.1
  have r13_4 : fld w0 13 4 = 0 := n4.1
  have r0_3 : fld w0 0 3 = 0 := n0.1
  have r4_8 : fld w0 4 8 = 0 := n2.1
  have r19_3 : fld w0 19 3 = 0 := n6.1
  have c0 : (fld w0 0 3 == 0 && fld w0 4 8 == 0 && fld w0 13 4 == 0 && fld w0 19 3 == 0) = true := by simp [r0_3, r4_8, r13_4, r19_3]
  have d : decodeM w0 = .error .tileMoveWord := by unfold decodeM; rw [hi]; simp only []; unfold decodeM0; rw [lo]; simp only [c0, cond_true]
  intro _; rw [show Instr.isMWord (.mtrn m t v c) = true from rfl, hw]; refine ⟨?_, by omega⟩
  show decodeMatrixWord w0 = _; unfold decodeMatrixWord; rw [d]; simp only []; rw [e_m, e_t, e_v, e_c]

theorem RoundTrip.mendComplete (team : Nat) : RoundTrip.Statement (.mendComplete team) := fun h => Bool.noConfusion h

theorem RoundTrip.idleDemote (team grp spl : Nat) : RoundTrip.Statement (.idleDemote team grp spl) := fun h => Bool.noConfusion h

theorem RoundTrip.entityRotate (core part : Nat) : RoundTrip.Statement (.entityRotate core part) := fun h => Bool.noConfusion h

theorem RoundTrip.ownerChecksPassed (flight : Nat) : RoundTrip.Statement (.ownerChecksPassed flight) := fun h => Bool.noConfusion h

theorem RoundTrip.loadDataReturn (flight : Nat) : RoundTrip.Statement (.loadDataReturn flight) := fun h => Bool.noConfusion h

theorem RoundTrip.storePerform (flight : Nat) : RoundTrip.Statement (.storePerform flight) := fun h => Bool.noConfusion h

theorem RoundTrip.atomicExecute (flight : Nat) : RoundTrip.Statement (.atomicExecute flight) := fun h => Bool.noConfusion h

theorem RoundTrip.l1Invalidate (core line : Nat) : RoundTrip.Statement (.l1Invalidate core line) := fun h => Bool.noConfusion h

theorem RoundTrip.fenceComplete (team grp spl : Nat) : RoundTrip.Statement (.fenceComplete team grp spl) := fun h => Bool.noConfusion h

theorem RoundTrip.tlbiComplete (flight : Nat) : RoundTrip.Statement (.tlbiComplete flight) := fun h => Bool.noConfusion h

theorem RoundTrip.uncorrectableError (at_ : ErrorAt) : RoundTrip.Statement (.uncorrectableError at_) := fun h => Bool.noConfusion h

theorem RoundTrip.leaseExpire (die line : Nat) : RoundTrip.Statement (.leaseExpire die line) := fun h => Bool.noConfusion h

theorem RoundTrip.leaseInvalidateTimeout (die line : Nat) : RoundTrip.Statement (.leaseInvalidateTimeout die line) := fun h => Bool.noConfusion h

theorem RoundTrip.cpaLand (flight : Nat) : RoundTrip.Statement (.cpaLand flight) := fun h => Bool.noConfusion h

theorem RoundTrip.tileOpComplete (flight : Nat) : RoundTrip.Statement (.tileOpComplete flight) := fun h => Bool.noConfusion h

theorem RoundTrip.tredTurn (flight : Nat) : RoundTrip.Statement (.tredTurn flight) := fun h => Bool.noConfusion h

theorem RoundTrip.fixupRelease (flight : Nat) : RoundTrip.Statement (.fixupRelease flight) := fun h => Bool.noConfusion h

theorem RoundTrip.xrsTurn (flight : Nat) : RoundTrip.Statement (.xrsTurn flight) := fun h => Bool.noConfusion h

theorem RoundTrip.exchangeComplete (flight : Nat) : RoundTrip.Statement (.exchangeComplete flight) := fun h => Bool.noConfusion h

theorem RoundTrip.opExpand (die vi stream : Nat) : RoundTrip.Statement (.opExpand die vi stream) := fun h => Bool.noConfusion h

theorem RoundTrip.eventSubscribe (msg : Nat) : RoundTrip.Statement (.eventSubscribe msg) := fun h => Bool.noConfusion h

theorem RoundTrip.eventHomeUpdate (msg : Nat) : RoundTrip.Statement (.eventHomeUpdate msg) := fun h => Bool.noConfusion h

theorem RoundTrip.eventNotify (msg : Nat) : RoundTrip.Statement (.eventNotify msg) := fun h => Bool.noConfusion h

theorem RoundTrip.jobPlace (die : Nat) : RoundTrip.Statement (.jobPlace die) := fun h => Bool.noConfusion h

theorem RoundTrip.jobdoneRetire (flight : Nat) : RoundTrip.Statement (.jobdoneRetire flight) := fun h => Bool.noConfusion h

theorem RoundTrip.teamPlace (launch : Nat) : RoundTrip.Statement (.teamPlace launch) := fun h => Bool.noConfusion h

theorem RoundTrip.gangAge (launch : Nat) : RoundTrip.Statement (.gangAge launch) := fun h => Bool.noConfusion h

theorem RoundTrip.gangStarved (launch : Nat) : RoundTrip.Statement (.gangStarved launch) := fun h => Bool.noConfusion h

theorem RoundTrip.waitTimeout (who : AgentId) : RoundTrip.Statement (.waitTimeout who) := fun h => Bool.noConfusion h

theorem RoundTrip.purgeComplete (vi tag : Nat) : RoundTrip.Statement (.purgeComplete vi tag) := fun h => Bool.noConfusion h

theorem RoundTrip.drainAllParked (core : Nat) : RoundTrip.Statement (.drainAllParked core) := fun h => Bool.noConfusion h

theorem RoundTrip.drainFlushDone (core : Nat) : RoundTrip.Statement (.drainFlushDone core) := fun h => Bool.noConfusion h

theorem RoundTrip.drainImageWritten (core : Nat) : RoundTrip.Statement (.drainImageWritten core) := fun h => Bool.noConfusion h

theorem RoundTrip.drainbExpire (core : Nat) : RoundTrip.Statement (.drainbExpire core) := fun h => Bool.noConfusion h

theorem RoundTrip.contextSaveDone (core : Nat) : RoundTrip.Statement (.contextSaveDone core) := fun h => Bool.noConfusion h

theorem RoundTrip.contextLoadDone (core : Nat) : RoundTrip.Statement (.contextLoadDone core) := fun h => Bool.noConfusion h

theorem RoundTrip.coreLost (core : Nat) : RoundTrip.Statement (.coreLost core) := fun h => Bool.noConfusion h

theorem RoundTrip.replayRerun (core part : Nat) (res : RerunResult) : RoundTrip.Statement (.replayRerun core part res) := fun h => Bool.noConfusion h

theorem RoundTrip.cupTimerExpire (die job : Nat) : RoundTrip.Statement (.cupTimerExpire die job) := fun h => Bool.noConfusion h

theorem RoundTrip.scoreDecay (die : Nat) : RoundTrip.Statement (.scoreDecay die) := fun h => Bool.noConfusion h

theorem RoundTrip.pktFetch (queue : Nat) : RoundTrip.Statement (.pktFetch queue) := fun h => Bool.noConfusion h

theorem RoundTrip.pktReread (queue : Nat) : RoundTrip.Statement (.pktReread queue) := fun h => Bool.noConfusion h

theorem RoundTrip.queueTranslateRetry (queue : Nat) : RoundTrip.Statement (.queueTranslateRetry queue) := fun h => Bool.noConfusion h

theorem RoundTrip.nopPacket (queue : Nat) : RoundTrip.Statement (.nopPacket queue) := fun h => Bool.noConfusion h

theorem RoundTrip.queryStatus (queue : Nat) : RoundTrip.Statement (.queryStatus queue) := fun h => Bool.noConfusion h

theorem RoundTrip.clearQuarantine (queue : Nat) : RoundTrip.Statement (.clearQuarantine queue) := fun h => Bool.noConfusion h

theorem RoundTrip.opstreamRegister (queue : Nat) : RoundTrip.Statement (.opstreamRegister queue) := fun h => Bool.noConfusion h

theorem RoundTrip.opstreamUnregister (queue : Nat) : RoundTrip.Statement (.opstreamUnregister queue) := fun h => Bool.noConfusion h

theorem RoundTrip.opstreamClearStop (queue : Nat) : RoundTrip.Statement (.opstreamClearStop queue) := fun h => Bool.noConfusion h

theorem RoundTrip.eventAdd (queue : Nat) : RoundTrip.Statement (.eventAdd queue) := fun h => Bool.noConfusion h

theorem RoundTrip.eventReset (queue : Nat) : RoundTrip.Statement (.eventReset queue) := fun h => Bool.noConfusion h

theorem RoundTrip.launch (queue : Nat) : RoundTrip.Statement (.launch queue) := fun h => Bool.noConfusion h

theorem RoundTrip.contextBank (queue : Nat) : RoundTrip.Statement (.contextBank queue) := fun h => Bool.noConfusion h

theorem RoundTrip.contextTeam (queue : Nat) : RoundTrip.Statement (.contextTeam queue) := fun h => Bool.noConfusion h

theorem RoundTrip.preemptDrain (queue : Nat) : RoundTrip.Statement (.preemptDrain queue) := fun h => Bool.noConfusion h

theorem RoundTrip.preemptImmediate (queue : Nat) : RoundTrip.Statement (.preemptImmediate queue) := fun h => Bool.noConfusion h

theorem RoundTrip.purge (queue : Nat) : RoundTrip.Statement (.purge queue) := fun h => Bool.noConfusion h

theorem RoundTrip.purgeClear (queue : Nat) : RoundTrip.Statement (.purgeClear queue) := fun h => Bool.noConfusion h

theorem RoundTrip.laneFailure (port : Nat) : RoundTrip.Statement (.laneFailure port) := fun h => Bool.noConfusion h

theorem RoundTrip.portRetrain (port width : Nat) : RoundTrip.Statement (.portRetrain port width) := fun h => Bool.noConfusion h

theorem RoundTrip.planeQuiesced (module plane : Nat) : RoundTrip.Statement (.planeQuiesced module plane) := fun h => Bool.noConfusion h

theorem RoundTrip.fabricRequestArrive (req : Nat) : RoundTrip.Statement (.fabricRequestArrive req) := fun h => Bool.noConfusion h

theorem RoundTrip.fabricAck (req : Nat) : RoundTrip.Statement (.fabricAck req) := fun h => Bool.noConfusion h

theorem RoundTrip.dedupAdvance (src tgt : Nat) : RoundTrip.Statement (.dedupAdvance src tgt) := fun h => Bool.noConfusion h

theorem RoundTrip.requestResend (req : Nat) : RoundTrip.Statement (.requestResend req) := fun h => Bool.noConfusion h

theorem RoundTrip.reachTimeout (req : Nat) : RoundTrip.Statement (.reachTimeout req) := fun h => Bool.noConfusion h

theorem RoundTrip.moduleReset (module slotid : Nat) : RoundTrip.Statement (.moduleReset module slotid) := fun h => Bool.noConfusion h

theorem RoundTrip.functionReady (fn : ModFn) : RoundTrip.Statement (.functionReady fn) := fun h => Bool.noConfusion h

theorem RoundTrip.throttleDown (die : Nat) (cause : ThrottleCause) : RoundTrip.Statement (.throttleDown die cause) := fun h => Bool.noConfusion h

theorem RoundTrip.throttleUp (die : Nat) : RoundTrip.Statement (.throttleUp die) := fun h => Bool.noConfusion h

theorem RoundTrip.thermalTrip (module : Nat) : RoundTrip.Statement (.thermalTrip module) := fun h => Bool.noConfusion h

theorem RoundTrip.powerCapWindow (vi energy : Nat) : RoundTrip.Statement (.powerCapWindow vi energy) := fun h => Bool.noConfusion h

theorem RoundTrip.telemetry (module : Nat) : RoundTrip.Statement (.telemetry module) := fun h => Bool.noConfusion h

theorem RoundTrip.firmwareUpdate (module : Nat) (img : FwImage) : RoundTrip.Statement (.firmwareUpdate module img) := fun h => Bool.noConfusion h

theorem RoundTrip.svnCommit (module svn : Nat) : RoundTrip.Statement (.svnCommit module svn) := fun h => Bool.noConfusion h

theorem RoundTrip.attestation (module nonce : Nat) : RoundTrip.Statement (.attestation module nonce) := fun h => Bool.noConfusion h

theorem RoundTrip.viConfiguration (cfg : ViConfig) : RoundTrip.Statement (.viConfiguration cfg) := fun h => Bool.noConfusion h

theorem RoundTrip.measureExtend (module reg : Nat) (obj : List Byte) : RoundTrip.Statement (.measureExtend module reg obj) := fun h => Bool.noConfusion h

theorem RoundTrip.rdmaTransfer (module vi addr len : Nat) (data : Option (List Byte)) : RoundTrip.Statement (.rdmaTransfer module vi addr len data) := fun h => Bool.noConfusion h

theorem RoundTrip.notAnInstruction (w : Word) : RoundTrip.Statement (.notAnInstruction w) := fun h => Bool.noConfusion h

theorem RoundTrip.mWordNotInstruction (w : Word) : RoundTrip.Statement (.mWordNotInstruction w) := fun h => Bool.noConfusion h

theorem RoundTrip.retrainComplete (port : Nat) : RoundTrip.Statement (.retrainComplete port) := fun h => Bool.noConfusion h

theorem RoundTrip.linkLevelRetry (port : Nat) : RoundTrip.Statement (.linkLevelRetry port) := fun h => Bool.noConfusion h

theorem RoundTrip.killTeam (team : Nat) : RoundTrip.Statement (.killTeam team) := fun h => Bool.noConfusion h

theorem RoundTrip.releaseColRecords (vi addr : Nat) : RoundTrip.Statement (.releaseColRecords vi addr) := fun h => Bool.noConfusion h

end Sys2Proof.Laws
end

