-- ==== Sys2Proof/Laws/Cells.lean ====
section
/-! SUPPORT. The laws of sparse stores and of memory: a read after a write to the same key gives the value
written, every other key keeps what it held, and every operation keeps the canonical form. -/

namespace Sys2Proof.Laws

open Sys2Proof.Machine

variable {α : Type} [DecidableEq α]

omit [DecidableEq α] in
theorem cget_cdel_same (d : Nat → α) (m : Cells α) (k : Nat) : cget d (cdel m k) k = d k := by
  induction m with
  | nil => rfl
  | cons e r ih =>
    obtain ⟨j, w⟩ := e
    by_cases h : j = k <;> simp [cdel, cget, h, ih]

omit [DecidableEq α] in
theorem cget_cdel_other (d : Nat → α) (m : Cells α) {k j : Nat} (h : j ≠ k) :
    cget d (cdel m k) j = cget d m j := by
  induction m with
  | nil => rfl
  | cons e r ih =>
    obtain ⟨i, w⟩ := e
    by_cases hi : i = k
    · subst hi; simp [cdel, cget, ih, Ne.symm h]
    · simp [cdel, cget, hi, ih]

omit [DecidableEq α] in
theorem cget_cins_other (d : Nat → α) (m : Cells α) (v : α) {k j : Nat} (h : j ≠ k) :
    cget d (cins m k v) j = cget d m j := by
  induction m with
  | nil => simp [cins, cget, Ne.symm h]
  | cons e r ih =>
    obtain ⟨i, w⟩ := e
    by_cases hi : k < i <;> simp [cins, cget, hi, ih, Ne.symm h]

omit [DecidableEq α] in
theorem cget_cins_same (d : Nat → α) (m : Cells α) (k : Nat) (v : α) : cget d (cins (cdel m k) k v) k = v := by
  induction m with
  | nil => simp [cdel, cins, cget]
  | cons e r ih =>
    obtain ⟨i, w⟩ := e
    by_cases hi : i = k
    · simp [cdel, hi, ih]
    · by_cases hk : k < i <;> simp [cdel, cins, cget, hi, hk, ih]

/-- Reading a key that was just written gives the value written. -/
@[simp] theorem cget_cput_same (d : Nat → α) (m : Cells α) (k : Nat) (v : α) : cget d (cput d m k v) k = v := by
  unfold cput
  split
  · rw [cget_cdel_same]; exact (by assumption : v = d k).symm
  · exact cget_cins_same d m k v

/-- Writing a key leaves every other key alone. -/
theorem cget_cput_other (d : Nat → α) (m : Cells α) (v : α) {k j : Nat} (h : j ≠ k) :
    cget d (cput d m k v) j = cget d m j := by
  unfold cput
  split
  · exact cget_cdel_other d m h
  · rw [cget_cins_other d _ v h, cget_cdel_other d m h]

theorem cget_cput (d : Nat → α) (m : Cells α) (k j : Nat) (v : α) :
    cget d (cput d m k v) j = if j = k then v else cget d m j := by
  by_cases h : j = k
  · subst h; simp
  · simp [h, cget_cput_other d m v h]

theorem cwfFrom_mono (d : Nat → α) {lo hi : Nat} (h : lo ≤ hi) {m : Cells α} (w : cwfFrom d hi m = true) :
    cwfFrom d lo m = true := by
  cases m with
  | nil => rfl
  | cons e r =>
    simp only [cwfFrom, Bool.and_eq_true, decide_eq_true_eq] at w ⊢
    exact ⟨⟨by omega, w.1.2⟩, w.2⟩

theorem cwfFrom_cdel (d : Nat → α) (k : Nat) {lo : Nat} {m : Cells α} (w : cwfFrom d lo m = true) :
    cwfFrom d lo (cdel m k) = true := by
  induction m generalizing lo with
  | nil => rfl
  | cons e r ih =>
    obtain ⟨j, v⟩ := e
    simp only [cwfFrom, Bool.and_eq_true, decide_eq_true_eq] at w
    by_cases hj : j = k
    · simp only [cdel, hj, if_true]
      exact ih (cwfFrom_mono d (by omega) w.2)
    · simp only [cdel, hj, if_false, cwfFrom, Bool.and_eq_true, decide_eq_true_eq]
      exact ⟨w.1, ih w.2⟩

theorem cwfFrom_cins (d : Nat → α) {k lo : Nat} {v : α} (hk : lo ≤ k) (hv : v ≠ d k) {m : Cells α}
    (w : cwfFrom d lo m = true) (hm : ∀ e ∈ m, e.1 ≠ k) : cwfFrom d lo (cins m k v) = true := by
  induction m generalizing lo with
  | nil => simp [cins, cwfFrom, hk, hv]
  | cons e r ih =>
    obtain ⟨j, x⟩ := e
    have hj : j ≠ k := hm (j, x) (by simp)
    simp only [cwfFrom, Bool.and_eq_true, decide_eq_true_eq] at w
    by_cases h : k < j
    · simp only [cins, h, if_true, cwfFrom, Bool.and_eq_true, decide_eq_true_eq]
      exact ⟨⟨hk, hv⟩, ⟨by omega, w.1.2⟩, w.2⟩
    · simp only [cins, h, if_false, cwfFrom, Bool.and_eq_true, decide_eq_true_eq]
      exact ⟨w.1, ih (by omega) w.2 (fun e he => hm e (by simp [he]))⟩

omit [DecidableEq α] in
theorem mem_cdel {m : Cells α} {k : Nat} : ∀ e ∈ cdel m k, e.1 ≠ k := by
  induction m with
  | nil => simp [cdel]
  | cons e r ih =>
    obtain ⟨j, v⟩ := e
    by_cases hj : j = k
    · simpa [cdel, hj] using ih
    · intro e he
      simp only [cdel, hj, if_false, List.mem_cons] at he
      rcases he with rfl | he
      · exact hj
      · exact ih e he

/-- A write keeps the canonical form. -/
theorem cwf_cput (d : Nat → α) (k : Nat) (v : α) {m : Cells α} (w : cwf d m = true) : cwf d (cput d m k v) = true := by
  unfold cput
  split
  · exact cwfFrom_cdel d k w
  · exact cwfFrom_cins d (Nat.zero_le _) (by assumption) (cwfFrom_cdel d k w) mem_cdel

/-- Consecutive writes keep it. -/
theorem cwf_cputs (d : Nat → α) (vs : List α) (k : Nat) {m : Cells α} (w : cwf d m = true) :
    cwf d (cputs d m k vs) = true := by
  induction vs generalizing m k with
  | nil => exact w
  | cons v r ih => exact ih (k + 1) (cwf_cput d k v w)

/-- Dropping entries keeps it. -/
theorem cwf_filter (d : Nat → α) (f : Nat × α → Bool) {m : Cells α} {lo : Nat} (w : cwfFrom d lo m = true) :
    cwfFrom d lo (m.filter f) = true := by
  induction m generalizing lo with
  | nil => rfl
  | cons e r ih =>
    obtain ⟨j, v⟩ := e
    simp only [cwfFrom, Bool.and_eq_true, decide_eq_true_eq] at w
    by_cases h : f (j, v) = true
    · simp only [List.filter_cons, h, if_true, cwfFrom, Bool.and_eq_true, decide_eq_true_eq]
      exact ⟨w.1, ih w.2⟩
    · simp only [List.filter_cons, h]
      exact cwfFrom_mono d (by omega) (ih w.2)

/-- What consecutive writes leave at a key. -/
theorem cget_cputs (d : Nat → α) (vs : List α) (k j : Nat) (m : Cells α) :
    cget d (cputs d m k vs) j =
      if h : k ≤ j ∧ j - k < vs.length then vs[j - k]'h.2 else cget d m j := by
  induction vs generalizing m k with
  | nil => simp [cputs]
  | cons v r ih =>
    simp only [cputs, ih, List.length_cons]
    by_cases h1 : j = k
    · subst h1; simp; try (intro h; omega)
    · by_cases h2 : k ≤ j
      · have e : j - k = (j - (k + 1)) + 1 := by omega
        by_cases h3 : j - (k + 1) < r.length
        · have c1 : k + 1 ≤ j ∧ j - (k + 1) < r.length := ⟨by omega, h3⟩
          have c2 : k ≤ j ∧ j - k < r.length + 1 := ⟨h2, by omega⟩
          rw [dif_pos c1, dif_pos c2]; simp [e]
        · have c1 : ¬ (k + 1 ≤ j ∧ j - (k + 1) < r.length) := fun c => h3 c.2
          have c2 : ¬ (k ≤ j ∧ j - k < r.length + 1) := fun c => h3 (by omega)
          rw [dif_neg c1, dif_neg c2, cget_cput_other d m v h1]
      · have c1 : ¬ (k + 1 ≤ j ∧ j - (k + 1) < r.length) := fun c => h2 (by omega)
        have c2 : ¬ (k ≤ j ∧ j - k < r.length + 1) := fun c => h2 c.1
        rw [dif_neg c1, dif_neg c2, cget_cput_other d m v h1]

/-- Two stores in canonical form that read alike are equal. -/
theorem cget_lt (d : Nat → α) {lo j : Nat} {m : Cells α} (w : cwfFrom d lo m = true) (h : j < lo) : cget d m j = d j := by
  induction m generalizing lo with
  | nil => rfl
  | cons e r ih =>
    obtain ⟨i, v⟩ := e
    simp only [cwfFrom, Bool.and_eq_true, decide_eq_true_eq] at w
    simp only [cget, show i ≠ j by omega, if_false]
    exact ih w.2 (by omega)

theorem cwf_ext (d : Nat → α) {lo : Nat} {a b : Cells α} (wa : cwfFrom d lo a = true) (wb : cwfFrom d lo b = true)
    (h : ∀ k, cget d a k = cget d b k) : a = b := by
  induction a generalizing lo b with
  | nil =>
    cases b with
    | nil => rfl
    | cons e r =>
      obtain ⟨j, v⟩ := e
      simp only [cwfFrom, Bool.and_eq_true, decide_eq_true_eq] at wb
      exact absurd (by simpa [cget] using (h j).symm) wb.1.2
  | cons e r ih =>
    obtain ⟨i, u⟩ := e
    simp only [cwfFrom, Bool.and_eq_true, decide_eq_true_eq] at wa
    cases b with
    | nil => exact absurd (by simpa [cget] using h i) wa.1.2
    | cons e' r' =>
      obtain ⟨j, v⟩ := e'
      simp only [cwfFrom, Bool.and_eq_true, decide_eq_true_eq] at wb
      have hij : i = j := by
        rcases Nat.lt_trichotomy i j with c | c | c
        · have := h i
          simp only [cget, if_true, show j ≠ i by omega, if_false, cget_lt d wb.2 (show i < j + 1 by omega)] at this
          exact absurd this wa.1.2
        · exact c
        · have := h j
          simp only [cget, if_true, show i ≠ j by omega, if_false, cget_lt d wa.2 (show j < i + 1 by omega)] at this
          exact absurd this.symm wb.1.2
      subst hij
      have huv : u = v := by simpa [cget] using h i
      subst huv
      have : r = r' := ih wa.2 wb.2 (fun k => by
        have := h k
        simp only [cget] at this
        by_cases hk : i = k
        · subst hk; rw [cget_lt d wa.2 (by omega), cget_lt d wb.2 (by omega)]
        · simpa [hk] using this)
      rw [this]

/-! ## Memory -/

@[simp] theorem rdByte_wrByte_same (s : State) (pa : Nat) (b : Byte) : rdByte (wrByte s pa b) pa = b := by
  simp [rdByte, wrByte]

theorem rdByte_wrByte_other (s : State) (b : Byte) {pa a : Nat} (h : a ≠ pa) :
    rdByte (wrByte s pa b) a = rdByte s a := by simp [rdByte, wrByte, cget_cput_other _ _ _ h]

/-- What a byte reads as after consecutive writes. -/
theorem rdByte_wrBytes (s : State) (pa a : Nat) (bs : List Byte) :
    rdByte (wrBytes s pa bs) a = if h : pa ≤ a ∧ a - pa < bs.length then bs[a - pa]'h.2 else rdByte s a := by
  simp [rdByte, wrBytes, cget_cputs]

theorem rdByte_wrBytes_out (s : State) {pa a : Nat} {bs : List Byte} (h : a < pa ∨ pa + bs.length ≤ a) :
    rdByte (wrBytes s pa bs) a = rdByte s a := by
  rw [rdByte_wrBytes, dif_neg]; omega

@[simp] theorem natLe_length (n w : Nat) : (natLe n w).length = n := by
  induction n generalizing w with
  | zero => rfl
  | succ n ih => simp [natLe, ih]

theorem rdByte_wrNat_out (s : State) {pa n v a : Nat} (h : a < pa ∨ pa + n ≤ a) :
    rdByte (wrNat s pa n v) a = rdByte s a := rdByte_wrBytes_out s (by simpa using h)

/-- The bytes written are the bytes read. -/
theorem rdBytes_wrBytes (s : State) (pa : Nat) (bs : List Byte) : rdBytes (wrBytes s pa bs) pa bs.length = bs := by
  have key : ∀ (n k : Nat), k + n = bs.length → rdBytes (wrBytes s pa bs) (pa + k) n = bs.drop k := by
    intro n
    induction n with
    | zero => intro k hk; simp [rdBytes, List.drop_eq_nil_of_le (show bs.length ≤ k by omega)]
    | succ n ih =>
      intro k hk
      have hl : k < bs.length := by omega
      rw [rdBytes, show pa + k + 1 = pa + (k + 1) by omega, ih (k + 1) (by omega), rdByte_wrBytes,
        dif_pos (⟨by omega, by omega⟩ : pa ≤ pa + k ∧ pa + k - pa < bs.length)]
      simp
  simpa using key bs.length 0 (by omega)

theorem memory_wf_wrByte (s : State) (pa : Nat) (b : Byte) (w : Memory.wf s.mem = true) :
    Memory.wf (wrByte s pa b).mem = true := cwf_cput memDflt pa b w

theorem memory_wf_wrBytes (s : State) (pa : Nat) (bs : List Byte) (w : Memory.wf s.mem = true) :
    Memory.wf (wrBytes s pa bs).mem = true := cwf_cputs memDflt bs pa w

theorem memory_wf_wrNat (s : State) (pa n v : Nat) (w : Memory.wf s.mem = true) :
    Memory.wf (wrNat s pa n v).mem = true := memory_wf_wrBytes s pa _ w

theorem memory_wf_wrParts (ps : List (Nat × Nat)) (bs : List Byte) (s : State) (w : Memory.wf s.mem = true) :
    Memory.wf (wrParts s ps bs).mem = true := by
  induction ps generalizing s bs with
  | nil => exact w
  | cons p r ih => exact ih (bs.drop p.2) (wrBytes s p.1 (bs.take p.2)) (memory_wf_wrBytes s p.1 _ w)

end Sys2Proof.Laws
end

