-- ==== Sys2Proof/Laws/State.lean ====
section
/-! SUPPORT. What each named update of the machine leaves in each field, so that no later proof unfolds a record
update; and what the recursive register writes leave. -/

namespace Sys2Proof.Laws

open Sys2Proof.Machine

/-! `setPc` -/

@[simp] theorem setPc_split (s : State) (pc : DWord) : (setPc s pc).split = { s.split with pc := pc } := rfl
@[simp] theorem setPc_group (s : State) (pc : DWord) : (setPc s pc).group = s.group := rfl
@[simp] theorem setPc_team (s : State) (pc : DWord) : (setPc s pc).team = s.team := rfl
@[simp] theorem setPc_live (s : State) (pc : DWord) : (setPc s pc).live = s.live := rfl
@[simp] theorem setPc_teams (s : State) (pc : DWord) : (setPc s pc).teams = s.teams := rfl
@[simp] theorem setPc_mem (s : State) (pc : DWord) : (setPc s pc).mem = s.mem := rfl
@[simp] theorem setPc_poison (s : State) (pc : DWord) : (setPc s pc).poison = s.poison := rfl
@[simp] theorem setPc_cores (s : State) (pc : DWord) : (setPc s pc).cores = s.cores := rfl
@[simp] theorem setPc_dies (s : State) (pc : DWord) : (setPc s pc).dies = s.dies := rfl
@[simp] theorem setPc_modules (s : State) (pc : DWord) : (setPc s pc).modules = s.modules := rfl
@[simp] theorem setPc_ports (s : State) (pc : DWord) : (setPc s pc).ports = s.ports := rfl
@[simp] theorem setPc_queues (s : State) (pc : DWord) : (setPc s pc).queues = s.queues := rfl
@[simp] theorem setPc_vis (s : State) (pc : DWord) : (setPc s pc).vis = s.vis := rfl
@[simp] theorem setPc_tlb (s : State) (pc : DWord) : (setPc s pc).tlb = s.tlb := rfl
@[simp] theorem setPc_flights (s : State) (pc : DWord) : (setPc s pc).flights = s.flights := rfl
@[simp] theorem setPc_reqs (s : State) (pc : DWord) : (setPc s pc).reqs = s.reqs := rfl
@[simp] theorem setPc_dedups (s : State) (pc : DWord) : (setPc s pc).dedups = s.dedups := rfl
@[simp] theorem setPc_msgs (s : State) (pc : DWord) : (setPc s pc).msgs = s.msgs := rfl
@[simp] theorem setPc_leases (s : State) (pc : DWord) : (setPc s pc).leases = s.leases := rfl
@[simp] theorem setPc_launches (s : State) (pc : DWord) : (setPc s pc).launches = s.launches := rfl
@[simp] theorem setPc_purges (s : State) (pc : DWord) : (setPc s pc).purges = s.purges := rfl
@[simp] theorem setPc_awaits (s : State) (pc : DWord) : (setPc s pc).awaits = s.awaits := rfl
@[simp] theorem setPc_written (s : State) (pc : DWord) : (setPc s pc).written = s.written := rfl
@[simp] theorem setPc_late (s : State) (pc : DWord) : (setPc s pc).late = s.late := rfl
@[simp] theorem setPc_woken (s : State) (pc : DWord) : (setPc s pc).woken = s.woken := rfl
@[simp] theorem setPc_reports (s : State) (pc : DWord) : (setPc s pc).reports = s.reports := rfl
@[simp] theorem setPc_notices (s : State) (pc : DWord) : (setPc s pc).notices = s.notices := rfl
@[simp] theorem setPc_rdma (s : State) (pc : DWord) : (setPc s pc).rdma = s.rdma := rfl
@[simp] theorem setPc_agenda (s : State) (pc : DWord) : (setPc s pc).agenda = s.agenda := rfl
@[simp] theorem setPc_lim (s : State) (pc : DWord) : (setPc s pc).lim = s.lim := rfl
@[simp] theorem setPc_mteam (s : State) (pc : DWord) : (setPc s pc).mteam = s.mteam := rfl
@[simp] theorem setPc_fw (s : State) (pc : DWord) : (setPc s pc).fw = s.fw := rfl
@[simp] theorem setPc_fwModule (s : State) (pc : DWord) : (setPc s pc).fwModule = s.fwModule := rfl
@[simp] theorem setPc_tick (s : State) (pc : DWord) : (setPc s pc).tick = s.tick := rfl
@[simp] theorem setPc_fresh (s : State) (pc : DWord) : (setPc s pc).fresh = s.fresh := rfl

/-! `adv` -/

@[simp] theorem adv_split (s : State) : (adv s).split = { s.split with pc := nextPc s, wait := none } := rfl
@[simp] theorem adv_group (s : State) : (adv s).group = s.group := rfl
@[simp] theorem adv_team (s : State) : (adv s).team = s.team := rfl
@[simp] theorem adv_live (s : State) : (adv s).live = s.live := rfl
@[simp] theorem adv_teams (s : State) : (adv s).teams = s.teams := rfl
@[simp] theorem adv_mem (s : State) : (adv s).mem = s.mem := rfl
@[simp] theorem adv_poison (s : State) : (adv s).poison = s.poison := rfl
@[simp] theorem adv_cores (s : State) : (adv s).cores = s.cores := rfl
@[simp] theorem adv_dies (s : State) : (adv s).dies = s.dies := rfl
@[simp] theorem adv_modules (s : State) : (adv s).modules = s.modules := rfl
@[simp] theorem adv_ports (s : State) : (adv s).ports = s.ports := rfl
@[simp] theorem adv_queues (s : State) : (adv s).queues = s.queues := rfl
@[simp] theorem adv_vis (s : State) : (adv s).vis = s.vis := rfl
@[simp] theorem adv_tlb (s : State) : (adv s).tlb = s.tlb := rfl
@[simp] theorem adv_flights (s : State) : (adv s).flights = s.flights := rfl
@[simp] theorem adv_reqs (s : State) : (adv s).reqs = s.reqs := rfl
@[simp] theorem adv_dedups (s : State) : (adv s).dedups = s.dedups := rfl
@[simp] theorem adv_msgs (s : State) : (adv s).msgs = s.msgs := rfl
@[simp] theorem adv_leases (s : State) : (adv s).leases = s.leases := rfl
@[simp] theorem adv_launches (s : State) : (adv s).launches = s.launches := rfl
@[simp] theorem adv_purges (s : State) : (adv s).purges = s.purges := rfl
@[simp] theorem adv_awaits (s : State) : (adv s).awaits = s.awaits := rfl
@[simp] theorem adv_written (s : State) : (adv s).written = s.written := rfl
@[simp] theorem adv_late (s : State) : (adv s).late = s.late := rfl
@[simp] theorem adv_woken (s : State) : (adv s).woken = s.woken := rfl
@[simp] theorem adv_reports (s : State) : (adv s).reports = s.reports := rfl
@[simp] theorem adv_notices (s : State) : (adv s).notices = s.notices := rfl
@[simp] theorem adv_rdma (s : State) : (adv s).rdma = s.rdma := rfl
@[simp] theorem adv_agenda (s : State) : (adv s).agenda = s.agenda := rfl
@[simp] theorem adv_lim (s : State) : (adv s).lim = none := rfl
@[simp] theorem adv_mteam (s : State) : (adv s).mteam = s.mteam := rfl
@[simp] theorem adv_fw (s : State) : (adv s).fw = s.fw := rfl
@[simp] theorem adv_fwModule (s : State) : (adv s).fwModule = s.fwModule := rfl
@[simp] theorem adv_tick (s : State) : (adv s).tick = s.tick := rfl
@[simp] theorem adv_fresh (s : State) : (adv s).fresh = s.fresh := rfl

/-! `hold` -/

@[simp] theorem hold_group (s : State) (w : WaitCond) : (hold s w).group = s.group := rfl
@[simp] theorem hold_team (s : State) (w : WaitCond) : (hold s w).team = s.team := rfl
@[simp] theorem hold_live (s : State) (w : WaitCond) : (hold s w).live = s.live := rfl
@[simp] theorem hold_teams (s : State) (w : WaitCond) : (hold s w).teams = s.teams := rfl
@[simp] theorem hold_mem (s : State) (w : WaitCond) : (hold s w).mem = s.mem := rfl
@[simp] theorem hold_poison (s : State) (w : WaitCond) : (hold s w).poison = s.poison := rfl
@[simp] theorem hold_cores (s : State) (w : WaitCond) : (hold s w).cores = s.cores := rfl
@[simp] theorem hold_dies (s : State) (w : WaitCond) : (hold s w).dies = s.dies := rfl
@[simp] theorem hold_modules (s : State) (w : WaitCond) : (hold s w).modules = s.modules := rfl
@[simp] theorem hold_ports (s : State) (w : WaitCond) : (hold s w).ports = s.ports := rfl
@[simp] theorem hold_queues (s : State) (w : WaitCond) : (hold s w).queues = s.queues := rfl
@[simp] theorem hold_vis (s : State) (w : WaitCond) : (hold s w).vis = s.vis := rfl
@[simp] theorem hold_tlb (s : State) (w : WaitCond) : (hold s w).tlb = s.tlb := rfl
@[simp] theorem hold_flights (s : State) (w : WaitCond) : (hold s w).flights = s.flights := rfl
@[simp] theorem hold_reqs (s : State) (w : WaitCond) : (hold s w).reqs = s.reqs := rfl
@[simp] theorem hold_dedups (s : State) (w : WaitCond) : (hold s w).dedups = s.dedups := rfl
@[simp] theorem hold_msgs (s : State) (w : WaitCond) : (hold s w).msgs = s.msgs := rfl
@[simp] theorem hold_leases (s : State) (w : WaitCond) : (hold s w).leases = s.leases := rfl
@[simp] theorem hold_launches (s : State) (w : WaitCond) : (hold s w).launches = s.launches := rfl
@[simp] theorem hold_purges (s : State) (w : WaitCond) : (hold s w).purges = s.purges := rfl
@[simp] theorem hold_awaits (s : State) (w : WaitCond) : (hold s w).awaits = s.awaits := rfl
@[simp] theorem hold_written (s : State) (w : WaitCond) : (hold s w).written = s.written := rfl
@[simp] theorem hold_late (s : State) (w : WaitCond) : (hold s w).late = s.late := rfl
@[simp] theorem hold_woken (s : State) (w : WaitCond) : (hold s w).woken = s.woken := rfl
@[simp] theorem hold_reports (s : State) (w : WaitCond) : (hold s w).reports = s.reports := rfl
@[simp] theorem hold_notices (s : State) (w : WaitCond) : (hold s w).notices = s.notices := rfl
@[simp] theorem hold_rdma (s : State) (w : WaitCond) : (hold s w).rdma = s.rdma := rfl
@[simp] theorem hold_agenda (s : State) (w : WaitCond) : (hold s w).agenda = s.agenda := rfl
@[simp] theorem hold_lim (s : State) (w : WaitCond) : (hold s w).lim = none := rfl
@[simp] theorem hold_mteam (s : State) (w : WaitCond) : (hold s w).mteam = s.mteam := rfl
@[simp] theorem hold_fw (s : State) (w : WaitCond) : (hold s w).fw = s.fw := rfl
@[simp] theorem hold_fwModule (s : State) (w : WaitCond) : (hold s w).fwModule = s.fwModule := rfl
@[simp] theorem hold_tick (s : State) (w : WaitCond) : (hold s w).tick = s.tick := rfl
@[simp] theorem hold_fresh (s : State) (w : WaitCond) : (hold s w).fresh = s.fresh := rfl

/-! `ws` -/

@[simp] theorem ws_split (s : State) (n : Nat) (v : DWord) : (ws s n v).split = splitPutS s.split n v := rfl
@[simp] theorem ws_group (s : State) (n : Nat) (v : DWord) : (ws s n v).group = s.group := rfl
@[simp] theorem ws_team (s : State) (n : Nat) (v : DWord) : (ws s n v).team = s.team := rfl
@[simp] theorem ws_live (s : State) (n : Nat) (v : DWord) : (ws s n v).live = s.live := rfl
@[simp] theorem ws_teams (s : State) (n : Nat) (v : DWord) : (ws s n v).teams = s.teams := rfl
@[simp] theorem ws_mem (s : State) (n : Nat) (v : DWord) : (ws s n v).mem = s.mem := rfl
@[simp] theorem ws_poison (s : State) (n : Nat) (v : DWord) : (ws s n v).poison = s.poison := rfl
@[simp] theorem ws_cores (s : State) (n : Nat) (v : DWord) : (ws s n v).cores = s.cores := rfl
@[simp] theorem ws_dies (s : State) (n : Nat) (v : DWord) : (ws s n v).dies = s.dies := rfl
@[simp] theorem ws_modules (s : State) (n : Nat) (v : DWord) : (ws s n v).modules = s.modules := rfl
@[simp] theorem ws_ports (s : State) (n : Nat) (v : DWord) : (ws s n v).ports = s.ports := rfl
@[simp] theorem ws_queues (s : State) (n : Nat) (v : DWord) : (ws s n v).queues = s.queues := rfl
@[simp] theorem ws_vis (s : State) (n : Nat) (v : DWord) : (ws s n v).vis = s.vis := rfl
@[simp] theorem ws_tlb (s : State) (n : Nat) (v : DWord) : (ws s n v).tlb = s.tlb := rfl
@[simp] theorem ws_flights (s : State) (n : Nat) (v : DWord) : (ws s n v).flights = s.flights := rfl
@[simp] theorem ws_reqs (s : State) (n : Nat) (v : DWord) : (ws s n v).reqs = s.reqs := rfl
@[simp] theorem ws_dedups (s : State) (n : Nat) (v : DWord) : (ws s n v).dedups = s.dedups := rfl
@[simp] theorem ws_msgs (s : State) (n : Nat) (v : DWord) : (ws s n v).msgs = s.msgs := rfl
@[simp] theorem ws_leases (s : State) (n : Nat) (v : DWord) : (ws s n v).leases = s.leases := rfl
@[simp] theorem ws_launches (s : State) (n : Nat) (v : DWord) : (ws s n v).launches = s.launches := rfl
@[simp] theorem ws_purges (s : State) (n : Nat) (v : DWord) : (ws s n v).purges = s.purges := rfl
@[simp] theorem ws_awaits (s : State) (n : Nat) (v : DWord) : (ws s n v).awaits = s.awaits := rfl
@[simp] theorem ws_written (s : State) (n : Nat) (v : DWord) : (ws s n v).written = s.written := rfl
@[simp] theorem ws_late (s : State) (n : Nat) (v : DWord) : (ws s n v).late = s.late := rfl
@[simp] theorem ws_woken (s : State) (n : Nat) (v : DWord) : (ws s n v).woken = s.woken := rfl
@[simp] theorem ws_reports (s : State) (n : Nat) (v : DWord) : (ws s n v).reports = s.reports := rfl
@[simp] theorem ws_notices (s : State) (n : Nat) (v : DWord) : (ws s n v).notices = s.notices := rfl
@[simp] theorem ws_rdma (s : State) (n : Nat) (v : DWord) : (ws s n v).rdma = s.rdma := rfl
@[simp] theorem ws_agenda (s : State) (n : Nat) (v : DWord) : (ws s n v).agenda = s.agenda := rfl
@[simp] theorem ws_lim (s : State) (n : Nat) (v : DWord) : (ws s n v).lim = s.lim := rfl
@[simp] theorem ws_mteam (s : State) (n : Nat) (v : DWord) : (ws s n v).mteam = s.mteam := rfl
@[simp] theorem ws_fw (s : State) (n : Nat) (v : DWord) : (ws s n v).fw = s.fw := rfl
@[simp] theorem ws_fwModule (s : State) (n : Nat) (v : DWord) : (ws s n v).fwModule = s.fwModule := rfl
@[simp] theorem ws_tick (s : State) (n : Nat) (v : DWord) : (ws s n v).tick = s.tick := rfl
@[simp] theorem ws_fresh (s : State) (n : Nat) (v : DWord) : (ws s n v).fresh = s.fresh := rfl

/-! `wx` -/

@[simp] theorem wx_split (s : State) (n : Nat) (v : XReg) : (wx s n v).split = { s.split with x := cput (fun _ => ⟨0, 0⟩) s.split.x n v } := rfl
@[simp] theorem wx_group (s : State) (n : Nat) (v : XReg) : (wx s n v).group = s.group := rfl
@[simp] theorem wx_team (s : State) (n : Nat) (v : XReg) : (wx s n v).team = s.team := rfl
@[simp] theorem wx_live (s : State) (n : Nat) (v : XReg) : (wx s n v).live = s.live := rfl
@[simp] theorem wx_teams (s : State) (n : Nat) (v : XReg) : (wx s n v).teams = s.teams := rfl
@[simp] theorem wx_mem (s : State) (n : Nat) (v : XReg) : (wx s n v).mem = s.mem := rfl
@[simp] theorem wx_poison (s : State) (n : Nat) (v : XReg) : (wx s n v).poison = s.poison := rfl
@[simp] theorem wx_cores (s : State) (n : Nat) (v : XReg) : (wx s n v).cores = s.cores := rfl
@[simp] theorem wx_dies (s : State) (n : Nat) (v : XReg) : (wx s n v).dies = s.dies := rfl
@[simp] theorem wx_modules (s : State) (n : Nat) (v : XReg) : (wx s n v).modules = s.modules := rfl
@[simp] theorem wx_ports (s : State) (n : Nat) (v : XReg) : (wx s n v).ports = s.ports := rfl
@[simp] theorem wx_queues (s : State) (n : Nat) (v : XReg) : (wx s n v).queues = s.queues := rfl
@[simp] theorem wx_vis (s : State) (n : Nat) (v : XReg) : (wx s n v).vis = s.vis := rfl
@[simp] theorem wx_tlb (s : State) (n : Nat) (v : XReg) : (wx s n v).tlb = s.tlb := rfl
@[simp] theorem wx_flights (s : State) (n : Nat) (v : XReg) : (wx s n v).flights = s.flights := rfl
@[simp] theorem wx_reqs (s : State) (n : Nat) (v : XReg) : (wx s n v).reqs = s.reqs := rfl
@[simp] theorem wx_dedups (s : State) (n : Nat) (v : XReg) : (wx s n v).dedups = s.dedups := rfl
@[simp] theorem wx_msgs (s : State) (n : Nat) (v : XReg) : (wx s n v).msgs = s.msgs := rfl
@[simp] theorem wx_leases (s : State) (n : Nat) (v : XReg) : (wx s n v).leases = s.leases := rfl
@[simp] theorem wx_launches (s : State) (n : Nat) (v : XReg) : (wx s n v).launches = s.launches := rfl
@[simp] theorem wx_purges (s : State) (n : Nat) (v : XReg) : (wx s n v).purges = s.purges := rfl
@[simp] theorem wx_awaits (s : State) (n : Nat) (v : XReg) : (wx s n v).awaits = s.awaits := rfl
@[simp] theorem wx_written (s : State) (n : Nat) (v : XReg) : (wx s n v).written = s.written := rfl
@[simp] theorem wx_late (s : State) (n : Nat) (v : XReg) : (wx s n v).late = s.late := rfl
@[simp] theorem wx_woken (s : State) (n : Nat) (v : XReg) : (wx s n v).woken = s.woken := rfl
@[simp] theorem wx_reports (s : State) (n : Nat) (v : XReg) : (wx s n v).reports = s.reports := rfl
@[simp] theorem wx_notices (s : State) (n : Nat) (v : XReg) : (wx s n v).notices = s.notices := rfl
@[simp] theorem wx_rdma (s : State) (n : Nat) (v : XReg) : (wx s n v).rdma = s.rdma := rfl
@[simp] theorem wx_agenda (s : State) (n : Nat) (v : XReg) : (wx s n v).agenda = s.agenda := rfl
@[simp] theorem wx_lim (s : State) (n : Nat) (v : XReg) : (wx s n v).lim = s.lim := rfl
@[simp] theorem wx_mteam (s : State) (n : Nat) (v : XReg) : (wx s n v).mteam = s.mteam := rfl
@[simp] theorem wx_fw (s : State) (n : Nat) (v : XReg) : (wx s n v).fw = s.fw := rfl
@[simp] theorem wx_fwModule (s : State) (n : Nat) (v : XReg) : (wx s n v).fwModule = s.fwModule := rfl
@[simp] theorem wx_tick (s : State) (n : Nat) (v : XReg) : (wx s n v).tick = s.tick := rfl
@[simp] theorem wx_fresh (s : State) (n : Nat) (v : XReg) : (wx s n v).fresh = s.fresh := rfl

/-! `wv` -/

@[simp] theorem wv_split (s : State) (n l : Nat) (v : Word) : (wv s n l v).split = s.split := rfl
@[simp] theorem wv_group (s : State) (n l : Nat) (v : Word) : (wv s n l v).group = gput s.group n l v := rfl
@[simp] theorem wv_team (s : State) (n l : Nat) (v : Word) : (wv s n l v).team = s.team := rfl
@[simp] theorem wv_live (s : State) (n l : Nat) (v : Word) : (wv s n l v).live = s.live := rfl
@[simp] theorem wv_teams (s : State) (n l : Nat) (v : Word) : (wv s n l v).teams = s.teams := rfl
@[simp] theorem wv_mem (s : State) (n l : Nat) (v : Word) : (wv s n l v).mem = s.mem := rfl
@[simp] theorem wv_poison (s : State) (n l : Nat) (v : Word) : (wv s n l v).poison = s.poison := rfl
@[simp] theorem wv_cores (s : State) (n l : Nat) (v : Word) : (wv s n l v).cores = s.cores := rfl
@[simp] theorem wv_dies (s : State) (n l : Nat) (v : Word) : (wv s n l v).dies = s.dies := rfl
@[simp] theorem wv_modules (s : State) (n l : Nat) (v : Word) : (wv s n l v).modules = s.modules := rfl
@[simp] theorem wv_ports (s : State) (n l : Nat) (v : Word) : (wv s n l v).ports = s.ports := rfl
@[simp] theorem wv_queues (s : State) (n l : Nat) (v : Word) : (wv s n l v).queues = s.queues := rfl
@[simp] theorem wv_vis (s : State) (n l : Nat) (v : Word) : (wv s n l v).vis = s.vis := rfl
@[simp] theorem wv_tlb (s : State) (n l : Nat) (v : Word) : (wv s n l v).tlb = s.tlb := rfl
@[simp] theorem wv_flights (s : State) (n l : Nat) (v : Word) : (wv s n l v).flights = s.flights := rfl
@[simp] theorem wv_reqs (s : State) (n l : Nat) (v : Word) : (wv s n l v).reqs = s.reqs := rfl
@[simp] theorem wv_dedups (s : State) (n l : Nat) (v : Word) : (wv s n l v).dedups = s.dedups := rfl
@[simp] theorem wv_msgs (s : State) (n l : Nat) (v : Word) : (wv s n l v).msgs = s.msgs := rfl
@[simp] theorem wv_leases (s : State) (n l : Nat) (v : Word) : (wv s n l v).leases = s.leases := rfl
@[simp] theorem wv_launches (s : State) (n l : Nat) (v : Word) : (wv s n l v).launches = s.launches := rfl
@[simp] theorem wv_purges (s : State) (n l : Nat) (v : Word) : (wv s n l v).purges = s.purges := rfl
@[simp] theorem wv_awaits (s : State) (n l : Nat) (v : Word) : (wv s n l v).awaits = s.awaits := rfl
@[simp] theorem wv_written (s : State) (n l : Nat) (v : Word) : (wv s n l v).written = s.written := rfl
@[simp] theorem wv_late (s : State) (n l : Nat) (v : Word) : (wv s n l v).late = s.late := rfl
@[simp] theorem wv_woken (s : State) (n l : Nat) (v : Word) : (wv s n l v).woken = s.woken := rfl
@[simp] theorem wv_reports (s : State) (n l : Nat) (v : Word) : (wv s n l v).reports = s.reports := rfl
@[simp] theorem wv_notices (s : State) (n l : Nat) (v : Word) : (wv s n l v).notices = s.notices := rfl
@[simp] theorem wv_rdma (s : State) (n l : Nat) (v : Word) : (wv s n l v).rdma = s.rdma := rfl
@[simp] theorem wv_agenda (s : State) (n l : Nat) (v : Word) : (wv s n l v).agenda = s.agenda := rfl
@[simp] theorem wv_lim (s : State) (n l : Nat) (v : Word) : (wv s n l v).lim = s.lim := rfl
@[simp] theorem wv_mteam (s : State) (n l : Nat) (v : Word) : (wv s n l v).mteam = s.mteam := rfl
@[simp] theorem wv_fw (s : State) (n l : Nat) (v : Word) : (wv s n l v).fw = s.fw := rfl
@[simp] theorem wv_fwModule (s : State) (n l : Nat) (v : Word) : (wv s n l v).fwModule = s.fwModule := rfl
@[simp] theorem wv_tick (s : State) (n l : Nat) (v : Word) : (wv s n l v).tick = s.tick := rfl
@[simp] theorem wv_fresh (s : State) (n l : Nat) (v : Word) : (wv s n l v).fresh = s.fresh := rfl

/-! `wv2` -/

@[simp] theorem wv2_split (s : State) (n l : Nat) (v : DWord) : (wv2 s n l v).split = s.split := rfl
@[simp] theorem wv2_group (s : State) (n l : Nat) (v : DWord) : (wv2 s n l v).group = gput (gput s.group n l (v.extractLsb' 0 32)) (n + 1) l (v.extractLsb' 32 32) := rfl
@[simp] theorem wv2_team (s : State) (n l : Nat) (v : DWord) : (wv2 s n l v).team = s.team := rfl
@[simp] theorem wv2_live (s : State) (n l : Nat) (v : DWord) : (wv2 s n l v).live = s.live := rfl
@[simp] theorem wv2_teams (s : State) (n l : Nat) (v : DWord) : (wv2 s n l v).teams = s.teams := rfl
@[simp] theorem wv2_mem (s : State) (n l : Nat) (v : DWord) : (wv2 s n l v).mem = s.mem := rfl
@[simp] theorem wv2_poison (s : State) (n l : Nat) (v : DWord) : (wv2 s n l v).poison = s.poison := rfl
@[simp] theorem wv2_cores (s : State) (n l : Nat) (v : DWord) : (wv2 s n l v).cores = s.cores := rfl
@[simp] theorem wv2_dies (s : State) (n l : Nat) (v : DWord) : (wv2 s n l v).dies = s.dies := rfl
@[simp] theorem wv2_modules (s : State) (n l : Nat) (v : DWord) : (wv2 s n l v).modules = s.modules := rfl
@[simp] theorem wv2_ports (s : State) (n l : Nat) (v : DWord) : (wv2 s n l v).ports = s.ports := rfl
@[simp] theorem wv2_queues (s : State) (n l : Nat) (v : DWord) : (wv2 s n l v).queues = s.queues := rfl
@[simp] theorem wv2_vis (s : State) (n l : Nat) (v : DWord) : (wv2 s n l v).vis = s.vis := rfl
@[simp] theorem wv2_tlb (s : State) (n l : Nat) (v : DWord) : (wv2 s n l v).tlb = s.tlb := rfl
@[simp] theorem wv2_flights (s : State) (n l : Nat) (v : DWord) : (wv2 s n l v).flights = s.flights := rfl
@[simp] theorem wv2_reqs (s : State) (n l : Nat) (v : DWord) : (wv2 s n l v).reqs = s.reqs := rfl
@[simp] theorem wv2_dedups (s : State) (n l : Nat) (v : DWord) : (wv2 s n l v).dedups = s.dedups := rfl
@[simp] theorem wv2_msgs (s : State) (n l : Nat) (v : DWord) : (wv2 s n l v).msgs = s.msgs := rfl
@[simp] theorem wv2_leases (s : State) (n l : Nat) (v : DWord) : (wv2 s n l v).leases = s.leases := rfl
@[simp] theorem wv2_launches (s : State) (n l : Nat) (v : DWord) : (wv2 s n l v).launches = s.launches := rfl
@[simp] theorem wv2_purges (s : State) (n l : Nat) (v : DWord) : (wv2 s n l v).purges = s.purges := rfl
@[simp] theorem wv2_awaits (s : State) (n l : Nat) (v : DWord) : (wv2 s n l v).awaits = s.awaits := rfl
@[simp] theorem wv2_written (s : State) (n l : Nat) (v : DWord) : (wv2 s n l v).written = s.written := rfl
@[simp] theorem wv2_late (s : State) (n l : Nat) (v : DWord) : (wv2 s n l v).late = s.late := rfl
@[simp] theorem wv2_woken (s : State) (n l : Nat) (v : DWord) : (wv2 s n l v).woken = s.woken := rfl
@[simp] theorem wv2_reports (s : State) (n l : Nat) (v : DWord) : (wv2 s n l v).reports = s.reports := rfl
@[simp] theorem wv2_notices (s : State) (n l : Nat) (v : DWord) : (wv2 s n l v).notices = s.notices := rfl
@[simp] theorem wv2_rdma (s : State) (n l : Nat) (v : DWord) : (wv2 s n l v).rdma = s.rdma := rfl
@[simp] theorem wv2_agenda (s : State) (n l : Nat) (v : DWord) : (wv2 s n l v).agenda = s.agenda := rfl
@[simp] theorem wv2_lim (s : State) (n l : Nat) (v : DWord) : (wv2 s n l v).lim = s.lim := rfl
@[simp] theorem wv2_mteam (s : State) (n l : Nat) (v : DWord) : (wv2 s n l v).mteam = s.mteam := rfl
@[simp] theorem wv2_fw (s : State) (n l : Nat) (v : DWord) : (wv2 s n l v).fw = s.fw := rfl
@[simp] theorem wv2_fwModule (s : State) (n l : Nat) (v : DWord) : (wv2 s n l v).fwModule = s.fwModule := rfl
@[simp] theorem wv2_tick (s : State) (n l : Nat) (v : DWord) : (wv2 s n l v).tick = s.tick := rfl
@[simp] theorem wv2_fresh (s : State) (n l : Nat) (v : DWord) : (wv2 s n l v).fresh = s.fresh := rfl

/-! `setTstat` -/

@[simp] theorem setTstat_split (s : State) (v : DWord) : (setTstat s v).split = { s.split with tstat := v } := rfl
@[simp] theorem setTstat_group (s : State) (v : DWord) : (setTstat s v).group = s.group := rfl
@[simp] theorem setTstat_team (s : State) (v : DWord) : (setTstat s v).team = s.team := rfl
@[simp] theorem setTstat_live (s : State) (v : DWord) : (setTstat s v).live = s.live := rfl
@[simp] theorem setTstat_teams (s : State) (v : DWord) : (setTstat s v).teams = s.teams := rfl
@[simp] theorem setTstat_mem (s : State) (v : DWord) : (setTstat s v).mem = s.mem := rfl
@[simp] theorem setTstat_poison (s : State) (v : DWord) : (setTstat s v).poison = s.poison := rfl
@[simp] theorem setTstat_cores (s : State) (v : DWord) : (setTstat s v).cores = s.cores := rfl
@[simp] theorem setTstat_dies (s : State) (v : DWord) : (setTstat s v).dies = s.dies := rfl
@[simp] theorem setTstat_modules (s : State) (v : DWord) : (setTstat s v).modules = s.modules := rfl
@[simp] theorem setTstat_ports (s : State) (v : DWord) : (setTstat s v).ports = s.ports := rfl
@[simp] theorem setTstat_queues (s : State) (v : DWord) : (setTstat s v).queues = s.queues := rfl
@[simp] theorem setTstat_vis (s : State) (v : DWord) : (setTstat s v).vis = s.vis := rfl
@[simp] theorem setTstat_tlb (s : State) (v : DWord) : (setTstat s v).tlb = s.tlb := rfl
@[simp] theorem setTstat_flights (s : State) (v : DWord) : (setTstat s v).flights = s.flights := rfl
@[simp] theorem setTstat_reqs (s : State) (v : DWord) : (setTstat s v).reqs = s.reqs := rfl
@[simp] theorem setTstat_dedups (s : State) (v : DWord) : (setTstat s v).dedups = s.dedups := rfl
@[simp] theorem setTstat_msgs (s : State) (v : DWord) : (setTstat s v).msgs = s.msgs := rfl
@[simp] theorem setTstat_leases (s : State) (v : DWord) : (setTstat s v).leases = s.leases := rfl
@[simp] theorem setTstat_launches (s : State) (v : DWord) : (setTstat s v).launches = s.launches := rfl
@[simp] theorem setTstat_purges (s : State) (v : DWord) : (setTstat s v).purges = s.purges := rfl
@[simp] theorem setTstat_awaits (s : State) (v : DWord) : (setTstat s v).awaits = s.awaits := rfl
@[simp] theorem setTstat_written (s : State) (v : DWord) : (setTstat s v).written = s.written := rfl
@[simp] theorem setTstat_late (s : State) (v : DWord) : (setTstat s v).late = s.late := rfl
@[simp] theorem setTstat_woken (s : State) (v : DWord) : (setTstat s v).woken = s.woken := rfl
@[simp] theorem setTstat_reports (s : State) (v : DWord) : (setTstat s v).reports = s.reports := rfl
@[simp] theorem setTstat_notices (s : State) (v : DWord) : (setTstat s v).notices = s.notices := rfl
@[simp] theorem setTstat_rdma (s : State) (v : DWord) : (setTstat s v).rdma = s.rdma := rfl
@[simp] theorem setTstat_agenda (s : State) (v : DWord) : (setTstat s v).agenda = s.agenda := rfl
@[simp] theorem setTstat_lim (s : State) (v : DWord) : (setTstat s v).lim = s.lim := rfl
@[simp] theorem setTstat_mteam (s : State) (v : DWord) : (setTstat s v).mteam = s.mteam := rfl
@[simp] theorem setTstat_fw (s : State) (v : DWord) : (setTstat s v).fw = s.fw := rfl
@[simp] theorem setTstat_fwModule (s : State) (v : DWord) : (setTstat s v).fwModule = s.fwModule := rfl
@[simp] theorem setTstat_tick (s : State) (v : DWord) : (setTstat s v).tick = s.tick := rfl
@[simp] theorem setTstat_fresh (s : State) (v : DWord) : (setTstat s v).fresh = s.fresh := rfl

/-! `stopTeam` -/

@[simp] theorem stopTeam_split (s : State) : (stopTeam s).split = s.split := rfl
@[simp] theorem stopTeam_group (s : State) : (stopTeam s).group = s.group := rfl
@[simp] theorem stopTeam_team (s : State) : (stopTeam s).team = { s.team with stopped := true } := rfl
@[simp] theorem stopTeam_live (s : State) : (stopTeam s).live = s.live := rfl
@[simp] theorem stopTeam_teams (s : State) : (stopTeam s).teams = s.teams := rfl
@[simp] theorem stopTeam_mem (s : State) : (stopTeam s).mem = s.mem := rfl
@[simp] theorem stopTeam_poison (s : State) : (stopTeam s).poison = s.poison := rfl
@[simp] theorem stopTeam_cores (s : State) : (stopTeam s).cores = s.cores := rfl
@[simp] theorem stopTeam_dies (s : State) : (stopTeam s).dies = s.dies := rfl
@[simp] theorem stopTeam_modules (s : State) : (stopTeam s).modules = s.modules := rfl
@[simp] theorem stopTeam_ports (s : State) : (stopTeam s).ports = s.ports := rfl
@[simp] theorem stopTeam_queues (s : State) : (stopTeam s).queues = s.queues := rfl
@[simp] theorem stopTeam_vis (s : State) : (stopTeam s).vis = s.vis := rfl
@[simp] theorem stopTeam_tlb (s : State) : (stopTeam s).tlb = s.tlb := rfl
@[simp] theorem stopTeam_flights (s : State) : (stopTeam s).flights = s.flights := rfl
@[simp] theorem stopTeam_reqs (s : State) : (stopTeam s).reqs = s.reqs := rfl
@[simp] theorem stopTeam_dedups (s : State) : (stopTeam s).dedups = s.dedups := rfl
@[simp] theorem stopTeam_msgs (s : State) : (stopTeam s).msgs = s.msgs := rfl
@[simp] theorem stopTeam_leases (s : State) : (stopTeam s).leases = s.leases := rfl
@[simp] theorem stopTeam_launches (s : State) : (stopTeam s).launches = s.launches := rfl
@[simp] theorem stopTeam_purges (s : State) : (stopTeam s).purges = s.purges := rfl
@[simp] theorem stopTeam_awaits (s : State) : (stopTeam s).awaits = s.awaits := rfl
@[simp] theorem stopTeam_written (s : State) : (stopTeam s).written = s.written := rfl
@[simp] theorem stopTeam_late (s : State) : (stopTeam s).late = s.late := rfl
@[simp] theorem stopTeam_woken (s : State) : (stopTeam s).woken = s.woken := rfl
@[simp] theorem stopTeam_reports (s : State) : (stopTeam s).reports = s.reports := rfl
@[simp] theorem stopTeam_notices (s : State) : (stopTeam s).notices = s.notices := rfl
@[simp] theorem stopTeam_rdma (s : State) : (stopTeam s).rdma = s.rdma := rfl
@[simp] theorem stopTeam_agenda (s : State) : (stopTeam s).agenda = s.agenda := rfl
@[simp] theorem stopTeam_lim (s : State) : (stopTeam s).lim = s.lim := rfl
@[simp] theorem stopTeam_mteam (s : State) : (stopTeam s).mteam = s.mteam := rfl
@[simp] theorem stopTeam_fw (s : State) : (stopTeam s).fw = s.fw := rfl
@[simp] theorem stopTeam_fwModule (s : State) : (stopTeam s).fwModule = s.fwModule := rfl
@[simp] theorem stopTeam_tick (s : State) : (stopTeam s).tick = s.tick := rfl
@[simp] theorem stopTeam_fresh (s : State) : (stopTeam s).fresh = s.fresh := rfl

/-! `wrByte` -/

@[simp] theorem wrByte_split (s : State) (pa : Nat) (b : Byte) : (wrByte s pa b).split = s.split := rfl
@[simp] theorem wrByte_group (s : State) (pa : Nat) (b : Byte) : (wrByte s pa b).group = s.group := rfl
@[simp] theorem wrByte_team (s : State) (pa : Nat) (b : Byte) : (wrByte s pa b).team = s.team := rfl
@[simp] theorem wrByte_live (s : State) (pa : Nat) (b : Byte) : (wrByte s pa b).live = s.live := rfl
@[simp] theorem wrByte_teams (s : State) (pa : Nat) (b : Byte) : (wrByte s pa b).teams = s.teams := rfl
@[simp] theorem wrByte_mem (s : State) (pa : Nat) (b : Byte) : (wrByte s pa b).mem = cput memDflt s.mem pa b := rfl
@[simp] theorem wrByte_poison (s : State) (pa : Nat) (b : Byte) : (wrByte s pa b).poison = s.poison := rfl
@[simp] theorem wrByte_cores (s : State) (pa : Nat) (b : Byte) : (wrByte s pa b).cores = s.cores := rfl
@[simp] theorem wrByte_dies (s : State) (pa : Nat) (b : Byte) : (wrByte s pa b).dies = s.dies := rfl
@[simp] theorem wrByte_modules (s : State) (pa : Nat) (b : Byte) : (wrByte s pa b).modules = s.modules := rfl
@[simp] theorem wrByte_ports (s : State) (pa : Nat) (b : Byte) : (wrByte s pa b).ports = s.ports := rfl
@[simp] theorem wrByte_queues (s : State) (pa : Nat) (b : Byte) : (wrByte s pa b).queues = s.queues := rfl
@[simp] theorem wrByte_vis (s : State) (pa : Nat) (b : Byte) : (wrByte s pa b).vis = s.vis := rfl
@[simp] theorem wrByte_tlb (s : State) (pa : Nat) (b : Byte) : (wrByte s pa b).tlb = s.tlb := rfl
@[simp] theorem wrByte_flights (s : State) (pa : Nat) (b : Byte) : (wrByte s pa b).flights = s.flights := rfl
@[simp] theorem wrByte_reqs (s : State) (pa : Nat) (b : Byte) : (wrByte s pa b).reqs = s.reqs := rfl
@[simp] theorem wrByte_dedups (s : State) (pa : Nat) (b : Byte) : (wrByte s pa b).dedups = s.dedups := rfl
@[simp] theorem wrByte_msgs (s : State) (pa : Nat) (b : Byte) : (wrByte s pa b).msgs = s.msgs := rfl
@[simp] theorem wrByte_leases (s : State) (pa : Nat) (b : Byte) : (wrByte s pa b).leases = s.leases := rfl
@[simp] theorem wrByte_launches (s : State) (pa : Nat) (b : Byte) : (wrByte s pa b).launches = s.launches := rfl
@[simp] theorem wrByte_purges (s : State) (pa : Nat) (b : Byte) : (wrByte s pa b).purges = s.purges := rfl
@[simp] theorem wrByte_awaits (s : State) (pa : Nat) (b : Byte) : (wrByte s pa b).awaits = s.awaits := rfl
@[simp] theorem wrByte_written (s : State) (pa : Nat) (b : Byte) : (wrByte s pa b).written = s.written := rfl
@[simp] theorem wrByte_late (s : State) (pa : Nat) (b : Byte) : (wrByte s pa b).late = s.late := rfl
@[simp] theorem wrByte_woken (s : State) (pa : Nat) (b : Byte) : (wrByte s pa b).woken = s.woken := rfl
@[simp] theorem wrByte_reports (s : State) (pa : Nat) (b : Byte) : (wrByte s pa b).reports = s.reports := rfl
@[simp] theorem wrByte_notices (s : State) (pa : Nat) (b : Byte) : (wrByte s pa b).notices = s.notices := rfl
@[simp] theorem wrByte_rdma (s : State) (pa : Nat) (b : Byte) : (wrByte s pa b).rdma = s.rdma := rfl
@[simp] theorem wrByte_agenda (s : State) (pa : Nat) (b : Byte) : (wrByte s pa b).agenda = s.agenda := rfl
@[simp] theorem wrByte_lim (s : State) (pa : Nat) (b : Byte) : (wrByte s pa b).lim = s.lim := rfl
@[simp] theorem wrByte_mteam (s : State) (pa : Nat) (b : Byte) : (wrByte s pa b).mteam = s.mteam := rfl
@[simp] theorem wrByte_fw (s : State) (pa : Nat) (b : Byte) : (wrByte s pa b).fw = s.fw := rfl
@[simp] theorem wrByte_fwModule (s : State) (pa : Nat) (b : Byte) : (wrByte s pa b).fwModule = s.fwModule := rfl
@[simp] theorem wrByte_tick (s : State) (pa : Nat) (b : Byte) : (wrByte s pa b).tick = s.tick := rfl
@[simp] theorem wrByte_fresh (s : State) (pa : Nat) (b : Byte) : (wrByte s pa b).fresh = s.fresh := rfl

/-! `wrBytes` -/

@[simp] theorem wrBytes_split (s : State) (pa : Nat) (bs : List Byte) : (wrBytes s pa bs).split = s.split := rfl
@[simp] theorem wrBytes_group (s : State) (pa : Nat) (bs : List Byte) : (wrBytes s pa bs).group = s.group := rfl
@[simp] theorem wrBytes_team (s : State) (pa : Nat) (bs : List Byte) : (wrBytes s pa bs).team = s.team := rfl
@[simp] theorem wrBytes_live (s : State) (pa : Nat) (bs : List Byte) : (wrBytes s pa bs).live = s.live := rfl
@[simp] theorem wrBytes_teams (s : State) (pa : Nat) (bs : List Byte) : (wrBytes s pa bs).teams = s.teams := rfl
@[simp] theorem wrBytes_mem (s : State) (pa : Nat) (bs : List Byte) : (wrBytes s pa bs).mem = cputs memDflt s.mem pa bs := rfl
@[simp] theorem wrBytes_poison (s : State) (pa : Nat) (bs : List Byte) : (wrBytes s pa bs).poison = s.poison := rfl
@[simp] theorem wrBytes_cores (s : State) (pa : Nat) (bs : List Byte) : (wrBytes s pa bs).cores = s.cores := rfl
@[simp] theorem wrBytes_dies (s : State) (pa : Nat) (bs : List Byte) : (wrBytes s pa bs).dies = s.dies := rfl
@[simp] theorem wrBytes_modules (s : State) (pa : Nat) (bs : List Byte) : (wrBytes s pa bs).modules = s.modules := rfl
@[simp] theorem wrBytes_ports (s : State) (pa : Nat) (bs : List Byte) : (wrBytes s pa bs).ports = s.ports := rfl
@[simp] theorem wrBytes_queues (s : State) (pa : Nat) (bs : List Byte) : (wrBytes s pa bs).queues = s.queues := rfl
@[simp] theorem wrBytes_vis (s : State) (pa : Nat) (bs : List Byte) : (wrBytes s pa bs).vis = s.vis := rfl
@[simp] theorem wrBytes_tlb (s : State) (pa : Nat) (bs : List Byte) : (wrBytes s pa bs).tlb = s.tlb := rfl
@[simp] theorem wrBytes_flights (s : State) (pa : Nat) (bs : List Byte) : (wrBytes s pa bs).flights = s.flights := rfl
@[simp] theorem wrBytes_reqs (s : State) (pa : Nat) (bs : List Byte) : (wrBytes s pa bs).reqs = s.reqs := rfl
@[simp] theorem wrBytes_dedups (s : State) (pa : Nat) (bs : List Byte) : (wrBytes s pa bs).dedups = s.dedups := rfl
@[simp] theorem wrBytes_msgs (s : State) (pa : Nat) (bs : List Byte) : (wrBytes s pa bs).msgs = s.msgs := rfl
@[simp] theorem wrBytes_leases (s : State) (pa : Nat) (bs : List Byte) : (wrBytes s pa bs).leases = s.leases := rfl
@[simp] theorem wrBytes_launches (s : State) (pa : Nat) (bs : List Byte) : (wrBytes s pa bs).launches = s.launches := rfl
@[simp] theorem wrBytes_purges (s : State) (pa : Nat) (bs : List Byte) : (wrBytes s pa bs).purges = s.purges := rfl
@[simp] theorem wrBytes_awaits (s : State) (pa : Nat) (bs : List Byte) : (wrBytes s pa bs).awaits = s.awaits := rfl
@[simp] theorem wrBytes_written (s : State) (pa : Nat) (bs : List Byte) : (wrBytes s pa bs).written = s.written := rfl
@[simp] theorem wrBytes_late (s : State) (pa : Nat) (bs : List Byte) : (wrBytes s pa bs).late = s.late := rfl
@[simp] theorem wrBytes_woken (s : State) (pa : Nat) (bs : List Byte) : (wrBytes s pa bs).woken = s.woken := rfl
@[simp] theorem wrBytes_reports (s : State) (pa : Nat) (bs : List Byte) : (wrBytes s pa bs).reports = s.reports := rfl
@[simp] theorem wrBytes_notices (s : State) (pa : Nat) (bs : List Byte) : (wrBytes s pa bs).notices = s.notices := rfl
@[simp] theorem wrBytes_rdma (s : State) (pa : Nat) (bs : List Byte) : (wrBytes s pa bs).rdma = s.rdma := rfl
@[simp] theorem wrBytes_agenda (s : State) (pa : Nat) (bs : List Byte) : (wrBytes s pa bs).agenda = s.agenda := rfl
@[simp] theorem wrBytes_lim (s : State) (pa : Nat) (bs : List Byte) : (wrBytes s pa bs).lim = s.lim := rfl
@[simp] theorem wrBytes_mteam (s : State) (pa : Nat) (bs : List Byte) : (wrBytes s pa bs).mteam = s.mteam := rfl
@[simp] theorem wrBytes_fw (s : State) (pa : Nat) (bs : List Byte) : (wrBytes s pa bs).fw = s.fw := rfl
@[simp] theorem wrBytes_fwModule (s : State) (pa : Nat) (bs : List Byte) : (wrBytes s pa bs).fwModule = s.fwModule := rfl
@[simp] theorem wrBytes_tick (s : State) (pa : Nat) (bs : List Byte) : (wrBytes s pa bs).tick = s.tick := rfl
@[simp] theorem wrBytes_fresh (s : State) (pa : Nat) (bs : List Byte) : (wrBytes s pa bs).fresh = s.fresh := rfl

/-! `wrNat` -/

@[simp] theorem wrNat_split (s : State) (pa n v : Nat) : (wrNat s pa n v).split = s.split := rfl
@[simp] theorem wrNat_group (s : State) (pa n v : Nat) : (wrNat s pa n v).group = s.group := rfl
@[simp] theorem wrNat_team (s : State) (pa n v : Nat) : (wrNat s pa n v).team = s.team := rfl
@[simp] theorem wrNat_live (s : State) (pa n v : Nat) : (wrNat s pa n v).live = s.live := rfl
@[simp] theorem wrNat_teams (s : State) (pa n v : Nat) : (wrNat s pa n v).teams = s.teams := rfl
@[simp] theorem wrNat_mem (s : State) (pa n v : Nat) : (wrNat s pa n v).mem = cputs memDflt s.mem pa (natLe n v) := rfl
@[simp] theorem wrNat_poison (s : State) (pa n v : Nat) : (wrNat s pa n v).poison = s.poison := rfl
@[simp] theorem wrNat_cores (s : State) (pa n v : Nat) : (wrNat s pa n v).cores = s.cores := rfl
@[simp] theorem wrNat_dies (s : State) (pa n v : Nat) : (wrNat s pa n v).dies = s.dies := rfl
@[simp] theorem wrNat_modules (s : State) (pa n v : Nat) : (wrNat s pa n v).modules = s.modules := rfl
@[simp] theorem wrNat_ports (s : State) (pa n v : Nat) : (wrNat s pa n v).ports = s.ports := rfl
@[simp] theorem wrNat_queues (s : State) (pa n v : Nat) : (wrNat s pa n v).queues = s.queues := rfl
@[simp] theorem wrNat_vis (s : State) (pa n v : Nat) : (wrNat s pa n v).vis = s.vis := rfl
@[simp] theorem wrNat_tlb (s : State) (pa n v : Nat) : (wrNat s pa n v).tlb = s.tlb := rfl
@[simp] theorem wrNat_flights (s : State) (pa n v : Nat) : (wrNat s pa n v).flights = s.flights := rfl
@[simp] theorem wrNat_reqs (s : State) (pa n v : Nat) : (wrNat s pa n v).reqs = s.reqs := rfl
@[simp] theorem wrNat_dedups (s : State) (pa n v : Nat) : (wrNat s pa n v).dedups = s.dedups := rfl
@[simp] theorem wrNat_msgs (s : State) (pa n v : Nat) : (wrNat s pa n v).msgs = s.msgs := rfl
@[simp] theorem wrNat_leases (s : State) (pa n v : Nat) : (wrNat s pa n v).leases = s.leases := rfl
@[simp] theorem wrNat_launches (s : State) (pa n v : Nat) : (wrNat s pa n v).launches = s.launches := rfl
@[simp] theorem wrNat_purges (s : State) (pa n v : Nat) : (wrNat s pa n v).purges = s.purges := rfl
@[simp] theorem wrNat_awaits (s : State) (pa n v : Nat) : (wrNat s pa n v).awaits = s.awaits := rfl
@[simp] theorem wrNat_written (s : State) (pa n v : Nat) : (wrNat s pa n v).written = s.written := rfl
@[simp] theorem wrNat_late (s : State) (pa n v : Nat) : (wrNat s pa n v).late = s.late := rfl
@[simp] theorem wrNat_woken (s : State) (pa n v : Nat) : (wrNat s pa n v).woken = s.woken := rfl
@[simp] theorem wrNat_reports (s : State) (pa n v : Nat) : (wrNat s pa n v).reports = s.reports := rfl
@[simp] theorem wrNat_notices (s : State) (pa n v : Nat) : (wrNat s pa n v).notices = s.notices := rfl
@[simp] theorem wrNat_rdma (s : State) (pa n v : Nat) : (wrNat s pa n v).rdma = s.rdma := rfl
@[simp] theorem wrNat_agenda (s : State) (pa n v : Nat) : (wrNat s pa n v).agenda = s.agenda := rfl
@[simp] theorem wrNat_lim (s : State) (pa n v : Nat) : (wrNat s pa n v).lim = s.lim := rfl
@[simp] theorem wrNat_mteam (s : State) (pa n v : Nat) : (wrNat s pa n v).mteam = s.mteam := rfl
@[simp] theorem wrNat_fw (s : State) (pa n v : Nat) : (wrNat s pa n v).fw = s.fw := rfl
@[simp] theorem wrNat_fwModule (s : State) (pa n v : Nat) : (wrNat s pa n v).fwModule = s.fwModule := rfl
@[simp] theorem wrNat_tick (s : State) (pa n v : Nat) : (wrNat s pa n v).tick = s.tick := rfl
@[simp] theorem wrNat_fresh (s : State) (pa n v : Nat) : (wrNat s pa n v).fresh = s.fresh := rfl

/-! `setCore` -/

@[simp] theorem setCore_split (s : State) (c : Nat) (x : CoreSt) : (setCore s c x).split = s.split := rfl
@[simp] theorem setCore_group (s : State) (c : Nat) (x : CoreSt) : (setCore s c x).group = s.group := rfl
@[simp] theorem setCore_team (s : State) (c : Nat) (x : CoreSt) : (setCore s c x).team = s.team := rfl
@[simp] theorem setCore_live (s : State) (c : Nat) (x : CoreSt) : (setCore s c x).live = s.live := rfl
@[simp] theorem setCore_teams (s : State) (c : Nat) (x : CoreSt) : (setCore s c x).teams = s.teams := rfl
@[simp] theorem setCore_mem (s : State) (c : Nat) (x : CoreSt) : (setCore s c x).mem = s.mem := rfl
@[simp] theorem setCore_poison (s : State) (c : Nat) (x : CoreSt) : (setCore s c x).poison = s.poison := rfl
@[simp] theorem setCore_cores (s : State) (c : Nat) (x : CoreSt) : (setCore s c x).cores = cput (fun _ => CoreSt.reset) s.cores c x := rfl
@[simp] theorem setCore_dies (s : State) (c : Nat) (x : CoreSt) : (setCore s c x).dies = s.dies := rfl
@[simp] theorem setCore_modules (s : State) (c : Nat) (x : CoreSt) : (setCore s c x).modules = s.modules := rfl
@[simp] theorem setCore_ports (s : State) (c : Nat) (x : CoreSt) : (setCore s c x).ports = s.ports := rfl
@[simp] theorem setCore_queues (s : State) (c : Nat) (x : CoreSt) : (setCore s c x).queues = s.queues := rfl
@[simp] theorem setCore_vis (s : State) (c : Nat) (x : CoreSt) : (setCore s c x).vis = s.vis := rfl
@[simp] theorem setCore_tlb (s : State) (c : Nat) (x : CoreSt) : (setCore s c x).tlb = s.tlb := rfl
@[simp] theorem setCore_flights (s : State) (c : Nat) (x : CoreSt) : (setCore s c x).flights = s.flights := rfl
@[simp] theorem setCore_reqs (s : State) (c : Nat) (x : CoreSt) : (setCore s c x).reqs = s.reqs := rfl
@[simp] theorem setCore_dedups (s : State) (c : Nat) (x : CoreSt) : (setCore s c x).dedups = s.dedups := rfl
@[simp] theorem setCore_msgs (s : State) (c : Nat) (x : CoreSt) : (setCore s c x).msgs = s.msgs := rfl
@[simp] theorem setCore_leases (s : State) (c : Nat) (x : CoreSt) : (setCore s c x).leases = s.leases := rfl
@[simp] theorem setCore_launches (s : State) (c : Nat) (x : CoreSt) : (setCore s c x).launches = s.launches := rfl
@[simp] theorem setCore_purges (s : State) (c : Nat) (x : CoreSt) : (setCore s c x).purges = s.purges := rfl
@[simp] theorem setCore_awaits (s : State) (c : Nat) (x : CoreSt) : (setCore s c x).awaits = s.awaits := rfl
@[simp] theorem setCore_written (s : State) (c : Nat) (x : CoreSt) : (setCore s c x).written = s.written := rfl
@[simp] theorem setCore_late (s : State) (c : Nat) (x : CoreSt) : (setCore s c x).late = s.late := rfl
@[simp] theorem setCore_woken (s : State) (c : Nat) (x : CoreSt) : (setCore s c x).woken = s.woken := rfl
@[simp] theorem setCore_reports (s : State) (c : Nat) (x : CoreSt) : (setCore s c x).reports = s.reports := rfl
@[simp] theorem setCore_notices (s : State) (c : Nat) (x : CoreSt) : (setCore s c x).notices = s.notices := rfl
@[simp] theorem setCore_rdma (s : State) (c : Nat) (x : CoreSt) : (setCore s c x).rdma = s.rdma := rfl
@[simp] theorem setCore_agenda (s : State) (c : Nat) (x : CoreSt) : (setCore s c x).agenda = s.agenda := rfl
@[simp] theorem setCore_lim (s : State) (c : Nat) (x : CoreSt) : (setCore s c x).lim = s.lim := rfl
@[simp] theorem setCore_mteam (s : State) (c : Nat) (x : CoreSt) : (setCore s c x).mteam = s.mteam := rfl
@[simp] theorem setCore_fw (s : State) (c : Nat) (x : CoreSt) : (setCore s c x).fw = s.fw := rfl
@[simp] theorem setCore_fwModule (s : State) (c : Nat) (x : CoreSt) : (setCore s c x).fwModule = s.fwModule := rfl
@[simp] theorem setCore_tick (s : State) (c : Nat) (x : CoreSt) : (setCore s c x).tick = s.tick := rfl
@[simp] theorem setCore_fresh (s : State) (c : Nat) (x : CoreSt) : (setCore s c x).fresh = s.fresh := rfl

/-! `setDie` -/

@[simp] theorem setDie_split (s : State) (d : Nat) (x : DieSt) : (setDie s d x).split = s.split := rfl
@[simp] theorem setDie_group (s : State) (d : Nat) (x : DieSt) : (setDie s d x).group = s.group := rfl
@[simp] theorem setDie_team (s : State) (d : Nat) (x : DieSt) : (setDie s d x).team = s.team := rfl
@[simp] theorem setDie_live (s : State) (d : Nat) (x : DieSt) : (setDie s d x).live = s.live := rfl
@[simp] theorem setDie_teams (s : State) (d : Nat) (x : DieSt) : (setDie s d x).teams = s.teams := rfl
@[simp] theorem setDie_mem (s : State) (d : Nat) (x : DieSt) : (setDie s d x).mem = s.mem := rfl
@[simp] theorem setDie_poison (s : State) (d : Nat) (x : DieSt) : (setDie s d x).poison = s.poison := rfl
@[simp] theorem setDie_cores (s : State) (d : Nat) (x : DieSt) : (setDie s d x).cores = s.cores := rfl
@[simp] theorem setDie_dies (s : State) (d : Nat) (x : DieSt) : (setDie s d x).dies = cput (fun _ => DieSt.reset) s.dies d x := rfl
@[simp] theorem setDie_modules (s : State) (d : Nat) (x : DieSt) : (setDie s d x).modules = s.modules := rfl
@[simp] theorem setDie_ports (s : State) (d : Nat) (x : DieSt) : (setDie s d x).ports = s.ports := rfl
@[simp] theorem setDie_queues (s : State) (d : Nat) (x : DieSt) : (setDie s d x).queues = s.queues := rfl
@[simp] theorem setDie_vis (s : State) (d : Nat) (x : DieSt) : (setDie s d x).vis = s.vis := rfl
@[simp] theorem setDie_tlb (s : State) (d : Nat) (x : DieSt) : (setDie s d x).tlb = s.tlb := rfl
@[simp] theorem setDie_flights (s : State) (d : Nat) (x : DieSt) : (setDie s d x).flights = s.flights := rfl
@[simp] theorem setDie_reqs (s : State) (d : Nat) (x : DieSt) : (setDie s d x).reqs = s.reqs := rfl
@[simp] theorem setDie_dedups (s : State) (d : Nat) (x : DieSt) : (setDie s d x).dedups = s.dedups := rfl
@[simp] theorem setDie_msgs (s : State) (d : Nat) (x : DieSt) : (setDie s d x).msgs = s.msgs := rfl
@[simp] theorem setDie_leases (s : State) (d : Nat) (x : DieSt) : (setDie s d x).leases = s.leases := rfl
@[simp] theorem setDie_launches (s : State) (d : Nat) (x : DieSt) : (setDie s d x).launches = s.launches := rfl
@[simp] theorem setDie_purges (s : State) (d : Nat) (x : DieSt) : (setDie s d x).purges = s.purges := rfl
@[simp] theorem setDie_awaits (s : State) (d : Nat) (x : DieSt) : (setDie s d x).awaits = s.awaits := rfl
@[simp] theorem setDie_written (s : State) (d : Nat) (x : DieSt) : (setDie s d x).written = s.written := rfl
@[simp] theorem setDie_late (s : State) (d : Nat) (x : DieSt) : (setDie s d x).late = s.late := rfl
@[simp] theorem setDie_woken (s : State) (d : Nat) (x : DieSt) : (setDie s d x).woken = s.woken := rfl
@[simp] theorem setDie_reports (s : State) (d : Nat) (x : DieSt) : (setDie s d x).reports = s.reports := rfl
@[simp] theorem setDie_notices (s : State) (d : Nat) (x : DieSt) : (setDie s d x).notices = s.notices := rfl
@[simp] theorem setDie_rdma (s : State) (d : Nat) (x : DieSt) : (setDie s d x).rdma = s.rdma := rfl
@[simp] theorem setDie_agenda (s : State) (d : Nat) (x : DieSt) : (setDie s d x).agenda = s.agenda := rfl
@[simp] theorem setDie_lim (s : State) (d : Nat) (x : DieSt) : (setDie s d x).lim = s.lim := rfl
@[simp] theorem setDie_mteam (s : State) (d : Nat) (x : DieSt) : (setDie s d x).mteam = s.mteam := rfl
@[simp] theorem setDie_fw (s : State) (d : Nat) (x : DieSt) : (setDie s d x).fw = s.fw := rfl
@[simp] theorem setDie_fwModule (s : State) (d : Nat) (x : DieSt) : (setDie s d x).fwModule = s.fwModule := rfl
@[simp] theorem setDie_tick (s : State) (d : Nat) (x : DieSt) : (setDie s d x).tick = s.tick := rfl
@[simp] theorem setDie_fresh (s : State) (d : Nat) (x : DieSt) : (setDie s d x).fresh = s.fresh := rfl

/-! `setModule` -/

@[simp] theorem setModule_split (s : State) (m : Nat) (x : ModuleSt) : (setModule s m x).split = s.split := rfl
@[simp] theorem setModule_group (s : State) (m : Nat) (x : ModuleSt) : (setModule s m x).group = s.group := rfl
@[simp] theorem setModule_team (s : State) (m : Nat) (x : ModuleSt) : (setModule s m x).team = s.team := rfl
@[simp] theorem setModule_live (s : State) (m : Nat) (x : ModuleSt) : (setModule s m x).live = s.live := rfl
@[simp] theorem setModule_teams (s : State) (m : Nat) (x : ModuleSt) : (setModule s m x).teams = s.teams := rfl
@[simp] theorem setModule_mem (s : State) (m : Nat) (x : ModuleSt) : (setModule s m x).mem = s.mem := rfl
@[simp] theorem setModule_poison (s : State) (m : Nat) (x : ModuleSt) : (setModule s m x).poison = s.poison := rfl
@[simp] theorem setModule_cores (s : State) (m : Nat) (x : ModuleSt) : (setModule s m x).cores = s.cores := rfl
@[simp] theorem setModule_dies (s : State) (m : Nat) (x : ModuleSt) : (setModule s m x).dies = s.dies := rfl
@[simp] theorem setModule_modules (s : State) (m : Nat) (x : ModuleSt) : (setModule s m x).modules = cput (fun _ => ModuleSt.reset) s.modules m x := rfl
@[simp] theorem setModule_ports (s : State) (m : Nat) (x : ModuleSt) : (setModule s m x).ports = s.ports := rfl
@[simp] theorem setModule_queues (s : State) (m : Nat) (x : ModuleSt) : (setModule s m x).queues = s.queues := rfl
@[simp] theorem setModule_vis (s : State) (m : Nat) (x : ModuleSt) : (setModule s m x).vis = s.vis := rfl
@[simp] theorem setModule_tlb (s : State) (m : Nat) (x : ModuleSt) : (setModule s m x).tlb = s.tlb := rfl
@[simp] theorem setModule_flights (s : State) (m : Nat) (x : ModuleSt) : (setModule s m x).flights = s.flights := rfl
@[simp] theorem setModule_reqs (s : State) (m : Nat) (x : ModuleSt) : (setModule s m x).reqs = s.reqs := rfl
@[simp] theorem setModule_dedups (s : State) (m : Nat) (x : ModuleSt) : (setModule s m x).dedups = s.dedups := rfl
@[simp] theorem setModule_msgs (s : State) (m : Nat) (x : ModuleSt) : (setModule s m x).msgs = s.msgs := rfl
@[simp] theorem setModule_leases (s : State) (m : Nat) (x : ModuleSt) : (setModule s m x).leases = s.leases := rfl
@[simp] theorem setModule_launches (s : State) (m : Nat) (x : ModuleSt) : (setModule s m x).launches = s.launches := rfl
@[simp] theorem setModule_purges (s : State) (m : Nat) (x : ModuleSt) : (setModule s m x).purges = s.purges := rfl
@[simp] theorem setModule_awaits (s : State) (m : Nat) (x : ModuleSt) : (setModule s m x).awaits = s.awaits := rfl
@[simp] theorem setModule_written (s : State) (m : Nat) (x : ModuleSt) : (setModule s m x).written = s.written := rfl
@[simp] theorem setModule_late (s : State) (m : Nat) (x : ModuleSt) : (setModule s m x).late = s.late := rfl
@[simp] theorem setModule_woken (s : State) (m : Nat) (x : ModuleSt) : (setModule s m x).woken = s.woken := rfl
@[simp] theorem setModule_reports (s : State) (m : Nat) (x : ModuleSt) : (setModule s m x).reports = s.reports := rfl
@[simp] theorem setModule_notices (s : State) (m : Nat) (x : ModuleSt) : (setModule s m x).notices = s.notices := rfl
@[simp] theorem setModule_rdma (s : State) (m : Nat) (x : ModuleSt) : (setModule s m x).rdma = s.rdma := rfl
@[simp] theorem setModule_agenda (s : State) (m : Nat) (x : ModuleSt) : (setModule s m x).agenda = s.agenda := rfl
@[simp] theorem setModule_lim (s : State) (m : Nat) (x : ModuleSt) : (setModule s m x).lim = s.lim := rfl
@[simp] theorem setModule_mteam (s : State) (m : Nat) (x : ModuleSt) : (setModule s m x).mteam = s.mteam := rfl
@[simp] theorem setModule_fw (s : State) (m : Nat) (x : ModuleSt) : (setModule s m x).fw = s.fw := rfl
@[simp] theorem setModule_fwModule (s : State) (m : Nat) (x : ModuleSt) : (setModule s m x).fwModule = s.fwModule := rfl
@[simp] theorem setModule_tick (s : State) (m : Nat) (x : ModuleSt) : (setModule s m x).tick = s.tick := rfl
@[simp] theorem setModule_fresh (s : State) (m : Nat) (x : ModuleSt) : (setModule s m x).fresh = s.fresh := rfl

/-! `setPort` -/

@[simp] theorem setPort_split (s : State) (p : Nat) (x : PortSt) : (setPort s p x).split = s.split := rfl
@[simp] theorem setPort_group (s : State) (p : Nat) (x : PortSt) : (setPort s p x).group = s.group := rfl
@[simp] theorem setPort_team (s : State) (p : Nat) (x : PortSt) : (setPort s p x).team = s.team := rfl
@[simp] theorem setPort_live (s : State) (p : Nat) (x : PortSt) : (setPort s p x).live = s.live := rfl
@[simp] theorem setPort_teams (s : State) (p : Nat) (x : PortSt) : (setPort s p x).teams = s.teams := rfl
@[simp] theorem setPort_mem (s : State) (p : Nat) (x : PortSt) : (setPort s p x).mem = s.mem := rfl
@[simp] theorem setPort_poison (s : State) (p : Nat) (x : PortSt) : (setPort s p x).poison = s.poison := rfl
@[simp] theorem setPort_cores (s : State) (p : Nat) (x : PortSt) : (setPort s p x).cores = s.cores := rfl
@[simp] theorem setPort_dies (s : State) (p : Nat) (x : PortSt) : (setPort s p x).dies = s.dies := rfl
@[simp] theorem setPort_modules (s : State) (p : Nat) (x : PortSt) : (setPort s p x).modules = s.modules := rfl
@[simp] theorem setPort_ports (s : State) (p : Nat) (x : PortSt) : (setPort s p x).ports = cput (fun _ => PortSt.reset) s.ports p x := rfl
@[simp] theorem setPort_queues (s : State) (p : Nat) (x : PortSt) : (setPort s p x).queues = s.queues := rfl
@[simp] theorem setPort_vis (s : State) (p : Nat) (x : PortSt) : (setPort s p x).vis = s.vis := rfl
@[simp] theorem setPort_tlb (s : State) (p : Nat) (x : PortSt) : (setPort s p x).tlb = s.tlb := rfl
@[simp] theorem setPort_flights (s : State) (p : Nat) (x : PortSt) : (setPort s p x).flights = s.flights := rfl
@[simp] theorem setPort_reqs (s : State) (p : Nat) (x : PortSt) : (setPort s p x).reqs = s.reqs := rfl
@[simp] theorem setPort_dedups (s : State) (p : Nat) (x : PortSt) : (setPort s p x).dedups = s.dedups := rfl
@[simp] theorem setPort_msgs (s : State) (p : Nat) (x : PortSt) : (setPort s p x).msgs = s.msgs := rfl
@[simp] theorem setPort_leases (s : State) (p : Nat) (x : PortSt) : (setPort s p x).leases = s.leases := rfl
@[simp] theorem setPort_launches (s : State) (p : Nat) (x : PortSt) : (setPort s p x).launches = s.launches := rfl
@[simp] theorem setPort_purges (s : State) (p : Nat) (x : PortSt) : (setPort s p x).purges = s.purges := rfl
@[simp] theorem setPort_awaits (s : State) (p : Nat) (x : PortSt) : (setPort s p x).awaits = s.awaits := rfl
@[simp] theorem setPort_written (s : State) (p : Nat) (x : PortSt) : (setPort s p x).written = s.written := rfl
@[simp] theorem setPort_late (s : State) (p : Nat) (x : PortSt) : (setPort s p x).late = s.late := rfl
@[simp] theorem setPort_woken (s : State) (p : Nat) (x : PortSt) : (setPort s p x).woken = s.woken := rfl
@[simp] theorem setPort_reports (s : State) (p : Nat) (x : PortSt) : (setPort s p x).reports = s.reports := rfl
@[simp] theorem setPort_notices (s : State) (p : Nat) (x : PortSt) : (setPort s p x).notices = s.notices := rfl
@[simp] theorem setPort_rdma (s : State) (p : Nat) (x : PortSt) : (setPort s p x).rdma = s.rdma := rfl
@[simp] theorem setPort_agenda (s : State) (p : Nat) (x : PortSt) : (setPort s p x).agenda = s.agenda := rfl
@[simp] theorem setPort_lim (s : State) (p : Nat) (x : PortSt) : (setPort s p x).lim = s.lim := rfl
@[simp] theorem setPort_mteam (s : State) (p : Nat) (x : PortSt) : (setPort s p x).mteam = s.mteam := rfl
@[simp] theorem setPort_fw (s : State) (p : Nat) (x : PortSt) : (setPort s p x).fw = s.fw := rfl
@[simp] theorem setPort_fwModule (s : State) (p : Nat) (x : PortSt) : (setPort s p x).fwModule = s.fwModule := rfl
@[simp] theorem setPort_tick (s : State) (p : Nat) (x : PortSt) : (setPort s p x).tick = s.tick := rfl
@[simp] theorem setPort_fresh (s : State) (p : Nat) (x : PortSt) : (setPort s p x).fresh = s.fresh := rfl

/-! `notice` -/

@[simp] theorem notice_split (s : State) (what : String) (args : List Nat) : (notice s what args).split = s.split := rfl
@[simp] theorem notice_group (s : State) (what : String) (args : List Nat) : (notice s what args).group = s.group := rfl
@[simp] theorem notice_team (s : State) (what : String) (args : List Nat) : (notice s what args).team = s.team := rfl
@[simp] theorem notice_live (s : State) (what : String) (args : List Nat) : (notice s what args).live = s.live := rfl
@[simp] theorem notice_teams (s : State) (what : String) (args : List Nat) : (notice s what args).teams = s.teams := rfl
@[simp] theorem notice_mem (s : State) (what : String) (args : List Nat) : (notice s what args).mem = s.mem := rfl
@[simp] theorem notice_poison (s : State) (what : String) (args : List Nat) : (notice s what args).poison = s.poison := rfl
@[simp] theorem notice_cores (s : State) (what : String) (args : List Nat) : (notice s what args).cores = s.cores := rfl
@[simp] theorem notice_dies (s : State) (what : String) (args : List Nat) : (notice s what args).dies = s.dies := rfl
@[simp] theorem notice_modules (s : State) (what : String) (args : List Nat) : (notice s what args).modules = s.modules := rfl
@[simp] theorem notice_ports (s : State) (what : String) (args : List Nat) : (notice s what args).ports = s.ports := rfl
@[simp] theorem notice_queues (s : State) (what : String) (args : List Nat) : (notice s what args).queues = s.queues := rfl
@[simp] theorem notice_vis (s : State) (what : String) (args : List Nat) : (notice s what args).vis = s.vis := rfl
@[simp] theorem notice_tlb (s : State) (what : String) (args : List Nat) : (notice s what args).tlb = s.tlb := rfl
@[simp] theorem notice_flights (s : State) (what : String) (args : List Nat) : (notice s what args).flights = s.flights := rfl
@[simp] theorem notice_reqs (s : State) (what : String) (args : List Nat) : (notice s what args).reqs = s.reqs := rfl
@[simp] theorem notice_dedups (s : State) (what : String) (args : List Nat) : (notice s what args).dedups = s.dedups := rfl
@[simp] theorem notice_msgs (s : State) (what : String) (args : List Nat) : (notice s what args).msgs = s.msgs := rfl
@[simp] theorem notice_leases (s : State) (what : String) (args : List Nat) : (notice s what args).leases = s.leases := rfl
@[simp] theorem notice_launches (s : State) (what : String) (args : List Nat) : (notice s what args).launches = s.launches := rfl
@[simp] theorem notice_purges (s : State) (what : String) (args : List Nat) : (notice s what args).purges = s.purges := rfl
@[simp] theorem notice_awaits (s : State) (what : String) (args : List Nat) : (notice s what args).awaits = s.awaits := rfl
@[simp] theorem notice_written (s : State) (what : String) (args : List Nat) : (notice s what args).written = s.written := rfl
@[simp] theorem notice_late (s : State) (what : String) (args : List Nat) : (notice s what args).late = s.late := rfl
@[simp] theorem notice_woken (s : State) (what : String) (args : List Nat) : (notice s what args).woken = s.woken := rfl
@[simp] theorem notice_reports (s : State) (what : String) (args : List Nat) : (notice s what args).reports = s.reports := rfl
@[simp] theorem notice_notices (s : State) (what : String) (args : List Nat) : (notice s what args).notices = s.notices ++ [⟨what, args⟩] := rfl
@[simp] theorem notice_rdma (s : State) (what : String) (args : List Nat) : (notice s what args).rdma = s.rdma := rfl
@[simp] theorem notice_agenda (s : State) (what : String) (args : List Nat) : (notice s what args).agenda = s.agenda := rfl
@[simp] theorem notice_lim (s : State) (what : String) (args : List Nat) : (notice s what args).lim = s.lim := rfl
@[simp] theorem notice_mteam (s : State) (what : String) (args : List Nat) : (notice s what args).mteam = s.mteam := rfl
@[simp] theorem notice_fw (s : State) (what : String) (args : List Nat) : (notice s what args).fw = s.fw := rfl
@[simp] theorem notice_fwModule (s : State) (what : String) (args : List Nat) : (notice s what args).fwModule = s.fwModule := rfl
@[simp] theorem notice_tick (s : State) (what : String) (args : List Nat) : (notice s what args).tick = s.tick := rfl
@[simp] theorem notice_fresh (s : State) (what : String) (args : List Nat) : (notice s what args).fresh = s.fresh := rfl

/-! `launchFlight` -/

@[simp] theorem launchFlight_split (s : State) (f : Flight) : (launchFlight s f).split = s.split := rfl
@[simp] theorem launchFlight_team (s : State) (f : Flight) : (launchFlight s f).team = s.team := rfl
@[simp] theorem launchFlight_live (s : State) (f : Flight) : (launchFlight s f).live = s.live := rfl
@[simp] theorem launchFlight_teams (s : State) (f : Flight) : (launchFlight s f).teams = s.teams := rfl
@[simp] theorem launchFlight_mem (s : State) (f : Flight) : (launchFlight s f).mem = s.mem := rfl
@[simp] theorem launchFlight_poison (s : State) (f : Flight) : (launchFlight s f).poison = s.poison := rfl
@[simp] theorem launchFlight_cores (s : State) (f : Flight) : (launchFlight s f).cores = s.cores := rfl
@[simp] theorem launchFlight_dies (s : State) (f : Flight) : (launchFlight s f).dies = s.dies := rfl
@[simp] theorem launchFlight_modules (s : State) (f : Flight) : (launchFlight s f).modules = s.modules := rfl
@[simp] theorem launchFlight_ports (s : State) (f : Flight) : (launchFlight s f).ports = s.ports := rfl
@[simp] theorem launchFlight_queues (s : State) (f : Flight) : (launchFlight s f).queues = s.queues := rfl
@[simp] theorem launchFlight_vis (s : State) (f : Flight) : (launchFlight s f).vis = s.vis := rfl
@[simp] theorem launchFlight_tlb (s : State) (f : Flight) : (launchFlight s f).tlb = s.tlb := rfl
@[simp] theorem launchFlight_flights (s : State) (f : Flight) : (launchFlight s f).flights = s.flights ++ [f] := rfl
@[simp] theorem launchFlight_reqs (s : State) (f : Flight) : (launchFlight s f).reqs = s.reqs := rfl
@[simp] theorem launchFlight_dedups (s : State) (f : Flight) : (launchFlight s f).dedups = s.dedups := rfl
@[simp] theorem launchFlight_msgs (s : State) (f : Flight) : (launchFlight s f).msgs = s.msgs := rfl
@[simp] theorem launchFlight_leases (s : State) (f : Flight) : (launchFlight s f).leases = s.leases := rfl
@[simp] theorem launchFlight_launches (s : State) (f : Flight) : (launchFlight s f).launches = s.launches := rfl
@[simp] theorem launchFlight_purges (s : State) (f : Flight) : (launchFlight s f).purges = s.purges := rfl
@[simp] theorem launchFlight_awaits (s : State) (f : Flight) : (launchFlight s f).awaits = s.awaits := rfl
@[simp] theorem launchFlight_written (s : State) (f : Flight) : (launchFlight s f).written = s.written := rfl
@[simp] theorem launchFlight_late (s : State) (f : Flight) : (launchFlight s f).late = s.late := rfl
@[simp] theorem launchFlight_woken (s : State) (f : Flight) : (launchFlight s f).woken = s.woken := rfl
@[simp] theorem launchFlight_reports (s : State) (f : Flight) : (launchFlight s f).reports = s.reports := rfl
@[simp] theorem launchFlight_notices (s : State) (f : Flight) : (launchFlight s f).notices = s.notices := rfl
@[simp] theorem launchFlight_rdma (s : State) (f : Flight) : (launchFlight s f).rdma = s.rdma := rfl
@[simp] theorem launchFlight_agenda (s : State) (f : Flight) : (launchFlight s f).agenda = s.agenda := rfl
@[simp] theorem launchFlight_lim (s : State) (f : Flight) : (launchFlight s f).lim = s.lim := rfl
@[simp] theorem launchFlight_mteam (s : State) (f : Flight) : (launchFlight s f).mteam = s.mteam := rfl
@[simp] theorem launchFlight_fw (s : State) (f : Flight) : (launchFlight s f).fw = s.fw := rfl
@[simp] theorem launchFlight_fwModule (s : State) (f : Flight) : (launchFlight s f).fwModule = s.fwModule := rfl
@[simp] theorem launchFlight_tick (s : State) (f : Flight) : (launchFlight s f).tick = s.tick := rfl
@[simp] theorem launchFlight_fresh (s : State) (f : Flight) : (launchFlight s f).fresh = s.fresh + 1 := rfl

/-! `dropFlight` -/

@[simp] theorem dropFlight_split (s : State) (id : Nat) : (dropFlight s id).split = s.split := rfl
@[simp] theorem dropFlight_group (s : State) (id : Nat) : (dropFlight s id).group = s.group := rfl
@[simp] theorem dropFlight_team (s : State) (id : Nat) : (dropFlight s id).team = s.team := rfl
@[simp] theorem dropFlight_live (s : State) (id : Nat) : (dropFlight s id).live = s.live := rfl
@[simp] theorem dropFlight_teams (s : State) (id : Nat) : (dropFlight s id).teams = s.teams := rfl
@[simp] theorem dropFlight_mem (s : State) (id : Nat) : (dropFlight s id).mem = s.mem := rfl
@[simp] theorem dropFlight_poison (s : State) (id : Nat) : (dropFlight s id).poison = s.poison := rfl
@[simp] theorem dropFlight_cores (s : State) (id : Nat) : (dropFlight s id).cores = s.cores := rfl
@[simp] theorem dropFlight_dies (s : State) (id : Nat) : (dropFlight s id).dies = s.dies := rfl
@[simp] theorem dropFlight_modules (s : State) (id : Nat) : (dropFlight s id).modules = s.modules := rfl
@[simp] theorem dropFlight_ports (s : State) (id : Nat) : (dropFlight s id).ports = s.ports := rfl
@[simp] theorem dropFlight_queues (s : State) (id : Nat) : (dropFlight s id).queues = s.queues := rfl
@[simp] theorem dropFlight_vis (s : State) (id : Nat) : (dropFlight s id).vis = s.vis := rfl
@[simp] theorem dropFlight_tlb (s : State) (id : Nat) : (dropFlight s id).tlb = s.tlb := rfl
@[simp] theorem dropFlight_flights (s : State) (id : Nat) : (dropFlight s id).flights = s.flights.filter (fun f => f.id != id) := rfl
@[simp] theorem dropFlight_reqs (s : State) (id : Nat) : (dropFlight s id).reqs = s.reqs := rfl
@[simp] theorem dropFlight_dedups (s : State) (id : Nat) : (dropFlight s id).dedups = s.dedups := rfl
@[simp] theorem dropFlight_msgs (s : State) (id : Nat) : (dropFlight s id).msgs = s.msgs := rfl
@[simp] theorem dropFlight_leases (s : State) (id : Nat) : (dropFlight s id).leases = s.leases := rfl
@[simp] theorem dropFlight_launches (s : State) (id : Nat) : (dropFlight s id).launches = s.launches := rfl
@[simp] theorem dropFlight_purges (s : State) (id : Nat) : (dropFlight s id).purges = s.purges := rfl
@[simp] theorem dropFlight_awaits (s : State) (id : Nat) : (dropFlight s id).awaits = s.awaits := rfl
@[simp] theorem dropFlight_written (s : State) (id : Nat) : (dropFlight s id).written = s.written := rfl
@[simp] theorem dropFlight_late (s : State) (id : Nat) : (dropFlight s id).late = s.late := rfl
@[simp] theorem dropFlight_woken (s : State) (id : Nat) : (dropFlight s id).woken = s.woken := rfl
@[simp] theorem dropFlight_reports (s : State) (id : Nat) : (dropFlight s id).reports = s.reports := rfl
@[simp] theorem dropFlight_notices (s : State) (id : Nat) : (dropFlight s id).notices = s.notices := rfl
@[simp] theorem dropFlight_rdma (s : State) (id : Nat) : (dropFlight s id).rdma = s.rdma := rfl
@[simp] theorem dropFlight_agenda (s : State) (id : Nat) : (dropFlight s id).agenda = s.agenda := rfl
@[simp] theorem dropFlight_lim (s : State) (id : Nat) : (dropFlight s id).lim = s.lim := rfl
@[simp] theorem dropFlight_mteam (s : State) (id : Nat) : (dropFlight s id).mteam = s.mteam := rfl
@[simp] theorem dropFlight_fw (s : State) (id : Nat) : (dropFlight s id).fw = s.fw := rfl
@[simp] theorem dropFlight_fwModule (s : State) (id : Nat) : (dropFlight s id).fwModule = s.fwModule := rfl
@[simp] theorem dropFlight_tick (s : State) (id : Nat) : (dropFlight s id).tick = s.tick := rfl
@[simp] theorem dropFlight_fresh (s : State) (id : Nat) : (dropFlight s id).fresh = s.fresh := rfl

/-! `enterHandler` -/

@[simp] theorem enterHandler_group (s : State) (t : TrapInfo) : (enterHandler s t).group = s.group := rfl
@[simp] theorem enterHandler_team (s : State) (t : TrapInfo) : (enterHandler s t).team = s.team := rfl
@[simp] theorem enterHandler_live (s : State) (t : TrapInfo) : (enterHandler s t).live = s.live := rfl
@[simp] theorem enterHandler_teams (s : State) (t : TrapInfo) : (enterHandler s t).teams = s.teams := rfl
@[simp] theorem enterHandler_mem (s : State) (t : TrapInfo) : (enterHandler s t).mem = s.mem := rfl
@[simp] theorem enterHandler_poison (s : State) (t : TrapInfo) : (enterHandler s t).poison = s.poison := rfl
@[simp] theorem enterHandler_cores (s : State) (t : TrapInfo) : (enterHandler s t).cores = s.cores := rfl
@[simp] theorem enterHandler_dies (s : State) (t : TrapInfo) : (enterHandler s t).dies = s.dies := rfl
@[simp] theorem enterHandler_modules (s : State) (t : TrapInfo) : (enterHandler s t).modules = s.modules := rfl
@[simp] theorem enterHandler_ports (s : State) (t : TrapInfo) : (enterHandler s t).ports = s.ports := rfl
@[simp] theorem enterHandler_queues (s : State) (t : TrapInfo) : (enterHandler s t).queues = s.queues := rfl
@[simp] theorem enterHandler_vis (s : State) (t : TrapInfo) : (enterHandler s t).vis = s.vis := rfl
@[simp] theorem enterHandler_tlb (s : State) (t : TrapInfo) : (enterHandler s t).tlb = s.tlb := rfl
@[simp] theorem enterHandler_flights (s : State) (t : TrapInfo) : (enterHandler s t).flights = s.flights := rfl
@[simp] theorem enterHandler_reqs (s : State) (t : TrapInfo) : (enterHandler s t).reqs = s.reqs := rfl
@[simp] theorem enterHandler_dedups (s : State) (t : TrapInfo) : (enterHandler s t).dedups = s.dedups := rfl
@[simp] theorem enterHandler_msgs (s : State) (t : TrapInfo) : (enterHandler s t).msgs = s.msgs := rfl
@[simp] theorem enterHandler_leases (s : State) (t : TrapInfo) : (enterHandler s t).leases = s.leases := rfl
@[simp] theorem enterHandler_launches (s : State) (t : TrapInfo) : (enterHandler s t).launches = s.launches := rfl
@[simp] theorem enterHandler_purges (s : State) (t : TrapInfo) : (enterHandler s t).purges = s.purges := rfl
@[simp] theorem enterHandler_awaits (s : State) (t : TrapInfo) : (enterHandler s t).awaits = s.awaits := rfl
@[simp] theorem enterHandler_written (s : State) (t : TrapInfo) : (enterHandler s t).written = s.written := rfl
@[simp] theorem enterHandler_late (s : State) (t : TrapInfo) : (enterHandler s t).late = s.late := rfl
@[simp] theorem enterHandler_woken (s : State) (t : TrapInfo) : (enterHandler s t).woken = s.woken := rfl
@[simp] theorem enterHandler_reports (s : State) (t : TrapInfo) : (enterHandler s t).reports = s.reports := rfl
@[simp] theorem enterHandler_notices (s : State) (t : TrapInfo) : (enterHandler s t).notices = s.notices := rfl
@[simp] theorem enterHandler_rdma (s : State) (t : TrapInfo) : (enterHandler s t).rdma = s.rdma := rfl
@[simp] theorem enterHandler_agenda (s : State) (t : TrapInfo) : (enterHandler s t).agenda = s.agenda := rfl
@[simp] theorem enterHandler_lim (s : State) (t : TrapInfo) : (enterHandler s t).lim = none := rfl
@[simp] theorem enterHandler_mteam (s : State) (t : TrapInfo) : (enterHandler s t).mteam = s.mteam := rfl
@[simp] theorem enterHandler_fw (s : State) (t : TrapInfo) : (enterHandler s t).fw = s.fw := rfl
@[simp] theorem enterHandler_fwModule (s : State) (t : TrapInfo) : (enterHandler s t).fwModule = s.fwModule := rfl
@[simp] theorem enterHandler_tick (s : State) (t : TrapInfo) : (enterHandler s t).tick = s.tick := rfl
@[simp] theorem enterHandler_fresh (s : State) (t : TrapInfo) : (enterHandler s t).fresh = s.fresh := rfl

/-! `leaveHandler` -/

@[simp] theorem leaveHandler_group (s : State) : (leaveHandler s).group = s.group := rfl
@[simp] theorem leaveHandler_live (s : State) : (leaveHandler s).live = s.live := rfl
@[simp] theorem leaveHandler_teams (s : State) : (leaveHandler s).teams = s.teams := rfl
@[simp] theorem leaveHandler_mem (s : State) : (leaveHandler s).mem = s.mem := rfl
@[simp] theorem leaveHandler_poison (s : State) : (leaveHandler s).poison = s.poison := rfl
@[simp] theorem leaveHandler_cores (s : State) : (leaveHandler s).cores = s.cores := rfl
@[simp] theorem leaveHandler_dies (s : State) : (leaveHandler s).dies = s.dies := rfl
@[simp] theorem leaveHandler_modules (s : State) : (leaveHandler s).modules = s.modules := rfl
@[simp] theorem leaveHandler_ports (s : State) : (leaveHandler s).ports = s.ports := rfl
@[simp] theorem leaveHandler_queues (s : State) : (leaveHandler s).queues = s.queues := rfl
@[simp] theorem leaveHandler_vis (s : State) : (leaveHandler s).vis = s.vis := rfl
@[simp] theorem leaveHandler_tlb (s : State) : (leaveHandler s).tlb = s.tlb := rfl
@[simp] theorem leaveHandler_flights (s : State) : (leaveHandler s).flights = s.flights := rfl
@[simp] theorem leaveHandler_reqs (s : State) : (leaveHandler s).reqs = s.reqs := rfl
@[simp] theorem leaveHandler_dedups (s : State) : (leaveHandler s).dedups = s.dedups := rfl
@[simp] theorem leaveHandler_msgs (s : State) : (leaveHandler s).msgs = s.msgs := rfl
@[simp] theorem leaveHandler_leases (s : State) : (leaveHandler s).leases = s.leases := rfl
@[simp] theorem leaveHandler_launches (s : State) : (leaveHandler s).launches = s.launches := rfl
@[simp] theorem leaveHandler_purges (s : State) : (leaveHandler s).purges = s.purges := rfl
@[simp] theorem leaveHandler_awaits (s : State) : (leaveHandler s).awaits = s.awaits := rfl
@[simp] theorem leaveHandler_written (s : State) : (leaveHandler s).written = s.written := rfl
@[simp] theorem leaveHandler_late (s : State) : (leaveHandler s).late = s.late := rfl
@[simp] theorem leaveHandler_woken (s : State) : (leaveHandler s).woken = s.woken := rfl
@[simp] theorem leaveHandler_reports (s : State) : (leaveHandler s).reports = s.reports := rfl
@[simp] theorem leaveHandler_notices (s : State) : (leaveHandler s).notices = s.notices := rfl
@[simp] theorem leaveHandler_rdma (s : State) : (leaveHandler s).rdma = s.rdma := rfl
@[simp] theorem leaveHandler_agenda (s : State) : (leaveHandler s).agenda = s.agenda := rfl
@[simp] theorem leaveHandler_lim (s : State) : (leaveHandler s).lim = s.lim := rfl
@[simp] theorem leaveHandler_mteam (s : State) : (leaveHandler s).mteam = s.mteam := rfl
@[simp] theorem leaveHandler_fw (s : State) : (leaveHandler s).fw = s.fw := rfl
@[simp] theorem leaveHandler_fwModule (s : State) : (leaveHandler s).fwModule = s.fwModule := rfl
@[simp] theorem leaveHandler_tick (s : State) : (leaveHandler s).tick = s.tick := rfl
@[simp] theorem leaveHandler_fresh (s : State) : (leaveHandler s).fresh = s.fresh := rfl

/-! `State.ticked` -/

@[simp] theorem ticked_split (s : State) : (State.ticked s).split = s.split := rfl
@[simp] theorem ticked_group (s : State) : (State.ticked s).group = s.group := rfl
@[simp] theorem ticked_team (s : State) : (State.ticked s).team = s.team := rfl
@[simp] theorem ticked_live (s : State) : (State.ticked s).live = s.live := rfl
@[simp] theorem ticked_teams (s : State) : (State.ticked s).teams = s.teams := rfl
@[simp] theorem ticked_mem (s : State) : (State.ticked s).mem = s.mem := rfl
@[simp] theorem ticked_poison (s : State) : (State.ticked s).poison = s.poison := rfl
@[simp] theorem ticked_cores (s : State) : (State.ticked s).cores = s.cores := rfl
@[simp] theorem ticked_dies (s : State) : (State.ticked s).dies = s.dies := rfl
@[simp] theorem ticked_modules (s : State) : (State.ticked s).modules = s.modules := rfl
@[simp] theorem ticked_ports (s : State) : (State.ticked s).ports = s.ports := rfl
@[simp] theorem ticked_queues (s : State) : (State.ticked s).queues = s.queues := rfl
@[simp] theorem ticked_vis (s : State) : (State.ticked s).vis = s.vis := rfl
@[simp] theorem ticked_tlb (s : State) : (State.ticked s).tlb = s.tlb := rfl
@[simp] theorem ticked_flights (s : State) : (State.ticked s).flights = s.flights := rfl
@[simp] theorem ticked_reqs (s : State) : (State.ticked s).reqs = s.reqs := rfl
@[simp] theorem ticked_dedups (s : State) : (State.ticked s).dedups = s.dedups := rfl
@[simp] theorem ticked_msgs (s : State) : (State.ticked s).msgs = s.msgs := rfl
@[simp] theorem ticked_leases (s : State) : (State.ticked s).leases = s.leases := rfl
@[simp] theorem ticked_launches (s : State) : (State.ticked s).launches = s.launches := rfl
@[simp] theorem ticked_purges (s : State) : (State.ticked s).purges = s.purges := rfl
@[simp] theorem ticked_awaits (s : State) : (State.ticked s).awaits = s.awaits := rfl
@[simp] theorem ticked_written (s : State) : (State.ticked s).written = s.written := rfl
@[simp] theorem ticked_late (s : State) : (State.ticked s).late = s.late := rfl
@[simp] theorem ticked_woken (s : State) : (State.ticked s).woken = s.woken := rfl
@[simp] theorem ticked_reports (s : State) : (State.ticked s).reports = s.reports := rfl
@[simp] theorem ticked_notices (s : State) : (State.ticked s).notices = s.notices := rfl
@[simp] theorem ticked_rdma (s : State) : (State.ticked s).rdma = s.rdma := rfl
@[simp] theorem ticked_agenda (s : State) : (State.ticked s).agenda = s.agenda := rfl
@[simp] theorem ticked_lim (s : State) : (State.ticked s).lim = s.lim := rfl
@[simp] theorem ticked_mteam (s : State) : (State.ticked s).mteam = s.mteam := rfl
@[simp] theorem ticked_fw (s : State) : (State.ticked s).fw = s.fw := rfl
@[simp] theorem ticked_fwModule (s : State) : (State.ticked s).fwModule = s.fwModule := rfl
@[simp] theorem ticked_tick (s : State) : (State.ticked s).tick = s.tick + 1 := rfl
@[simp] theorem ticked_fresh (s : State) : (State.ticked s).fresh = s.fresh := rfl

/-! `close` -/

@[simp] theorem close_split (s : State) : (close s).split = Split.fresh := rfl
@[simp] theorem close_group (s : State) : (close s).group = Group.fresh := rfl
@[simp] theorem close_team (s : State) : (close s).team = Team.fresh := rfl
@[simp] theorem close_live (s : State) : (close s).live = false := rfl
@[simp] theorem close_teams (s : State) : (close s).teams = allTeams s := rfl
@[simp] theorem close_mem (s : State) : (close s).mem = s.mem := rfl
@[simp] theorem close_poison (s : State) : (close s).poison = s.poison := rfl
@[simp] theorem close_cores (s : State) : (close s).cores = s.cores := rfl
@[simp] theorem close_dies (s : State) : (close s).dies = s.dies := rfl
@[simp] theorem close_modules (s : State) : (close s).modules = s.modules := rfl
@[simp] theorem close_ports (s : State) : (close s).ports = s.ports := rfl
@[simp] theorem close_queues (s : State) : (close s).queues = s.queues := rfl
@[simp] theorem close_vis (s : State) : (close s).vis = s.vis := rfl
@[simp] theorem close_tlb (s : State) : (close s).tlb = s.tlb := rfl
@[simp] theorem close_flights (s : State) : (close s).flights = s.flights := rfl
@[simp] theorem close_reqs (s : State) : (close s).reqs = s.reqs := rfl
@[simp] theorem close_dedups (s : State) : (close s).dedups = s.dedups := rfl
@[simp] theorem close_msgs (s : State) : (close s).msgs = s.msgs := rfl
@[simp] theorem close_leases (s : State) : (close s).leases = s.leases := rfl
@[simp] theorem close_launches (s : State) : (close s).launches = s.launches := rfl
@[simp] theorem close_purges (s : State) : (close s).purges = s.purges := rfl
@[simp] theorem close_awaits (s : State) : (close s).awaits = s.awaits := rfl
@[simp] theorem close_written (s : State) : (close s).written = s.written := rfl
@[simp] theorem close_late (s : State) : (close s).late = s.late := rfl
@[simp] theorem close_woken (s : State) : (close s).woken = s.woken := rfl
@[simp] theorem close_reports (s : State) : (close s).reports = s.reports := rfl
@[simp] theorem close_notices (s : State) : (close s).notices = s.notices := rfl
@[simp] theorem close_rdma (s : State) : (close s).rdma = s.rdma := rfl
@[simp] theorem close_agenda (s : State) : (close s).agenda = s.agenda := rfl
@[simp] theorem close_lim (s : State) : (close s).lim = s.lim := rfl
@[simp] theorem close_mteam (s : State) : (close s).mteam = s.mteam := rfl
@[simp] theorem close_fw (s : State) : (close s).fw = s.fw := rfl
@[simp] theorem close_fwModule (s : State) : (close s).fwModule = s.fwModule := rfl
@[simp] theorem close_tick (s : State) : (close s).tick = s.tick := rfl
@[simp] theorem close_fresh (s : State) : (close s).fresh = s.fresh := rfl

/-! `wp` -/

@[simp] theorem wp_split (s : State) (p : Nat) (m v : Word) : (wp s p m v).split = s.split := by
  unfold wp; split <;> rfl
@[simp] theorem wp_team (s : State) (p : Nat) (m v : Word) : (wp s p m v).team = s.team := by
  unfold wp; split <;> rfl
@[simp] theorem wp_live (s : State) (p : Nat) (m v : Word) : (wp s p m v).live = s.live := by
  unfold wp; split <;> rfl
@[simp] theorem wp_teams (s : State) (p : Nat) (m v : Word) : (wp s p m v).teams = s.teams := by
  unfold wp; split <;> rfl
@[simp] theorem wp_mem (s : State) (p : Nat) (m v : Word) : (wp s p m v).mem = s.mem := by
  unfold wp; split <;> rfl
@[simp] theorem wp_poison (s : State) (p : Nat) (m v : Word) : (wp s p m v).poison = s.poison := by
  unfold wp; split <;> rfl
@[simp] theorem wp_cores (s : State) (p : Nat) (m v : Word) : (wp s p m v).cores = s.cores := by
  unfold wp; split <;> rfl
@[simp] theorem wp_dies (s : State) (p : Nat) (m v : Word) : (wp s p m v).dies = s.dies := by
  unfold wp; split <;> rfl
@[simp] theorem wp_modules (s : State) (p : Nat) (m v : Word) : (wp s p m v).modules = s.modules := by
  unfold wp; split <;> rfl
@[simp] theorem wp_ports (s : State) (p : Nat) (m v : Word) : (wp s p m v).ports = s.ports := by
  unfold wp; split <;> rfl
@[simp] theorem wp_queues (s : State) (p : Nat) (m v : Word) : (wp s p m v).queues = s.queues := by
  unfold wp; split <;> rfl
@[simp] theorem wp_vis (s : State) (p : Nat) (m v : Word) : (wp s p m v).vis = s.vis := by
  unfold wp; split <;> rfl
@[simp] theorem wp_tlb (s : State) (p : Nat) (m v : Word) : (wp s p m v).tlb = s.tlb := by
  unfold wp; split <;> rfl
@[simp] theorem wp_flights (s : State) (p : Nat) (m v : Word) : (wp s p m v).flights = s.flights := by
  unfold wp; split <;> rfl
@[simp] theorem wp_reqs (s : State) (p : Nat) (m v : Word) : (wp s p m v).reqs = s.reqs := by
  unfold wp; split <;> rfl
@[simp] theorem wp_dedups (s : State) (p : Nat) (m v : Word) : (wp s p m v).dedups = s.dedups := by
  unfold wp; split <;> rfl
@[simp] theorem wp_msgs (s : State) (p : Nat) (m v : Word) : (wp s p m v).msgs = s.msgs := by
  unfold wp; split <;> rfl
@[simp] theorem wp_leases (s : State) (p : Nat) (m v : Word) : (wp s p m v).leases = s.leases := by
  unfold wp; split <;> rfl
@[simp] theorem wp_launches (s : State) (p : Nat) (m v : Word) : (wp s p m v).launches = s.launches := by
  unfold wp; split <;> rfl
@[simp] theorem wp_purges (s : State) (p : Nat) (m v : Word) : (wp s p m v).purges = s.purges := by
  unfold wp; split <;> rfl
@[simp] theorem wp_awaits (s : State) (p : Nat) (m v : Word) : (wp s p m v).awaits = s.awaits := by
  unfold wp; split <;> rfl
@[simp] theorem wp_written (s : State) (p : Nat) (m v : Word) : (wp s p m v).written = s.written := by
  unfold wp; split <;> rfl
@[simp] theorem wp_late (s : State) (p : Nat) (m v : Word) : (wp s p m v).late = s.late := by
  unfold wp; split <;> rfl
@[simp] theorem wp_woken (s : State) (p : Nat) (m v : Word) : (wp s p m v).woken = s.woken := by
  unfold wp; split <;> rfl
@[simp] theorem wp_reports (s : State) (p : Nat) (m v : Word) : (wp s p m v).reports = s.reports := by
  unfold wp; split <;> rfl
@[simp] theorem wp_notices (s : State) (p : Nat) (m v : Word) : (wp s p m v).notices = s.notices := by
  unfold wp; split <;> rfl
@[simp] theorem wp_rdma (s : State) (p : Nat) (m v : Word) : (wp s p m v).rdma = s.rdma := by
  unfold wp; split <;> rfl
@[simp] theorem wp_agenda (s : State) (p : Nat) (m v : Word) : (wp s p m v).agenda = s.agenda := by
  unfold wp; split <;> rfl
@[simp] theorem wp_lim (s : State) (p : Nat) (m v : Word) : (wp s p m v).lim = s.lim := by
  unfold wp; split <;> rfl
@[simp] theorem wp_mteam (s : State) (p : Nat) (m v : Word) : (wp s p m v).mteam = s.mteam := by
  unfold wp; split <;> rfl
@[simp] theorem wp_fw (s : State) (p : Nat) (m v : Word) : (wp s p m v).fw = s.fw := by
  unfold wp; split <;> rfl
@[simp] theorem wp_fwModule (s : State) (p : Nat) (m v : Word) : (wp s p m v).fwModule = s.fwModule := by
  unfold wp; split <;> rfl
@[simp] theorem wp_tick (s : State) (p : Nat) (m v : Word) : (wp s p m v).tick = s.tick := by
  unfold wp; split <;> rfl
@[simp] theorem wp_fresh (s : State) (p : Nat) (m v : Word) : (wp s p m v).fresh = s.fresh := by
  unfold wp; split <;> rfl

/-! `wvs` -/

@[simp] theorem wvs_split (s : State) (n : Nat) (f : Nat → Word) (ls : List Nat) : (wvs s n f ls).split = s.split := by
  induction ls generalizing s with
  | nil => rfl
  | cons l r ih => exact ih _
@[simp] theorem wvs_team (s : State) (n : Nat) (f : Nat → Word) (ls : List Nat) : (wvs s n f ls).team = s.team := by
  induction ls generalizing s with
  | nil => rfl
  | cons l r ih => exact ih _
@[simp] theorem wvs_live (s : State) (n : Nat) (f : Nat → Word) (ls : List Nat) : (wvs s n f ls).live = s.live := by
  induction ls generalizing s with
  | nil => rfl
  | cons l r ih => exact ih _
@[simp] theorem wvs_teams (s : State) (n : Nat) (f : Nat → Word) (ls : List Nat) : (wvs s n f ls).teams = s.teams := by
  induction ls generalizing s with
  | nil => rfl
  | cons l r ih => exact ih _
@[simp] theorem wvs_mem (s : State) (n : Nat) (f : Nat → Word) (ls : List Nat) : (wvs s n f ls).mem = s.mem := by
  induction ls generalizing s with
  | nil => rfl
  | cons l r ih => exact ih _
@[simp] theorem wvs_poison (s : State) (n : Nat) (f : Nat → Word) (ls : List Nat) : (wvs s n f ls).poison = s.poison := by
  induction ls generalizing s with
  | nil => rfl
  | cons l r ih => exact ih _
@[simp] theorem wvs_cores (s : State) (n : Nat) (f : Nat → Word) (ls : List Nat) : (wvs s n f ls).cores = s.cores := by
  induction ls generalizing s with
  | nil => rfl
  | cons l r ih => exact ih _
@[simp] theorem wvs_dies (s : State) (n : Nat) (f : Nat → Word) (ls : List Nat) : (wvs s n f ls).dies = s.dies := by
  induction ls generalizing s with
  | nil => rfl
  | cons l r ih => exact ih _
@[simp] theorem wvs_modules (s : State) (n : Nat) (f : Nat → Word) (ls : List Nat) : (wvs s n f ls).modules = s.modules := by
  induction ls generalizing s with
  | nil => rfl
  | cons l r ih => exact ih _
@[simp] theorem wvs_ports (s : State) (n : Nat) (f : Nat → Word) (ls : List Nat) : (wvs s n f ls).ports = s.ports := by
  induction ls generalizing s with
  | nil => rfl
  | cons l r ih => exact ih _
@[simp] theorem wvs_queues (s : State) (n : Nat) (f : Nat → Word) (ls : List Nat) : (wvs s n f ls).queues = s.queues := by
  induction ls generalizing s with
  | nil => rfl
  | cons l r ih => exact ih _
@[simp] theorem wvs_vis (s : State) (n : Nat) (f : Nat → Word) (ls : List Nat) : (wvs s n f ls).vis = s.vis := by
  induction ls generalizing s with
  | nil => rfl
  | cons l r ih => exact ih _
@[simp] theorem wvs_tlb (s : State) (n : Nat) (f : Nat → Word) (ls : List Nat) : (wvs s n f ls).tlb = s.tlb := by
  induction ls generalizing s with
  | nil => rfl
  | cons l r ih => exact ih _
@[simp] theorem wvs_flights (s : State) (n : Nat) (f : Nat → Word) (ls : List Nat) : (wvs s n f ls).flights = s.flights := by
  induction ls generalizing s with
  | nil => rfl
  | cons l r ih => exact ih _
@[simp] theorem wvs_reqs (s : State) (n : Nat) (f : Nat → Word) (ls : List Nat) : (wvs s n f ls).reqs = s.reqs := by
  induction ls generalizing s with
  | nil => rfl
  | cons l r ih => exact ih _
@[simp] theorem wvs_dedups (s : State) (n : Nat) (f : Nat → Word) (ls : List Nat) : (wvs s n f ls).dedups = s.dedups := by
  induction ls generalizing s with
  | nil => rfl
  | cons l r ih => exact ih _
@[simp] theorem wvs_msgs (s : State) (n : Nat) (f : Nat → Word) (ls : List Nat) : (wvs s n f ls).msgs = s.msgs := by
  induction ls generalizing s with
  | nil => rfl
  | cons l r ih => exact ih _
@[simp] theorem wvs_leases (s : State) (n : Nat) (f : Nat → Word) (ls : List Nat) : (wvs s n f ls).leases = s.leases := by
  induction ls generalizing s with
  | nil => rfl
  | cons l r ih => exact ih _
@[simp] theorem wvs_launches (s : State) (n : Nat) (f : Nat → Word) (ls : List Nat) : (wvs s n f ls).launches = s.launches := by
  induction ls generalizing s with
  | nil => rfl
  | cons l r ih => exact ih _
@[simp] theorem wvs_purges (s : State) (n : Nat) (f : Nat → Word) (ls : List Nat) : (wvs s n f ls).purges = s.purges := by
  induction ls generalizing s with
  | nil => rfl
  | cons l r ih => exact ih _
@[simp] theorem wvs_awaits (s : State) (n : Nat) (f : Nat → Word) (ls : List Nat) : (wvs s n f ls).awaits = s.awaits := by
  induction ls generalizing s with
  | nil => rfl
  | cons l r ih => exact ih _
@[simp] theorem wvs_written (s : State) (n : Nat) (f : Nat → Word) (ls : List Nat) : (wvs s n f ls).written = s.written := by
  induction ls generalizing s with
  | nil => rfl
  | cons l r ih => exact ih _
@[simp] theorem wvs_late (s : State) (n : Nat) (f : Nat → Word) (ls : List Nat) : (wvs s n f ls).late = s.late := by
  induction ls generalizing s with
  | nil => rfl
  | cons l r ih => exact ih _
@[simp] theorem wvs_woken (s : State) (n : Nat) (f : Nat → Word) (ls : List Nat) : (wvs s n f ls).woken = s.woken := by
  induction ls generalizing s with
  | nil => rfl
  | cons l r ih => exact ih _
@[simp] theorem wvs_reports (s : State) (n : Nat) (f : Nat → Word) (ls : List Nat) : (wvs s n f ls).reports = s.reports := by
  induction ls generalizing s with
  | nil => rfl
  | cons l r ih => exact ih _
@[simp] theorem wvs_notices (s : State) (n : Nat) (f : Nat → Word) (ls : List Nat) : (wvs s n f ls).notices = s.notices := by
  induction ls generalizing s with
  | nil => rfl
  | cons l r ih => exact ih _
@[simp] theorem wvs_rdma (s : State) (n : Nat) (f : Nat → Word) (ls : List Nat) : (wvs s n f ls).rdma = s.rdma := by
  induction ls generalizing s with
  | nil => rfl
  | cons l r ih => exact ih _
@[simp] theorem wvs_agenda (s : State) (n : Nat) (f : Nat → Word) (ls : List Nat) : (wvs s n f ls).agenda = s.agenda := by
  induction ls generalizing s with
  | nil => rfl
  | cons l r ih => exact ih _
@[simp] theorem wvs_lim (s : State) (n : Nat) (f : Nat → Word) (ls : List Nat) : (wvs s n f ls).lim = s.lim := by
  induction ls generalizing s with
  | nil => rfl
  | cons l r ih => exact ih _
@[simp] theorem wvs_mteam (s : State) (n : Nat) (f : Nat → Word) (ls : List Nat) : (wvs s n f ls).mteam = s.mteam := by
  induction ls generalizing s with
  | nil => rfl
  | cons l r ih => exact ih _
@[simp] theorem wvs_fw (s : State) (n : Nat) (f : Nat → Word) (ls : List Nat) : (wvs s n f ls).fw = s.fw := by
  induction ls generalizing s with
  | nil => rfl
  | cons l r ih => exact ih _
@[simp] theorem wvs_fwModule (s : State) (n : Nat) (f : Nat → Word) (ls : List Nat) : (wvs s n f ls).fwModule = s.fwModule := by
  induction ls generalizing s with
  | nil => rfl
  | cons l r ih => exact ih _
@[simp] theorem wvs_tick (s : State) (n : Nat) (f : Nat → Word) (ls : List Nat) : (wvs s n f ls).tick = s.tick := by
  induction ls generalizing s with
  | nil => rfl
  | cons l r ih => exact ih _
@[simp] theorem wvs_fresh (s : State) (n : Nat) (f : Nat → Word) (ls : List Nat) : (wvs s n f ls).fresh = s.fresh := by
  induction ls generalizing s with
  | nil => rfl
  | cons l r ih => exact ih _

/-! `wv2s` -/

@[simp] theorem wv2s_split (s : State) (n : Nat) (f : Nat → DWord) (ls : List Nat) : (wv2s s n f ls).split = s.split := by
  induction ls generalizing s with
  | nil => rfl
  | cons l r ih => exact ih _
@[simp] theorem wv2s_team (s : State) (n : Nat) (f : Nat → DWord) (ls : List Nat) : (wv2s s n f ls).team = s.team := by
  induction ls generalizing s with
  | nil => rfl
  | cons l r ih => exact ih _
@[simp] theorem wv2s_live (s : State) (n : Nat) (f : Nat → DWord) (ls : List Nat) : (wv2s s n f ls).live = s.live := by
  induction ls generalizing s with
  | nil => rfl
  | cons l r ih => exact ih _
@[simp] theorem wv2s_teams (s : State) (n : Nat) (f : Nat → DWord) (ls : List Nat) : (wv2s s n f ls).teams = s.teams := by
  induction ls generalizing s with
  | nil => rfl
  | cons l r ih => exact ih _
@[simp] theorem wv2s_mem (s : State) (n : Nat) (f : Nat → DWord) (ls : List Nat) : (wv2s s n f ls).mem = s.mem := by
  induction ls generalizing s with
  | nil => rfl
  | cons l r ih => exact ih _
@[simp] theorem wv2s_poison (s : State) (n : Nat) (f : Nat → DWord) (ls : List Nat) : (wv2s s n f ls).poison = s.poison := by
  induction ls generalizing s with
  | nil => rfl
  | cons l r ih => exact ih _
@[simp] theorem wv2s_cores (s : State) (n : Nat) (f : Nat → DWord) (ls : List Nat) : (wv2s s n f ls).cores = s.cores := by
  induction ls generalizing s with
  | nil => rfl
  | cons l r ih => exact ih _
@[simp] theorem wv2s_dies (s : State) (n : Nat) (f : Nat → DWord) (ls : List Nat) : (wv2s s n f ls).dies = s.dies := by
  induction ls generalizing s with
  | nil => rfl
  | cons l r ih => exact ih _
@[simp] theorem wv2s_modules (s : State) (n : Nat) (f : Nat → DWord) (ls : List Nat) : (wv2s s n f ls).modules = s.modules := by
  induction ls generalizing s with
  | nil => rfl
  | cons l r ih => exact ih _
@[simp] theorem wv2s_ports (s : State) (n : Nat) (f : Nat → DWord) (ls : List Nat) : (wv2s s n f ls).ports = s.ports := by
  induction ls generalizing s with
  | nil => rfl
  | cons l r ih => exact ih _
@[simp] theorem wv2s_queues (s : State) (n : Nat) (f : Nat → DWord) (ls : List Nat) : (wv2s s n f ls).queues = s.queues := by
  induction ls generalizing s with
  | nil => rfl
  | cons l r ih => exact ih _
@[simp] theorem wv2s_vis (s : State) (n : Nat) (f : Nat → DWord) (ls : List Nat) : (wv2s s n f ls).vis = s.vis := by
  induction ls generalizing s with
  | nil => rfl
  | cons l r ih => exact ih _
@[simp] theorem wv2s_tlb (s : State) (n : Nat) (f : Nat → DWord) (ls : List Nat) : (wv2s s n f ls).tlb = s.tlb := by
  induction ls generalizing s with
  | nil => rfl
  | cons l r ih => exact ih _
@[simp] theorem wv2s_flights (s : State) (n : Nat) (f : Nat → DWord) (ls : List Nat) : (wv2s s n f ls).flights = s.flights := by
  induction ls generalizing s with
  | nil => rfl
  | cons l r ih => exact ih _
@[simp] theorem wv2s_reqs (s : State) (n : Nat) (f : Nat → DWord) (ls : List Nat) : (wv2s s n f ls).reqs = s.reqs := by
  induction ls generalizing s with
  | nil => rfl
  | cons l r ih => exact ih _
@[simp] theorem wv2s_dedups (s : State) (n : Nat) (f : Nat → DWord) (ls : List Nat) : (wv2s s n f ls).dedups = s.dedups := by
  induction ls generalizing s with
  | nil => rfl
  | cons l r ih => exact ih _
@[simp] theorem wv2s_msgs (s : State) (n : Nat) (f : Nat → DWord) (ls : List Nat) : (wv2s s n f ls).msgs = s.msgs := by
  induction ls generalizing s with
  | nil => rfl
  | cons l r ih => exact ih _
@[simp] theorem wv2s_leases (s : State) (n : Nat) (f : Nat → DWord) (ls : List Nat) : (wv2s s n f ls).leases = s.leases := by
  induction ls generalizing s with
  | nil => rfl
  | cons l r ih => exact ih _
@[simp] theorem wv2s_launches (s : State) (n : Nat) (f : Nat → DWord) (ls : List Nat) : (wv2s s n f ls).launches = s.launches := by
  induction ls generalizing s with
  | nil => rfl
  | cons l r ih => exact ih _
@[simp] theorem wv2s_purges (s : State) (n : Nat) (f : Nat → DWord) (ls : List Nat) : (wv2s s n f ls).purges = s.purges := by
  induction ls generalizing s with
  | nil => rfl
  | cons l r ih => exact ih _
@[simp] theorem wv2s_awaits (s : State) (n : Nat) (f : Nat → DWord) (ls : List Nat) : (wv2s s n f ls).awaits = s.awaits := by
  induction ls generalizing s with
  | nil => rfl
  | cons l r ih => exact ih _
@[simp] theorem wv2s_written (s : State) (n : Nat) (f : Nat → DWord) (ls : List Nat) : (wv2s s n f ls).written = s.written := by
  induction ls generalizing s with
  | nil => rfl
  | cons l r ih => exact ih _
@[simp] theorem wv2s_late (s : State) (n : Nat) (f : Nat → DWord) (ls : List Nat) : (wv2s s n f ls).late = s.late := by
  induction ls generalizing s with
  | nil => rfl
  | cons l r ih => exact ih _
@[simp] theorem wv2s_woken (s : State) (n : Nat) (f : Nat → DWord) (ls : List Nat) : (wv2s s n f ls).woken = s.woken := by
  induction ls generalizing s with
  | nil => rfl
  | cons l r ih => exact ih _
@[simp] theorem wv2s_reports (s : State) (n : Nat) (f : Nat → DWord) (ls : List Nat) : (wv2s s n f ls).reports = s.reports := by
  induction ls generalizing s with
  | nil => rfl
  | cons l r ih => exact ih _
@[simp] theorem wv2s_notices (s : State) (n : Nat) (f : Nat → DWord) (ls : List Nat) : (wv2s s n f ls).notices = s.notices := by
  induction ls generalizing s with
  | nil => rfl
  | cons l r ih => exact ih _
@[simp] theorem wv2s_rdma (s : State) (n : Nat) (f : Nat → DWord) (ls : List Nat) : (wv2s s n f ls).rdma = s.rdma := by
  induction ls generalizing s with
  | nil => rfl
  | cons l r ih => exact ih _
@[simp] theorem wv2s_agenda (s : State) (n : Nat) (f : Nat → DWord) (ls : List Nat) : (wv2s s n f ls).agenda = s.agenda := by
  induction ls generalizing s with
  | nil => rfl
  | cons l r ih => exact ih _
@[simp] theorem wv2s_lim (s : State) (n : Nat) (f : Nat → DWord) (ls : List Nat) : (wv2s s n f ls).lim = s.lim := by
  induction ls generalizing s with
  | nil => rfl
  | cons l r ih => exact ih _
@[simp] theorem wv2s_mteam (s : State) (n : Nat) (f : Nat → DWord) (ls : List Nat) : (wv2s s n f ls).mteam = s.mteam := by
  induction ls generalizing s with
  | nil => rfl
  | cons l r ih => exact ih _
@[simp] theorem wv2s_fw (s : State) (n : Nat) (f : Nat → DWord) (ls : List Nat) : (wv2s s n f ls).fw = s.fw := by
  induction ls generalizing s with
  | nil => rfl
  | cons l r ih => exact ih _
@[simp] theorem wv2s_fwModule (s : State) (n : Nat) (f : Nat → DWord) (ls : List Nat) : (wv2s s n f ls).fwModule = s.fwModule := by
  induction ls generalizing s with
  | nil => rfl
  | cons l r ih => exact ih _
@[simp] theorem wv2s_tick (s : State) (n : Nat) (f : Nat → DWord) (ls : List Nat) : (wv2s s n f ls).tick = s.tick := by
  induction ls generalizing s with
  | nil => rfl
  | cons l r ih => exact ih _
@[simp] theorem wv2s_fresh (s : State) (n : Nat) (f : Nat → DWord) (ls : List Nat) : (wv2s s n f ls).fresh = s.fresh := by
  induction ls generalizing s with
  | nil => rfl
  | cons l r ih => exact ih _

/-! Fields of the split, the group and the registers -/

@[simp] theorem splitPutS_num (sp : Split) (n : Nat) (v : DWord) : (splitPutS sp n v).num = sp.num := rfl
@[simp] theorem splitPutS_pc (sp : Split) (n : Nat) (v : DWord) : (splitPutS sp n v).pc = sp.pc := rfl
@[simp] theorem splitPutS_mask (sp : Split) (n : Nat) (v : DWord) : (splitPutS sp n v).mask = sp.mask := rfl
@[simp] theorem splitPutS_mode (sp : Split) (n : Nat) (v : DWord) : (splitPutS sp n v).mode = sp.mode := rfl
@[simp] theorem splitPutS_rcva (sp : Split) (n : Nat) (v : DWord) : (splitPutS sp n v).rcva = sp.rcva := rfl
@[simp] theorem splitPutS_rcvaValid (sp : Split) (n : Nat) (v : DWord) : (splitPutS sp n v).rcvaValid = sp.rcvaValid := rfl
@[simp] theorem splitPutS_stack (sp : Split) (n : Nat) (v : DWord) : (splitPutS sp n v).stack = sp.stack := rfl
@[simp] theorem splitPutS_spilled (sp : Split) (n : Nat) (v : DWord) : (splitPutS sp n v).spilled = sp.spilled := rfl
@[simp] theorem splitPutS_x (sp : Split) (n : Nat) (v : DWord) : (splitPutS sp n v).x = sp.x := rfl
@[simp] theorem splitPutS_tstat (sp : Split) (n : Nat) (v : DWord) : (splitPutS sp n v).tstat = sp.tstat := rfl
@[simp] theorem splitPutS_frame (sp : Split) (n : Nat) (v : DWord) : (splitPutS sp n v).frame = sp.frame := rfl
@[simp] theorem splitPutS_parked (sp : Split) (n : Nat) (v : DWord) : (splitPutS sp n v).parked = sp.parked := rfl
@[simp] theorem splitPutS_drainPark (sp : Split) (n : Nat) (v : DWord) : (splitPutS sp n v).drainPark = sp.drainPark := rfl
@[simp] theorem splitPutS_windows (sp : Split) (n : Nat) (v : DWord) : (splitPutS sp n v).windows = sp.windows := rfl
@[simp] theorem splitPutS_owner (sp : Split) (n : Nat) (v : DWord) : (splitPutS sp n v).owner = sp.owner := rfl
@[simp] theorem splitPutS_fence (sp : Split) (n : Nat) (v : DWord) : (splitPutS sp n v).fence = sp.fence := rfl
@[simp] theorem splitPutS_outcome (sp : Split) (n : Nat) (v : DWord) : (splitPutS sp n v).outcome = sp.outcome := rfl
@[simp] theorem splitPutS_wait (sp : Split) (n : Nat) (v : DWord) : (splitPutS sp n v).wait = sp.wait := rfl
@[simp] theorem splitPutS_order (sp : Split) (n : Nat) (v : DWord) : (splitPutS sp n v).order = sp.order := rfl
@[simp] theorem splitPutS_active (sp : Split) (n : Nat) (v : DWord) : (splitPutS sp n v).active = sp.active := rfl
@[simp] theorem splitPutS_entered (sp : Split) (n : Nat) (v : DWord) : (splitPutS sp n v).entered = sp.entered := rfl
@[simp] theorem splitPutS_woke (sp : Split) (n : Nat) (v : DWord) : (splitPutS sp n v).woke = sp.woke := rfl
@[simp] theorem splitPutS_entries (sp : Split) (n : Nat) (v : DWord) : (splitPutS sp n v).entries = sp.entries := rfl
@[simp] theorem splitPutS_issued (sp : Split) (n : Nat) (v : DWord) : (splitPutS sp n v).issued = sp.issued := rfl
@[simp] theorem gput_num (g : Group) (n l : Nat) (v : Word) : (gput g n l v).num = g.num := rfl
@[simp] theorem gput_part (g : Group) (n l : Nat) (v : Word) : (gput g n l v).part = g.part := rfl
@[simp] theorem gput_role (g : Group) (n l : Nat) (v : Word) : (gput g n l v).role = g.role := rfl
@[simp] theorem gput_splits (g : Group) (n l : Nat) (v : Word) : (gput g n l v).splits = g.splits := rfl
@[simp] theorem gput_preds (g : Group) (n l : Nat) (v : Word) : (gput g n l v).preds = g.preds := rfl
@[simp] theorem gput_gens (g : Group) (n l : Nat) (v : Word) : (gput g n l v).gens = g.gens := rfl
@[simp] theorem gput_exited (g : Group) (n l : Nat) (v : Word) : (gput g n l v).exited = g.exited := rfl
@[simp] theorem gput_paths (g : Group) (n l : Nat) (v : Word) : (gput g n l v).paths = g.paths := rfl
@[simp] theorem gput_rises (g : Group) (n l : Nat) (v : Word) : (gput g n l v).rises = g.rises := rfl
@[simp] theorem gput_log (g : Group) (n l : Nat) (v : Word) : (gput g n l v).log = g.log := rfl
@[simp] theorem gput_ringBase (g : Group) (n l : Nat) (v : Word) : (gput g n l v).ringBase = g.ringBase := rfl
@[simp] theorem gput_ringSize (g : Group) (n l : Nat) (v : Word) : (gput g n l v).ringSize = g.ringSize := rfl
@[simp] theorem gput_ringHead (g : Group) (n l : Nat) (v : Word) : (gput g n l v).ringHead = g.ringHead := rfl
@[simp] theorem gput_ringTail (g : Group) (n l : Nat) (v : Word) : (gput g n l v).ringTail = g.ringTail := rfl
@[simp] theorem gput_ringDrop (g : Group) (n l : Nat) (v : Word) : (gput g n l v).ringDrop = g.ringDrop := rfl
@[simp] theorem gput_seq (g : Group) (n l : Nat) (v : Word) : (gput g n l v).seq = g.seq := rfl
@[simp] theorem gput_arrivals (g : Group) (n l : Nat) (v : Word) : (gput g n l v).arrivals = g.arrivals := rfl
@[simp] theorem gput_faults (g : Group) (n l : Nat) (v : Word) : (gput g n l v).faults = g.faults := rfl

end Sys2Proof.Laws
end

