-- ==== Sys2Proof/Safety.lean ====
section
/-! DEFINITION. What counts as a safe run, and the relations in which statements say what an instruction leaves
changed and unchanged. -/

namespace Sys2Proof.Safety

open Sys2Proof.Machine

/-! ## Runs -/

/-- The machine has a next step. -/
def Goes (s : State) : Prop := ∃ t, step s = .next t

/-- `t` comes after `s` in some number of steps. -/
inductive Reaches : State → State → Prop where
  | refl (s : State) : Reaches s s
  | step {s t u : State} : step s = .next t → Reaches t u → Reaches s u

/-- A safe state: memory is in canonical form, and no input waits that the machine could not take. -/
def Safe (s : State) : Prop := Memory.wf s.mem = true ∧ Goes s

/-- Nothing but its own next word is in the way of the split in focus: no input waits, it is its turn, its partition
picks it, no divergence entry matches its PC, no window or fence is open, no deferred fault is to be delivered and CLONE
is off. -/
def Undisturbed (s : State) : Prop :=
  s.agenda = [] ∧ s.tick % 2 = 0 ∧ focusGoes s = true ∧ s.split.stack = [] ∧ s.split.spilled = 0 ∧
    s.split.windows = [] ∧ s.split.owner = none ∧ s.split.fence = none ∧ s.group.faults = [] ∧
    mClone s.split.mode = false ∧ s.split.outcome = 0 ∧ s.lim = none ∧ s.split.wait = none ∧ s.split.parked = none

/-- The page-table entries that some translations read lie on this module, in places that are ready, so that the split need
not wait for them (07_memory.md R156; logs 67, 79). -/
def TablesNear (s : State) (ts : List (Agent × Nat × Nat)) : Prop :=
  tableReads s ts false = [] ∧ ∀ a ∈ tableReads s ts true, homeReady s a = true

/-! ## Frames

Each relation says that `t` is `s` with the PC moved past the instruction in hand, with one store replaced, and gives
every entry of that store; all other state is equal. -/

/-- Entry `n`, lane `l` of a lane register store. -/
def regAt (r : Cells Word) (n l : Nat) : Word := cget (fun _ => 0) r (vkey n l)

/-- The lane is active. -/
def isActive (s : State) (l : Nat) : Bool := laneBit (active s) l

/-- `s` with the lane registers replaced. -/
def withRegs (s : State) (r : Cells Word) : State := { s with group := { s.group with regs := r } }

/-- In the active lanes register `n` holds `v`; every other lane register is unchanged. -/
def OneReg (s : State) (r : Cells Word) (n : Nat) (v : Nat → Word) : Prop :=
  ∀ m l, l < 32 → regAt r m l = if m = n ∧ isActive s l then v l else rv s m l

/-- In the active lanes the pair at `n` holds `v`; every other lane register is unchanged. -/
def PairReg (s : State) (r : Cells Word) (n : Nat) (v : Nat → DWord) : Prop :=
  ∀ m l, l < 32 → regAt r m l =
    if m = n ∧ isActive s l then (v l).extractLsb' 0 32
    else if m = n + 1 ∧ isActive s l then (v l).extractLsb' 32 32
    else rv s m l

/-- The instruction went on and wrote one lane register in the active lanes. -/
def WroteReg (s t : State) (n : Nat) (v : Nat → Word) : Prop := ∃ r, t = adv (withRegs s r) ∧ OneReg s r n v

/-- The same of a pair. -/
def WrotePair (s t : State) (n : Nat) (v : Nat → DWord) : Prop := ∃ r, t = adv (withRegs s r) ∧ PairReg s r n v

/-- The same of a register of a typed width: the pair for 64 bits, else one register. -/
def WroteTyped (s t : State) (n w : Nat) (v : Nat → Nat) : Prop :=
  if w = 64 then WrotePair s t n (fun l => BitVec.ofNat 64 (v l)) else WroteReg s t n (fun l => BitVec.ofNat 32 (v l))

/-- The same of a register that MODE.TYPE sizes. -/
def WroteSized (s t : State) (n : Nat) (v : Nat → DWord) : Prop :=
  if wide s.split.mode then WrotePair s t n v else WroteReg s t n (fun l => (v l).setWidth 32)

/-- The instruction went on and wrote predicate `d` in the active lanes; p0 stays as it is. -/
def WrotePred (s t : State) (d : Nat) (v : Nat → Bool) : Prop :=
  ∃ q, t = adv { s with group := { s.group with preds := q } } ∧
    ∀ p l, l < 32 → laneBit (predMask t.group p) l =
      if p = d ∧ d ≠ 0 ∧ isActive s l then v l else laneBit (predMask s.group p) l

/-- The instruction went on and wrote one scalar register. -/
def WroteScalar (s t : State) (d : Nat) (v : DWord) : Prop :=
  ∃ c, t = adv { s with split := { s.split with s := c } } ∧
    ∀ n, cget (fun _ => 0) c n = if n = d then v else rs s n

/-- A lane's generator after `n` draws in the active lanes; other lanes keep theirs. -/
def DrewGens (s : State) (g : Cells Word) (n : Nat) : Prop :=
  ∀ l, l < 32 → cget genInit g l = if isActive s l then genAfter (genOf s.group l) n else genOf s.group l

/-- The instruction went on, wrote a floating result, and drew `n` words in the active lanes under SR. -/
def WroteFloat (s t : State) (f : Fmt) (d n : Nat) (v : Nat → Nat) : Prop :=
  ∃ r g, t = adv { s with group := { s.group with regs := r, gens := g } } ∧
    (if f = .f64 then PairReg s r d (fun l => BitVec.ofNat 64 (v l)) else OneReg s r d (fun l => BitVec.ofNat 32 (v l))) ∧
    DrewGens s g (if mRnd s.split.mode = 5 then n else 0)

/-- Every byte of memory reads as before. -/
def SameMemory (s t : State) : Prop := ∀ a, rdByte t a = rdByte s a

/-- Every byte outside `n` bytes at `pa` reads as before. -/
def SameOutside (s t : State) (pa n : Nat) : Prop := ∀ a, a < pa ∨ pa + n ≤ a → rdByte t a = rdByte s a

/-- The registers of the splits, groups and teams are as before: what a device's step leaves alone. -/
def SameFocus (s t : State) : Prop := t.live = s.live ∧ t.split = s.split ∧ t.group = s.group ∧ t.team = s.team ∧ t.teams = s.teams

/-! ## Memory and windows -/

/-- No fence window is open in any split: nothing can roll back. -/
def NoWindows (s : State) : Prop := ∀ t ∈ allTeams s, ∀ g ∈ t.groups, ∀ x ∈ g.splits, x.fence = none

/-- No arm watches anything: a write sets nothing off. -/
def NoArms (s : State) : Prop := ∀ e ∈ s.dies, e.2.arms = []

/-- The byte at an address after a write that would leave `x` there: a queue control block's own bytes stay as they are
(16_frontend.md R370; log 100). -/
def landed (s : State) (a : Nat) (x : Option Byte) : Byte :=
  match x with
  | some b => if qcbByte s a then rdByte s a else b
  | none => rdByte s a

/-- No byte of a queue control block lies among `n` bytes at `pa`. -/
def PlainBytes (s : State) (pa n : Nat) : Prop := ∀ a, pa ≤ a → a < pa + n → qcbByte s a = false

/-- What orders a team-scope access of the split in focus to some scratchpad bytes is performed (08_ordering.md R181). -/
def InOrder (s : State) (ps : List (Nat × Nat)) : Prop := ps = [] ∨ ∀ i ∈ orderAfter s ps false true, performedAt s 1 i = true

/-- The parked splits `all` of a group have merged (06_control.md R141): those of one address, and under C16 of one half,
are one split, of their lowest number, with the state of the first arrival. -/
def Merged (t : State) (tid gn : Nat) (all : List Split) : Prop :=
  ∀ x ∈ all,
    let cl := all.filter (fun y => parkAddr x == parkAddr y && halfOf x == halfOf y)
    let n := cl.foldl (fun k y => min k y.num) x.num
    ∃ y, findSplit t tid gn n = some y ∧ y.pc = BitVec.ofNat 64 (parkAddr x) + 4 ∧
      y.mask = cl.foldl (fun k z => k ||| z.mask) 0 ∧ y.stack = [] ∧ y.rcvaValid = false ∧ y.parked = none ∧
      ∃ f ∈ cl, (∀ z ∈ cl, parkSeq f ≤ parkSeq z) ∧ y.mode = f.mode ∧ y.s = f.s ∧ y.x = f.x ∧ y.tstat = f.tstat ∧
        y.frame = f.frame

/-- Nothing holds up an operation of the split in focus that releases at a scope, and no uncertain outcome is to be
raised at it (08_ordering.md R191; 13_fabric.md R306). -/
def Released (s : State) (scope : Nat) (ps : List (Nat × Nat)) : Prop :=
  releaseWaits s scope ps = [] ∧ (4 ≤ scope → dueFault s .fence = none)

/-- No copy of `n` bytes in an L1 or an RDC is poisoned (07_memory.md R418). -/
def CopiesClean (s : State) (pa n : Nat) : Prop :=
  (∀ e ∈ s.cores, ∀ g ∈ e.2.l1bad, 32 * g + 32 ≤ pa ∨ pa + n ≤ 32 * g) ∧
    ∀ e ∈ s.dies, ∀ g ∈ e.2.rdcbad, 32 * g + 32 ≤ pa ∨ pa + n ≤ 32 * g

/-- What a memory instruction leaves when it has issued `f` on a path: the flight is the newest, its path has risen, the
PC has moved on, and memory, the other splits and groups and the registers are as before. -/
def Issued (s t : State) (f : Flight) (path : Nat) : Prop :=
  t.flights = s.flights ++ [f] ∧ t.group = pathRise s.group path f.id ∧ t.team = s.team ∧ t.teams = s.teams ∧
    t.live = s.live ∧ f.id = s.fresh ∧ f.path = some path ∧ f.pc = s.split.pc ∧ f.mask = active s ∧ f.mode = s.split.mode ∧
    f.team = s.team.id ∧ f.grp = s.group.num ∧ f.spl = s.split.num

/-- The registers of a lane after some of them are written. -/
def LaneGot (g g' : Group) (l : Nat) (w : List (Nat × Word)) : Prop :=
  ∀ n, gv g' n l = match (w.reverse.find? (fun e => e.1 == n)) with | some e => e.2 | none => gv g n l

/-- The address of a lane of an L-format word, and of an A-format word. -/
def laneEa (s : State) (a sb : Nat) (l : Nat) : Nat := (rs s sb + (rv s a l).setWidth 64 + limOffset s).toNat
def pairEa (s : State) (a : Nat) (l : Nat) : Nat := (rv2 s a l + limOffset s).toNat

/-! ## Engines and devices -/

/-- A team's sequencer slot became `m`, and nothing else changed. -/
def SlotSet (s t : State) (tid : Nat) (m : MSlot) : Prop :=
  (findTeam t tid).bind Team.mslot = some m ∧ SameMemory s t ∧ t.flights = s.flights ∧ t.cores = s.cores ∧ t.dies = s.dies ∧
    t.live = s.live ∧ (s.live = true → t.split = s.split ∧ t.group.regs = s.group.regs ∧ t.group.preds = s.group.preds)

/-- The byte that the last of some stores leaves at an address. -/
def lastByte (xs : List EngineStore) (p : Nat) : Option Byte :=
  xs.foldl (fun a x => match partsByte x.parts x.data p with | some b => some b | none => a) none

/-- Bytes were performed at one piece: they stand there, every other byte and every split is as before. -/
def Performed (s t : State) (pa : Nat) (bs : List Byte) : Prop :=
  (∀ a, rdByte t a = landed s a (partsByte [(pa, bs.length)] bs a)) ∧ SameFocus s t ∧
    t.flights = s.flights ∧ t.reqs = s.reqs ∧ t.msgs = s.msgs ∧ t.reports = s.reports

end Sys2Proof.Safety
end

