-- ==== Sys2Proof/Certificates/Slice0/Obligations.lean ====
section
/-! DEFINITION. The statements for the provers. `operandsBad s i = false` says that every lane register that the word
names lies below the role's budget and that every pair is named by its even register (03_integer.md R65, R67). A
hypothesis `NoWindows s` or `NoArms s` says that no fence window is open and that no arm watches a word. -/

open Sys2Proof Sys2Proof.Machine Sys2Proof.Safety

/-! ## Reset, decoding and the step -/

/-- What the spec gives for reset: no die, core, port or queue is ready, the plane map is the identity (13_fabric.md
R302), no tag is dead, and every event entry reads DOMAIN 0, THRESH 1, WAITH 0xFFFF (12_work.md R280). That no split,
flight, queue or input stands at reset is the model's layout (log 2, log 6). -/
def Obligations.ResetState : Prop :=
  (∀ c, (getCore State.reset c).ready = false ∧ (getCore State.reset c).quarantined = false) ∧
  (∀ d, (getDie State.reset d).ready = false ∧ (getDie State.reset d).jobseq = 1) ∧
  (∀ m, (getModule State.reset m).fpmap = 0x0706050403020100 ∧ (getModule State.reset m).fatal = false) ∧
  (∀ p, (getPort State.reset p).state = 0) ∧
  State.reset.live = false ∧ State.reset.teams = [] ∧ State.reset.queues = [] ∧ State.reset.vis = [] ∧
  State.reset.flights = [] ∧ State.reset.agenda = [] ∧
  (∀ name, name < 2 ^ 32 → rdNat State.reset (eventAddr name) 16 = 0xFFFF000000000000000000010000)

/-- The canonical form of memory holds after reset. The form is the model's own (log 5). -/
def Obligations.ResetMemory : Prop := Memory.wf State.reset.mem = true

/-- Words written out from the encodings of 02_words.md R30 and R33 are read as the instructions they stand for. -/
def Obligations.DecodedWords : Prop :=
  decodeWord 0x28084400 = .ok (.setx 1 1 2) ∧ decodeWord 0x29109008 = .ok (.movx 4 9 0 1) ∧
  decodeWord 0x3B105030 = .ok (.idot4 4 5 0 6 0) ∧ decodeWord 0x1B186003 = .ok (.shri 6 6 3) ∧
  decodeWord 0x23282018 = .ok (.icmp 1 2 2 0 3 0) ∧ decodeWord 0x36100020 = .ok (.smovi 2 32) ∧
  decodeWord 0x3A0C4028 = .ok (.bysel 3 4 0 5 0) ∧ decodeWord 0xFF000123 = .ok (.lim 0x123)

/-- Every well-formed word is read back from its encoding, with every operand at every value (02_words.md R29 to R35;
10_matrix.md R229). -/
def Obligations.DecodeEncode : Prop :=
  ∀ i : Instr, i.wellFormed = true →
    (if i.isMWord then decodeMatrixWord (encode i) = .ok i else decodeWord (encode i) = .ok i) ∧ encode i < 2 ^ 32

/-- A word that the splits' map reads is the encoding of what it reads: no bit is dropped, and what is read is
well-formed (02_words.md R35). -/
def Obligations.EncodeDecode : Prop :=
  ∀ (w : Nat) (i : Instr), w < 2 ^ 32 → decodeWord w = .ok i → encode i = w ∧ i.wellFormed = true ∧ i.isMWord = false

/-- A step runs the decoded instruction: with nothing else in the way, the word at the PC is fetched (its translation
entering the TLB), decoded and executed, and the step leaves what it left but for the tick, the open windows and the
notes of the scheduler, that the split has issued and when (02_words.md R29, R35, R36, R56; 06_control.md R129). Of a LIM
pair the instruction is the second word's, run as LIM runs it (log 1). The step begins by making the late writes of devices
(log 98), telling the agents of them (log 88) and bringing the wake times of waiting splits up to now (`stamp`). What else a
step may do first is the model's choice (log 2), and so is the wait for the page tables (log 67). -/
def Obligations.StepRunsWord : Prop :=
  ∀ (s0 t : State) (w w' : Word) (i : Instr), let s := stamp s0
    Undisturbed s → TablesNear s (transFetch s) → fetchWord s s.split.pc = .ok w →
    let s1 := touch s (me s) s.split.pc.toNat 4
    (insnAt s1 w = some (w', i) → TablesNear s1 (translates (withLim s1 w) i) → putsOff (withLim s1 w) w' i = false →
      ∀ j : Instr, decodeWord w.toNat = .ok j → exec j s1 = .next t → pathFull t = false →
      ∃ u, step s0 = .next u ∧ u.tick = t.tick + 1 ∧ { u with
        tick := t.tick
        split := { u.split with windows := t.split.windows, issued := t.split.issued, woke := t.split.woke } } = t) ∧
    (decodeMajor w.toNat = .ok i → decodeWord w.toNat = .ok i ∧ insnAt s1 w = some (w, i))

/-- A LIM pair is one instruction: the word after LIM is executed with LIM's immediate (02_words.md R36, R37), and a
word that takes no LIM makes the pair ILLEGAL with that word in TRAPV. That the pair is one step is the model's
reading (log 1). -/
def Obligations.LimPair : Prop :=
  ∀ (s : State) (imm : BitVec 24) (w : Word), fetchWord s (s.split.pc + 4) = .ok w →
    (∀ (i : Instr) (o : Host.Outcome State Fault Refusal), decodeMajor w.toNat = .ok i →
      execFused i { s with lim := some imm } = some o →
      exec (.lim imm) s = o ∧ o = exec i { s with lim := some imm } ∧ ∃ t, o = .next t) ∧
    (∀ (d : BitVec 6) (k : BitVec 12) (x y z : BitVec 5), ∀ i ∈ ([.movi d k, .iaddi d d k, .evsigAdd x y, .tcpy x y z 0 0 0] : List Instr),
      ∃ o, execFused i { s with lim := some imm } = some o) ∧
    (∀ i : Instr, decodeMajor w.toNat = .ok i → execFused i { s with lim := some imm } = none →
      exec (.lim imm) s = .next (illegal s w))

/-- Every step keeps the canonical form of memory. The form is the model's own (log 5). -/
def Obligations.MemoryForm : Prop :=
  ∀ s t : State, Memory.wf s.mem = true → step s = .next t → Memory.wf t.mem = true

/-! ## Integer, move, predicate, scalar and MODE words -/

/-- Typed arithmetic (03_integer.md R67, R68, R71, R72): in every active lane the exact result of the two w-bit
operands (and the old destination) is clamped under SAT or taken modulo 2^w, once; nothing else changes. -/
def Obligations.TypedArithmetic : Prop :=
  ∀ (s : State) (d a b : BitVec 6) (p q : BitVec 3) (imm : BitVec 12) (w : Nat) (sg : Bool),
    typed s.split.mode = some (w, sg) →
    let x := fun l => readOp s a.toNat p.toNat l w sg
    let y := fun l => readOp s b.toNat q.toNat l w sg
    let c := fun l => asInt w sg (if w = 64 then (rv2 s d.toNat l).toNat else (rv s d.toNat l).toNat)
    let k := fun l => asInt w sg (if w = 64 then (rv2 s a.toNat l).toNat else (rv s a.toNat l).toNat)
    ∀ (i : Instr) (sat : Bool) (r : Nat → Int), operandsBad s i = false →
      (i, sat, r) ∈ ([
        (.iadd d a p b q, mSat s.split.mode, fun l => x l + y l), (.isub d a p b q, mSat s.split.mode, fun l => x l - y l),
        (.imul d a p b q, mSat s.split.mode, fun l => x l * y l),
        (.imulh d a p b q, false, fun l => Int.fdiv (x l * y l) (2 ^ w)),
        (.imad d a p b q, mSat s.split.mode, fun l => x l * y l + c l),
        (.imin d a p b q, false, fun l => min (x l) (y l)), (.imax d a p b q, false, fun l => max (x l) (y l)),
        (.iabs d a p, mSat s.split.mode, fun l => (x l).natAbs), (.ineg d a p, mSat s.split.mode, fun l => -x l),
        (.isad d a p b q, mSat s.split.mode, fun l => ((x l - y l).natAbs : Int) + c l),
        (.idiv d a p b q, false, fun l => if y l = 0 then -1 else Int.tdiv (x l) (y l)),
        (.irem d a p b q, false, fun l => x l - y l * (if y l = 0 then 0 else Int.tdiv (x l) (y l))),
        (.iaddi d a imm, mSat s.split.mode, fun l => k l + limImm s imm)] : List (Instr × Bool × (Nat → Int))) →
      ∃ t, exec i s = .next t ∧ WroteTyped s t d.toNat w (fun l => fitOp w sg sat (r l))

/-- Shifts and bit fields on the w-bit operand, written without saturation (03_integer.md R75, R76, R77). CLZ counts
the leading zeros of the w-bit operand, w for zero (03_integer.md R76). NOP only goes on; IDOT4 adds the exact sum of
products to the accumulator once, and is ILLEGAL under any TYPE but I16, Z16, I8 and Z8 (03_integer.md R73). -/
def Obligations.ShiftsAndFields : Prop :=
  (∀ (s : State) (d a b n o : BitVec 6) (p q : BitVec 3) (w : Nat) (sg : Bool),
    typed s.split.mode = some (w, sg) →
    let x := fun l => srcNat s w a.toNat p.toNat l % 2 ^ w
    let z := fun l => srcNat s w a.toNat 0 l % 2 ^ w
    let old := fun l => srcNat s w d.toNat 0 l % 2 ^ w
    let k := fun l => (src s b.toNat q.toNat l).toNat % 256
    let field := fun l => z l / 2 ^ o.toNat
    ∀ (i : Instr) (r : Nat → Int), operandsBad s i = false →
      (i, r) ∈ ([
        (.shl d a p b q, fun l => x l * 2 ^ k l), (.shr d a p b q, fun l => x l / 2 ^ k l),
        (.sha d a p b q, fun l => Int.fdiv (asInt w true (x l)) (2 ^ k l)),
        (.rotl d a p b q, fun l => x l * 2 ^ (k l % w) + x l / 2 ^ (w - k l % w)),
        (.shli d a n, fun l => z l * 2 ^ n.toNat), (.shri d a n, fun l => z l / 2 ^ n.toNat),
        (.shai d a n, fun l => Int.fdiv (asInt w true (z l)) (2 ^ n.toNat)),
        (.popc d a p, fun l => ((List.range w).filter (fun j => (x l).testBit j)).length),
        (.brev d a p, fun l => (((List.range w).map (fun j => if (x l).testBit j then 2 ^ (w - 1 - j) else 0)).sum : Nat)),
        (.bfx d a n o, fun l => if n.toNat = 0 then 0 else asInt n.toNat sg (field l)),
        (.bfi d a n o, fun l => ((old l - old l / 2 ^ o.toNat % 2 ^ n.toNat * 2 ^ o.toNat) +
          z l % 2 ^ n.toNat * 2 ^ o.toNat : Nat))] : List (Instr × (Nat → Int))) →
      ∃ t, exec i s = .next t ∧ WroteTyped s t d.toNat w (fun l => fitOp w sg false (r l))) ∧
  (∀ (s : State) (d a : BitVec 6) (p : BitVec 3) (w : Nat) (sg : Bool), typed s.split.mode = some (w, sg) →
    operandsBad s (.clz d a p) = false →
    ∃ (t : State) (n : Nat → Nat), exec (.clz d a p) s = .next t ∧ WroteTyped s t d.toNat w n ∧
      ∀ l, n l ≤ w ∧ srcNat s w a.toNat p.toNat l % 2 ^ w < 2 ^ (w - n l) ∧
        (n l < w → 2 ^ (w - n l - 1) ≤ srcNat s w a.toNat p.toNat l % 2 ^ w)) ∧
  ((∀ s, exec .nop s = .next (adv s)) ∧
  (∀ (s : State) (d a b : BitVec 6) (p q : BitVec 3) (w : Nat) (sg : Bool), typed s.split.mode = some (w, sg) → w < 32 →
    operandsBad s (.idot4 d a p b q) = false →
    ∃ t, exec (.idot4 d a p b q) s = .next t ∧
      WroteTyped s t d.toNat 32 (fun l => fitOp 32 sg (mSat s.split.mode)
        (asInt 32 sg (rv s d.toNat l).toNat + ((List.range (32 / w)).map (fun k =>
          asInt w sg ((src s a.toNat p.toNat l).toNat / 2 ^ (w * k)) *
            asInt w sg ((src s b.toNat q.toNat l).toNat / 2 ^ (w * k)))).sum))) ∧
  (∀ (s : State) (d a b : BitVec 6) (p q : BitVec 3), (∀ w sg, typed s.split.mode = some (w, sg) → w ≥ 32) →
    exec (.idot4 d a p b q) s = .next (illegal s (Instr.idot4 d a p b q).word)))

/-- Logic, moves, selection and permutes move 32 bits, or a pair under a 64-bit TYPE, in every active lane
(03_integer.md R74, R78 to R80, R82). -/
def Obligations.LogicAndMoves : Prop :=
  ∀ (s : State) (d a b : BitVec 6) (p q : BitVec 3) (n : BitVec 5) (imm : BitVec 12),
    let x := fun l => srcSized s a.toNat p.toNat l
    let y := fun l => srcSized s b.toNat q.toNat l
    let width := spanOf s.split.mode
    let from_ := fun l => l - l % width + (src s b.toNat q.toNat l).toNat % width
    ∀ (i : Instr) (r : Nat → DWord), operandsBad s i = false →
      (i, r) ∈ ([
        (.and d a p b q, fun l => x l &&& y l), (.or d a p b q, fun l => x l ||| y l),
        (.xor d a p b q, fun l => x l ^^^ y l), (.andn d a p b q, fun l => x l &&& ~~~ (y l)),
        (.not d a p, fun l => ~~~ (x l)), (.mov d a p, x), (.movi d imm, fun _ => BitVec.ofInt 64 (limImm s imm)),
        (.sel d a p b q, fun l => if rp s (mSp s.split.mode) l then x l else y l),
        (.xshf d a b q, fun l => srcSized s a.toNat 0 (from_ l)),
        (.s2v d n, fun _ => rs s n.toNat)] : List (Instr × (Nat → DWord))) →
      ∃ t, exec i s = .next t ∧ WroteSized s t d.toNat r

/-- BYSEL builds each byte of its result under its control byte: the byte comes from the source or from the old
destination, and is copied, zero, all ones, or reversed. MODE's arithmetic fields are not consulted and the ignored
control bits change nothing (03_integer.md R81). -/
def Obligations.ByteSelect : Prop :=
  decodeWord 0x3A0C4028 = .ok (.bysel 3 4 0 5 0) ∧
  ∀ (s : State) (d a b : BitVec 6) (p q : BitVec 3), operandsBad s (.bysel d a p b q) = false →
    ∃ (t : State) (v : Nat → Word), exec (.bysel d a p b q) s = .next t ∧ WroteReg s t d.toNat v ∧
      ∀ l k, l < 32 → k < 4 →
        let c := (src s b.toNat q.toNat l).toNat / 2 ^ (8 * k)
        let from_ := if c.testBit 3 then rv s d.toNat l else src s a.toNat p.toNat l
        ∀ j, j < 8 → (v l).getLsbD (8 * k + j) =
          if c / 16 % 4 = 1 then false else if c / 16 % 4 = 2 then true
          else from_.getLsbD (8 * (c % 4) + if c / 16 % 4 = 3 then 7 - j else j)

/-- The predicate instructions write one predicate in the active lanes; a write to p0 is discarded (03_integer.md
R64, R84, R85). -/
def Obligations.PredicateMoves : Prop :=
  ∀ (s : State) (d : BitVec 3) (a : BitVec 6) (p u v : BitVec 3) (k n : BitVec 5),
    ∀ (i : Instr) (r : Nat → Bool), operandsBad s i = false →
      (i, r) ∈ ([
        (.plog d 0 u v, fun l => rp s u.toNat l && rp s v.toNat l), (.plog d 1 u v, fun l => rp s u.toNat l || rp s v.toNat l),
        (.plog d 2 u v, fun l => rp s u.toNat l != rp s v.toNat l), (.plog d 3 u v, fun l => rp s u.toNat l && !rp s v.toNat l),
        (.plog d 4 u v, fun l => rp s u.toNat l || !rp s v.toNat l), (.plog d 5 u v, fun l => !(rp s u.toNat l && rp s v.toNat l)),
        (.plog d 6 u v, fun l => !(rp s u.toNat l || rp s v.toNat l)), (.plog d 7 u v, fun l => rp s u.toNat l == rp s v.toNat l),
        (.pmovNz d a p, fun l => src s a.toNat p.toNat l != 0), (.pmovBit d a p k, fun l => (src s a.toNat p.toNat l).getLsbD k.toNat),
        (.pmovSet d, fun _ => true), (.pmovClr d, fun _ => false), (.pmovNot d u, fun l => !rp s u.toNat l),
        (.pmovFroms d n, fun l => (rs s n.toNat).getLsbD l)] : List (Instr × (Nat → Bool))) →
      ∃ t, exec i s = .next t ∧ WrotePred s t d.toNat r

/-- ICMP writes its condition in the active lanes, on the operands as the TYPE reads them: unsigned under an unsigned
TYPE; other lanes keep their bit, and a TYPE that is no integer type is ILLEGAL (03_integer.md R83). -/
def Obligations.IntegerCompare : Prop :=
  decodeWord 0x23282018 = .ok (.icmp 1 2 2 0 3 0) ∧
  (∀ (s : State) (d c : BitVec 3) (a b : BitVec 6) (p q : BitVec 3), typed s.split.mode = none →
    exec (.icmp d c a p b q) s = .next (illegal s (Instr.icmp d c a p b q).word)) ∧
  ∀ (s : State) (d c : BitVec 3) (a b : BitVec 6) (p q : BitVec 3) (w : Nat) (sg : Bool),
    typed s.split.mode = some (w, sg) → operandsBad s (.icmp d c a p b q) = false →
    ∃ t, exec (.icmp d c a p b q) s = .next t ∧ WrotePred s t d.toNat (fun l =>
      let x := readOp s a.toNat p.toNat l w sg
      let y := readOp s b.toNat q.toNat l w sg
      let z := srcNat s w a.toNat p.toNat l % 2 ^ w &&& srcNat s w b.toNat q.toNat l % 2 ^ w
      ([decide (x = y), decide (x ≠ y), decide (x < y), decide (x ≤ y), decide (x > y), decide (x ≥ y), decide (z ≠ 0),
        decide (z = 0)] : List Bool).getD c.toNat false)

/-- VOTE decides over the active lanes of the lane's half under C16, else of all lanes; BALLOT writes the mask to a
scalar, with no lane active too (03_integer.md R86). IRED reduces over the active lanes of a span with the other
lanes at the identity, and writes the same value to every active lane of the span (03_integer.md R87). The minimum,
maximum and the unsaturated sum are the plain ones. -/
def Obligations.LaneVotes : Prop :=
  (∀ (s : State) (d a : BitVec 3) (b : BitVec 5),
    let near := fun l k => k < 32 ∧ isActive s k = true ∧ (mC16 s.split.mode = true → k / 16 = l / 16)
    (∃ t r, exec (.vote d 0 a) s = .next t ∧ WrotePred s t d.toNat r ∧
      ∀ l, l < 32 → (r l = true ↔ ∀ k, near l k → rp s a.toNat k = true)) ∧
    (∃ t r, exec (.vote d 1 a) s = .next t ∧ WrotePred s t d.toNat r ∧
      ∀ l, l < 32 → (r l = true ↔ ∃ k, near l k ∧ rp s a.toNat k = true)) ∧
    (∃ t r, exec (.vote d 2 a) s = .next t ∧ WrotePred s t d.toNat r ∧
      ∀ l, l < 32 → (r l = true ↔ ∀ j k, near l j → near l k → rp s a.toNat j = rp s a.toNat k)) ∧
    (∃ t c m, exec (.voteBallot d a b) s = .next t ∧
      (∀ l, BitVec.getLsbD (w := 64) m l = (decide (l < 32) && (isActive s l && rp s a.toNat l))) ∧
      (∀ n, cget (fun _ => 0) c n = if n = b.toNat then m else rs s n) ∧
      WrotePred { s with split := { s.split with s := c } } t d.toNat (fun _ => m != 0))) ∧
  (∀ (s : State) (d a : BitVec 6) (o : BitVec 3) (w : Nat) (sg : Bool), typed s.split.mode = some (w, sg) →
    o.toNat ≤ 5 → operandsBad s (.ired d a o) = false →
    ∃ (t : State) (r : Nat → Int), exec (.ired d a o) s = .next t ∧
      WroteTyped s t d.toNat w (fun l => fitOp w sg false (r l)) ∧
      (∀ l k, l < 32 → k < 32 → l / spanOf s.split.mode = k / spanOf s.split.mode → r l = r k) ∧
      (∀ l, l < 32 → (o = 1 ∨ o = 2) →
        let near := fun k => k < 32 ∧ l / spanOf s.split.mode = k / spanOf s.split.mode ∧ isActive s k = true
        (∀ k, near k → if o = 1 then r l ≤ readOp s a.toNat 0 k w sg else readOp s a.toNat 0 k w sg ≤ r l) ∧
        ((∃ k, near k) → ∃ k, near k ∧ r l = readOp s a.toNat 0 k w sg)) ∧
      (o = 0 → mSat s.split.mode = false → ∀ l, l < 32 → modW w (r l) = modW w (((List.range 32).map (fun k =>
        if l / spanOf s.split.mode = k / spanOf s.split.mode ∧ isActive s k = true then readOp s a.toNat 0 k w sg else 0)).sum)))

/-- The scalar words work on 64 bits, wrap, and write one scalar whether or not a lane is active (03_integer.md R88
to R91). -/
def Obligations.ScalarWords : Prop :=
  ∀ (s : State) (d a b : BitVec 5) (k : BitVec 8) (m : BitVec 19),
    let x := rs s a.toNat
    let y := rs s b.toNat
    let c := k.signExtend 64
    let bit := fun (z : Bool) => if z then (1 : DWord) else 0
    ∀ (i : Instr) (r : DWord),
      (i, r) ∈ ([
        (.sadd d a b, x + y), (.saddImm d a k, x + c), (.ssub d a b, x - y), (.ssubImm d a k, x - c),
        (.smul d a b, x * y), (.smulImm d a k, x * c), (.sand d a b, x &&& y), (.sandImm d a k, x &&& c),
        (.sor d a b, x ||| y), (.sorImm d a k, x ||| c), (.sxor d a b, x ^^^ y), (.sxorImm d a k, x ^^^ c),
        (.sshl d a b, x <<< (y.toNat % 64)), (.sshlImm d a k, x <<< (c.toNat % 64)),
        (.sshr d a b, x >>> (y.toNat % 64)), (.sshrImm d a k, x >>> (c.toNat % 64)),
        (.scmp d a b 0, bit (x == y)), (.scmp d a b 1, bit (x != y)), (.scmp d a b 2, bit (x.slt y)),
        (.scmp d a b 3, bit (x.sle y)), (.scmp d a b 4, bit (y.slt x)), (.scmp d a b 5, bit (y.sle x)),
        (.scmp d a b 6, bit (x.ult y)), (.scmp d a b 7, bit (y.ule x)), (.smovi d m, m.signExtend 64)] : List (Instr × DWord)) →
      ∃ t, exec i s = .next t ∧ WroteScalar s t d.toNat r

/-- V2S reads its lane whether or not it is active (03_integer.md R82), and SREG writes the special register it
names; LANE goes to the active lanes (R92). The trap registers raise PRIV in user mode. SETM and MODI write MODE
alone when the checks of 02_words.md R41 pass, keeping C16, and are ILLEGAL otherwise (03_integer.md R93). CLK reads
a sum of free counts (log 8). -/
def Obligations.ScalarReads : Prop :=
  ((∀ (s : State) (d n : BitVec 5) (a : BitVec 6) (p : BitVec 3), operandsBad s (.v2s d a p n) = false →
    ∃ t, exec (.v2s d a p n) s = .next t ∧ WroteScalar s t d.toNat
      (if wide s.split.mode then src2 s a.toNat p.toNat n.toNat
       else if mType s.split.mode ∈ [0, 4, 6] then (src s a.toNat p.toNat n.toNat).signExtend 64
       else (src s a.toNat p.toNat n.toNat).setWidth 64)) ∧
  (∀ (s : State) (d : BitVec 5) (n : BitVec 9), n.toNat ≤ 19 →
    (13 ≤ n.toNat ∧ n.toNat ≤ 18 ∧ userMode s = true →
      exec (.sreg d n) s = .next (trap s Cause.priv ((Instr.sreg d n).word.setWidth 64) (active s))) ∧
    (operandsBad s (.sreg d n) = false → n = 0 → ∃ t, exec (.sreg d n) s = .next t ∧ WroteReg s t d.toNat (fun l =>
      BitVec.ofNat 32 (if mC16 s.split.mode then l % 16 else l))) ∧
    (∀ v, (13 ≤ n.toNat ∧ n.toNat ≤ 18 → userMode s = false) →
      (n.toNat, v) ∈ ([(1, BitVec.ofNat 64 s.group.num), (2, BitVec.ofNat 64 s.split.num), (3, BitVec.ofNat 64 s.team.teamix),
        (4, BitVec.ofNat 64 s.group.role), (5, BitVec.ofNat 64 (s.team.core % 64)), (6, BitVec.ofNat 64 (thisDie s % 16)),
        (7, BitVec.ofNat 64 (thisModule s)), (8, Config.clk (thisDie s) s.tick), (9, s.team.rtag.setWidth 64),
        (10, BitVec.ofNat 64 (getCore s s.team.core).capreg), (11, readyWord s (thisDie s)), (12, (sregJobSeq s).setWidth 64),
        (13, s.split.frame.trapc.setWidth 64), (14, s.split.frame.trappc), (15, s.split.frame.defpc),
        (16, s.split.frame.trapv), (17, s.split.frame.trapm.setWidth 64), (18, (getCore s s.team.core).susp.setWidth 64),
        (19, s.split.mode)] : List (Nat × DWord)) →
      ∃ t, exec (.sreg d n) s = .next t ∧ WroteScalar s t d.toNat v))) ∧
  ((∀ (s : State) (a : BitVec 5), let m := putBits (rs s a.toNat) 42 1 (bitsOf s.split.mode 42 1)
    exec (.setm a) s = .next (if modeOk m then adv { s with split := { s.split with mode := m } }
      else illegal s (Instr.setm a).word) ∧ mC16 m = mC16 s.split.mode) ∧
  (∀ (s : State) (f : BitVec 4) (v : BitVec 12) (lo w : Nat), modiField f.toNat = some (lo, w) →
    let m := putBits s.split.mode lo w v.toNat
    exec (.modi f v) s = .next (if v.toNat < 2 ^ w ∧ modeOk m = true then adv { s with split := { s.split with mode := m } }
      else illegal s (Instr.modi f v).word) ∧
    (∀ k, k < 64 → m.getLsbD k = if lo ≤ k ∧ k < lo + w then v.toNat.testBit (k - lo) else s.split.mode.getLsbD k)))

/-- SETX loads an index register; MOVX and STX reach only the entries below its bound, of the lane's own region; any
active lane out of bounds raises INDEX_BOUND with those lanes in TRAPM, and then nothing is written (03_integer.md
R64, R69, R70). -/
def Obligations.IndexedRegion : Prop :=
  (∀ (s : State) (n : BitVec 3) (a b : BitVec 5),
    let lo : BitVec 16 := (rs s a.toNat).setWidth 16
    let hi : BitVec 16 := (rs s b.toNat).setWidth 16
    (lo.toNat ≤ hi.toNat ∧ hi.toNat ≤ budget s - 64 →
      ∃ c, exec (.setx n a b) s = .next (adv { s with split := { s.split with x := c } }) ∧
        ∀ k, cget (fun _ => ⟨0, 0⟩) c k = if k = n.toNat then ⟨lo, hi⟩ else rx s k) ∧
    (¬ (lo.toNat ≤ hi.toNat ∧ hi.toNat ≤ budget s - 64) → exec (.setx n a b) s =
      .next (trap s Cause.indexBound (BitVec.ofNat 64 (n.toNat * 2 ^ 32 + lo.toNat * 2 ^ 16 + hi.toNat)) 0))) ∧
  (∀ (s : State) (n p q : BitVec 3) (d a b : BitVec 6),
    let x := rx s n.toNat
    let at_ := fun l => x.base.toNat + (src s a.toNat p.toNat l).toNat
    let bad := maskOf (fun l => isActive s l && decide (x.bound.toNat ≤ at_ l))
    let stop := trap s Cause.indexBound (BitVec.ofNat 64 (n.toNat * 2 ^ 32 + x.base.toNat * 2 ^ 16 + x.bound.toNat)) bad
    (operandsBad s (.movx d a p n) = false →
      (bad ≠ 0 → exec (.movx d a p n) s = .next stop) ∧
      (bad = 0 → ∃ t, exec (.movx d a p n) s = .next t ∧ WroteReg s t d.toNat (fun l => rv s (64 + at_ l) l))) ∧
    (operandsBad s (.stx n a p b q) = false →
      (bad ≠ 0 → exec (.stx n a p b q) s = .next stop) ∧
      (bad = 0 → ∃ r, exec (.stx n a p b q) s = .next (adv (withRegs s r)) ∧
        ∀ m l, l < 32 → regAt r m l = if isActive s l ∧ m = 64 + at_ l then src s b.toNat q.toNat l else rv s m l)))

/-! ## Floating point, conversion and random numbers -/

/-- Floating arithmetic (04_float.md R103 to R105, R110, R111): in every active lane the exact result of the sources,
flushed under FTZ, is rounded once to the TYPE's format; under SR each active lane draws one word. Values of a format
are kept by rounding to it, in every rounding mode, when FTZ does not flush them (04_float.md R96, R99, R100). -/
def Obligations.FloatArithmetic : Prop :=
  (∀ (s : State) (d a b : BitVec 6) (p q : BitVec 3) (f : Fmt), laneFmt s.split.mode = some f →
    let rnd := mRnd s.split.mode
    let x := fun l => readF f (mFtz s.split.mode) (srcEnc s f a.toNat p.toNat l)
    let y := fun l => readF f (mFtz s.split.mode) (srcEnc s f b.toNat q.toNat l)
    let c := fun l => readF f (mFtz s.split.mode) (srcEnc s f d.toNat 0 l)
    ∀ (i : Instr) (z : Nat → Exact), operandsBad s i = false →
      (i, z) ∈ ([
        (.fadd d a p b q, fun l => fadd rnd (x l) (y l)), (.fsub d a p b q, fun l => fadd rnd (x l) (fneg (y l))),
        (.fmul d a p b q, fun l => (fmul (x l) (y l)).exact), (.fma d a p b q, fun l => fadd rnd (fmul (x l) (y l)) (c l)),
        (.fms d a p b q, fun l => fadd rnd (fmul (x l) (y l)) (fneg (c l))),
        (.fnma d a p b q, fun l => fadd rnd (fneg (fmul (x l) (y l))) (c l)), (.fdiv d a p b q, fun l => fdiv (x l) (y l)),
        (.fsqrt d a p, fun l => sqrtExact (x l)), (.frcp d a p, fun l => fdiv (.num false 1 0) (x l)),
        (.frsq d a p, fun l => rsqrtExact (x l)), (.fexp2 d a p, fun l => exp2Exact (x l)),
        (.flog2 d a p, fun l => log2Exact (x l)), (.fsin d a p, fun l => sinExact (x l)), (.fcos d a p, fun l => cosExact (x l)),
        (.ftanh d a p, fun l => tanhExact (x l)),
        (.fscale d a p b q, fun l => scaleBy (x l) (src s b.toNat q.toNat l).toInt)] : List (Instr × (Nat → Exact))) →
      ∃ t, exec i s = .next t ∧
        WroteFloat s t f d.toNat 1 (fun l => roundTo f (rmode s.split.mode) (genAfter (genOf s.group l) 1) (z l))) ∧
  (∀ (f : Fmt) (r : RMode) (g : Word) (x : Nat), f ≠ .mxint8 → f ≠ .e8m0 → x < 2 ^ f.width → r.ftz = false →
    (∃ n m e, decodeF f x = .num n m e) → roundTo f r g (decodeF f x).exact = x)

/-- FRINT, minimum, maximum, the signs, class and exponent (04_float.md R106, R107, R109, R110), and FCMP (R108). The
words of this chapter are ILLEGAL under a TYPE that is none of F32, F64, F16 and BF16 (R104). -/
def Obligations.FloatSelection : Prop :=
  (∀ (s : State) (d a b : BitVec 6) (p q : BitVec 3) (f : Fmt), laneFmt s.split.mode = some f →
    let x := fun l => srcEnc s f a.toNat p.toNat l
    let y := fun l => srcEnc s f b.toNat q.toNat l
    let xz := fun l => flushEnc f (mFtz s.split.mode) (x l)
    let yz := fun l => flushEnc f (mFtz s.split.mode) (y l)
    (operandsBad s (.frint d a p) = false → ∃ t, exec (.frint d a p) s = .next t ∧
      WroteFloat s t f d.toNat 1 (fun l => frint f (rmode s.split.mode) (genAfter (genOf s.group l) 1)
        (readF f (mFtz s.split.mode) (x l)))) ∧
    (∀ (i : Instr) (v : Nat → Nat), operandsBad s i = false →
      (i, v) ∈ ([(.fmin d a p b q, fun l => encMin f (xz l) (yz l)), (.fmax d a p b q, fun l => encMax f (xz l) (yz l)),
        (.fabs d a p, fun l => withNewSign f (x l) false), (.fneg d a p, fun l => withNewSign f (x l) (!encNeg f (x l))),
        (.fsgn d a p b q, fun l => withNewSign f (x l) (encNeg f (y l)))] : List (Instr × (Nat → Nat))) →
      ∃ t, exec i s = .next t ∧ WroteFloat s t f d.toNat 0 v) ∧
    (operandsBad s (.fclass d a p) = false → ∃ t, exec (.fclass d a p) s = .next t ∧
      WroteReg s t d.toNat (fun l => 1 <<< classBit f (x l))) ∧
    (operandsBad s (.fgetexp d a p) = false → ∃ t, exec (.fgetexp d a p) s = .next t ∧
      WroteReg s t d.toNat (fun l => getExp (readF f (mFtz s.split.mode) (x l))))) ∧
  (∀ (s : State) (d c : BitVec 3) (a b : BitVec 6) (p q : BitVec 3) (f : Fmt), laneFmt s.split.mode = some f →
    operandsBad s (.fcmp d c a p b q) = false →
    ∃ t, exec (.fcmp d c a p b q) s = .next t ∧ WrotePred s t d.toNat (fun l =>
      let o := fcompare (readF f (mFtz s.split.mode) (srcEnc s f a.toNat p.toNat l))
        (readF f (mFtz s.split.mode) (srcEnc s f b.toNat q.toNat l))
      ([o == some .eq, o != some .eq, o == some .lt, o == some .lt || o == some .eq, o == some .gt,
        o == some .gt || o == some .eq, o == none, o != none] : List Bool).getD c.toNat false)) ∧
  (∀ (s : State) (e c : BitVec 3) (d a b : BitVec 6) (p q o : BitVec 3), laneFmt s.split.mode = none →
    ∀ i ∈ ([.fadd d a p b q, .fsub d a p b q, .fmul d a p b q, .fma d a p b q, .fms d a p b q, .fnma d a p b q,
      .fmin d a p b q, .fmax d a p b q, .fabs d a p, .fneg d a p, .fsgn d a p b q, .fcmp e c a p b q, .fclass d a p,
      .frint d a p, .fscale d a p b q, .fgetexp d a p, .fdiv d a p b q, .fsqrt d a p, .frcp d a p, .frsq d a p,
      .fexp2 d a p, .flog2 d a p, .fsin d a p, .fcos d a p, .ftanh d a p, .fred d a o, .argmx d a p b q] : List Instr),
      exec i s = .next (illegal s i.word))

/-- The dot products add the exact products of 16-bit (FDOT2) or 8-bit containers (FDOT4) to the F32 accumulator and
round once (04_float.md R112). FRED reduces in the fixed butterfly order, largest distance first, with the lanes that
are not active at the identity (04_float.md R113). ARGMX gives every active lane the value and the payload of an
active lane of its half (of all lanes without C16) that no other ranks above; d must be a multiple of 2, of 4 for F64
(04_float.md R114). That two NaNs rank equal is the model's reading (log 41). -/
def Obligations.FloatSums : Prop :=
  (∀ (s : State) (d a b : BitVec 6) (p q : BitVec 3),
    let sum := fun (f : Fmt) (w : Nat) (l : Nat) =>
      ((List.range (32 / w)).map (fun k =>
        fmul (decodeF f ((src s a.toNat p.toNat l).toNat / 2 ^ (w * k) % 2 ^ f.width))
          (decodeF f ((src s b.toNat q.toNat l).toNat / 2 ^ (w * k) % 2 ^ f.width)))).foldl
        (addV (mRnd s.split.mode)) (readF .f32 (mFtz s.split.mode) (rv s d.toNat l).toNat)
    let wrote := fun t f w => WroteFloat s t .f32 d.toNat 1 (fun l =>
      roundTo .f32 (rmode s.split.mode) (genAfter (genOf s.group l) 1) (sum f w l).exact)
    (∀ f, (mType s.split.mode, f) ∈ [(10, Fmt.f16), (11, .bf16)] → operandsBad s (.fdot2 d a p b q) = false →
      ∃ t, exec (.fdot2 d a p b q) s = .next t ∧ wrote t f 16) ∧
    (∀ f, (mType s.split.mode, f) ∈ [(12, Fmt.e4m3), (13, .e5m2), (14, .e3m2), (15, .e2m1)] →
      operandsBad s (.fdot4 d a p b q) = false → ∃ t, exec (.fdot4 d a p b q) s = .next t ∧ wrote t f 8) ∧
    (mType s.split.mode ∉ [10, 11] → exec (.fdot2 d a p b q) s = .next (illegal s (Instr.fdot2 d a p b q).word)) ∧
    (mType s.split.mode < 12 → exec (.fdot4 d a p b q) s = .next (illegal s (Instr.fdot4 d a p b q).word))) ∧
  (∀ (s : State) (d a : BitVec 6) (o : BitVec 3) (f : Fmt), laneFmt s.split.mode = some f → o.toNat ≤ 2 →
    operandsBad s (.fred d a o) = false →
    let m := s.split.mode
    let r : RMode := ⟨if mRnd m = 5 then 0 else mRnd m, mSat m, mFtz m⟩
    let op := fun x y => if o = 0 then roundTo f r 0 (fadd r.rnd (decodeF f x) (decodeF f y))
      else if o = 1 then encMin f x y else encMax f x y
    let t0 := fun l => if isActive s l then flushEnc f (mFtz m) (srcEnc s f a.toNat 0 l)
      else if o = 0 then f.sign true else f.nan
    let res := (([16, 8, 4, 2, 1] : List Nat).filter (fun k => decide (k < spanOf m))).foldl
      (fun (t : Nat → Nat) k => fun l => op (t l) (t (l ^^^ k))) t0
    ∃ t, exec (.fred d a o) s = .next t ∧ WroteFloat s t f d.toNat 0 res) ∧
  (∀ (s : State) (d a b : BitVec 6) (p q : BitVec 3) (f : Fmt), laneFmt s.split.mode = some f →
    operandsBad s (.argmx d a p b q) = false →
    let n := if f = .f64 then 2 else 1
    let v := fun l => (flushEnc f (mFtz s.split.mode) (srcEnc s f a.toNat p.toNat l), (src s b.toNat q.toNat l).toNat)
    (d.toNat % (2 * n) ≠ 0 → exec (.argmx d a p b q) s = .next (illegal s (Instr.argmx d a p b q).word)) ∧
    (d.toNat % (2 * n) = 0 → ∃ (r : Cells Word) (win : Nat → Nat), exec (.argmx d a p b q) s = .next (adv (withRegs s r)) ∧
      (∀ m l, l < 32 → regAt r m l =
        if isActive s l ∧ m = d.toNat + n then BitVec.ofNat 32 (v (win l)).2
        else if isActive s l ∧ d.toNat ≤ m ∧ m < d.toNat + n then
          BitVec.ofNat 32 ((if encNan f (v (win l)).1 then f.nan else (v (win l)).1) / 2 ^ (32 * (m - d.toNat)))
        else rv s m l) ∧
      ∀ l, l < 32 → isActive s l = true →
        win l < 32 ∧ isActive s (win l) = true ∧ (mC16 s.split.mode = true → win l / 16 = l / 16) ∧
        ∀ k, k < 32 → isActive s k = true → (mC16 s.split.mode = true → k / 16 = l / 16) →
          ranksAbove f (v k) (v (win l)) = false))

/-- CVT converts one element at the position that SUB names and leaves the rest of a narrow destination register;
CVTP packs two; both round once (05_convert.md R117, R122 to R125). QMX writes one scale for all active lanes: NaN
when a lane holds NaN or an infinity, 0x7F when all are zero, else from the largest exponent; QMXA writes the scaled
element, saturated (05_convert.md R126, R127). -/
def Obligations.Conversions : Prop :=
  ((∀ (s : State) (d a : BitVec 6) (p : BitVec 3) (x : BitVec 2) (k : BitVec 4) (f g : Elem),
    let m := s.split.mode
    cvtFormats m x.toNat k.toNat = some (f, g) → subOk f (mSub m) = true → subOk g (mSub m) = true →
    operandsBad s (.cvt d a p x k) = false →
    let w := g.container
    let v := fun l => convert f g (rmode m) (genAfter (genOf s.group l) 1) (elemAt s f a.toNat p.toNat (mSub m) l)
    ∃ (r c : Cells Word), exec (.cvt d a p x k) s =
        .next (adv { s with group := { s.group with regs := r, gens := c } }) ∧
      (if w = 64 then PairReg s r d.toNat (fun l => BitVec.ofNat 64 (v l))
       else if w = 32 then OneReg s r d.toNat (fun l => BitVec.ofNat 32 (v l))
       else ∃ u, OneReg s r d.toNat u ∧ ∀ l, (∀ j, j < w → (u l).getLsbD (w * mSub m + j) = (v l).testBit j) ∧
         (∀ j, j < 32 → j < w * mSub m ∨ w * mSub m + w ≤ j → (u l).getLsbD j = (rv s d.toNat l).getLsbD j)) ∧
      DrewGens s c (if mRnd m = 5 then convertDraws f g else 0)) ∧
  (∀ (s : State) (d a b : BitVec 6) (p q : BitVec 3) (f : Fmt), cvtpFmt s.split.mode = some f →
    operandsBad s (.cvtp d a p b q) = false →
    let w := (Elem.flt f).container
    let k := 2 * mSub s.split.mode
    let one := fun (l : Nat) (n pat j : Nat) => roundTo f (rmode s.split.mode) (genAfter (genOf s.group l) j)
      (readF .f32 (mFtz s.split.mode) (src s n pat l).toNat).exact
    ∃ (r c : Cells Word) (u : Nat → Word), exec (.cvtp d a p b q) s =
        .next (adv { s with group := { s.group with regs := r, gens := c } }) ∧ OneReg s r d.toNat u ∧
      (∀ l, (∀ j, j < w → (u l).getLsbD (w * k + j) = (one l a.toNat p.toNat 1).testBit j ∧
          (u l).getLsbD (w * (k + 1) + j) = (one l b.toNat q.toNat 2).testBit j) ∧
        (∀ j, j < 32 → j < w * k ∨ w * k + 2 * w ≤ j → (u l).getLsbD j = (rv s d.toNat l).getLsbD j)) ∧
      DrewGens s c (if mRnd s.split.mode = 5 then 2 else 0))) ∧
  ((∀ (s : State) (d a : BitVec 6) (p : BitVec 3) (f : Fmt) (emax : Int), mxFmt s.split.mode = some (f, emax) →
    operandsBad s (.qmx d a p) = false →
    let x := fun l => readF .f32 (mFtz s.split.mode) (src s a.toNat p.toNat l).toNat
    ∃ (t : State) (e : Nat), exec (.qmx d a p) s = .next t ∧ WroteReg s t d.toNat (fun _ => BitVec.ofNat 32 e) ∧
      ((∃ l, l < 32 ∧ isActive s l = true ∧ special (x l) = true) → e = 0xFF) ∧
      ((∀ l, l < 32 → isActive s l = true → special (x l) = false) →
        ((∀ l, l < 32 → isActive s l = true → lgOf (x l) = none) → e = 0x7F) ∧
        (∀ k g, k < 32 → isActive s k = true → lgOf (x k) = some g →
          (∀ l h, l < 32 → isActive s l = true → lgOf (x l) = some h → h ≤ g) →
          (e : Int) = max 0 (min 254 (g - emax + 127))))) ∧
  (∀ (s : State) (d a b : BitVec 6) (p q : BitVec 3) (f : Fmt) (emax : Int), mxFmt s.split.mode = some (f, emax) →
    let m := s.split.mode
    subOk (.flt f) (mSub m) = true → operandsBad s (.qmxa d a p b q) = false →
    let w := (Elem.flt f).container
    let e := fun l => (src s b.toNat q.toNat l).toNat % 256
    let v := fun l => if e l = 0xFF then f.nan
      else roundTo f ⟨mRnd m, true, mFtz m⟩ (genAfter (genOf s.group l) 1)
        (scaleBy (readF .f32 (mFtz m) (src s a.toNat p.toNat l).toNat) (127 - (e l : Int)))
    ∃ (r c : Cells Word) (u : Nat → Word), exec (.qmxa d a p b q) s =
        .next (adv { s with group := { s.group with regs := r, gens := c } }) ∧ OneReg s r d.toNat u ∧
      (∀ l, (∀ j, j < w → (u l).getLsbD (w * mSub m + j) = (v l).testBit j) ∧
        (∀ j, j < 32 → j < w * mSub m ∨ w * mSub m + w ≤ j → (u l).getLsbD j = (rv s d.toNat l).getLsbD j)) ∧
      DrewGens s c (if mRnd m = 5 then 1 else 0)))

/-- The generators: SEED and RNG.set set those of the active lanes and never to zero; RNG.u32 and RNG.unit draw one
word of the xorshift; RNG.get reads without drawing (05_convert.md R118 to R121). -/
def Obligations.Generators : Prop :=
  (∀ (s : State) (a : BitVec 5) (b : BitVec 6) (p : BitVec 3),
    let k := fun l => (rs s a.toNat).setWidth 32 ^^^ BitVec.ofNat 32 (laneNo s.split.mode l * 0x9E3779B9)
    (∃ g, exec (.seed a) s = .next (adv { s with group := { s.group with gens := g } }) ∧
      ∀ l, l < 32 → cget genInit g l = if isActive s l then (if k l = 0 then 1 else k l) else genOf s.group l) ∧
    (operandsBad s (.rngSet b p) = false →
      ∃ g, exec (.rngSet b p) s = .next (adv { s with group := { s.group with gens := g } }) ∧
      ∀ l, l < 32 → cget genInit g l =
        if isActive s l then (if src s b.toNat p.toNat l = 0 then 1 else src s b.toNat p.toNat l) else genOf s.group l)) ∧
  (∀ (s : State) (d : BitVec 6),
    let next := fun l =>
      let x := genOf s.group l
      let y := x ^^^ (x <<< 13)
      let z := y ^^^ (y >>> 17)
      z ^^^ (z <<< 5)
    let drew := fun g => ∀ l, l < 32 → cget genInit g l = if isActive s l then next l else genOf s.group l
    (operandsBad s (.rngU32 d) = false → ∃ r g, exec (.rngU32 d) s =
      .next (adv { s with group := { s.group with regs := r, gens := g } }) ∧ OneReg s r d.toNat next ∧ drew g) ∧
    (operandsBad s (.rngUnit d) = false → ∃ r g, exec (.rngUnit d) s =
      .next (adv { s with group := { s.group with regs := r, gens := g } }) ∧
      OneReg s r d.toNat (fun l => BitVec.ofNat 32 (roundTo .f32 ⟨0, false, false⟩ 0
        (exactInt (next l >>> 8).toNat (-24) false))) ∧ drew g) ∧
    (operandsBad s (.rngGet d) = false → ∃ t, exec (.rngGet d) s = .next t ∧ WroteReg s t d.toNat (genOf s.group)))

/-! ## Control flow and traps -/

/-- BRA, BRALL, BRANY, BRX and RET (06_control.md R131, R138): with `take` all of MASK the path moves to the target,
with none it falls through, and otherwise it diverges: the lanes not taken join the top entry when it waits at the
same addresses, or stand in a new entry, the oldest entry going to its spill slot when the hardware holds 16, once what
orders an access to that slot is performed (R134; 08_ordering.md R181). RCVA becomes invalid. A push beyond the limit is STACK_OVER and an RA too far is ILLEGAL (R135). The range of an RA
is read in log 28. -/
def Obligations.Branches : Prop :=
  ∀ (s : State) (imm : BitVec 24) (a : BitVec 6) (b : BitVec 5) (i : Instr) (t : DWord) (take : Word),
    let m := s.split.mask
    let rel := s.split.pc + imm.signExtend 64 * 4
    let go := fun (u : State) (mask : Word) (pc : DWord) =>
      { u with lim := none, split := { u.split with mask := mask, pc := pc, rcvaValid := false, wait := none } }
    let e : StackEntry := ⟨m &&& ~~~ take, nextPc s, if s.split.rcvaValid then some s.split.rcva else none, false⟩
    let slot := spillSlot s s.split.spilled
    let before := (orderAfter s [(slot, 16)] false true).filter (fun i => !performedAt s 1 i)
    m ≠ 0 → operandsBad s i = false →
    ((i, t, take) ∈ ([(.bra imm, rel, active s), (.brall imm, rel, if active s = m then m else 0),
        (.brany imm, rel, if active s = 0 then 0 else m)] : List (Instr × DWord × Word)) ∨
      (i = .brx a ∧ take = active s ∧ (∀ l, l < 32 → isActive s l = true → rv2 s a.toNat l = t) ∧
        (take ≠ 0 → t.toNat % 4 = 0)) ∨
      (i = .ret b ∧ take = active s ∧ t = rs s b.toNat ∧ (take ≠ 0 → t.toNat % 4 = 0))) →
    (take = m → exec i s = .next (go s m t)) ∧
    (take = 0 → exec i s = .next (go s m (nextPc s))) ∧
    (take ≠ m → take ≠ 0 →
      (∀ top r, s.split.stack = top :: r → top.park = false → top.ra = e.ra → top.wpc = e.wpc →
        exec i s = .next (go { s with split := { s.split with stack := { top with mask := top.mask ||| e.mask } :: r } } take t)) ∧
      ((∀ top r, s.split.stack = top :: r → ¬ (top.park = false ∧ top.ra = e.ra ∧ top.wpc = e.wpc)) →
        (raFar e = true → exec i s = .next (illegal s i.word)) ∧
        (raFar e = false → depthLimit s ≤ stackDepth s.split →
          exec i s = .next (trap s Cause.stackOver (BitVec.ofNat 64 (stackDepth s.split + 1)) (active s))) ∧
        (raFar e = false → stackDepth s.split < depthLimit s →
          (s.split.stack.length < 16 →
            exec i s = .next (go { s with split := { s.split with stack := e :: s.split.stack } } take t)) ∧
          (∀ old r, s.split.stack = r ++ [old] → r.length = 15 →
            (before ≠ [] → exec i s = .next (hold s (.performed before 0))) ∧
            (before = [] → exec i s = .next (go { writeSpad s slot 16 (packEntry old) with
              split := { s.split with stack := e :: r, spilled := s.split.spilled + 1 } } take t))))))

/-- The checks of BRX, CALLX and RET (06_control.md R138): lanes with another target raise TARGET_DIVERGE, and a
target that is not a multiple of 4 raises MISALIGN; neither is made when no lane is active. CALL and CALLX write the
return address to s31 and go to the target; a partial call pushes the other lanes to wait at the return address; with
no lane active nothing is called (06_control.md R137). RCV sets RCVA, of 57 bits (06_control.md R129, R132). -/
def Obligations.Calls : Prop :=
  (∀ (s : State) (a : BitVec 6) (b : BitVec 5) (l : Nat), l < 32 → isActive s l = true →
    (∀ k, k < l → isActive s k = false) →
    let t := rv2 s a.toNat l
    let bad := maskOf (fun k => isActive s k && rv2 s a.toNat k != t)
    (∀ i ∈ ([.brx a, .callx a] : List Instr), operandsBad s i = false →
      (bad ≠ 0 → exec i s = .next (trap s Cause.targetDiverge t bad)) ∧
      (bad = 0 → t.toNat % 4 ≠ 0 → exec i s = .next (trap s Cause.misalign t (active s)))) ∧
    ((rs s b.toNat).toNat % 4 ≠ 0 → exec (.ret b) s = .next (trap s Cause.misalign (rs s b.toNat) (active s)))) ∧
  (∀ (s : State) (imm : BitVec 24) (a : BitVec 6) (i : Instr) (t : DWord),
    let m := s.split.mask
    let rel := s.split.pc + imm.signExtend 64 * 4
    let go := fun (u : State) (mask : Word) (pc : DWord) =>
      { u with lim := none, split := { u.split with mask := mask, pc := pc, rcvaValid := false, wait := none } }
    let e : StackEntry := ⟨m &&& ~~~ active s, nextPc s, some (nextPc s), false⟩
    (operandsBad s i = false →
      (i = .call imm ∧ t = rel ∨ i = .callx a ∧ (∀ l, l < 32 → isActive s l = true → rv2 s a.toNat l = t) ∧ t.toNat % 4 = 0) →
      (active s = 0 → exec i s = .next (go s m (nextPc s))) ∧
      (active s ≠ 0 → active s = m → exec i s = .next (go (ws s 31 (nextPc s)) m t)) ∧
      (active s ≠ 0 → active s ≠ m → stackDepth s.split < depthLimit s → s.split.stack.length < 16 →
        exec i s = .next (go (ws { s with split := { s.split with stack := e :: s.split.stack } } 31 (nextPc s)) (active s) t)) ∧
      (∀ old r, active s ≠ 0 → active s ≠ m → stackDepth s.split < depthLimit s → s.split.stack = r ++ [old] → r.length = 15 →
        let slot := spillSlot s s.split.spilled
        InOrder s [(slot, 16)] →
        exec i s = .next (go (ws { writeSpad s slot 16 (packEntry old) with
          split := { s.split with stack := e :: r, spilled := s.split.spilled + 1 } } 31 (nextPc s)) (active s) t)) ∧
      (active s ≠ 0 → active s ≠ m → depthLimit s ≤ stackDepth s.split →
        exec i s = .next (trap s Cause.stackOver (BitVec.ofNat 64 (stackDepth s.split + 1)) (active s)))) ∧
    exec (.rcv imm) s = .next (adv { s with split := { s.split with
      rcva := BitVec.ofNat 64 (rel.toNat % 2 ^ 57), rcvaValid := true } }))

/-- Reconvergence (06_control.md R133): at the top entry's RA, lanes still waiting run while this path parks; once
they are parked the paths unite and the entry is gone. A pop that empties the hardware refills the newest spilled entry as
it then stands in its slot, without the lanes that have exited (R134, R136). The 16-byte layout of a spilled entry loses
nothing (06_control.md R135). -/
def Obligations.Divergence : Prop :=
  (∀ (s : State) (top : StackEntry) (r : List StackEntry), s.split.stack = top :: r →
    (top.ra ≠ some s.split.pc → reconvergeOnce s = none) ∧
    (top.ra = some s.split.pc → top.park = false → reconvergeOnce s = some { s with split := { s.split with
      mask := top.mask, pc := top.wpc, stack := { top with mask := s.split.mask, park := true, wpc := s.split.pc } :: r } }) ∧
    (top.ra = some s.split.pc → top.park = true → r ≠ [] ∨ s.split.spilled = 0 →
      reconvergeOnce s = some { s with split := { s.split with mask := s.split.mask ||| top.mask, stack := r } }) ∧
    (∀ n, top.ra = some s.split.pc → top.park = true → r = [] → s.split.spilled = n + 1 →
      let old := unpackEntry (rdNat s (spillSlot s n) 16)
      reconvergeOnce s = some { s with split := { s.split with
        mask := s.split.mask ||| top.mask, stack := [{ old with mask := old.mask &&& ~~~ s.group.exited }], spilled := n } })) ∧
  (∀ e : StackEntry, e.wpc.toNat % 4 = 0 → e.wpc.toNat < 2 ^ 57 →
    (e.park = true → e.ra = none ∨ e.ra = some e.wpc) →
    (∀ r, e.ra = some r → r.toNat % 4 = 0 ∧ r.toNat < 2 ^ 57 ∧ r.toNat < e.wpc.toNat + 2 ^ 33 ∧ e.wpc.toNat ≤ r.toNat + 2 ^ 33) →
    packEntry e < 2 ^ 128 ∧ unpackEntry (packEntry e) = e)

/-- SPLIT (06_control.md R139, R140; 03_integer.md R66): with all lanes or none taken it acts as a branch; otherwise
the lanes taken become a new split of the lowest free number, with its parent's scalars, index registers, MODE, TSTAT and
trap frame and an empty stack, at the target. JOIN (06_control.md R140, R141; 03_integer.md R66): while a split of the
group runs on, the split parks at its address. When all the others are parked too, those of one address (and half) merge
there and go on after the JOIN with the union of their lanes and the state of the first arrival, each class as a split of
its own. A JOIN inside a divergence is ILLEGAL. -/
def Obligations.SplitAndJoin : Prop :=
  (∀ (s : State) (imm : BitVec 24),
    let m := s.split.mask
    let take := active s
    let rel := s.split.pc + imm.signExtend 64 * 4
    let go := fun (u : State) (mask : Word) (pc : DWord) =>
      { u with lim := none, split := { u.split with mask := mask, pc := pc, rcvaValid := false, wait := none } }
    (take = 0 → exec (.split imm) s = .next (go s m (nextPc s))) ∧
    (take ≠ 0 → take = m → exec (.split imm) s = .next (go s m rel)) ∧
    (take ≠ 0 → take ≠ m → s.group.splits.length < 3 → ∀ n, freeNumber s = some n →
      n ≠ s.split.num ∧ (∀ x ∈ s.group.splits, x.num ≠ n) ∧ n < 4 ∧
      (∀ k, (if mC16 s.split.mode then 2 else 1) ≤ k → k < n → k = s.split.num ∨ ∃ x ∈ s.group.splits, x.num = k) ∧
      ∃ c : Split, exec (.split imm) s =
          .next (go { s with group := { s.group with splits := putSplit c s.group.splits } } (m &&& ~~~ take) (nextPc s)) ∧
        c.num = n ∧ c.mask = take ∧ c.pc = rel ∧ c.s = s.split.s ∧ c.x = s.split.x ∧ c.mode = s.split.mode ∧
        c.tstat = s.split.tstat ∧ c.frame = s.split.frame ∧
        c.stack = [] ∧ c.spilled = 0 ∧ c.rcvaValid = false ∧ c.wait = none) ∧
    (take ≠ 0 → take ≠ m → s.group.splits.length = 3 ∨ freeNumber s = none →
      exec (.split imm) s = .next (trap s Cause.stackOver 0x100000005 take))) ∧
  (∀ s : State,
    let tid := s.team.id
    let mine := { s.split with parked := some (s.split.pc, s.group.arrivals), rcvaValid := false, wait := none }
    let all := putSplit mine s.group.splits
    (0 < stackDepth s.split → exec .join s = .next (illegal s Instr.join.word)) ∧
    (stackDepth s.split = 0 → (∃ x ∈ all, x.parked = none) → ∃ t, exec .join s = .next t ∧
      t.live = false ∧ findSplit t tid s.group.num s.split.num = some { mine with active := false } ∧ SameMemory s t) ∧
    (stackDepth s.split = 0 → (∀ x ∈ all, (∃ n, x.parked = some (s.split.pc, n)) ∧ halfOf x = halfOf mine) →
      ∃ t, exec .join s = .next t ∧ t.live = true ∧ t.team.id = tid ∧ t.group.num = s.group.num ∧
        t.split.pc = s.split.pc + 4 ∧ t.split.mask = all.foldl (fun k x => k ||| x.mask) 0 ∧
        t.split.num = all.foldl (fun k x => min k x.num) s.split.num ∧ t.split.parked = none ∧
        t.split.rcvaValid = false ∧ t.split.stack = [] ∧ t.group.splits = [] ∧ t.group.regs = s.group.regs ∧
        (∃ x ∈ all, (∀ y ∈ all, parkSeq x ≤ parkSeq y) ∧ t.split.mode = x.mode ∧ t.split.s = x.s ∧ t.split.x = x.x ∧
          t.split.tstat = x.tstat ∧ t.split.frame = x.frame) ∧
        SameMemory s t) ∧
    (stackDepth s.split = 0 → (∀ x ∈ all, x.parked ≠ none) → (all.map Split.num).Nodup → ∃ t, exec .join s = .next t ∧
      t.live = true ∧ t.team.id = tid ∧ t.group.num = s.group.num ∧ SameMemory s t ∧ Merged t tid s.group.num all))

/-- EXIT (06_control.md R142, R143), with no fault due at it and nothing to come that orders an access to its spilled
entries (R134): the active lanes leave; a path with lanes left goes on, a path without any resumes the top entry, the newest
spilled one taking its place where it was the last in hardware (R136), and a split without either ends, the parked ones
then merging (R141), and with it its group when it was the last, and with that the team's run when it was the last group. A
path that had no lanes to begin with stays where it is. That an error in a refilled entry is POISON at the EXIT is the
model's reading (log 90). -/
def Obligations.ExitWord : Prop :=
  ∀ s : State, dueFault s .msq = none → dueFault s .exit = none → dueMatrix s .msq = none →
    InOrder s (spilledSlots s) →
    let gone := active s
    let rest := s.split.mask &&& ~~~ gone
    let group := { s.group with exited := s.group.exited ||| gone }
    let go := fun (u : State) (mask : Word) (pc : DWord) =>
      { u with lim := none, split := { u.split with mask := mask, pc := pc, rcvaValid := false, wait := none } }
    (rest ≠ 0 → exec .exit s = .next (go { s with group := group } rest (nextPc s))) ∧
    (gone = 0 → rest = 0 → exec .exit s = .next (go { s with group := group } 0 s.split.pc)) ∧
    (∀ e r, gone ≠ 0 → rest = 0 → s.split.stack = e :: r → r ≠ [] ∨ s.split.spilled = 0 →
      exec .exit s = .next (go { s with group := group, split := { s.split with stack := r } } e.mask e.wpc)) ∧
    (∀ e n, gone ≠ 0 → rest = 0 → s.split.stack = [e] → s.split.spilled = n + 1 →
      let slot := spillSlot s n
      let old := unpackEntry (rdNat s slot 16)
      (poisoned s slot 16 = false → exec .exit s = .next (go { s with group := group, split := { s.split with
        stack := [{ old with mask := old.mask &&& ~~~ group.exited }], spilled := n } } e.mask e.wpc)) ∧
      (poisoned s slot 16 = true → exec .exit s = .next (takePoison s ⟨Cause.poison, s.split.pc,
        BitVec.ofNat 64 (Config.window + (slot - teamSpad s.team)), gone, 0⟩ s.team.rtag.toNat))) ∧
    (gone ≠ 0 → rest = 0 → stackDepth s.split = 0 → (∃ x ∈ s.group.splits, x.parked = none) →
      ∃ t g, exec .exit s = .next t ∧ t.live = false ∧ SameMemory s t ∧ findGroup t s.team.id s.group.num = some g ∧
        g.splits = s.group.splits ∧ g.exited = group.exited ∧ g.regs = s.group.regs ∧ g.preds = s.group.preds ∧
        g.gens = s.group.gens ∧ g.paths = s.group.paths ∧ t.flights.map Flight.id = s.flights.map Flight.id) ∧
    (gone ≠ 0 → rest = 0 → stackDepth s.split = 0 → s.group.splits ≠ [] → (∀ x ∈ s.group.splits, x.parked ≠ none) →
      (s.group.splits.map Split.num).Nodup → ∃ t, exec .exit s = .next t ∧ t.live = false ∧ SameMemory s t ∧
        Merged t s.team.id s.group.num s.group.splits) ∧
    (gone ≠ 0 → rest = 0 → stackDepth s.split = 0 → s.group.splits = [] → s.team.groups ≠ [] →
      ∃ t u, exec .exit s = .next t ∧ t.live = false ∧ SameMemory s t ∧ findTeam t s.team.id = some u ∧
        u.groups.map Group.num = s.team.groups.map Group.num ∧ u.groups.map Group.splits = s.team.groups.map Group.splits ∧
        t.flights.map Flight.id = s.flights.map Flight.id) ∧
    (gone ≠ 0 → rest = 0 → stackDepth s.split = 0 → s.group.splits = [] → s.team.groups = [] →
      ∃ t, exec .exit s = .next t ∧ t.live = false)

/-- YIELD goes on and gives up its place; WAIT goes on once the path's counter is at most n and otherwise holds the
split where it is; BKPT and TRAP take their exception with TRAPPC after them (06_control.md R144 to R146;
14_system.md R328). -/
def Obligations.YieldWaitBreak : Prop :=
  ∀ (s : State) (p : BitVec 3) (b : BitVec 5) (n : BitVec 6) (imm : BitVec 12),
    exec .yield s = .next { adv s with split := { (adv s).split with active := false, woke := s.tick } } ∧
    (∀ (i : Instr) (k : DWord), (i, k) ∈ ([(.wait p b, rs s b.toNat), (.waitImm p n, n.setWidth 64)] : List (Instr × DWord)) →
      dueFault s (.path p.toNat k.toNat) = none → dueMatrix s (.path p.toNat k.toNat) = none →
      (pathCount s.group p.toNat ≤ k.toNat → exec i s = .next (adv s)) ∧
      (k.toNat < pathCount s.group p.toNat → exec i s = .next { s with
        lim := none, split := { s.split with wait := some (.path p.toNat k), active := false, woke := s.tick } })) ∧
    exec (.bkpt imm) s = .next (takeTrap s ⟨Cause.bkpt, nextPc s, imm.setWidth 64, active s, 0⟩) ∧
    exec (.trap imm) s = .next (takeTrap s ⟨Cause.swtrap, nextPc s, imm.setWidth 64, active s, 0⟩)

/-- TakeTrap with a handler to go to (14_system.md R327): the frame, MODE, RCVA, TSTAT and PC as the rule writes
them, and nothing else but what waited on the instruction in hand. TakeTrap without a handler (14_system.md R327):
with TVEC.EN 0 or a handler running the team stops, no register of the split changes, and firmware is told. That a
precise trap leaves DEFPC 0 is the model's reading (log 36). -/
def Obligations.TrapEntry : Prop :=
  (∀ (s : State) (i : TrapInfo), bitsOf s.team.tvec 0 1 = 1 → bitsOf s.split.tstat 1 1 = 0 →
    let t := takeTrap s i
    let f := t.split.frame
    (f.trapc = BitVec.ofNat 8 i.cause ∧ f.trappc = i.pc ∧ f.trapv = i.value ∧ f.trapm = i.mask ∧ f.defpc = i.defpc ∧
      f.tmode = s.split.mode ∧ f.trcva = s.split.rcva ∧ f.tscr0 = s.split.frame.tscr0 ∧ f.tscr1 = s.split.frame.tscr1) ∧
    (∀ k, k < 64 → t.split.mode.getLsbD k = (decide (k = 42) && s.split.mode.getLsbD 42)) ∧
    t.split.rcvaValid = false ∧
    (∀ k, k < 64 → t.split.tstat.getLsbD k = if k = 0 ∨ k = 1 then true else if k = 2 then s.split.tstat.getLsbD 0
      else if k = 3 then s.split.rcvaValid else s.split.tstat.getLsbD k) ∧
    (∀ k, k < 64 → t.split.pc.getLsbD k = (decide (2 ≤ k ∧ k < 57) && s.team.tvec.getLsbD k)) ∧
    t = { s with lim := none, split := t.split } ∧
    t.split = { s.split with
      frame := f, mode := t.split.mode, rcvaValid := false, tstat := t.split.tstat, pc := t.split.pc, wait := t.split.wait,
      fence := none, owner := none, entries := 0 }) ∧
  (∀ (s : State) (i : TrapInfo), bitsOf s.team.tvec 0 1 = 0 ∨ bitsOf s.split.tstat 1 1 = 1 →
    let t := takeTrap s i
    t.team = { s.team with stopped := true } ∧ t.split = s.split ∧ t.group = s.group ∧ t.teams = s.teams ∧
      t.reports = s.reports ++ [⟨if bitsOf s.team.tvec 0 1 = 0 then 0x11 else 0x12, 0, s.team.vi, i.pc,
        BitVec.ofNat 64 (i.cause + i.mask.toNat * 2 ^ 8),
        some (BitVec.ofNat 256 (i.value.toNat + i.defpc.toNat * 2 ^ 64)), 0xFFFFFFFF⟩])

/-- RTE (14_system.md R329), in a handler and with a legal frame, restores MODE but for C16, RCVA, PRV, INTR and PC
and nothing else but HOLD of the slot that the split owns; in user mode it raises PRIV, outside a handler or with a MODE
that is not legal ILLEGAL, and with a PC out of alignment MISALIGN; with PURGP set it goes nowhere and the purge of the
consumed tag begins (14_system.md R332). -/
def Obligations.ReturnFromTrap : Prop :=
  ∀ s : State,
    (userMode s = true → exec .rte s = .next (trap s Cause.priv (Instr.rte.word.setWidth 64) (active s))) ∧
    (userMode s = false → bitsOf s.split.tstat 1 1 = 0 → exec .rte s = .next (illegal s Instr.rte.word)) ∧
    (userMode s = false → bitsOf s.split.tstat 1 1 = 1 → modeOk s.split.frame.tmode = false →
      exec .rte s = .next (illegal s Instr.rte.word)) ∧
    (userMode s = false → bitsOf s.split.tstat 1 1 = 1 → modeOk s.split.frame.tmode = true → bitsOf s.split.tstat 4 1 = 1 →
      let tag := s.split.ptag.getD s.team.rtag.toNat
      tag ≠ 0 → ∃ t, exec .rte s = .next t ∧ t.split = s.split ∧ t.group = s.group ∧
        (tagCups s (thisModule s) s.team.vi tag = [] → SameMemory s t) ∧
        ∃ p ∈ t.purges, p.module = thisModule s ∧ p.vi = s.team.vi ∧ p.tag = tag) ∧
    (userMode s = false → bitsOf s.split.tstat 1 1 = 1 → modeOk s.split.frame.tmode = true → bitsOf s.split.tstat 4 1 = 0 →
      s.split.frame.trappc.toNat % 4 ≠ 0 → exec .rte s = .next (trap s Cause.misalign s.split.frame.trappc (active s))) ∧
    (userMode s = false → bitsOf s.split.tstat 1 1 = 1 → modeOk s.split.frame.tmode = true → bitsOf s.split.tstat 4 1 = 0 →
      s.split.frame.trappc.toNat % 4 = 0 →
      ∃ t, exec .rte s = .next t ∧
        (∀ k, k < 64 → t.split.mode.getLsbD k = if k = 42 then s.split.mode.getLsbD 42 else s.split.frame.tmode.getLsbD k) ∧
        (∀ k, k < 64 → t.split.tstat.getLsbD k = if k = 0 then s.split.tstat.getLsbD 2 else if k = 1 then false
          else s.split.tstat.getLsbD k) ∧
        t.split = { s.split with
          mode := t.split.mode, tstat := t.split.tstat, rcva := s.split.frame.trcva
          rcvaValid := s.split.tstat.getLsbD 3, pc := s.split.frame.trappc } ∧
        t = { s with lim := none, split := t.split, team := { s.team with mslot := t.team.mslot } } ∧
        ∀ m u, s.team.mslot = some m → t.team.mslot = some u →
          (m.owner ≠ some (s.group.num, s.split.num) → u = m) ∧
          (m.owner = some (s.group.num, s.split.num) → u = { m with mstat := u.mstat } ∧ u.mstat.getLsbD 6 = false))

/-- The privileged words raise PRIV in user mode, with the word in TRAPV and the active lanes in TRAPM (02_words.md
R35; 07_memory.md R164; 14_system.md R321, R322). A word that names a lane register at or above the budget, or a pair by its
odd register, raises ILLEGAL with the word in TRAPV, and no lane changes (03_integer.md R65, R67). -/
def Obligations.Guards : Prop :=
  (∀ (s : State) (a x y z : BitVec 5) (l : BitVec 4) (c : BitVec 9) (t : BitVec 4), userMode s = true → s.live = true →
    (∀ i ∈ ([.rte, .halt, .csrw a c, .tlbiWrite a, .pinSet x y z l, .pinClr x y z l, .pinQry y z l, .pinAll z l] : List Instr),
      exec i s = .next (trap s Cause.priv (i.word.setWidth 64) (active s))) ∧
    (c.toNat ∉ [18, 24, 25, 32] →
      exec (.csrr a c) s = .next (trap s Cause.priv ((Instr.csrr a c).word.setWidth 64) (active s))) ∧
    (∀ i ∈ ([.bswp z, .bswpQry z, .ctxs x y z, .ctxl x y z, .ctxlTeam x y z t, .tagsSet y, .tagsCnt y z, .purg y,
      .purgClr y, .purgQry y z, .susqScore y z, .susqQmask y z, .susqStat y z, .fpmapWrite a] : List Instr),
      exec i s = .next (trap s Cause.priv (i.word.setWidth 64) (active s)))) ∧
  (∀ (s : State) (i : Instr), operandsBad s i = true → exec i s = .next (illegal s i.word)) ∧
  (∀ (s : State) (d a b : BitVec 6) (p q : BitVec 3),
    (budget s ≤ d.toNat ∨ budget s ≤ a.toNat ∨ budget s ≤ b.toNat →
      ∀ i ∈ ([.and d a p b q, .fdot4 d a p b q, .cvtp d a p b q, .bysel d a p b q, .aadd d a b 0 0] : List Instr),
        operandsBad s i = true) ∧
    (wide s.split.mode = true → d.toNat % 2 = 1 ∨ a.toNat % 2 = 1 ∨ b.toNat % 2 = 1 →
      ∀ i ∈ ([.and d a p b q, .or d a p b q, .aadd d a b 0 0] : List Instr), operandsBad s i = true))

/-- CSRR reads and CSRW writes the system registers of 14_system.md R322 to R324; a write changes only the fields
whose writer is the system, and a read-only register (16, 18, 24, 25, 32 to 34) ignores it. -/
def Obligations.SystemRegisters : Prop :=
  ∀ (s : State) (d a : BitVec 5) (c : BitVec 9),
    let v := rs s a.toNat
    let f := s.split.frame
    (∀ r, (userMode s = false ∨ c.toNat ∈ [18, 24, 25, 32]) →
      (c.toNat, r) ∈ ([(0, s.split.tstat), (1, s.team.tvec), (2, f.trapc.setWidth 64), (3, f.trappc), (4, f.defpc), (5, f.trapv),
        (6, f.trapm.setWidth 64), (7, f.tmode), (8, f.trcva), (9, f.tscr0), (10, f.tscr1),
        (16, vrootOf s (thisModule s) s.team.vi), (17, 0), (18, (getCore s s.team.core).fnrb),
        (19, (getModule s (thisModule s)).fpmap), (24, (s.team.mslot.map MSlot.mstat).getD 0),
        (25, (s.team.mslot.map MSlot.mrp).getD 0), (32, (getCore s s.team.core).bankst),
        (33, BitVec.ofNat 64 (viTimer s ViConfig.drainb 20)), (34, BitVec.ofNat 64 (viTimer s ViConfig.wdog 100))] : List (Nat × DWord)) →
      ∃ t, exec (.csrr d c) s = .next t ∧ WroteScalar s t d.toNat r) ∧
    (userMode s = false →
      (∀ g, (c.toNat, g) ∈ ([(2, { f with trapc := v.setWidth 8 }), (3, { f with trappc := v }), (4, { f with defpc := v }),
          (5, { f with trapv := v }), (6, { f with trapm := v.setWidth 32 }), (7, { f with tmode := v }),
          (8, { f with trcva := v &&& 0x01FFFFFFFFFFFFFC }), (9, { f with tscr0 := v }), (10, { f with tscr1 := v })] :
            List (Nat × TrapFrame)) →
        exec (.csrw a c) s = .next (adv { s with split := { s.split with frame := g } })) ∧
      (c = 0 → ∃ w, exec (.csrw a c) s = .next (adv { s with split := { s.split with tstat := w } }) ∧
        ∀ k, k < 64 → w.getLsbD k = if k = 2 ∨ k = 3 then v.getLsbD k else s.split.tstat.getLsbD k) ∧
      (c = 1 → exec (.csrw a c) s = .next (adv { s with team := { s.team with tvec := v &&& 0x01FFFFFFFFFFFFFD } })) ∧
      (c.toNat ∈ [16, 18, 24, 25, 32, 33, 34] → exec (.csrw a c) s = .next (adv s)))

/-! ## Memory, ordering and atomics -/

/-- A load with an active lane, whose lanes all pass, issues one access per lane on the path LDG, or LDS when all lie
in the window; with no lane active it only goes on (07_memory.md R159, R165, R167, R169); inside a fence window the lines
it reads are tracked (08_ordering.md R184). A store whose lanes all pass issues the bytes of its registers on the path
STG, or STS when all lie in the window; memory is unchanged but for the team's digest entry (07_memory.md R159, R161,
R165, R167; 15_checking.md R356). A release at module or fabric scope is held until what it must follow is performed
(08_ordering.md R191), and a store inside a fence window stands in its log (08_ordering.md R184). -/
def Obligations.AccessesIssue : Prop :=
  (∀ (s : State) (d a : BitVec 6) (sb sd : BitVec 5) (l : BitVec 4) (q : BitVec 3) (grant : Nat → Granted),
    (∀ (i : Instr) (n : Nat), (i, n) ∈ ([(.ldb d a sb l q, 1), (.ldh d a sb l q, 2), (.ldw d a sb l q, 4), (.ldd d a sb l q, 8),
        (.ldq d a sb l q, 16)] : List (Instr × Nat)) → operandsBad s i = false →
      (active s = 0 → exec i s = .next (adv s)) ∧
      (active s ≠ 0 →
        (∀ k, k < 32 → isActive s k = true → check s (me s) .read (laneEa s a.toNat sb.toNat k) n = .ok (grant k)) →
        ∃ t f, exec i s = .next t ∧ f.kind = .load ∧ f.instr = i ∧
          Issued s t f (if (actives s).all (fun k => (grant k).window) then 2 else 0) ∧
          t.split = (track (adv s) ((actives s).flatMap (fun k => (grant k).parts))).split ∧
          (s.split.fence = none → t.split = (adv s).split) ∧
          f.lanes.map (fun r => (r.lane, r.va, r.parts)) =
            (actives s).map (fun k => (k, laneEa s a.toNat sb.toNat k, (grant k).parts)) ∧ SameMemory s t)) ∧
    (active s = 0 → exec (.ldc sd sb l q) s = .next (adv s)) ∧
    (∀ g, active s ≠ 0 → check s (me s) .read (rs s sb.toNat + limOffset s).toNat 8 = .ok g →
      ∃ t f, exec (.ldc sd sb l q) s = .next t ∧ f.kind = .load ∧ f.instr = .ldc sd sb l q ∧ Issued s t f 0 ∧
        t.split = (track (adv s) g.parts).split ∧ (s.split.fence = none → t.split = (adv s).split) ∧
        f.lanes.map (fun r => (r.va, r.parts)) = [((rs s sb.toNat + limOffset s).toNat, g.parts)] ∧ SameMemory s t)) ∧
  (∀ (s : State) (d a : BitVec 6) (sb : BitVec 5) (l : BitVec 4) (q : BitVec 3) (grant : Nat → Granted),
    ∀ (i : Instr) (n : Nat), (i, n) ∈ ([(.stb d a sb l q, 1), (.sth d a sb l q, 2), (.stw d a sb l q, 4), (.std d a sb l q, 8),
        (.stq d a sb l q, 16)] : List (Instr × Nat)) → operandsBad s i = false →
      (active s = 0 → exec i s = .next (adv s)) ∧
      (active s ≠ 0 →
        (∀ k, k < 32 → isActive s k = true → check s (me s) .write (laneEa s a.toNat sb.toNat k) n = .ok (grant k)) →
        let path := if (actives s).all (fun k => (grant k).window) then 2 else 1
        let holds := fun (f : Flight) => f.kind = .store ∧ f.instr = i ∧ f.path = some path ∧
          f.lanes.map (fun r => (r.lane, r.va, r.parts, r.data)) = (actives s).map (fun k =>
            (k, laneEa s a.toNat sb.toNat k, (grant k).parts,
              (List.range n).map (fun j => ((rv s (d.toNat + j / 4) k) >>> (8 * (j % 4))).setWidth 8)))
        ((q = 4 ∨ q = 5) → releaseWaits s q.toNat [] ≠ [] →
          exec i s = .next (hold s (.performed (releaseWaits s q.toNat []) q.toNat))) ∧
        ((q = 4 ∨ q = 5 → Released s q.toNat []) →
          (s.split.fence = none → NoWindows s → ∃ t f, exec i s = .next t ∧ holds f ∧ Issued s t f path ∧
            t.split = (adv s).split ∧ SameOutside s t (digestAddr s.team.core s.team.bank s.team.slot) 32) ∧
          (∀ w, s.split.fence = some w → ∃ t f, exec i s = .next t ∧ holds f ∧ t.flights = s.flights ∧ t.group = s.group ∧
            t.team = s.team ∧ t.teams = s.teams ∧ SameMemory s t ∧
            t.split = { (adv s).split with fence := some { w with held := w.held ++ [f] } }))))

/-- A lane that fails its checks stops the whole access (07_memory.md R159): the trap has the lowest cause, the lanes
that raised it in TRAPM, and the value of the lowest of them. At a release of module or fabric scope the fault of a store
whose outcome is uncertain comes before it (00_scope.md R8; 13_fabric.md R306). -/
def Obligations.AccessChecks : Prop :=
  ∀ (s : State) (d a : BitVec 6) (sb : BitVec 5) (l : BitVec 4) (q : BitVec 3) (i : Instr) (n : Nat) (k : Kind) (rel c v low : Nat),
    let r := if q = 4 ∨ q = 5 then q.toNat else 0
    (i, n, k, rel) ∈ ([(.ldb d a sb l q, 1, .read, 0), (.ldh d a sb l q, 2, .read, 0), (.ldw d a sb l q, 4, .read, 0),
      (.ldd d a sb l q, 8, .read, 0), (.ldq d a sb l q, 16, .read, 0), (.stb d a sb l q, 1, .write, r),
      (.sth d a sb l q, 2, .write, r), (.stw d a sb l q, 4, .write, r), (.std d a sb l q, 8, .write, r),
      (.stq d a sb l q, 16, .write, r), (.cctlL1inv a sb l, 1, .read, 0), (.cctlRdcinv a sb l, 1, .read, 0),
      (.cctlWb a sb l, 1, .write, 0), (.cctlWbinv a sb l, 1, .write, 0)] : List (Instr × Nat × Kind × Nat)) →
    operandsBad s i = false →
    let fate := fun x => check s (me s) k (laneEa s a.toNat sb.toNat x) n
    let raises := fun x (e : Nat) => x < 32 ∧ isActive s x = true ∧ ∃ w, fate x = .error (e, w)
    raises low c → fate low = .error (c, v) → (∀ x, x < low → ¬ raises x c) → (∀ x e, raises x e → c ≤ e) →
    (∀ u, rel ≠ 0 → dueFault s .fence = some u → exec i s = .next (deliver s u)) ∧
    ((rel ≠ 0 → dueFault s .fence = none) →
      ∃ m : Word, exec i s = .next (trapCheck s c v m) ∧ ∀ x, x < 32 → (m.getLsbD x = true ↔ raises x c))

/-- When a store of this module is performed, every byte it covers holds the highest lane's byte and every other byte
is as before; its path falls, as it does when load data return, once no earlier access of the path stands before it
(07_memory.md R162, R166, R168). When load data return, each lane's registers take what
the access reads, an ended lane's excepted, and no other lane register and no byte of memory changes; with nothing
queued or in flight it is what memory holds (07_memory.md R165, R167; 06_control.md R143). LDC and EVQRY write their
scalar (07_memory.md R169). The order of a lane's bytes and of accesses in flight is read in log 9. -/
def Obligations.AccessesPerform : Prop :=
  (∀ (s : State) (f : Flight), findFlight s f.id = some f → f.kind = .store → f.stage = 0 → storeReady s f = true →
    NoWindows s → NoArms s → (∀ r ∈ s.reqs, r.flight ≠ some f.id) →
    (∀ l ∈ f.lanes, ∃ p n, l.parts = [(p, n)] ∧ l.data.length = n ∧ 0 < n ∧ isLocal (dieModule f.die) (p, n) = true) →
    ∃ t, exec (.storePerform f.id) s = .next t ∧ findFlight t f.id = none ∧
      (∀ x, rdByte t x = landed s x (storeByte f x)) ∧
      (∀ g, findGroup s f.team f.grp = some g → ∃ g', findGroup t f.team f.grp = some g' ∧ g'.paths = (pathDue g f.id).paths) ∧
      t.live = s.live ∧ (s.live = true → t.split.pc = s.split.pc ∧ t.split.s = s.split.s ∧ t.group.regs = s.group.regs ∧
        t.group.preds = s.group.preds)) ∧
  ((∀ (s : State) (f : Flight) (g : Group) (bs : LaneReq → List Byte), findFlight s f.id = some f → f.kind = .load →
    loadReady s f = true → NoWindows s → findGroup s f.team f.grp = some g →
    (∀ l ∈ f.lanes, l.lane < 32 ∧ laneUncertain s f l = false ∧ laneRead s f (seenStores s f) l = .ok (bs l)) →
    (f.lanes.map LaneReq.lane).Nodup →
    (seenStores s f = [] → s.reqs = [] → (∀ d a sb l w, f.instr ≠ .atrn d a sb l w) →
      ∀ l ∈ f.lanes, bs l = rdParts s l.parts) ∧
    ∃ t g', exec (.loadDataReturn f.id) s = .next t ∧ findFlight t f.id = none ∧ findGroup t f.team f.grp = some g' ∧
      SameMemory s t ∧ g'.paths = (pathDue g f.id).paths ∧
      ((∀ d sb l q, f.instr ≠ .ldc d sb l q) → (∀ x z l h, f.instr ≠ .evqry x z l h) →
        (∀ l ∈ f.lanes, LaneGot g g' l.lane (if laneBit g.exited l.lane then [] else loadRegs f.instr f.mode (bs l))) ∧
        (∀ k, k < 32 → (∀ l ∈ f.lanes, l.lane ≠ k) → LaneGot g g' k [])) ∧
      (∀ l sp d, f.lanes = [l] → findSplit s f.team f.grp f.spl = some sp →
        ((∃ sb n q, f.instr = .ldc d sb n q) ∨ (∃ x n h, f.instr = .evqry x d n h)) →
        ∃ sp', findSplit t f.team f.grp f.spl = some sp' ∧
          ∀ n, cget (fun _ => 0) sp'.s n = if n = d.toNat then BitVec.ofNat 64 (leNat (bs l)) else cget (fun _ => 0) sp.s n)) ∧
  (∀ (d a : BitVec 6) (sb : BitVec 5) (l : BitVec 4) (q : BitVec 3) (m : DWord) (b0 b1 b2 b3 b4 b5 b6 b7 : Byte),
    loadRegs (.ldb d a sb l q) m [b0] = [(d.toNat, if signType m then b0.signExtend 32 else b0.setWidth 32)] ∧
    loadRegs (.ldh d a sb l q) m [b0, b1] = [(d.toNat, if signType m then (b1 ++ b0).signExtend 32 else (b1 ++ b0).setWidth 32)] ∧
    loadRegs (.ldw d a sb l q) m [b0, b1, b2, b3] = [(d.toNat, b3 ++ b2 ++ b1 ++ b0)] ∧
    loadRegs (.ldd d a sb l q) m [b0, b1, b2, b3, b4, b5, b6, b7] =
      [(d.toNat, b3 ++ b2 ++ b1 ++ b0), (d.toNat + 1, b7 ++ b6 ++ b5 ++ b4)]))

/-- PREF, CCTL and ATRN go on without touching a register or memory, CCTL and ATRN with an access in flight
(07_memory.md R170 to R172); an ATRN's data are its results for the lanes, and a performed CCTL invalidation drops the
lines it names. An L1 invalidation drops the line, and an uncorrectable error marks its granule, at its home or in a copy
(R161, R418). PIN.set pins the lines of the range that it can and writes to s[sz] how many of them are pinned now;
PIN.clr takes the VI's own pins in the range away and writes how many; PIN.qry counts those of a die, PIN.all leaves the
VI no pin on the module and writes how many it took; all change nothing else, and a length of 2^32 or more is ILLEGAL
(07_memory.md R164). The model's L1 and its L2 sets are its own (log 11, log 17, log 48), and so is what makes a line
one that PIN acts on (log 68); that PIN with no lane active only goes on is read in log 22. -/
def Obligations.CacheAndPins : Prop :=
  ((∀ (s : State) (v : BitVec 2) (d a : BitVec 6) (sb : BitVec 5) (l : BitVec 4) (w : BitVec 1), NoWindows s →
    (operandsBad s (.pref v a sb l) = false → ∃ t, exec (.pref v a sb l) s = .next t ∧ t.split = (adv s).split ∧
      t.group = s.group ∧ t.team = s.team ∧ t.teams = s.teams ∧ t.flights = s.flights ∧ SameMemory s t) ∧
    (∀ (i : Instr) (k : Kind), (i, k) ∈ ([(.cctlL1inv a sb l, .read), (.cctlRdcinv a sb l, .read), (.cctlWb a sb l, .write),
        (.cctlWbinv a sb l, .write)] : List (Instr × Kind)) → operandsBad s i = false →
      (active s = 0 → exec i s = .next (adv s)) ∧
      (active s ≠ 0 → (∀ x, x < 32 → isActive s x = true → ∃ g, check s (me s) k (laneEa s a.toNat sb.toNat x) 1 = .ok g) →
        ∃ t f, exec i s = .next t ∧ f.kind = .cctl ∧ f.instr = i ∧ Issued s t f 1 ∧ t.split = (adv s).split ∧ SameMemory s t)) ∧
    (operandsBad s (.atrn d a sb l w) = false →
      (active s = 0 → exec (.atrn d a sb l w) s = .next (adv s)) ∧
      (active s ≠ 0 →
        ∃ t f, exec (.atrn d a sb l w) s = .next t ∧ f.kind = .load ∧ f.instr = .atrn d a sb l w ∧ Issued s t f 0 ∧
          t.split = (adv s).split ∧ SameMemory s t ∧
          f.lanes.map (fun r => (r.lane, r.va)) = (actives s).map (fun x => (x, laneEa s a.toNat sb.toNat x)) ∧
          ∀ u sts, ∀ r ∈ f.lanes, laneRead u f sts r =
            .ok (natLe 8 (atrnResult u (atrnAgent u f) (if w = 1 then .write else .read) r.va).toNat)))) ∧
  (∀ (s : State) (f : Flight), findFlight s f.id = some f → f.kind = .cctl → readyAfter s f = true → NoWindows s →
    ∃ t, exec (.storePerform f.id) s = .next t ∧ findFlight t f.id = none ∧ SameMemory s t ∧
      ∀ (a : BitVec 6) (sb : BitVec 5) (l : BitVec 4), ∀ line ∈ linesOf (flightParts f),
        (f.instr = .cctlL1inv a sb l → line ∉ (getCore t f.core).l1 ∧ line ∉ (getCore t f.core).l1own) ∧
        (f.instr = .cctlRdcinv a sb l → line ∉ (getDie t f.die).rdc ∧ leased t f.die line = false)) ∧
  (∀ (s : State) (core line : Nat), NoWindows s → line ∈ (getCore s core).l1 ∨ line ∈ (getCore s core).l1own →
    ∃ t, exec (.l1Invalidate core line) s = .next t ∧
      line ∉ (getCore t core).l1 ∧ line ∉ (getCore t core).l1own ∧ SameMemory s t ∧ SameFocus s t) ∧
  (∀ (s : State) (addr x : Nat),
    (place addr = .hbm → exec (.uncorrectableError (.home addr)) s = .next (addPoison s (addr / 32)) ∧
      poisoned (addPoison s (addr / 32)) addr 1 = true) ∧
    (lineOf addr ∈ (getCore s x).l1 ∨ lineOf addr ∈ (getCore s x).l1own → ∃ t, exec (.uncorrectableError (.l1 x addr)) s = .next t ∧
      addr / 32 ∈ (getCore t x).l1bad ∧ SameMemory s t ∧ SameFocus s t) ∧
    (lineOf addr ∈ (getDie s x).rdc ∨ leased s x (lineOf addr) = true → ∃ t, exec (.uncorrectableError (.rdc x addr)) s = .next t ∧
      addr / 32 ∈ (getDie t x).rdcbad ∧ SameMemory s t ∧ SameFocus s t))) ∧
  (∀ (s : State) (x y z : BitVec 5) (l : BitVec 4), userMode s = false →
    let vi := s.team.vi
    let n := (rs s y.toNat).toNat
    let home := fun (line : Nat) => paHome (line * 128)
    let lines := (rangeLines (rs s x.toNat + limOffset s).toNat n).filterMap (pinLine s)
    let on := fun (c : Cells DieSt) => { s with dies := c }
    let only := fun (c : Cells DieSt) => ∀ d, getDie (on c) d = { getDie s d with pins := (getDie (on c) d).pins }
    let answer := fun (c : Cells DieSt) (k : Nat) =>
      (.next (adv (ws (on c) z.toNat (BitVec.ofNat 64 k))) : Host.Outcome State Fault Refusal)
    (2 ^ 32 ≤ n → ∀ i ∈ ([.pinSet x y z l, .pinClr x y z l] : List Instr), exec i s = .next (illegal s i.word)) ∧
    (n < 2 ^ 32 → active s = 0 → ∀ i ∈ ([.pinSet x y z l, .pinClr x y z l] : List Instr), exec i s = .next (adv s)) ∧
    (active s = 0 → ∀ i ∈ ([.pinQry y z l, .pinAll z l] : List Instr), exec i s = .next (adv s)) ∧
    (n < 2 ^ 32 → active s ≠ 0 →
      (∃ c, exec (.pinSet x y z l) s = answer c
          (lines.filter (fun k => (getDie (on c) (home k)).pins.any (fun p => p.2 == k))).length ∧ only c ∧
        (∀ d, ∀ p ∈ (getDie s d).pins, p ∈ (getDie (on c) d).pins) ∧
        ∀ d, ∀ p ∈ (getDie (on c) d).pins, p ∈ (getDie s d).pins ∨ (p.1 = vi ∧ p.2 ∈ lines ∧ home p.2 = d)) ∧
      (∃ c, exec (.pinClr x y z l) s = answer c
          (lines.eraseDups.filter (fun k => (getDie s (home k)).pins.contains (vi, k))).length ∧ only c ∧
        ∀ d, (getDie (on c) d).pins =
          (getDie s d).pins.filter (fun p => !(p.1 == vi && lines.contains p.2 && home p.2 == d)))) ∧
    (active s ≠ 0 →
      exec (.pinQry y z l) s = answer s.dies
        ((getDie s (thisModule s * 16 + n % 16)).pins.filter (fun p => p.1 == vi)).length ∧
      (∃ c, exec (.pinAll z l) s = answer c (((List.range 16).map (fun k =>
          ((getDie s (thisModule s * 16 + k)).pins.filter (fun p => p.1 == vi)).length)).sum) ∧ only c ∧
        ∀ d, (getDie (on c) d).pins = if d / 16 = thisModule s then (getDie s d).pins.filter (fun p => p.1 != vi)
          else (getDie s d).pins)))

/-- The 16 bytes of a barrier object hold every field (08_ordering.md R187), and reading one after writing it gives
it. An arrival lowers PEND, or sets OVER when it is 0; the phase completes when PEND and REM are both 0, and PEND is
then EXP again; REM outside 32 bits sets OVER (08_ordering.md R188). A phase is reached for half the numbers after
it. -/
def Obligations.BarrierObjects : Prop :=
  ((∀ b : Bar, Bar.unpack b.pack = b) ∧ ∀ (s : State) (pa : Nat) (b : Bar), getBar (setBar s pa b) pa = b ∧
    SameOutside s (setBar s pa b) pa 16) ∧
  ((∀ b : Bar, b.pend ≠ 0 → b.arrive = { b with pend := b.pend - 1 }) ∧
  (∀ b : Bar, b.pend = 0 → b.arrive = { b with ovf := true }) ∧
  (∀ b : Bar, b.complete = if b.pend = 0 ∧ b.rem = 0 then { b with phase := b.phase + 1, pend := b.exp } else b) ∧
  (∀ (b : Bar) (k : Nat), -2147483648 ≤ b.rem.toInt - k → (b.add (-(k : Int))).rem.toInt = b.rem.toInt - k ∧
    (b.add (-(k : Int))).ovf = b.ovf) ∧
  (∀ (b : Bar) (k : Nat), 2147483647 < b.rem.toInt + k → b.add k = { b with ovf := true }) ∧
  (∀ p t : Word, reached p t = true ↔ ∃ n, n < 2 ^ 31 ∧ p = t + BitVec.ofNat 32 n))

/-- The barrier words on an object that passes its checks, in the executing team's scratchpad or, for BARV and BEXP,
in any scratchpad (08_ordering.md R189 to R191): BINIT writes a fresh object unless an arm holds it; BARV arrives and
writes the target phase to s[sz]; BEXP adds bytes; BTEST reads; BWAIT goes on once the phase is reached, now or at a
change that it waited for, and else holds. Each is held until the accesses that it must follow are performed
(08_ordering.md R181, R191): that BINIT, BEXP, BTEST and BWAIT are held for them, and not only ordered after them, is
read in log 9. With no lane active each only goes on. -/
def Obligations.BarrierWords : Prop :=
  ∀ (s : State) (x y z : BitVec 5) (l : BitVec 4) (c : BitVec 3) (h : BitVec 1) (pa : Nat),
    let a := rs s x.toNat + limOffset s
    let n := (rs s y.toNat).toNat
    let u := touch s (me s) a.toNat 16
    let b := getBar s pa
    let free := fun (k : Nat) => Released u k [(pa, 16)]
    let waits := fun (k : Nat) => releaseWaits u k [(pa, 16)]
    (active s = 0 → ∀ i ∈ ([.binit x y l, .barv x z l c, .barvB x y z l c, .bexp x y l, .btest x z l h, .bwait x y c] : List Instr),
      exec i s = .next (adv s)) ∧
    (active s ≠ 0 →
    (checkObject s a .write true = .ok pa →
      (n < 2 ^ 16 → b.armed = false → free 0 → exec (.binit x y l) s = .next (adv (setBar u pa
        ⟨s.team.rtag, 0, false, false, false, true, 0, BitVec.ofNat 16 n, BitVec.ofNat 16 n, 0⟩))) ∧
      (n < 2 ^ 16 → b.armed = false → waits 0 ≠ [] → exec (.binit x y l) s = .next (hold u (.performed (waits 0) 1))) ∧
      (n < 2 ^ 16 → b.armed = true → exec (.binit x y l) s = .next (trap u Cause.access a (active s))) ∧
      (2 ^ 16 ≤ n → exec (.binit x y l) s = .next (trap s Cause.illegal a (active s)))) ∧
    (checkObject s a .write false = .ok pa →
      (free c.toNat → exec (.barv x z l c) s =
        .next (adv (ws (setBar u pa b.arrive.complete) z.toNat ((b.phase + 1).setWidth 64)))) ∧
      (free c.toNat → n < 2 ^ 31 → exec (.barvB x y z l c) s =
        .next (adv (ws (setBar u pa (b.arrive.add n).complete) z.toNat ((b.phase + 1).setWidth 64)))) ∧
      (waits c.toNat ≠ [] → exec (.barv x z l c) s = .next (hold u (.performed (waits c.toNat) (max 1 c.toNat))) ∧
        (n < 2 ^ 31 → exec (.barvB x y z l c) s = .next (hold u (.performed (waits c.toNat) (max 1 c.toNat))))) ∧
      (free 0 → n < 2 ^ 31 → exec (.bexp x y l) s = .next (adv (setBar u pa (b.add n).complete)))) ∧
    (checkObject s a .read true = .ok pa →
      (free 0 → exec (.btest x z l h) s = .next (adv (ws u z.toNat (BitVec.ofNat 64 (rdNat s (pa + 8 * h.toNat) 8))))) ∧
      (let t : Word := (rs s y.toNat).setWidth 32
        let met := barrierMet u pa t
        (reached b.phase t = true → met = true) ∧ (s.split.wait = none → met = reached b.phase t) ∧
        (dueFault s (.object pa met) = none → dueMatrix s (.object pa met) = none →
          (met = true → free 0 → exec (.bwait x y c) s = .next (adv (unwoken u))) ∧
          (met = false → exec (.bwait x y c) s = .next (hold (unwoken u) (.barrier a pa t)))))) ∧
    (2 ^ 31 ≤ n → exec (.bexp x y l) s = .next (trap s Cause.illegal a (active s)) ∧
      ((4 ≤ c.toNat → dueFault s .fence = none) → exec (.barvB x y z l c) s = .next (trap s Cause.illegal a (active s)))) ∧
    (∀ e, checkObject s a .write true = .error e → n < 2 ^ 16 → exec (.binit x y l) s = .next (trapCheck s e a.toNat (active s))))

/-- The rendezvous words on a point of the team below the header's count (08_ordering.md R192, R193): RINIT starts it
with 1 to 97 participants, or only checks the count of one that is started; RARV arrives once the split's earlier
accesses are performed; RWAIT waits; RSYNC does both. A point at or above the count, or not started, is ILLEGAL; a fault
that RWAIT or RSYNC delivers comes first (00_scope.md R8). With no lane active each only goes on. -/
def Obligations.RendezvousWords : Prop :=
  ∀ (s : State) (y z k : BitVec 5),
    let b := teamPoint s.team k.toNat
    let n := rs s y.toNat
    let bad := fun (v : DWord) => trap s Cause.illegal v (active s)
    let put := fun (o : Bar) => { s with team := setTeamPoint s.team k.toNat o }
    let quiet := fun (met : Bool) => dueFault s (.point k.toNat met) = none ∧ dueMatrix s (.point k.toNat met) = none
    let t : DWord := (b.phase + 1).setWidth 64
    let o := b.arrive.complete
    let first := ∀ p u, s.split.wait ≠ some (.rsync p u)
    (active s = 0 → ∀ i ∈ ([.rinit y k, .rarv z k, .rwait y k, .rsync z k] : List Instr), exec i s = .next (adv s)) ∧
    (active s ≠ 0 →
    (rdvCount s ≤ k.toNat →
      (∀ i ∈ ([.rinit y k, .rarv z k] : List Instr), exec i s = .next (bad (k.setWidth 64))) ∧
      (quiet (reached b.phase (n.setWidth 32)) → exec (.rwait y k) s = .next (bad (k.setWidth 64))) ∧
      (first → quiet (reached o.phase (b.phase + 1)) → exec (.rsync z k) s = .next (bad (k.setWidth 64)))) ∧
    (k.toNat < rdvCount s →
      (b.init = false → exec (.rarv z k) s = .next (bad (k.setWidth 64)) ∧
        (quiet (reached b.phase (n.setWidth 32)) → exec (.rwait y k) s = .next (bad (k.setWidth 64))) ∧
        (first → quiet (reached o.phase (b.phase + 1)) → exec (.rsync z k) s = .next (bad (k.setWidth 64)))) ∧
      (n.toNat = 0 ∨ 97 < n.toNat → exec (.rinit y k) s = .next (bad n)) ∧
      (1 ≤ n.toNat → n.toNat ≤ 97 → b.init = false → Released s 0 [] → exec (.rinit y k) s = .next (adv (put
        ⟨s.team.rtag, 0, true, false, false, true, 0, n.setWidth 16, n.setWidth 16, 0⟩))) ∧
      (1 ≤ n.toNat → n.toNat ≤ 97 → b.init = true →
        exec (.rinit y k) s = .next (if b.exp = n.setWidth 16 then adv s else bad n)) ∧
      (b.init = true →
        (Released s 1 [] → exec (.rarv z k) s = .next (adv (ws (put o) z.toNat t))) ∧
        (releaseWaits s 1 [] ≠ [] → exec (.rarv z k) s = .next (hold s (.performed (releaseWaits s 1 []) 1))) ∧
        (first → quiet (reached o.phase (b.phase + 1)) →
          (Released s 1 [] → exec (.rsync z k) s = .next (if reached o.phase (b.phase + 1) then adv (ws (put o) z.toNat t)
            else hold (ws (put o) z.toNat t) (.rsync k.toNat (b.phase + 1)))) ∧
          (releaseWaits s 1 [] ≠ [] → exec (.rsync z k) s = .next (hold s (.performed (releaseWaits s 1 []) 1)))) ∧
        (∀ p u, s.split.wait = some (.rsync p u) → quiet (reached b.phase u) →
          (reached b.phase u = true → Released s 0 [] → exec (.rsync z k) s = .next (adv s)) ∧
          (reached b.phase u = false → exec (.rsync z k) s = .next (hold s (.rsync k.toNat u)))) ∧
        (quiet (reached b.phase (n.setWidth 32)) →
          (reached b.phase (n.setWidth 32) = true → Released s 0 [] → exec (.rwait y k) s = .next (adv s)) ∧
          (reached b.phase (n.setWidth 32) = false →
            exec (.rwait y k) s = .next (hold s (.point k.toNat (n.setWidth 32))))))))

/-- FENCE goes on at once when every earlier access of the split is performed at its scope, and otherwise opens a
window that remembers the registers as they then are; when all is performed the window closes, and a trap that it held is
taken (08_ordering.md R183, R184, R186). At module and fabric scope an uncertain outcome is raised at it, resuming after
it (13_fabric.md R306). A wait that lasts too long is reported to firmware, with the PC of the lowest-numbered split of
the group that waits for the same, and the wait goes on (08_ordering.md R191; 06_control.md R145; 16_frontend.md R378). What a fence waits for beside its split's
own accesses is read in log 43. -/
def Obligations.Fences : Prop :=
  ((∀ (s : State) (n : BitVec 1) (c : BitVec 3),
    (fenceWaits s c.toNat = [] → (4 ≤ c.toNat → dueFault s .fence = none) → exec (.fence n c) s = .next (adv s)) ∧
    (∀ d, fenceWaits s c.toNat = [] → 4 ≤ c.toNat → dueFault s .fence = some d →
      exec (.fence n c) s = .next (deliver (adv s) d)) ∧
    (fenceWaits s c.toNat ≠ [] → ∃ w, exec (.fence n c) s = .next { adv s with split := { (adv s).split with fence := some w } } ∧
      w.scope = c.toNat ∧ w.ns = (n == 1) ∧ w.waits = fenceWaits s c.toNat ∧ w.held = [] ∧ w.trap = none ∧
      w.snap.pc = nextPc s ∧ w.snap.regs = s.group.regs ∧ w.snap.preds = s.group.preds ∧ w.snap.s = s.split.s ∧
      w.snap.mode = s.split.mode)) ∧
  (∀ (s : State) (w : FenceWin), s.live = true → s.split.fence = some w → w.waits.all (performedAt s w.scope) = true →
    (4 ≤ w.scope → dueFault s .fence = none) → w.held = [] → s.group.log = [] →
    let t := { s with split := { s.split with fence := none, entries := 0 } }
    exec (.fenceComplete s.team.id s.group.num s.split.num) s = .next (match w.trap with
      | none => t
      | some i => if i.cause = Cause.poison then takePoison t i s.team.rtag.toNat else takeTrap t i))) ∧
  (∀ (s : State) (p : Nat) (n : DWord) (low : Split), s.live = true → s.split.wait = some (.path p n) →
    (low = s.split ∨ low ∈ s.group.splits) → (∃ m, low.wait = some (.path p m)) →
    (∀ x ∈ s.group.splits, (∃ m, x.wait = some (.path p m)) → low.num ≤ x.num) → low.num ≤ s.split.num →
    (s.group.splits.map Split.num).Nodup → s.split.num ∉ s.group.splits.map Split.num →
    ∃ t r, exec (.waitTimeout (.split s.team.id s.group.num s.split.num)) s = .next t ∧ t.reports = s.reports ++ [r] ∧
      r.code = 0x0E ∧ r.vi = s.team.vi ∧ r.arg0 = BitVec.ofNat 64 (2 * 2 ^ 62 + p % 2 ^ 57) ∧
      r.arg1 = BitVec.ofNat 64 (low.pc.toNat % 2 ^ 57 + s.group.num * 2 ^ 57) ∧ SameFocus s t)

/-- An atomic whose lanes are aligned and pass issues them with their operands on the path ATM (RED on STG); SIGI,
SIGD and TLSIG hold their split until the outcome is known. Where TYPE is not in the instruction's column it is
ILLEGAL, and where an active lane is out of alignment MISALIGN is raised (09_atomics.md R200, R201, R204, R209). A
release at module or fabric scope is held until what it must follow is performed (08_ordering.md R191); the fault of a
store whose outcome is uncertain comes before its own (00_scope.md R8; 13_fabric.md R306). -/
def Obligations.AtomicsIssue : Prop :=
  ∀ (s : State) (d a b : BitVec 6) (l : BitVec 4) (o : BitVec 2) (ro : BitVec 3) (rb : BitVec 1) (grant : Nat → Granted),
    let ty := mType s.split.mode
    let iw := if ty = 0 ∨ ty = 1 then some 4 else if ty = 2 ∨ ty = 3 then some 8 else none
    let fw := if ty = 8 then some 4 else if ty = 9 then some 8 else none
    let aw := if iw.isSome then iw else fw
    let src := fun n r k => if n = 8 then rv2 s r k else (rv s r k).setWidth 64
    let od := o.toNat
    let forms : List (Instr × Option Nat × Nat × Nat × Bool) := [
      (.aadd d a b l o, iw, 3, od, false), (.amin d a b l o, iw, 3, od, false), (.amax d a b l o, iw, 3, od, false),
      (.aand d a b l o, iw, 3, od, false), (.aor d a b l o, iw, 3, od, false), (.axor d a b l o, iw, 3, od, false),
      (.axch d a b l o, aw, 3, od, false), (.acas d a b l o, aw, 3, od, false), (.afadd d a b l o, fw, 3, od, false),
      (.red ro a b l rb, if ro = 6 then fw else iw, 1, 2 * rb.toNat, false), (.bump d a b l o, some 16, 3, od, false),
      (.sigi d a b o, some 8, 3, od, true), (.sigd d a b o, some 8, 3, od, true), (.tlsig d a b o, some 8, 3, od, true)]
    let scope := mAscope s.split.mode
    ∀ (i : Instr) (w : Option Nat) (path ord : Nat) (checked : Bool), (i, w, path, ord, checked) ∈ forms →
      operandsBad s i = false →
      (w = none → exec i s = .next (illegal s i.word)) ∧
      (∀ n, w = some n → active s = 0 → exec i s = .next (adv s)) ∧
      (∀ n low, w = some n → let off := fun k => k < 32 ∧ isActive s k = true ∧ pairEa s a.toNat k % n ≠ 0
        off low → (∀ k, k < low → ¬ off k) →
        (∀ k, k < 32 → isActive s k = true → ¬ off k → ∃ g, check s (me s) .atomic (pairEa s a.toNat k) n = .ok g) →
        (∀ u, 2 ≤ ord → 4 ≤ scope → dueFault s .fence = some u → exec i s = .next (deliver s u)) ∧
        ((2 ≤ ord → 4 ≤ scope → dueFault s .fence = none) →
          ∃ m : Word, exec i s = .next (trap s Cause.misalign (BitVec.ofNat 64 (pairEa s a.toNat low)) m) ∧
            ∀ k, k < 32 → (m.getLsbD k = true ↔ off k))) ∧
      (∀ n, w = some n → active s ≠ 0 →
        (∀ k, k < 32 → isActive s k = true → pairEa s a.toNat k % n = 0 ∧
          check s (me s) .atomic (pairEa s a.toNat k) n = .ok (grant k)) →
        (2 ≤ ord → 4 ≤ scope → releaseWaits s scope [] ≠ [] →
          exec i s = .next (hold s (.performed (releaseWaits s scope []) scope))) ∧
        ((2 ≤ ord → 4 ≤ scope → Released s scope []) → ∃ t f, exec i s = .next t ∧ f.kind = .atomic ∧ f.instr = i ∧ Issued s t f path ∧
          t.split = (if checked then { (adv s).split with wait := some (.flight f.id), active := false, woke := s.tick }
            else (adv s).split) ∧
          f.lanes.map (fun r => (r.lane, r.va, r.parts)) = (actives s).map (fun k => (k, pairEa s a.toNat k, (grant k).parts)) ∧
          (i ∈ ([.aadd d a b l o, .amin d a b l o, .amax d a b l o, .aand d a b l o, .aor d a b l o, .axor d a b l o,
              .axch d a b l o, .acas d a b l o, .afadd d a b l o] : List Instr) →
            f.lanes.map (fun r => (r.a, r.b)) = (actives s).map (fun k => (src n b.toNat k, src n d.toNat k))) ∧
          SameMemory s t))

/-- The operations of the atomics (09_atomics.md R201 to R208) on the old value and the lane's operands: what is
written and what is returned, or the cause of a signal that fails. When an atomic of this module executes, its lanes
act one after the other in ascending order, each on what the lane before it left; no byte outside a lane's operand
changes, and the results go to the lanes' registers (09_atomics.md R199, R201, R217). A lane of a checked atomic that fails
writes nothing, and the lowest cause that any lane has is raised at the next instruction, with the lanes of that cause, the
address of the lowest of them and the atomic's own address; in a bank that is not running it is kept for the split
(R209, R219). -/
def Obligations.AtomicsExecute : Prop :=
  (∀ (d a b : BitVec 6) (l : BitVec 4) (o : BitVec 2) (m : DWord) (n x c old : Nat), x < 2 ^ (8 * n) → old < 2 ^ (8 * n) →
    atomOp (.aadd d a b l o) m n old x c = .ok (some ((old + x) % 2 ^ (8 * n)), old) ∧
    atomOp (.aand d a b l o) m n old x c = .ok (some (old &&& x), old) ∧
    atomOp (.aor d a b l o) m n old x c = .ok (some (old ||| x), old) ∧
    atomOp (.axor d a b l o) m n old x c = .ok (some (old ^^^ x), old) ∧
    atomOp (.axch d a b l o) m n old x c = .ok (some x, old) ∧
    atomOp (.acas d a b l o) m n old x c = .ok (if old = x then some c else none, old) ∧
    (mType m = 1 ∨ mType m = 3 → atomOp (.amin d a b l o) m n old x c = .ok (some (min old x), old) ∧
      atomOp (.amax d a b l o) m n old x c = .ok (some (max old x), old)) ∧
    (mType m = 0 ∨ mType m = 2 → let less := fun (y z : Nat) => (BitVec.ofNat (8 * n) y).slt (BitVec.ofNat (8 * n) z)
      0 < n → atomOp (.amin d a b l o) m n old x c = .ok (some (if less x old then x else old), old) ∧
        atomOp (.amax d a b l o) m n old x c = .ok (some (if less old x then x else old), old)) ∧
    (∀ f : Fmt, (n, f) ∈ ([(4, .f32), (8, .f64)] : List (Nat × Fmt)) → atomOp (.afadd d a b l o) m n old x c =
      .ok (some (roundTo f ⟨0, false, false⟩ 0 (fadd 0 (decodeF f old) (decodeF f x))), old)) ∧
    (∀ (r : BitVec 1) (k : BitVec 3) (i : Instr), (k, i) ∈ ([(0, .aadd d a b l o), (1, .amin d a b l o), (2, .amax d a b l o),
      (3, .aand d a b l o), (4, .aor d a b l o), (5, .axor d a b l o), (6, .afadd d a b l o)] : List (BitVec 3 × Instr)) →
      atomOp (.red k a b l r) m n old x c = atomOp i m n old x c) ∧
    (n = 8 →
      (atomOp (.sigi d a b o) m n old x c = if 2 ^ 63 - 1 < asInt 64 true old + x then .error Cause.sigOver
        else .ok (some ((asInt 64 true old + x) % 2 ^ 64).toNat, old)) ∧
      (atomOp (.sigd d a b o) m n old x c = if asInt 64 true old - x < 0 then .error Cause.sigUnder
        else .ok (some ((asInt 64 true old - x) % 2 ^ 64).toNat, old)) ∧
      (atomOp (.tlsig d a b o) m n old x c = if old = 2 ^ 64 - 1 then .error Cause.tlTop
        else if x < old then .error Cause.tlBack else .ok (some x, old))) ∧
    (n = 16 → x < 2 ^ 32 → let next := old % 2 ^ 64; let limit := old / 2 ^ 64 % 2 ^ 63
      atomOp (.bump d a b l o) m n old x c =
        if next + x ≤ limit then .ok (some (old + x), next) else .ok (some (old % 2 ^ 127 + 2 ^ 127), 2 ^ 64 - 1))) ∧
  (∀ (s : State) (f : Flight) (g : Group) (pa : LaneReq → Nat) (n : Nat) (out : LaneReq → Except Nat (Option Nat × Nat))
      (u : Nat → State),
    findFlight s f.id = some f → f.kind = .atomic → f.stage = 0 → atomicReady s f = true → (∀ r ∈ s.reqs, r.flight ≠ some f.id) →
    NoWindows s → NoArms s → findGroup s f.team f.grp = some g → (f.lanes.map LaneReq.lane).Nodup → 0 < n →
    (∀ l ∈ f.lanes, l.lane < 32 ∧ l.parts = [(pa l, n)] ∧ isLocal (dieModule f.die) (pa l, n) = true ∧
      poisoned s (pa l) n = false ∧ CopiesClean s (pa l) n) →
    u 0 = s →
    (∀ (j : Nat) (l : LaneReq), f.lanes[j]? = some l →
      atomOp f.instr f.mode n (rdNat (u j) (pa l) n) l.a.toNat l.b.toNat = out l ∧
      u (j + 1) = match out l with
        | .ok (some v, _) => wrBytes (u j) (pa l) (keepBytes (u j) (pa l) (natLe n v))
        | _ => u j) →
    let ended := fun (t : State) => ∃ g', findFlight t f.id = none ∧ findGroup t f.team f.grp = some g' ∧
      SameMemory (u f.lanes.length) t ∧
      (∀ l ∈ f.lanes, LaneGot g g' l.lane (match out l with
        | .ok (_, ret) => if laneBit g.exited l.lane then [] else atomRegs f.instr f.mode (natLe 8 ret)
        | .error _ => [])) ∧
      (∀ k, k < 32 → (∀ l ∈ f.lanes, l.lane ≠ k) → LaneGot g g' k [])
    let failed := fun (c : Nat) => f.lanes.filter (fun l => match out l with | .error e => e == c | .ok _ => false)
    ((∀ l ∈ f.lanes, ∃ r, out l = .ok r) → ∃ t, exec (.atomicExecute f.id) s = .next t ∧ ended t) ∧
    (∀ (c : Nat) (sp : Split) (tm : Team), isChecked f.instr = true → failed c ≠ [] → (∀ e, failed e ≠ [] → c ≤ e) →
      findSplit s f.team f.grp f.spl = some sp → findTeam s f.team = some tm →
      (runningBank s f.core ≠ f.bank → ∃ t sp', exec (.atomicExecute f.id) s = .next t ∧ ended t ∧
        findSplit t f.team f.grp f.spl = some sp' ∧ sp'.outcome = BitVec.ofNat 8 c ∧ sp'.frame = sp.frame ∧ sp'.pc = sp.pc) ∧
      (runningBank s f.core = f.bank → bitsOf tm.tvec 0 1 = 1 → bitsOf sp.tstat 1 1 = 0 →
        ∃ t sp', exec (.atomicExecute f.id) s = .next t ∧ ended t ∧ findSplit t f.team f.grp f.spl = some sp' ∧
          sp'.pc = BitVec.ofNat 64 (bitsOf tm.tvec 2 55 * 4) ∧ bitsOf sp'.tstat 0 1 = 1 ∧ sp'.frame.trapc = BitVec.ofNat 8 c ∧
          sp'.frame.trappc = sp.pc ∧ sp'.frame.defpc = f.pc ∧
          sp'.frame.trapv = BitVec.ofNat 64 (((failed c).map LaneReq.va).headD 0) ∧
          ∀ k, k < 32 → (sp'.frame.trapm.getLsbD k = true ↔ ∃ l ∈ failed c, l.lane = k))))

/-- CARM arms an object on a word: an arm that already holds makes its arrival at once, and another is recorded and marks
the object; a held object raises ACCESS and a word out of alignment MISALIGN, and a full unit holds the split. An arm's
evaluation, at a write to its word, makes the arrival when its condition holds and nothing otherwise. CARM.cancel removes
the arm and says whether there was one (08_ordering.md R194; 09_atomics.md R210, R211). With no lane active both only go
on. -/
def Obligations.ConditionArms : Prop :=
  (∀ (s : State) (x y z : BitVec 5) (l : BitVec 4) (c : BitVec 5) (g : Granted) (pa opa : Nat),
    let m := rs s x.toNat + limOffset s
    let o := rs s y.toNat
    let n := if c = 4 ∨ c = 5 then 4 else 8
    let v := touch s (me s) m.toNat n
    let u := touch v (me v) o.toNat 16
    (active s = 0 → exec (.carm x y z l c) s = .next (adv s) ∧ exec (.carmCancel y z l) s = .next (adv s)) ∧
    (active s ≠ 0 →
    (m.toNat % n ≠ 0 → exec (.carm x y z l c) s = .next (trap s Cause.misalign m (active s))) ∧
    (m.toNat % n = 0 → check s (me s) .read m.toNat n = .ok g → g.parts.head? = some (pa, n) →
      checkObject v o .write true = .ok opa →
      ((getBar s opa).armed = true → exec (.carm x y z l c) s = .next (trap u Cause.access o (active s))) ∧
      ((getBar s opa).armed = false → armFull u m.toNat pa = true →
        exec (.carm x y z l c) s = .next (hold u (.room (.arms m.toNat pa)))) ∧
      (NoWindows s → (getBar s opa).armed = false → armFull u m.toNat pa = false → poisoned s pa n = false →
        pa + n ≤ opa ∨ opa + 16 ≤ pa →
        ∃ t, exec (.carm x y z l c) s = .next t ∧ t.split = (adv s).split ∧ t.group = s.group ∧ t.team = s.team ∧
          SameOutside s t opa 16 ∧
          (condHolds c.toNat (rdNat s pa n) (rs s z.toNat).toNat = false →
            getBar t opa = { getBar s opa with armed := true, armk := 2 } ∧
            ∃ a ∈ (getDie t (armDie pa)).arms, a.addr = pa ∧ a.object = opa ∧ a.cond = .word c.toNat (rs s z.toNat)) ∧
          (condHolds c.toNat (rdNat s pa n) (rs s z.toNat).toNat = true →
            getBar t opa = ({ getBar s opa with armed := false, armk := 0 } : Bar).arrive.complete))) ∧
    (checkObject s o .write true = .ok opa →
      ((∀ e ∈ s.dies, ∀ a ∈ e.2.arms, a.object ≠ opa) →
        exec (.carmCancel y z l) s = .next (adv (ws (touch s (me s) o.toNat 16) z.toNat 0))) ∧
      (NoWindows s → (∃ e ∈ s.dies, ∃ a ∈ e.2.arms, a.object = opa) →
        ∃ t, exec (.carmCancel y z l) s = .next t ∧ rs t z.toNat = 1 ∧ t.split.pc = nextPc s ∧ t.group = s.group ∧
          getBar t opa = { getBar s opa with armed := false, armk := 0 } ∧
          ((s.dies.map Prod.fst).Nodup → ∃ d, ∃ a ∈ (getDie s d).arms, a.object = opa ∧ a ∉ (getDie t d).arms))))) ∧
  (∀ (s : State) (die c : Nat) (x : DWord) (a : Arm), a.cond = .word c x → poisoned s a.addr (condBytes c) = false →
    evalArm s die false a =
      if condHolds c (rdNat s a.addr (condBytes c)) x.toNat then armArrive s die a else s)

/-! ## Matrix, copy and work -/

/-- The words of a stream that move no slab, MSQ and the end of a stream (10_matrix.md R225, R229 to R232, R239, R241
to R243, R245; 06_control.md R147): each changes its team's slot alone (MARV also its point); an absent point, a
handle out of place, a tile that its view lacks and a full loop stack stop the slot with their KIND. MSQ.start delivers a
fault that is due at it, and MSQ.qry reads the state of a stopped stream too (20_programs_system.md R414; log 94). An
uncorrectable error that the slot's earlier owner has not been told of stays with that split when another starts a stream:
it joins the faults of that split's group. No rule says so; it is the model's reading (log 102). -/
def Obligations.StreamWords : Prop :=
  (∀ (s : State) (tm : Team) (m : MSlot), slotNow s = some (tm, m) →
    let put : MSlot → Host.Outcome State Fault Refusal := fun u => .next (putSlot s tm.id u)
    let stop : Nat → Nat → Host.Outcome State Fault Refusal := fun k v => .next (stopSlot s tm m (.kind k v))
    let on := fun (u : MSlot) => { u with spc := m.spc + 4, mrp := 0, ranged := false, wrote := [] }
    (∀ u, SlotSet s (putSlot s tm.id u) tm.id u) ∧
    (∀ imm, exec (.mjmp imm) s = put { m with spc := m.spc + imm.signExtend 64 * 4, mrp := 0 }) ∧
    exec .mend s = put { m with loops := [], ending := true } ∧
    (∀ w, exec (.mWordNotInstruction w) s = stop 0 w.toNat) ∧
    (∀ (n imm : BitVec 12), let tgt := m.spc + imm.signExtend 64 * 4
      (∀ c r, m.loops = (m.spc, c) :: r → exec (.mloop n imm) s =
        put (if c = 0 then on { m with loops := r } else { m with spc := tgt, loops := (m.spc, c - 1) :: r })) ∧
      ((∀ c r, m.loops ≠ (m.spc, c) :: r) → exec (.mloop n imm) s =
        if n = 0 then put (on m) else if m.loops.length < 4 then put { m with spc := tgt, loops := (m.spc, n.toNat - 1) :: m.loops }
        else stop 5 m.spc.toNat)) ∧
    (∀ (h : BitVec 5) (imm : BitVec 17), let o := 64 * imm.toNat
      (tm.spadBytes < o + 64 → exec (.mhdl h imm) s = stop 4 h.toNat) ∧
      (∀ bs, o + 64 ≤ tm.spadBytes → engineRead s (coreDie tm.core) [(teamSpad tm + o, 64)] = .ok bs →
        let d := BitVec.ofNat 512 (leNat bs)
        (reason d ≠ 0 → exec (.mhdl h imm) s = stop 4 h.toNat) ∧
        (reason d = 0 → ∃ u, exec (.mhdl h imm) s = put (on u) ∧ handleOf u h.toNat = some d ∧ koffOf u h.toNat = 0 ∧
          (∀ k, k ≠ h.toNat → handleOf u k = handleOf m k ∧ koffOf u k = koffOf m k) ∧
          u = { m with handles := u.handles, koff := u.koff }))) ∧
    (∀ (k : BitVec 5), let b := teamPoint tm k.toNat
      (hdrField tm 12 5 ≤ k.toNat ∨ b.init = false →
        exec (.marv k) s = stop 4 k.toNat ∧ exec (.mwat k) s = stop 4 k.toNat) ∧
      (k.toNat < hdrField tm 12 5 → b.init = true →
        exec (.marv k) s = .next (putSlot (updTeam s tm.id (fun t => setTeamPoint t k.toNat b.arrive.complete)) tm.id
          (on { m with targets := cput (fun _ => 0) m.targets k.toNat (b.phase + 1) })) ∧
        (reached b.phase (targetOf m k.toNat) = false → exec (.mwat k) s = put { m with waiting := some k.toNat }) ∧
        (reached b.phase (targetOf m k.toNat) = true → ∃ u q, exec (.mwat k) s = put (on { u with waiting := none, after := q }) ∧
          u = { m with targets := u.targets } ∧
          ∀ j, targetOf u j = if j = k.toNat then targetOf m k.toNat + 1 else targetOf m j))) ∧
    (∀ (t x : BitVec 2) (v c : BitVec 1),
      let n := if v = 1 then 64 else 128
      let ok := fun (y : BitVec 2) => v = 1 ∨ y.toNat < 2
      let sus := fun (y : BitVec 2) => if v = 1 then 4 + y.toNat / 2 else 4 + y.toNat
      let row := fun (y : BitVec 2) (i : Nat) => n * y.toNat + i
      let made := fun (i : Instr) (el : Nat → Nat → Nat) (z : Bool) => ∃ u, exec i s = put (on u) ∧
        (∀ i, i < n → rowElems v.toNat (accRow u (row t i)) = (List.range n).map (el i)) ∧
        (∀ r, (∀ i, i < n → r ≠ row t i) → accRow u r = accRow m r) ∧
        (∀ k, k < 64 → u.mstat.getLsbD k = if k = sus t then z else m.mstat.getLsbD k) ∧
        u = { m with acc := u.acc, mstat := u.mstat }
      (ok t → made (.mzero t v) (fun _ _ => 0) false) ∧
      (¬ ok t → exec (.mzero t v) s = stop 4 0) ∧
      (ok t → ok x → made (.mtrn t x v c) (fun i j =>
          let e := fun (i j : Nat) => (rowElems v.toNat (accRow m (row x i))).getD j 0
          if c = 1 then e i j else e j i) (m.mstat.getLsbD (sus x))) ∧
      (¬ (ok t ∧ ok x) → exec (.mtrn t x v c) s = stop 4 x.toNat))) ∧
  (∀ (s : State) (team : Nat) (t : Team) (m : MSlot), findTeam s team = some t → t.mslot = some m → m.ending = true →
    t.bank = runningBank s t.core → t.groups ≠ [] → ∃ u, exec (.mendComplete team) s = .next (putSlot s team { m with ending := false, mstat := u }) ∧
      ∀ k, k < 64 → u.getLsbD k = (decide (2 ≤ k) && m.mstat.getLsbD k)) ∧
  (∀ (s : State) (x z : BitVec 5) (l : BitVec 4), let a := rs s x.toNat + limOffset s
    (s.team.mslot = none → exec (.msqStart x l) s = .next (illegal s (Instr.msqStart x l).word) ∧
      exec (.msqQry z l) s = .next (illegal s (Instr.msqQry z l).word)) ∧
    (∀ m, s.team.mslot = some m →
      exec (.msqQry z l) s = .next (adv (ws s z.toNat (BitVec.ofNat 64 (m.mstat.toNat % 4)))) ∧
      (∀ id w, dueFault s .msq = none → dueMatrix s .msq = some (id, w) → exec (.msqStart x l) s = .next (deliverMatrix s w)) ∧
      (m.fault = none → keepPoison s m = s) ∧
      (∀ id w gn sn g, m.fault = some (id, w) → slotOwner (fullTeam s) m = some (gn, sn) → findGroup s s.team.id gn = some g →
        (keepPoison s m).mem = s.mem ∧ ∃ g', findGroup (keepPoison s m) s.team.id gn = some g' ∧ g' = { g with faults := g.faults ++
          [⟨id, w.cause, w.defpc, w.value, none, .slot, [], sn, m.purge, none⟩] }) ∧
      (dueFault s .msq = none → dueMatrix s .msq = none →
      (a.toNat % 4 ≠ 0 → exec (.msqStart x l) s = .next (trap s Cause.misalign a (active s))) ∧
      (a.toNat % 4 = 0 → m.mstat.toNat % 4 ≠ 0 → exec (.msqStart x l) s = .next (adv s)) ∧
      (a.toNat % 4 = 0 → m.mstat.toNat % 4 = 0 → ∃ u, exec (.msqStart x l) s =
          .next (adv { keepPoison s m with
            fresh := s.fresh + 1
            team := { (keepPoison s m).team with mslot := some u } }) ∧
        u.spc = a ∧ u.mrp = 0 ∧ u.loops = [] ∧ u.owner = some (s.group.num, s.split.num) ∧ u.acc = m.acc ∧
        u.handles = m.handles ∧ (∀ k, k < rdvCount s → targetOf u k = (teamPoint s.team k).phase + 1) ∧
        ∀ k, k < 64 → u.mstat.getLsbD k =
          if k = 0 then true else if k = 1 ∨ (6 ≤ k ∧ k ≤ 9) then false else m.mstat.getLsbD k))))

/-- The words that work slab by slab (10_matrix.md R227, R233 to R240): a step does the sixteen rows of the slab in
progress, and the word is done with its last slab; what its operands do not allow stops the slot. That one step does
one slab is the model's choice (log 18). -/
def Obligations.StreamSlabs : Prop :=
  ∀ (s : State) (tm : Team) (m : MSlot) (t : BitVec 2) (a b : BitVec 5) (k : BitVec 6) (n u e v c : BitVec 1) (r : BitVec 2),
    slotNow s = some (tm, m) →
    let g := slotAgent tm m
    let slab := (progress m).2.2
    let rows := fun (w : MSlot) (view : Nat) (f : Nat → List Nat) =>
      (∀ i, i < 16 → accRow w (tileRow view t.toNat (16 * slab + i)) = BitVec.ofNat 4096 (packRow view (f i))) ∧
      ∀ x, (∀ i, i < 16 → x ≠ tileRow view t.toNat (16 * slab + i)) → accRow w x = accRow m x
    let moved := fun (w : MSlot) (slabs : Nat) =>
      if slab + 1 < slabs then w.spc = m.spc ∧ progress w = (0, 0, slab + 1) else w.spc = m.spc + 4 ∧ w.mrp = 0
    (∀ (i : Instr) (w : MulWord), (i, w) ∈ ([
        (.mma t a b k n u e, ⟨t.toNat, a.toNat, b.toNat, k.toNat + 1, e == 1, u == 1, n == 1, false, false⟩),
        (.mmas t a b k n u, ⟨t.toNat, a.toNat, b.toNat, k.toNat + 1, false, u == 1, n == 1, true, false⟩),
        (.mmax t a b k n u e, ⟨t.toNat, a.toNat, b.toNat, k.toNat + 1, e == 1, u == 1, n == 1, false, true⟩)] :
          List (Instr × MulWord)) →
      (mulOperands m w = none → exec i s = .next (stopSlot s tm m (.kind 4 a.toNat))) ∧
      (∀ da db q, mulOperands m w = some (da, db, q) → let s1 := touchPages s g (mulPages m w da db q)
        (∀ x, mulBlocks s1 tm m w da db q = .error x → exec i s = .next (stopSlot s tm m x)) ∧
        (∀ as bs, mulBlocks s1 tm m w da db q = .ok (as, bs) →
          let T := tileSize q.view
          let ks := if w.sparse then 2 * q.ks else q.ks
          ∃ (t : State) (y : MSlot), exec i s = .next t ∧ (findTeam t tm.id).bind Team.mslot = some y ∧
            (m.ranged = true ∨ w.range = false → SameMemory s t) ∧
            rows y q.view (fun j => mulRow (tileFmt q.view) w.neg (as.getD j ⟨[], false, 127⟩) bs
              (rowElems q.view (accRow m (tileRow q.view w.tile (16 * slab + j))))) ∧
            (slab + 1 < T / 16 → y.spc = m.spc ∧ progress y = ((progress m).1, (progress m).2.1, slab + 1) ∧ y.koff = m.koff) ∧
            (T / 16 ≤ slab + 1 → (progress m).2.1 + 1 < ks / q.n →
              y.spc = m.spc ∧ progress y = ((progress m).1, (progress m).2.1 + 1, 0) ∧ y.koff = m.koff) ∧
            (T / 16 ≤ slab + 1 → ks / q.n ≤ (progress m).2.1 + 1 →
              (∀ h, koffOf y h = if h = a.toNat ∨ h = b.toNat then koffOf m h + BitVec.ofNat 32 ks else koffOf m h) ∧
              ((progress m).1 + 1 < w.n → y.spc = m.spc ∧ progress y = ((progress m).1 + 1, 0, 0)) ∧
              (w.n ≤ (progress m).1 + 1 → y.spc = m.spc + 4 ∧ y.mrp = 0))))) ∧
    (let box := tileBox m v.toNat t.toNat a.toNat (if v = 1 then [9] else [8, 10, 11]);
      (box = none → exec (.mlda t a v e) s = .next (stopSlot s tm m (.kind 4 a.toNat))) ∧
      ∀ d xs, box = some d → let cs := slabCoords m d v.toNat (e == 1)
        let s1 := touchPages s g (coordPages d (cs.flatMap Prod.snd))
        rowReads s1 g (coreDie tm.core) d cs = .ok xs →
        ∃ w, exec (.mlda t a v e) s = .next (putSlot s1 tm.id w) ∧ moved w (tileSize v.toNat / 16) ∧
          rows w v.toNat (fun i => (xs.getD i []).map (fun x => if hdType d = 8 ∨ hdType d = 9 then x
            else refmt ((elemFmt (hdType d)).getD .f32) .f32 plainRound x))) ∧
    (let box := tileBox m v.toNat t.toNat a.toNat (if v = 1 then [9, 8] else [8, 11, 10, 12, 13]);
      (box = none → exec (.msta t a v c r e) s = .next (stopSlot s tm m (.kind 4 a.toNat))) ∧
      ∀ d xs, box = some d → let cs := slabCoords m d v.toNat (e == 1)
        let s1 := touchPages s g (coordPages d (cs.flatMap Prod.snd))
        let rnd : RMode := ⟨if r = 0 then 0 else if r = 1 then 1 else 6, c == 1, false⟩
        let outs := cs.flatMap (fun x => (x.2.zip (tileElems m v.toNat t.toNat x.1)).filterMap (fun p =>
          if inTensor d p.1 then some ((hdAddr d p.1).1, natLe (halfBytes (hdType d) / 2)
            (refmt (tileFmt v.toNat) ((elemFmt (hdType d)).getD .f32) rnd p.2)) else none))
        checkStores s1 g outs = .ok xs → NoWindows s → NoArms s → rerunning tm = false →
        (∀ x ∈ xs, ∃ p, x.parts = [(p, x.data.length)] ∧ isLocal (coreModule tm.core) (p, 1) = true) →
        ∃ (z : State) (w : MSlot), exec (.msta t a v c r e) s = .next z ∧ (findTeam z tm.id).bind Team.mslot = some w ∧
          moved w (tileSize v.toNat / 16) ∧ w.acc = m.acc ∧
          ∀ p, p < digestAddr tm.core tm.bank tm.slot ∨ digestAddr tm.core tm.bank tm.slot + 32 ≤ p →
            rdByte z p = landed s p (lastByte xs p)) ∧
    ((mcmpOperands m a.toNat b.toNat = none → exec (.mcmp a b k) s = .next (stopSlot s tm m (.kind 4 a.toNat))) ∧
      ∀ ds dd q vals xs, mcmpOperands m a.toNat b.toNat = some (ds, dd, q) →
        let rws := (List.range 16).map (fun i => (16 * slab + i, (List.range q.ks).map (fun j =>
          operandCoord ds 0 (koffOf m a.toNat).toNat (16 * slab + i) j)))
        let s1 := touchPages s g (coordPages ds (rws.flatMap Prod.snd))
        rowReads s1 g (coreDie tm.core) ds rws = .ok vals →
        let outs := (vals.zipIdx (16 * slab)).flatMap (fun x =>
          compressRow dd ((elemFmt (hdType ds)).getD .f32) (koffOf m b.toNat).toNat x.2 x.1)
        checkStores (touchPages s1 g (outs.map Prod.fst)) g outs = .ok xs → NoWindows s → NoArms s → rerunning tm = false →
        (∀ x ∈ xs, ∃ p, x.parts = [(p, x.data.length)] ∧ isLocal (coreModule tm.core) (p, 1) = true) →
        ∃ (z : State) (w : MSlot), exec (.mcmp a b k) s = .next z ∧ (findTeam z tm.id).bind Team.mslot = some w ∧ w.acc = m.acc ∧
          (slab + 1 < 8 → w.spc = m.spc ∧ progress w = ((progress m).1, 0, slab + 1) ∧ w.koff = m.koff) ∧
          (8 ≤ slab + 1 → ∀ h, koffOf w h = if h = a.toNat ∨ h = b.toNat then koffOf m h + BitVec.ofNat 32 q.ks else koffOf m h) ∧
          ∀ p, rdByte z p = landed s p (lastByte xs p))

/-- The descriptor edits, the completion ring and the issue of copies (11_copy.md R247, R248, R253 to R255, R260 to
R262): with no lane active each only goes on. HDEF changes the fields it names of one descriptor; CRPOP takes the
oldest record, or zeros; CPA and the tile operations take a sequence number and one flight, and a full engine holds. Those
that read scratchpad are held until what orders the read is performed (08_ordering.md R181). A tile operation whose
descriptor or list an error has taken makes no flight (R263). -/
def Obligations.CopyWords : Prop :=
  ∀ (s : State) (x y z : BitVec 5) (l : BitVec 4), NoWindows s → NoArms s →
    let xv := rs s x.toNat + limOffset s
    let v := xv.toNat
    let yv := (rs s y.toNat).toNat
    let desc := fun (i : Nat) => BitVec.ofNat 512 (rdNat s (teamSpad s.team + 64 * i) 64)
    let held := fun (ps : List (Nat × Nat)) =>
      (.next (hold s (.performed ((orderAfter s ps false true).filter (fun k => !performedAt s 1 k)) 0)) :
        Host.Outcome State Fault Refusal)
    (active s = 0 → ∀ i ∈ ([.hdefChk y z l, .hdefBase x y l, .hdefOrg x y l, .hdefAdv x y l, .hdefOrgh x y l, .crset x y l,
      .crpop z l, .crpopSeq z l, .crpopDrop z l] : List Instr), exec i s = .next (adv s)) ∧
    (active s ≠ 0 → yv < 2 ^ 16 → 64 * yv + 64 ≤ s.team.spadBytes → ¬ InOrder s (ownSpad s (64 * yv) 64) →
      ∀ i ∈ ([.hdefChk y z l, .hdefBase x y l, .hdefOrg x y l, .hdefAdv x y l, .hdefOrgh x y l] : List Instr),
        exec i s = held (ownSpad s (64 * yv) 64)) ∧
    (active s ≠ 0 → yv < 2 ^ 16 → 64 * yv + 64 ≤ s.team.spadBytes → InOrder s (ownSpad s (64 * yv) 64) →
      exec (.hdefChk y z l) s = .next (adv (ws s z.toNat (BitVec.ofNat 64 (reason (desc yv))))) ∧
      (2 ^ 57 ≤ v → exec (.hdefBase x y l) s = .next (trap s Cause.illegal xv (active s))) ∧
      (∀ (i : Instr) (fs : List (Nat × Nat × Nat)), (i, fs) ∈ ([
          (.hdefBase x y l, [(0, 57, v)]), (.hdefOrg x y l, [(128, 32, v), (160, 32, v / 2 ^ 32)]),
          (.hdefAdv x y l, [(128, 32, dField (desc yv) 128 32 + v), (160, 32, dField (desc yv) 160 32 + v / 2 ^ 32)]),
          (.hdefOrgh x y l, [(240, 16, v), (256, 16, v / 2 ^ 16), (272, 16, v / 2 ^ 32)])] :
            List (Instr × List (Nat × Nat × Nat))) → ((∀ a b c, i ≠ .hdefBase a b c) ∨ v < 2 ^ 57) →
        ∃ (t : State) (d : BitVec 512), exec i s = .next (adv t) ∧
          Performed s t (teamSpad s.team + 64 * yv) (natLe 64 d.toNat) ∧
          ∀ k, k < 512 → d.getLsbD k = match fs.find? (fun f => decide (f.1 ≤ k) && decide (k < f.1 + f.2.1)) with
            | some f => f.2.2.testBit (k - f.1)
            | none => (desc yv).getLsbD k)) ∧
    (active s ≠ 0 →
      (∀ e, e = 0 ∨ (1 ≤ e ∧ e ≤ 12) → yv = (if e = 0 then 0 else 2 ^ e) → v % 32 = 0 → v + 32 * yv ≤ s.team.spadBytes →
        exec (.crset x y l) s = .next (adv { s with group := { s.group with
          ringBase := xv.setWidth 32, ringSize := BitVec.ofNat 32 yv, ringHead := 0, ringTail := 0, ringDrop := 0 } })) ∧
      exec (.crpopSeq z l) s = .next (adv (ws s z.toNat (s.group.seq.setWidth 64))) ∧
      exec (.crpopDrop z l) s = .next (adv (ws { s with group := { s.group with ringDrop := 0 } } z.toNat
        (s.group.ringDrop.setWidth 64))) ∧
      (let o := recordOffset s.group s.group.ringHead
        let empty := s.group.ringTail = s.group.ringHead
        (¬ empty → ¬ InOrder s (ownSpad s o 32) → exec (.crpop z l) s = held (ownSpad s o 32)) ∧
        (empty ∨ InOrder s (ownSpad s o 32) → ∃ c, exec (.crpop z l) s = .next (adv { s with
            split := { s.split with s := c }
            group := { s.group with ringHead := if empty then s.group.ringHead else s.group.ringHead + 1 } }) ∧
          ∀ n, cget (fun _ => 0) c n = if z.toNat ≤ n ∧ n < z.toNat + 4 then
            (if empty then 0 else BitVec.ofNat 64 (rdNat s (teamSpad s.team + o + 8 * (n - z.toNat)) 8)) else rs s n))) ∧
    (∀ (d a : BitVec 6) (tg : BitVec 2), operandsBad s (.cpa d a z l tg) = false →
      (active s = 0 → exec (.cpa d a z l tg) s = .next (adv s)) ∧
      (active s ≠ 0 → (∀ k, k < 32 → isActive s k = true →
          (rv s d.toNat k).toNat % 16 = 0 ∧ (rv s d.toNat k).toNat + 32 ≤ s.team.spadBytes) →
        ∃ t f, exec (.cpa d a z l tg) s = .next t ∧ f.kind = .cpa ∧ f.instr = .cpa d a z l tg ∧
          Issued { s with group := { s.group with seq := s.group.seq + 1 } } t f (4 + tg.toNat) ∧ t.split = (adv s).split ∧
          f.scal.headD 0 = s.group.seq.setWidth 64 ∧ SameMemory s t ∧
          f.lanes.map (fun r => (r.lane, r.va, r.parts, r.a)) = (actives s).map (fun k => (k, laneEa s a.toNat z.toNat k,
            [(teamSpad s.team + (rv s d.toNat k).toNat, 32)], BitVec.ofNat 64 (min (rv s (d.toNat + 1) k).toNat 32))))) ∧
    (∀ (u n : BitVec 1) (k : BitVec 5) (i : Instr) (ok : Bool) (a : TileArgs),
      let zv := rs s z.toNat
      (i, ok, a) ∈ ([
        (.tcpy x y z l u n, decide (yv < 2 ^ 16), ⟨0xC2, yv, none, 0, 0, n == 1, false, none, false, u == 1⟩),
        (.tsto x y z l u n, decide (yv < 2 ^ 16), ⟨0xC3, yv, none, 0, 0, n == 1, false, none, false, u == 1⟩),
        (.tred x y z l u n, decide (yv < if u = 1 then 2 ^ 48 else 2 ^ 16),
          ⟨0xC4, yv % 2 ^ 16, none, 0, yv / 2 ^ 16, n == 1, u == 1, none, false, false⟩),
        (.tgth x y z l u n, decide (yv < 2 ^ 43),
          ⟨0xC6, yv % 2 ^ 16, some (yv / 2 ^ 16 % 2 ^ 19), yv / 2 ^ 35 % 2 ^ 8 + 1, 0, n == 1, false, none, true, u == 1⟩),
        (.tsct x y z l k, decide (yv < 2 ^ 59 ∧ (k = 31 ∨ k.toNat < rdvCount s)),
          ⟨0xC5, yv % 2 ^ 16, some (yv / 2 ^ 16 % 2 ^ 19), yv / 2 ^ 35 % 2 ^ 8 + 1, yv / 2 ^ 43, true, false,
            if k = 31 then none else some k.toNat, true, false⟩)] : List (Instr × Bool × TileArgs)) →
      (active s = 0 → exec i s = .next (adv s)) ∧
      (active s ≠ 0 → ok = false → exec i s = .next (trap s Cause.illegal (rs s y.toNat) (active s))) ∧
      (active s ≠ 0 → ok = true → 64 * a.i + 64 ≤ s.team.spadBytes → ¬ InOrder s (issueReads s a) →
        exec i s = held (issueReads s a)) ∧
      (active s ≠ 0 → ok = true → 64 * a.i + 64 ≤ s.team.spadBytes → InOrder s (issueReads s a) →
        issueLost s (ownSpad s (64 * a.i) 64) = none →
        (tileReason (desc a.i) a ≠ 0 → exec i s = .next (trap s Cause.illegal
          (BitVec.ofNat 64 (tileReason (desc a.i) a * 2 ^ 32 + a.i)) (active s))) ∧
        (∀ pa, tileReason (desc a.i) a = 0 → v % 16 = 0 → (hdSwz (desc a.i) ≠ 0 → v % 128 = 0) →
          v + imageBytes (desc a.i) a ≤ s.team.spadBytes →
          (∀ o, a.list = some o → o % 4 = 0 ∧ o + 4 * a.n ≤ s.team.spadBytes) → tileTarget s a zv = .ok pa →
          (engineFull s = true → exec i s = .next { s with
            lim := none, split := { s.split with wait := some (.room .engine), active := false, woke := s.tick } }) ∧
          (∀ va, engineFull s = false → issueLost s (issueReads s a) = some va →
            ∃ t, exec i s = .next (adv t) ∧ t.flights = s.flights ∧ t.fresh = s.fresh + 1) ∧
          (engineFull s = false → issueLost s (issueReads s a) = none → ∃ f : Flight,
            exec i s = .next (adv { s with
              fresh := s.fresh + 1
              flights := s.flights ++ [f]
              group := { s.group with seq := s.group.seq + 1 } }) ∧
            f.kind = .tile ∧ f.instr = i ∧ f.blob = [desc a.i] ∧ f.id = s.fresh ∧ f.pc = s.split.pc ∧ f.path = none ∧
            f.stage = 0 ∧ f.scal.headD 0 = s.group.seq.setWidth 64 ∧ fsc f 4 = v ∧
            f.after = engineAfter s ++ (if a.turn then s.split.trail else []) ∧
            f.lanes.map LaneReq.va = (match a.list with
              | some o => (List.range a.n).map (fun j => rdNat s (teamSpad s.team + o + 4 * j) 4)
              | none => [])))))

/-- The steps of the copy engine (11_copy.md R248, R256, R257, R260, R261, R263): CPA's lanes land in ascending order,
padded to 32 bytes with zeros; a tile operation that can go on takes its step, and one with NOTE whose answers have all
come leaves the engine and writes its record to the ring; a turn that a purge has ended passes the broken mark on, and
one that finds its turn word past it or broken defers a fault and adds nothing. What a tile operation does with one element
of its box (11_copy.md R252, R256, R257): TCPY and TGTH write the image element with the tensor's, or with the fill outside
the tensor; TSTO stores the image's element inside the tensor and nothing outside; TRED adds once. That an operation leaves
the engine and makes its record, with the adds done at other homes in its bytes, only once their answers have come is read
in log 52; which failure of several it raises, in log 53. -/
def Obligations.CopyEngines : Prop :=
  (∀ (s : State) (f : Flight) (g : Group), findFlight s f.id = some f → findGroup s f.team f.grp = some g →
    NoWindows s → NoArms s →
    (∀ (src : LaneReq → List Byte), cpaReady s f = true →
      let u := rememberPages s (copyAgent f) ((f.lanes.filter (fun (l : LaneReq) => l.a != 0)).map LaneReq.va)
      (f.stage ≠ 0 ∨ ∀ e ∈ grantLines (cpaGrants u f), asks u f.die 0 e.2.1 e.1 = none) →
       (∀ l ∈ f.lanes, cpaSource u f l = .ok (src l) ∧ ∃ p, l.parts = [(p, 32)]) →
      ∃ t g', exec (.cpaLand f.id) s = .next t ∧ findFlight t f.id = none ∧ findGroup t f.team f.grp = some g' ∧
        g'.regs = g.regs ∧ g'.preds = g.preds ∧ g'.seq = g.seq ∧ g'.paths = (pathDue g f.id).paths ∧
        ∀ a, rdByte t a = landed s a (f.lanes.foldl (fun x l =>
            match partsByte l.parts (src l ++ List.replicate (32 - (src l).length) 0) a with
            | some b => some b
            | none => x) none)) ∧
    (tileReady s f = true →
      (∃ t, exec (.tileOpComplete f.id) s = .next t) ∧
      (f.stage = 2 → fsc f 13 = 0 → addLost f = none → (∀ r ∈ s.reqs, r.flight ≠ some f.id) → tileOp f.instr ≠ 0xC5 →
        (fsc f 7 = 0 → exec (.tileOpComplete f.id) s = .next (dropFlight s f.id)) ∧
        (∀ tm, fsc f 7 = 1 → findTeam s f.team = some tm → (g.ringTail - g.ringHead).toNat < g.ringSize.toNat →
          ∃ t g', exec (.tileOpComplete f.id) s = .next t ∧ findFlight t f.id = none ∧ findGroup t f.team f.grp = some g' ∧
            g'.regs = g.regs ∧ g'.ringTail = g.ringTail + 1 ∧
            ∀ a, rdByte t a = landed s a (partsByte [(teamSpad tm + recordOffset g g.ringTail, 32)] (natLe 32
              (recordOf f 0 (fsc f 10) (fsc f 12 + (addsDone s f).length) (tileOp f.instr) 0 1).toNat) a)))) ∧
    (turnReady s f = true →
      (∃ t, exec (.tredTurn f.id) s = .next t) ∧
      (tileFlag f 5 = true → turnOf s f ≠ .mine → exec (.tredTurn f.id) s = .next (dropFlight s f.id)) ∧
      (∀ pa k w, tileFlag f 5 = true → turnOf s f = .mine → check s (copyAgent f) .atomic (fsc f 5) 4 = .ok ⟨[(pa, 4)], k, w⟩ →
        isLocal (dieModule f.die) (pa, 4) = true → (tileFlag f 4 = false ∨ w = true) →
        (∀ i ∈ f.after, performedAt s 5 i = true) → lineWrites s [(pa, 4)] = [] → ∃ t, exec (.tredTurn f.id) s = .next t ∧ findFlight t f.id = none ∧
          (∀ a, rdByte t a = landed s a (partsByte [(pa, 4)] (natLe 4 ((fsc f 6 + 2 ^ 31) % 2 ^ 32)) a)) ∧
          SameFocus s t) ∧
      (tileFlag f 5 = false → turnOf s f = .broken → ∃ t g', exec (.tredTurn f.id) s = .next t ∧
        findFlight t f.id = none ∧ findGroup t f.team f.grp = some g' ∧ g'.regs = g.regs ∧
        ∃ d ∈ g'.faults, d.id = f.id ∧ d.cause = Cause.deferredCopy ∧ d.defpc = f.pc ∧ d.at_ = .anyWait))) ∧
  (∀ (f : Flight) (a : TileAcc) (b : List Nat) (c : Coord) (v : Nat), a.fail = none → NoWindows a.s → NoArms a.s →
    let h := halfBytes (hdType (tileDesc f))
    let n := h / 2
    h ≠ 1 → v < 2 ^ (8 * n) →
    ((if inTensor (tileDesc f) c then tensorElem a.s f c = .ok v else v = fillOf (tileDesc f)) →
      let t := copyIn f a (b, c)
      t.fail = none ∧ t.half = a.half + h ∧ Performed a.s t.s (imagePlace f b).1 (natLe n v)) ∧
    (inTensor (tileDesc f) c = false → copyOut f a (b, c) = a ∧ addOut f a (b, c) = a) ∧
    (∀ pa g, inTensor (tileDesc f) c = true → imageRead a.s f b = .ok v → g.parts = [(pa, n)] →
      isLocal (dieModule f.die) (pa, n) = true → tileFlag f 4 = false →
      (check a.s (copyAgent f) .write (hdAddr (tileDesc f) c).1 n = .ok g →
        (copyOut f a (b, c)).fail = none ∧ Performed a.s (copyOut f a (b, c)).s pa (natLe n v)) ∧
      (check a.s (copyAgent f) .atomic (hdAddr (tileDesc f) c).1 n = .ok g → poisoned a.s pa n = false →
        CopiesClean a.s pa n →
        (addOut f a (b, c)).fail = none ∧ Performed a.s (addOut f a (b, c)).s pa
          (natLe n (match elemFmt (hdType (tileDesc f)) with
            | some k => roundTo k plainRound 0 (fadd 0 (decodeF k (rdNat a.s pa n)) (decodeF k v))
            | none => (rdNat a.s pa n + v) % 2 ^ (8 * n))))))

/-- The work instructions (12_work.md R279, R284 to R292; 13_fabric.md R312): with no lane active each only goes on, and
those of worker teams are ILLEGAL in another team. MBXGET takes the bound job and opens its digest; JOBDONE, EVQRY,
EVSIG and EVARM hold their split for their outcome, and an operand that names no event is ILLEGAL, unless EVSIG, a release,
delivers the fault of an uncertain store first (00_scope.md R8); FIXUP, OPAPP and LMAP do what their operands say, OPAPP once
its stream's control block is free. Of a Cupping re-run, EVSIG signals nothing and abandons the run (15_checking.md R362,
R364). That FIXUP takes a number of SEQ is read in log 53. -/
def Obligations.WorkWords : Prop :=
  ∀ (s : State) (x y z : BitVec 5) (l : BitVec 4) (h : BitVec 1) (n : BitVec 3),
    let xv := rs s x.toNat + limOffset s
    let yv := rs s y.toNat
    let tm := s.team
    let workers : List Instr := [.mbxget z l, .mbxgetSp y z l, .mbxarm y, .mbxarmCancel y z, .jobdone, .fixup x z]
    let who := some (tm.id, s.group.num, s.split.num)
    (active s = 0 → ∀ i ∈ workers ++ [.evsigAdd x y, .evsigReset x y z, .evarm x y z, .evarmCancel y z, .evqry x z l h,
      .opapp x y z l, .lmap y z l n], exec i s = .next (adv s)) ∧
    (active s ≠ 0 → tm.worker = false → ∀ i ∈ workers, exec i s = .next (illegal s i.word)) ∧
    (active s ≠ 0 → tm.worker = true →
      (jobTaken s = true → ∀ i ∈ ([.mbxget z l, .mbxgetSp y z l] : List Instr),
        exec i s = .next (trap s Cause.illegal (jobSeq s) (active s))) ∧
      (jobTaken s = false → exec .jobdone s = .next (trap s Cause.illegal 0 (active s)) ∧
        exec (.fixup x z) s = .next (trap s Cause.illegal 0 (active s))) ∧
      (tm.job = none →
        (∃ c, exec (.mbxget z l) s = .next (adv { s with split := { s.split with s := c } }) ∧
          ∀ k, cget (fun _ => 0) c k = if z.toNat ≤ k ∧ k < z.toNat + 8 then 0 else rs s k) ∧
        (yv.toNat % 64 = 0 → yv.toNat + 64 ≤ tm.spadBytes → exec (.mbxgetSp y z l) s = .next (adv (ws s z.toNat 0)))) ∧
      (∀ j, tm.job = some j → j.taken = false →
        (∃ t c, exec (.mbxget z l) s = .next t ∧
          t.split = { (adv s).split with s := c } ∧ t.group = s.group ∧ t.team = { tm with job := some { j with taken := true } } ∧
          (∀ k, cget (fun _ => 0) c k = if z.toNat ≤ k ∧ k < z.toNat + 8 then
            BitVec.ofNat 64 (j.desc.toNat / 2 ^ (64 * (k - z.toNat))) else rs s k) ∧
          (getCore t tm.core).mailbox = (getCore s tm.core).mailbox.filter (fun e => e.2 != tm.id) ∧
          (let d := teamDigest t tm.core tm.bank tm.slot;
            d.isOpen = true ∧ d.curseq = j.seq ∧ d.curd = 0 ∧ d.ncon = 0 ∧ d.void = false ∧ d.skip = false)) ∧
        (yv.toNat % 64 = 0 → yv.toNat + 64 ≤ tm.spadBytes → InOrder s (ownSpad s yv.toNat 64) → PlainBytes s (teamSpad tm + yv.toNat) 64 →
          NoWindows s → NoArms s →
          ∃ t, exec (.mbxgetSp y z l) s = .next t ∧ t.split = (adv (ws s z.toNat 1)).split ∧ t.group = s.group ∧
            t.team = { tm with job := some { j with taken := true } } ∧ rdNat t (teamSpad tm + yv.toNat) 64 = j.desc.toNat ∧
            (getCore t tm.core).mailbox = (getCore s tm.core).mailbox.filter (fun e => e.2 != tm.id))) ∧
      (∀ j, tm.job = some j → j.taken = true →
        (∃ f : Flight, exec .jobdone s = .next { s with
            lim := none, fresh := s.fresh + 1, flights := s.flights ++ [f]
            split := { s.split with wait := some (.flight f.id), active := false, woke := s.tick } } ∧
          f.kind = .jobdone ∧ f.id = s.fresh ∧ f.team = tm.id ∧ f.after = [] ∧ f.stage = 0) ∧
        (∀ pa, djKind j.desc = 1 → xv.toNat % 16 = 0 → xv.toNat + 4 * djTm j.desc * djTn j.desc ≤ tm.spadBytes →
          (rs s z.toNat = 0 ∧ pa = 0 ∨ rs s z.toNat ≠ 0 ∧ checkObject s (rs s z.toNat) .write false = .ok pa ∧
            teamSpad tm ≤ pa ∧ pa + 16 ≤ teamSpad tm + tm.spadBytes) →
          (engineFull s = true → exec (.fixup x z) s = .next (hold s (.room .engine))) ∧
          (engineFull s = false → ∃ f : Flight, exec (.fixup x z) s = .next (adv { s with
              fresh := s.fresh + 1, flights := s.flights ++ [f], group := { s.group with seq := s.group.seq + 1 } }) ∧
            f.kind = .fixup ∧ f.id = s.fresh ∧ f.blob = [j.desc] ∧ fsc f 4 = xv.toNat ∧ f.after = engineAfter s))) ∧
      (∀ opa, checkObject s yv .write true = .ok opa → (getBar s opa).armed = false → NoWindows s →
        let pa := mailOf s tm.core tm.id
        poisoned s pa 64 = false → ∃ t, exec (.mbxarm y) s = .next t ∧ t.split = (adv s).split ∧ t.group = s.group ∧
          t.team = tm ∧ SameOutside s t opa 16 ∧
          (tm.job = none → getBar t opa = { getBar s opa with armed := true, armk := 3 } ∧
            ∃ a ∈ (getDie t (armDie pa)).arms, a.object = opa ∧ a.cond = .mailbox tm.id) ∧
          (tm.job ≠ none → getBar t opa = ({ getBar s opa with armed := false, armk := 0 } : Bar).arrive.complete))) ∧
    (active s ≠ 0 → ∀ i ∈ ([.evarmCancel y z] ++ if tm.worker then [.mbxarmCancel y z] else [] : List Instr),
      ∀ opa, checkObject s yv .write true = .ok opa →
        ((∀ e ∈ s.dies, ∀ a ∈ e.2.arms, a.object ≠ opa) →
          exec i s = .next (adv (ws (touch s (me s) yv.toNat 16) z.toNat 0))) ∧
        ((∃ e ∈ s.dies, ∃ a ∈ e.2.arms, a.object = opa) → NoWindows s → ∃ t, exec i s = .next t ∧ rs t z.toNat = 1 ∧
          t.split.pc = nextPc s ∧ t.group = s.group ∧ getBar t opa = { getBar s opa with armed := false, armk := 0 })) ∧
    (active s ≠ 0 →
      let k : Int := (rs s x.toNat).toNat % 2 ^ 18 + (limOffset s).toInt
      let named := (rs s x.toNat).toNat < 2 ^ 32 ∧ 0 ≤ k ∧ k < 2 ^ 18
      let e : Word := xv.setWidth 32
      (¬ named → ∀ i ∈ ([.evqry x z l h, .evarm x y z] ++
          (if dueFault s .fence = none then [.evsigAdd x y, .evsigReset x y z] else []) : List Instr),
        exec i s = .next (trap s Cause.illegal xv (active s))) ∧
      (¬ named → ∀ u, dueFault s .fence = some u → ∀ i ∈ ([.evsigAdd x y, .evsigReset x y z] : List Instr),
        exec i s = .next (deliver s u)) ∧
      (named → evAllowed s (thisModule s) tm.vi e = true →
        (∀ (i : Instr) (k : MsgKind), (i, k) ∈ ([(.evsigAdd x y, .add (yv.toNat % 2 ^ 32)),
            (.evsigReset x y z, .reset ((rs s z.toNat).setWidth 32) yv.toNat)] : List (Instr × MsgKind)) →
          ((∀ a b c, i ≠ .evsigReset a b c) ∨ 1 ≤ yv.toNat ∧ yv.toNat < 2 ^ 16) → Released s 5 [] →
          (rerunning tm = true → exec i s = .next (adv (markRerun s tm.id))) ∧
          (rerunning tm = false → ∃ t, exec i s = .next t ∧
            t.split = { (adv s).split with wait := some (.message s.fresh) } ∧ t.group = s.group ∧ t.team = tm ∧
            SameMemory s t ∧
            (evModule e = thisModule s → t.msgs = s.msgs ++ [⟨s.fresh, e, tm.vi, k, [], who, s.split.pc⟩] ∧ t.reqs = s.reqs) ∧
            (evModule e ≠ thisModule s → (∀ r ∈ s.reqs, r.id < s.fresh) → t.msgs = s.msgs ∧ ∃ r, t.reqs = s.reqs ++ [r] ∧ r.id = s.fresh ∧
              r.kind = .event e k ∧ r.tgt = evModule e ∧ r.vi = some tm.vi))) ∧
        (∃ t f, exec (.evqry x z l h) s = .next t ∧ t.flights = s.flights ++ [f] ∧ f.kind = .load ∧ f.id = s.fresh ∧
          f.path = none ∧ f.lanes.map LaneReq.parts = [[(eventAddr e.toNat + 8 * h.toNat, 8)]] ∧ t.group = s.group ∧
          t.split = { (adv s).split with wait := some (.flight f.id), active := false, woke := s.tick } ∧ SameMemory s t) ∧
        (∀ opa, checkObject s yv .write true = .ok opa → (getBar s opa).armed = false → NoWindows s →
          let u := touch s (me s) yv.toNat 16
          let q : Word := (rs s z.toNat).setWidth 32
          (freeWaiter s (evDie e) = none → exec (.evarm x y z) s = .next (hold u (.room (.waiters (evDie e))))) ∧
          (freeWaiter s (evDie e) ≠ none → ∃ t, exec (.evarm x y z) s = .next t ∧ t.group = s.group ∧ t.team = tm ∧
            t.split = { (adv s).split with wait := some (.message (s.fresh + 1)) } ∧ SameOutside s t opa 16 ∧
            getBar t opa = { getBar s opa with armed := true, armk := 1 } ∧
            (∃ a ∈ (getDie t (thisDie s)).arms, a.object = opa ∧ a.cond = .event e q) ∧
            (evModule e = thisModule s →
              t.msgs = s.msgs ++ [⟨s.fresh + 1, e, tm.vi, .subscribe q (thisDie s), [], who, s.split.pc⟩]))))) ∧
    (active s ≠ 0 → yv.toNat % 64 = 0 → yv.toNat + 64 ≤ tm.spadBytes → InOrder s (ownSpad s yv.toNat 64) →
      let d := BitVec.ofNat 512 (rdNat s (teamSpad tm + yv.toNat) 64)
      let rest := tm.maps.filter (fun e => e.1 != n.toNat)
      exec (.lmap y z l n) s = .next (adv (ws { s with team := { tm with
        maps := if lmReason d = 0 then (n.toNat, d) :: rest else rest } } z.toNat (BitVec.ofNat 64 (lmReason d))))) ∧
    (∀ st g, active s ≠ 0 → xv.toNat < 16 → findStream s (thisModule s) tm.vi xv.toNat = some st → st.dev = true →
      yv.toNat % 32 = 0 → yv.toNat + 32 ≤ tm.spadBytes → InOrder s (ownSpad s yv.toNat 32) → Released s 5 [] →
      let die := thisDie s
      check s (dieAgent die tm.vi) .write st.scb.toNat 64 = .ok g →
      let tail := (dieRead s die tm.vi (st.scb.toNat + 24) 4).getD 0
      let head := (dieRead s die tm.vi (st.scb.toNat + 28) 4).getD 0
      let slot := st.base.toNat + 32 * (tail % 2 ^ st.log2)
      (scbFree s g.parts = false → exec (.opapp x y z l) s = .next (hold s (.room (.stream g.parts)))) ∧
      (scbFree s g.parts = true → (tail + 2 ^ 32 - head) % 2 ^ 32 = 2 ^ st.log2 →
        exec (.opapp x y z l) s = .next (adv (ws s z.toNat (BitVec.ofNat 64 (2 ^ 64 - 1))))) ∧
      (∀ pa ta k, scbFree s g.parts = true → (tail + 2 ^ 32 - head) % 2 ^ 32 ≠ 2 ^ st.log2 → NoWindows s → NoArms s →
        rerunning tm = false →
        check s (dieAgent die tm.vi) .write slot 32 = .ok ⟨[(pa, 32)], k, false⟩ → isLocal (dieModule die) (pa, 32) = true →
        dieParts s die tm.vi .write (st.scb.toNat + 24) 4 = some [(ta, 4)] → isLocal (dieModule die) (ta, 4) = true →
        PlainBytes s pa 32 → PlainBytes s ta 4 → lineWrites s [(pa, 32), (ta, 4)] = [] → (ta + 4 ≤ pa ∨ pa + 32 ≤ ta) →
        ∃ t, exec (.opapp x y z l) s = .next t ∧ t.split = (adv (ws s z.toNat (BitVec.ofNat 64 tail))).split ∧
          t.group = s.group ∧ t.team = tm ∧ rdBytes t pa 32 = rdBytes s (teamSpad tm + yv.toNat) 32 ∧
          rdNat t ta 4 = (tail + 1) % 2 ^ 32 ∧
          ∀ a, (a < pa ∨ pa + 32 ≤ a) → (a < ta ∨ ta + 4 ≤ a) → rdByte t a = rdByte s a))

/-- The messages of an event (12_work.md R280 to R282): a subscription is answered at once when its condition holds
and is chained otherwise; an add saturates, a reset starts the sequence again, POIS stays set; each completes the
waiters whose condition then holds, by a message within the module and by a request to another, and tells the die's own
Col, whose jobs hold no subscription there (20_programs_system.md R412); a notification satisfies the inputs of the die's
jobs. The order of a waiter chain is the model's choice (log 15). -/
def Obligations.EventSteps : Prop :=
  ∀ (s : State) (m : Msg), findMsg s m.id = some m → msgReady s m = true → NoArms s →
    let e := getEv s m.name
    let home := evDie m.name
    (∀ q col, m.kind = .subscribe q col → m.who = none → dieModule col = evModule m.name → freeWaiter s home ≠ none →
      ((e.satisfied q || e.pois) = true → exec (.eventSubscribe m.id) s = .next { dropMsg s m.id with
        fresh := s.fresh + 1
        msgs := (dropMsg s m.id).msgs ++ [⟨s.fresh, m.name, m.vi, .notify q col e.pois, [], none, 0⟩] }) ∧
      ((e.satisfied q || e.pois) = false → ∃ t n, exec (.eventSubscribe m.id) s = .next t ∧ freeWaiter s home = some n ∧
        (getDie t home).waiters = (getDie s home).waiters ++ [⟨n, m.name, q, some col, none⟩] ∧
        getEv t m.name = { e with waith := (getEv t m.name).waith } ∧ SameOutside s t (eventAddr m.name.toNat) 16 ∧
        SameFocus s t ∧ t.msgs = (dropMsg s m.id).msgs)) ∧
    (∀ e' : Ev, ((∃ n, m.kind = .add n ∧ e' = { e with count := BitVec.ofNat 32 (min (e.count.toNat + n) (2 ^ 32 - 1)) }) ∨
        (∃ q n, m.kind = .reset q n ∧ e' = { e with oseq := q, count := 0, thresh := BitVec.ofNat 16 n, pois := false }) ∨
        (m.kind = .poison ∧ e' = { e with pois := true })) → ((getDie s home).waiters.map Waiter.num).Nodup →
      poisoned s (eventAddr m.name.toNat) 16 = false →
      ∃ t, exec (.eventHomeUpdate m.id) s = .next t ∧ SameFocus s t ∧ SameOutside s t (eventAddr m.name.toNat) 16 ∧
        (getDie t home).waiters = (getDie s home).waiters.filter (fun w => !(w.name == m.name && (e'.satisfied w.q || e'.pois))) ∧
        getEv t m.name = { e' with waith := match (getDie t home).waiters.find? (fun w => w.name == m.name) with
          | none => 0xFFFF
          | some w => BitVec.ofNat 16 w.num } ∧
        (∀ w ∈ (getDie s home).waiters, ∀ c, w.name = m.name → (e'.satisfied w.q || e'.pois) = true → w.col = some c →
          if dieModule c = evModule m.name then ∃ n ∈ t.msgs, n.name = m.name ∧ n.kind = .notify w.q c e'.pois
          else ∃ r ∈ t.reqs, r.kind = .event m.name (.notify w.q c e'.pois)) ∧
        ∀ j ∈ (getDie s home).jobs, ∀ q, j.stage = .waiting → inputOpen j (m.name, q) = true → (e'.satisfied q || e'.pois) = true →
          ∃ n ∈ t.msgs, n.name = m.name ∧ n.kind = .notify q home e'.pois) ∧
    (∀ q col, m.kind = .notify q col true → ∃ t, exec (.eventNotify m.id) s = .next t) ∧
    (∀ q col, m.kind = .notify q col false → ∃ t, exec (.eventNotify m.id) s = .next t ∧ SameFocus s t ∧ SameMemory s t ∧
      t.msgs = (dropMsg s m.id).msgs ∧
      (getDie t col).jobs = (getDie s col).jobs.map (satisfyJob s.tick (m.name, q)) ∧
      ∀ j, inputOpen j (m.name, q) = true → j.stage = .waiting → let k := satisfyJob s.tick (m.name, q) j
        k.done = (m.name, q) :: j.done ∧
          (k.stage = .ready ↔ ∀ i ∈ j.inputs, i = (m.name, q) ∨ i ∈ j.done) ∧ k.desc = j.desc)

/-- The life of a job (12_work.md R272 to R277, R283, R287, R292; 15_checking.md R363, R364): a record is expanded or
refused, a ready job is bound to the lowest free entry of a mailbox, JOBDONE closes the digest and gives up the job,
FIXUP is released, and a re-run that is never bound leaves its verdict undecided. Which ready job a Col binds first
is read in log 54. -/
def Obligations.JobSteps : Prop :=
  (∀ (s : State) (die vi num : Nat) (st : Stream), (getDie s die).streams.find? (fun x => x.vi == vi && x.num == num) = some st →
    expandReady s die st = true → NoWindows s → NoArms s →
    (∀ head, nextRecord s die st = some (none, head) → st.skip ≠ some st.next → ∃ t r, exec (.opExpand die vi num) s = .next t ∧
      t.reports = s.reports ++ [r] ∧ r.code = 4 ∧ r.reason = 9 ∧ r.vi = st.vi) ∧
    (∀ r head, nextRecord s die st = some (some r, head) → st.skip ≠ some st.next → st.hand = none →
      let ws := producers s die st head r
      let code := refusal s die st r ws
      (code ≠ 0 → ∃ t p, exec (.opExpand die vi num) s = .next t ∧ t.reports = s.reports ++ [p] ∧ p.code = 4 ∧ p.reason = code ∧
        p.vi = st.vi ∧ p.arg0 = BitVec.ofNat 64 st.num ∧ p.arg1 = st.next.setWidth 64 ∧ (getDie t die).jobs = (getDie s die).jobs) ∧
      (code = 0 → tagDead s (dieModule die) st.vi r.rtag = false → (ownPieces die st r).length ≤ jobRoom s die → ∃ t new, exec (.opExpand die vi num) s = .next t ∧
        (getDie t die).jobs = (getDie s die).jobs ++ new ∧
        new.map Job.number = ((recordPieces r).zipIdx 0).filterMap (fun e =>
          if ownsTile (dieModule die) st.dmask die e.1.tile then some e.2 else none) ∧
        (∀ j ∈ new, j.vi = st.vi ∧ j.prio = r.prio ∧ j.done = [] ∧
          j.stage = (if j.inputs.isEmpty then JobStage.ready else .waiting)) ∧
        ∃ u ∈ (getDie t die).streams, u.vi = st.vi ∧ u.num = st.num ∧ u.next = st.next + 1))) ∧
  (∀ (s : State) (die core tid : Nat) (j : Job), nextJob s die = some (j, core, tid) → NoArms s →
    ∃ t e tm, exec (.jobPlace die) s = .next t ∧ e < 64 ∧ (∀ m ∈ (getCore s core).mailbox, m.1 ≠ e) ∧
      (∀ k, k < e → ∃ m ∈ (getCore s core).mailbox, m.1 = k) ∧
      (getCore t core).mailbox = (getCore s core).mailbox ++ [(e, tid)] ∧ rdNat t (mailAddr core e) 64 = j.desc.toNat ∧
      SameOutside s t (mailAddr core e) 64 ∧ findTeam t tid = some tm ∧ tm.job = some ⟨j.desc, djSeq j.desc, die, false, j.cup⟩) ∧
  (∀ (s : State) (f : Flight) (tm : Team) (h : HeldJob), findFlight s f.id = some f → findTeam s f.team = some tm →
    tm.job = some h → jobdoneReady s f tm = true → NoArms s →
    (∃ t, exec (.jobdoneRetire f.id) s = .next t) ∧
    (f.stage = 0 → h.rerun = none → evModule (jobEvent h.desc) = coreModule tm.core →
      ∃ t tm', exec (.jobdoneRetire f.id) s = .next t ∧ findFlight t f.id = none ∧ findTeam t f.team = some tm' ∧ tm'.job = none ∧
        let d := teamDigest t tm.core tm.bank tm.slot
        d.isOpen = false ∧ d.curd = 0 ∧ d.curseq = 0 ∧ d.ncon = 0)) ∧
  (∀ (s : State) (f : Flight) (g : Group), findFlight s f.id = some f → findGroup s f.team f.grp = some g →
    fixupReady s f = true → NoWindows s → NoArms s → let d := f.blob.headD 0
    (fixupEvent s f = some false → ∃ t g', exec (.fixupRelease f.id) s = .next t ∧ findFlight t f.id = none ∧
      findGroup t f.team f.grp = some g' ∧ ∃ x ∈ g'.faults, x.id = f.id ∧ x.cause = Cause.deferredCopy ∧ x.defpc = f.pc) ∧
    (∀ u n, fixupEvent s f = some true →
      let p := rememberPages s (copyAgent f) ((fixupPages f).flatMap (fun p => [p.1, p.1 + p.2 - 1]))
      (f.stage ≠ 0 ∨ ∀ e ∈ grantLines (fixupGrants p f), asks p f.die 0 e.2.1 e.1 = none) → fsc f 7 = 0 →
      fixupRun f d (List.range (djTm d * djTn d)) (fillGrants p f.die 0 (fixupGrants p f)) 0 = (u, n, none) →
      exec (.fixupRelease f.id) s = .next { dropFlight u f.id with reqs := u.reqs.filter (fun r => r.flight != some f.id) } ∧
        n = 4 * (djTm d * djTn d) ∧ SameOutside s u (fsc f 2 + fsc f 4) n ∧ SameFocus s u)) ∧
  (∀ (s : State) (die job : Nat) (c : Cup), (getDie s die).cups.find? (fun x => x.id == job) = some c →
    ∃ t r rest, exec (.cupTimerExpire die job) s = .next t ∧ t.reports = s.reports ++ r :: rest ∧
      r.code = if c.digests.length = 2 ∧ c.bound = none then 0x0A else 0x0B)

/-- Placement of teams (12_work.md R294, R295; 06_control.md R129; 03_integer.md R64): the next team of a launch
stands where the first core in turn has room, its splits at the image's first word with the launch's scalars; with the last
one the launch is over, its reservations go and DONE is written if it was asked for (16_frontend.md R378); a team that bears a
dead tag is ended at once (16_frontend.md R377). Nothing is placed before the image's relocations are performed (02_words.md
R45). A gang is placed whole or not at all, and one that waits first reserves the cores it would take and is then reported.
That a core under a drain receives none is the model's choice (log 20), and so is that a worker grid without the gang bit is
placed team by team (log 69). -/
def Obligations.Placement : Prop :=
  (∀ (s : State) (l : Launch), findLaunch s l.id = some l →
    (fixed s l = false → exec (.teamPlace l.id) s = .fault .notEnabled) ∧
    (fixed s l = true → hdrGang l.header = true → l.next = 0 →
      (shortfall s l ≠ 0 → exec (.teamPlace l.id) s = .fault .notEnabled) ∧
      (shortfall s l = 0 → tagDead s l.module l.vi l.rtag = false → (∀ tm ∈ allTeams s, tm.id < s.fresh) →
        ∃ t, exec (.teamPlace l.id) s = .next t ∧ findLaunch t l.id = none ∧
          ∀ i, i < gridSize l → ∃ tm, findTeam t (s.fresh + i) = some tm ∧ tm.vi = l.vi ∧ tm.teamix = i ∧ tm.cev = l.cev ∧
            tm.groups.length = ((l.roles.map roleGroups).sum) ∧ takesTeams s tm.core = true)) ∧
    (∀ p, fixed s l = true → hdrGang l.header = false → findSpot false (close s) l = some p →
      (∀ tm ∈ allTeams s, tm.id < s.fresh) →
      (tagDead s l.module l.vi l.rtag = false → l.next + 1 = gridSize l →
        ∃ t tm, exec (.teamPlace l.id) s = .next t ∧ findLaunch t l.id = none ∧ findTeam t s.fresh = some tm ∧
          tm.core = p.core ∧ tm.teamix = l.next ∧ (∀ c, (getCore t c).reserved ≠ some l.id) ∧
          (l.notify = false → t.reports = s.reports) ∧
          (l.notify = true → ∃ r, t.reports = s.reports ++ [r] ∧ r.code = 1 ∧ r.vi = l.vi ∧ r.pos = l.pos ∧ r.arg0 = 4)) ∧
      (tagDead s l.module l.vi l.rtag = true → ∃ t, exec (.teamPlace l.id) s = .next t ∧
        ∀ tm, findTeam t s.fresh = some tm → tm.groups = []))) ∧
  (∀ (s : State) (l : Launch) (p : Spot), findLaunch s l.id = some l → fixed s l = true → hdrGang l.header = false →
    findSpot false (close s) l = some p → tagDead s l.module l.vi l.rtag = false → l.next + 1 < gridSize l →
    ∃ t tm, exec (.teamPlace l.id) s = .next t ∧ findTeam t s.fresh = some tm ∧ SameMemory s t ∧
      findLaunch t l.id = some { l with next := l.next + 1, lastCore := some p.core } ∧
      tm.vi = l.vi ∧ tm.core = p.core ∧ tm.bank = p.bank ∧ tm.slot = p.slot ∧ tm.teamix = l.next ∧ tm.cev = l.cev ∧
      tm.spadBytes = 4096 * hdrSpad l.header ∧ tm.rtag = BitVec.ofNat 16 l.rtag ∧ tm.tvec = l.tvec ∧ tm.worker = l.worker ∧
      tm.groups.length = ((l.roles.map roleGroups).sum) ∧
      ∀ g ∈ tm.groups, g.regs = [] ∧ g.preds = [] ∧ g.paths = [] ∧ g.exited = 0 ∧
        g.splits.map Split.mask = (if hdrC16 l.header then [0xFFFF, 0xFFFF0000] else [0xFFFFFFFF]) ∧
        ∀ x ∈ g.splits, x.pc = l.image + 32 ∧ x.tstat = (if l.system then 1 else 0) ∧
          (∀ k, k < 64 → x.mode.getLsbD k = (decide (k = 42) && hdrC16 l.header)) ∧
          ∀ k, cget (fun _ => 0) x.s k = if k = 0 then l.arg else if k = 1 then gridCoord l l.next
            else if k = 2 then packXyz l.ext.1 l.ext.2.1 l.ext.2.2 else 0) ∧
  (∀ (s : State) (l : Launch), findLaunch s l.id = some l → hdrGang l.header = true →
    (l.aged = 0 → ∃ t, exec (.gangAge l.id) s = .next t ∧ findLaunch t l.id = some { l with aged := 1 } ∧ SameMemory s t ∧
      SameFocus s t ∧ ∀ tm ∈ (placeEmpty s l).1.teams, (getCore t tm.core).reserved = some l.id) ∧
    (l.aged = 1 → ∃ t, exec (.gangStarved l.id) s = .next t ∧ findLaunch t l.id = some { l with aged := 2 } ∧
      t.reports = s.reports ++ [mkReport 0x0F l.vi (BitVec.ofNat 64 (shortfall s l)) (l.pos.setWidth 64)] ∧ SameFocus s t))

/-! ## Fabric, checking, system and module -/

/-- The event of rank q of an exchange is at hand: it is homed on the engine's module, or its line has been answered. -/
def Heard (s : State) (f : Flight) (q : Nat) : Prop :=
  evModule (xEvent f q) = dieModule f.die ∨
    ∃ r ∈ s.reqs, r.flight = some f.id ∧ r.acked = true ∧ r.line = lineOf (eventAddr (xEvent f q).toNat)

/-- The fabric's words (13_fabric.md R302, R308, R309, R313): with no lane active each only goes on. RDCF drops this
die's copies and counts them, FQRY reads the ports, the planes and the reach, an exchange takes a sequence number and
a flight that remembers its map, and FPMAP ignores a split's write. The steps of an exchange (13_fabric.md R311,
R314, R315, R318): an element is copied, or for XRS added from the second source on; a rank's elements are written and
then its event is added to; the event of a rank on another module is first asked for; a rank's turn that has passed or is
poisoned faults with the events of the ranks that remain poisoned, and an exchange without ranks left ends. That a split's
write of FPMAP has no effect is read in log 66, the order of an exchange's ranks and the reading of their events in log 57,
and that RDCF, FQRY and the exchanges with no lane active only go on, in log 22. -/
def Obligations.FabricWords : Prop :=
  (∀ (s : State) (x y z : BitVec 5) (l : BitVec 4) (n : BitVec 1) (m : BitVec 3),
    let xv := rs s x.toNat + limOffset s
    let yv := (rs s y.toNat).toNat
    let mod := thisModule s
    let bad := fun (v : DWord) => trap s Cause.illegal v (active s)
    (active s = 0 → ∀ i ∈ ([.rdcfRange x y z l, .rdcfMod y z l, .fqryPort y z l, .fqryPlane y z l, .fqryReach y z l,
      .xa2a x y z l n m, .xag x y z l n m, .xrs x y z l n m] : List Instr), exec i s = .next (adv s)) ∧
    (active s ≠ 0 →
      (∀ (i : Instr) (lim v : Nat), (i, lim, v) ∈ ([
          (.fqryPort y z l, 64, (getPort s (mod * 64 + yv)).retries.toNat * 2 ^ 32 + portPlane yv * 2 ^ 8 +
            (getPort s (mod * 64 + yv)).state * 2 ^ 4 +
            if (getPort s (mod * 64 + yv)).state = 0 then 0 else (getPort s (mod * 64 + yv)).width),
          (.fqryPlane y z l, 8, ((List.range 64).filter (fun p =>
              portPlane p == fpEntry s mod yv % 8 && (getPort s (mod * 64 + p)).state == 2)).length * 2 ^ 8 + fpEntry s mod yv),
          (.fqryReach y z l, 1024, (if yv = mod ∨ yv ∈ (getModule s mod).members then 2 else 0) +
            if answered s mod yv = true then 1 else 0)] : List (Instr × Nat × Nat)) →
        exec i s = .next (if lim ≤ yv then bad (rs s y.toNat) else adv (ws s z.toNat (BitVec.ofNat 64 v)))) ∧
      (2 ^ 32 ≤ yv → exec (.rdcfRange x y z l) s = .next (bad (rs s y.toNat))) ∧
      (2 ^ 10 ≤ yv → exec (.rdcfMod y z l) s = .next (bad (rs s y.toNat))) ∧
      (NoWindows s → yv < 2 ^ 32 → let die := thisDie s
        let lines := (rangeLines xv.toNat yv).filterMap (vaLine s)
        let held := lines.eraseDups.filter (fun line => leased s die line || (getDie s die).rdc.contains line)
        ∃ t, exec (.rdcfRange x y z l) s = .next t ∧ SameMemory s t ∧
          t.split = (adv (ws s z.toNat (BitVec.ofNat 64 held.length))).split ∧ t.group = s.group ∧ t.team = s.team ∧
          (∀ line ∈ lines, leased t die line = false ∧ line ∉ (getDie t die).rdc) ∧
          t.leases = s.leases.filter (fun e => !(e.die == die && lines.contains e.line))) ∧
      (NoWindows s → yv < 2 ^ 10 →
        let mine := fun (e : Lease) => e.die == thisDie s && e.line * 128 / 2 ^ 42 == yv
        ∃ t, exec (.rdcfMod y z l) s = .next t ∧ SameMemory s t ∧ t.group = s.group ∧ t.team = s.team ∧
          t.split = (adv (ws s z.toNat (BitVec.ofNat 64 (s.leases.filter mine).length))).split ∧
          t.leases = s.leases.filter (fun e => !mine e)) ∧
      (∀ (i : Instr) (op : Nat), (i, op) ∈ ([(.xa2a x y z l n m, 1), (.xag x y z l n m, 2), (.xrs x y z l n m, 3)] :
          List (Instr × Nat)) →
        (2 ^ 10 ≤ yv → exec i s = .next (bad (rs s y.toNat))) ∧
        (yv < 2 ^ 10 → lookup s.team.maps m.toNat = none → exec i s = .next (bad (m.setWidth 64))) ∧
        (∀ d, yv < 2 ^ 10 → lookup s.team.maps m.toNat = some d →
          (lmP d ≤ yv → exec i s = .next (bad (rs s y.toNat))) ∧
          (yv < lmP d → xReason op d ≠ 0 →
            exec i s = .next (bad (BitVec.ofNat 64 (xReason op d * 2 ^ 32 + m.toNat)))) ∧
          (yv < lmP d → xReason op d = 0 → xv.toNat % lmEs d ≠ 0 →
            exec i s = .next (trap s Cause.misalign xv (active s))) ∧
          (∀ pa, yv < lmP d → xReason op d = 0 → xv.toNat % lmEs d = 0 →
            (rs s z.toNat = 0 ∧ pa = 0 ∨ rs s z.toNat ≠ 0 ∧ checkObject s (rs s z.toNat) .write false = .ok pa ∧
              teamSpad s.team ≤ pa ∧ pa + 16 ≤ teamSpad s.team + s.team.spadBytes) →
            (exchangeFull s = true → exec i s = .next (hold s (.room .exchange))) ∧
            (exchangeFull s = false → ∃ f : Flight, exec i s = .next (adv { s with
                fresh := s.fresh + 1, flights := s.flights ++ [f], group := { s.group with seq := s.group.seq + 1 } }) ∧
              f.kind = .exchange ∧ f.instr = i ∧ f.id = s.fresh ∧ f.blob = [d] ∧ f.stage = 0 ∧ f.path = none ∧
              f.lanes.map LaneReq.lane = List.range (lmP d) ∧ fsc f 4 = xv.toNat ∧ fsc f 6 = yv ∧
              f.scal.headD 0 = s.group.seq.setWidth 64 ∧ f.after = engineAfter s))))) ∧
    (s.live = true → userMode s = false → exec (.fpmapWrite x) s = .next (adv s))) ∧
  (∀ (s : State) (f : Flight) (first : Bool) (a : XAcc) (src dst : Nat) (g w : Granted) (bs : List Byte), a.fail = none →
    let n := lmEs (xMap f)
    check s (xAgent f) .read src n = .ok g → lostLines s f g.parts = false → engineRead s f.die g.parts = .ok bs →
    check s (xAgent f) .write dst n = .ok w →
    (xOp f.instr ≠ 3 ∨ first = true →
      moveElem s f first a (src, dst) = { a with out := ⟨dst, w.parts, bs, w.window, []⟩ :: a.out }) ∧
    (∀ old, xOp f.instr = 3 → first = false → engineRead s f.die w.parts = .ok old →
      moveElem s f first a (src, dst) = { a with out := ⟨dst, w.parts, natLe n (match elemFmt (lmType (xMap f)) with
        | some k => roundTo k plainRound 0 (fadd 0 (decodeF k (leNat old)) (decodeF k (leNat bs)))
        | none => (leNat old + leNat bs) % 2 ^ (4 * halfBytes (lmType (xMap f)))), w.window, []⟩ :: a.out })) ∧
  (∀ (s : State) (f : Flight) (g : Group), findFlight s f.id = some f → findGroup s f.team f.grp = some g →
    (exchangeReady s f = true →
      (∃ t, exec (.exchangeComplete f.id) s = .next t) ∧
      (f.stage = 0 → f.lanes = [] → fsc f 7 = 0 → (∀ r ∈ s.reqs, r.flight ≠ some f.id) →
        exec (.exchangeComplete f.id) s = .next (dropFlight s f.id)) ∧
      (f.stage = 1 → tileFlag f 4 = false → NoWindows s → NoArms s → let q := fsc f 9
        let e := xEvent f q
        let ev := eventAddr e.toNat
        let a := (xFlightElems f q).foldl (moveElem s f (fsc f 6 == 0)) ⟨[], none⟩
        a.fail = none → (∀ x ∈ a.out, ∃ p, x.parts = [(p, x.data.length)] ∧ isLocal (dieModule f.die) (p, 1) = true ∧
          (p + x.data.length ≤ ev ∨ ev + 16 ≤ p)) →
        evAllowed s (dieModule f.die) f.vi e = true → evModule e = dieModule f.die →
        ∃ t f', exec (.exchangeComplete f.id) s = .next t ∧ findFlight t f.id = some f' ∧ f'.stage = 0 ∧
          f'.lanes = f.lanes.filter (fun l => l.lane != q) ∧
          (getEv t e).count = BitVec.ofNat 32 (min ((getEv s e).count.toNat + 1) (2 ^ 32 - 1)) ∧
          ∀ p, (p < ev ∨ ev + 16 ≤ p) → rdByte t p = landed s p (lastByte a.out.reverse p)) ∧
      (f.stage = 3 → tileFlag f 4 = false → (∀ r ∈ s.reqs, r.flight = some f.id → r.abandoned = false) →
        exec (.exchangeComplete f.id) s = .next { s with
          flights := s.flights.map (fun x => if x.id = f.id then
            { f with stage := 0, lanes := f.lanes.filter (fun l => l.lane != fsc f 9) } else x)
          reqs := s.reqs.filter (fun r => r.flight != some f.id) })) ∧
    (turnsReady s f = true →
      (∃ t, exec (.xrsTurn f.id) s = .next t) ∧
      (∀ q, xTurn s f = some q → ¬ Heard s f q → exec (.xrsTurn f.id) s = .next (newRequest (xPhase s f) f.die
        (lineOf (eventAddr (xEvent f q).toNat) * 128) (.read false none) (some f.id) ((xEvent f q).setWidth 64) f.pc
        (some (f.team, f.grp, f.spl)))) ∧
      (∀ q, xTurn s f = some q → Heard s f q → NoWindows s → evAllowed s (dieModule f.die) f.vi (xEvent f q) = true →
        poisoned s (eventAddr (xEvent f q).toNat) 16 = false →
        (getEv s (xEvent f q)).pois = true ∨ fsc f 6 < (getEv s (xEvent f q)).count.toNat →
        ∃ t g', exec (.xrsTurn f.id) s = .next t ∧ findFlight t f.id = none ∧ findGroup t f.team f.grp = some g' ∧
          (∃ d ∈ g'.faults, d.id = f.id ∧ d.cause = Cause.deferredCopy ∧ d.defpc = f.pc) ∧
          ∀ l ∈ f.lanes, let e := xEvent f l.lane
            evAllowed s (dieModule f.die) f.vi e = true →
              (∃ m ∈ t.msgs, m.name = e ∧ m.kind = .poison) ∨ ∃ r ∈ t.reqs, r.kind = .event e .poison)))

/-- Requests between modules (13_fabric.md R301, R304 to R306): a request's bytes are written at the home at most
once, with its digest contributions made there, each answer marks the target as reached, a request can be sent again, and
one that is abandoned leaves its group a FABRIC_UNCERTAIN, what the source knows of its target unchanged. The window of a
source advances past what is answered.
Leases, ports and planes (13_fabric.md R302, R303, R307, R309): a lease that runs out is gone; a port that loses a
lane trains at the width left or goes down and is reported, comes up when its training is done and counts its
retries; a quiesced plane holds its requests, and firmware's write of FPMAP remaps a plane only when it is quiesced
and drained. The duplicate window's advance is read in log 59, the clearing of QD with Q in log 63; a firmware core's write
is the model's form (log 21). -/
def Obligations.FabricSteps : Prop :=
  ((∀ (s : State) (r : Request), findReq s r.id = some r →
    (∀ bs, r.kind = .write bs → r.contribs = [] → arriveReady s r = true → NoWindows s → NoArms s → (∀ e ∈ s.awaits, e.1 ≠ r.id) →
      let u := if r.abandoned then s else advanceWindow s r.src r.tgt
      let d := dedupOf u r.src r.tgt
      let seen := r.performed || d.marks.any (fun m => m.1 == r.seq) || decide (2 ^ 31 ≤ (r.seq - d.base).toNat)
      ∃ t, exec (.fabricRequestArrive r.id) s = .next t ∧ findReq t r.id = some { r with performed := true } ∧ SameFocus s t ∧
        (seen = true → SameMemory s t ∧ dedupOf t r.src r.tgt = d) ∧
        (seen = false → dedupOf t r.src r.tgt = { d with marks := (r.seq, []) :: d.marks } ∧
          ∀ a, rdByte t a = landed s a ((bs.reverse.find? (fun e => e.1 == a)).map Prod.snd))) ∧
    (r.performed = true → openReq r = true → crosses s r = true → ∃ t, exec (.fabricAck r.id) s = .next t ∧ SameMemory s t ∧
      SameFocus s t ∧ (r.tgt, s.tick) ∈ (getModule t r.src).reached ∧
      ((∀ i, r.flight = some i → findFlight s i = none) → findReq t r.id = none ∧ t.flights = s.flights) ∧
      (∀ i f, r.flight = some i → findFlight s i = some f → findReq t r.id = some { r with acked := true })) ∧
    (r.sent = true → openReq r = true → exec (.requestResend r.id) s = .next { s with reqs := s.reqs.map (fun x =>
      if x.id = r.id then { r with sent := r.src == r.tgt || !quiesced s r.src r.plane } else x) }) ∧
    (mayAbandon r.kind = true → r.src ≠ r.tgt → r.sent = true → openReq r = true → ∃ t,
      exec (.reachTimeout r.id) s = .next t ∧ (getModule t r.src).reached = (getModule s r.src).reached ∧
      (∀ i f, r.flight = some i → findFlight s i = some f → f.kind ≠ .store →
        findReq t r.id = some { r with abandoned := true } ∧ SameMemory s t ∧ SameFocus s t) ∧
      (∀ w g, (∀ i, r.flight = some i → findFlight s i = none) → (∀ a b, r.kind ≠ .read a b) → r.op = none → r.who = some w →
        findGroup s w.1 w.2.1 = some g → findReq t r.id = none ∧ SameMemory s t ∧ ∃ g', findGroup t w.1 w.2.1 = some g' ∧
          g'.regs = g.regs ∧ ∃ d ∈ g'.faults, d.cause = Cause.fabricUncertain ∧ d.id = r.flight.getD r.id))) ∧
  (∀ (s : State) (src tgt : Nat), let d := dedupOf s src tgt
    advanceTo s d ≠ d.base → (∃ i, i < 8 ∧ reach s src tgt i = true) → ∃ t, exec (.dedupAdvance src tgt) s = .next t ∧ SameMemory s t ∧ SameFocus s t ∧
      dedupOf t src tgt = { d with base := advanceTo s d, marks := d.marks.filter (fun m =>
        decide ((m.1 - advanceTo s d).toNat < 2 ^ 31)) })) ∧
  ((∀ (s : State) (die line : Nat), leased s die line = true → NoWindows s →
    ∃ t, exec (.leaseExpire die line) s = .next t ∧ leased t die line = false ∧ SameMemory s t ∧ SameFocus s t ∧
      (reach s (line * 128 / 2 ^ 42) (dieModule die) (line % 8) = false →
        exec (.leaseInvalidateTimeout die line) s = .next t)) ∧
  (∀ (s : State) (port : Nat), let p := getPort s port
    (p.state ≠ 0 → let n := p.working - 1
      let w := if n = 0 then 0 else if p.width = 4 then min 2 n else 1
      (∃ t r rest, exec (.laneFailure port) s = .next t ∧
        getPort t port = { p with width := w, working := n, state := if w = 0 then 0 else 1 } ∧ t.reports = s.reports ++ r :: rest ∧
        r.code = (if w = 0 then 0x17 else 0x16) ∧ r.arg0 = BitVec.ofNat 64 (port % 64) ∧ r.arg1 = BitVec.ofNat 64 w) ∧
      exec (.linkLevelRetry port) s = .next (setPort s port { p with retries := p.retries + 1 })) ∧
    (p.state = 1 → exec (.retrainComplete port) s = .next (setPort s port { p with state := 2 })) ∧
    (∀ w, w ∈ [1, 2, 4] → p.state ≠ 0 → p.width < w → w ≤ p.working → ∃ t, exec (.portRetrain port w) s = .next t ∧
      getPort t port = { p with width := w, state := 1 } ∧ SameFocus s t) ∧
    ∀ q, getPort (setPort s port q) port = q) ∧
  (∀ (s : State) (m i : Nat), i < 8 → fpEntry s m i / 128 = 1 → fpEntry s m i / 64 % 2 = 0 →
    ∃ t, exec (.planeQuiesced m i) s = .next t ∧ SameMemory s t ∧ SameFocus s t ∧ fpEntry t m i = fpEntry s m i + 64 ∧
      (∀ k, k < 8 → k ≠ i → fpEntry t m k = fpEntry s m k) ∧
      ∀ r ∈ t.reqs, r.src = m → r.tgt ≠ m → r.plane = i → openReq r = true → r.sent = false) ∧
  (∀ (s : State) (a : BitVec 5), s.live = false → ∃ t, exec (.fpmapWrite a) s = .next t ∧ ∀ i, i < 8 →
    let old := fpEntry s s.fwModule i
    let new := bitsOf (cget (fun _ => 0) s.fw a.toNat) (8 * i) 8
    let q := new / 128
    fpEntry t s.fwModule i = q * 128 + (if q = 1 then old / 64 % 2 * 64 else 0) + (if 192 ≤ old then new % 8 else old % 8)))

/-- The checking words and the replay queue (15_checking.md R351 to R354, R357 to R360, R365, R368): DIGS adds to the
open digest of its team, or to the write log inside a window; CLON waits for its split's own entries or reads a
counter; SCRN acts on the open digest; SUSQ reads scores in system mode. A cloned instruction is checked by its mirror
lanes when every active lane has an inactive mirror, and otherwise enters its partition's queue of 32, of which the oldest
entry is dropped when it is full. A re-run computes again from the captured operands, counts a check and drops its entry;
a mismatch that a second run does not show is transient, and one that it confirms is reported with its lanes and its first
result and raises the core's score. Scores fall by 1 as jobs are done. What a computation errs is a step's own input, or for
the mirror a value of the configuration (log 99). -/
def Obligations.CheckingWords : Prop :=
  (∀ (s : State) (a b : BitVec 6) (p q : BitVec 3) (d y z : BitVec 5),
    let core := s.team.core
    let dg := teamDigest s core s.team.bank s.team.slot
    let cs := digsList s a p b q
    let own := fun (e : ReplayEntry) => e.part = s.group.part ∧ e.team = s.team.id ∧ e.grp = s.group.num ∧ e.spl = s.split.num
    let v := (rs s y.toNat).toNat
    let bad := trap s Cause.illegal (rs s y.toNat) (active s)
    (operandsBad s (.digs a p b q) = false →
      (s.split.fence.isSome = true ∨ s.split.owner.isSome = true → exec (.digs a p b q) s = .next (adv { s with
        group := { s.group with log := s.group.log ++ cs.map (fun c => (s.split.num, c)) } })) ∧
      (s.split.fence = none → s.split.owner = none → ∃ t, exec (.digs a p b q) s = .next t ∧ t.split = (adv s).split ∧
        t.group = s.group ∧ t.team = s.team ∧ teamDigest t core s.team.bank s.team.slot =
          if dg.isOpen then { dg with
            curd := cs.foldl (fun x c => x + c) dg.curd
            ncon := BitVec.ofNat 32 (min (dg.ncon.toNat + cs.length) (2 ^ 32 - 1)) } else dg)) ∧
    ((∀ e ∈ (getCore s core).replay, ¬ own e) → exec .clonSync s = .next (adv s)) ∧
    ((∃ e ∈ (getCore s core).replay, own e) → exec .clonSync s = .next (hold s (.replay s.tick))) ∧
    exec (.clonChk d) s = .next (adv (ws s d.toNat (getCore s core).chk)) ∧
    exec (.clonDrop d) s = .next (adv (ws s d.toNat (getCore s core).drop)) ∧
    exec (.clonTrans d) s = .next (adv (ws s d.toNat (getCore s core).trans)) ∧
    (active s = 0 → ∀ i ∈ ([.scrnDig z, .scrnSkip] : List Instr), exec i s = .next (adv s)) ∧
    (active s ≠ 0 → exec (.scrnDig z) s = .next (adv (ws s z.toNat (if dg.isOpen then dg.curd else 0)))) ∧
    (active s ≠ 0 → ∃ t, exec .scrnSkip s = .next t ∧ t.split = (adv s).split ∧ t.group = s.group ∧ t.team = s.team ∧
      teamDigest t core s.team.bank s.team.slot = if dg.isOpen then { dg with skip := true } else dg) ∧
    (userMode s = false → active s = 0 → ∀ i ∈ ([.susqScore y z, .susqQmask y z, .susqStat y z] : List Instr),
      exec i s = .next (adv s)) ∧
    (userMode s = false → active s ≠ 0 →
      exec (.susqScore y z) s = .next (if v < 2 ^ 10 ∧ v % 64 < 48 then
        adv (ws s z.toNat ((getCore s (thisModule s * 1024 + v)).susp.setWidth 64)) else bad) ∧
      (16 ≤ v → ∀ i ∈ ([.susqQmask y z, .susqStat y z] : List Instr), exec i s = .next bad) ∧
      (v < 16 → (∃ m : DWord, exec (.susqQmask y z) s = .next (adv (ws s z.toNat m)) ∧
          ∀ k, k < 64 → (m.toNat.testBit k = true ↔
            k < 48 ∧ (getCore s ((thisModule s * 16 + v) * 64 + k)).quarantined = true)) ∧
        exec (.susqStat y z) s = .next (adv (ws s z.toNat ((getDie s (thisModule s * 16 + v)).selected ++
          (getDie s (thisModule s * 16 + v)).mismatches)))))) ∧
  (∀ (s : State) (core part : Nat) (e : ReplayEntry), (getCore s core).replay.find? (fun x => x.part == part) = some e →
    let c := getCore s core
    let c1 := { c with replay := c.replay.erase e, chk := c.chk + 1 }
    ∀ (res : RerunResult),
      let first := applyFlips res.first (recompute s e)
      let again := applyFlips res.again (recompute s e)
      (first = e.results → ∃ t, exec (.replayRerun core part res) s = .next t ∧ getCore t core = c1 ∧ SameFocus s t ∧
        SameMemory s t ∧ t.reports = s.reports) ∧
      (first ≠ e.results → again = e.results → ∃ t, exec (.replayRerun core part res) s = .next t ∧
        getCore t core = { c1 with trans := c.trans + 1 } ∧ SameFocus s t ∧ SameMemory s t ∧ t.reports = s.reports) ∧
      (first ≠ e.results → again ≠ e.results → ∃ t r rest, exec (.replayRerun core part res) s = .next t ∧
        t.reports = s.reports ++ r :: rest ∧ r.code = 0x09 ∧ r.arg0 = e.pc ∧
        (∀ k, k < 32 → r.arg1.getLsbD k = (laneOf e.results k != laneOf again k)) ∧
        (∀ x, x = ((List.range 32).filter (fun k => laneOf e.results k != laneOf again k)).headD 0 →
          r.ext = some (BitVec.ofNat 256 ((firstResult e e.results x).toNat + (firstResult e again x).toNat * 2 ^ 64))) ∧
        (getCore t core).susp = BitVec.ofNat 8 (min 255 (c.susp.toNat + 8)) ∧ (getCore t core).chk = c.chk + 1 ∧
        (getCore t core).replay = c.replay.erase e ∧
        ((getCore t core).quarantined = true ↔ c.quarantined = true ∨ 64 ≤ c.susp.toNat + 8))) ∧
  (∀ (s t : State) (w : Word) (i : Instr), let core := s.team.core
    let e := capture s t (limAt s) i
    let u := checkClone s t w i
    let asked := mClone s.split.mode = true ∧ isCloned (majorOf w) = true ∧ active s ≠ 0
    let spare := ∀ l, l < 32 → isActive s l = true → isActive s (l ^^^ (if mC16 s.split.mode then 15 else 31)) = false
    let entries := fun (x : State) => (getCore x core).replay.filter (fun y => y.part == e.part)
    (¬ asked → u = t) ∧
    (∀ k l, l < 32 → isActive s l = true → (laneOf e.results l).map LaneResult.gen = some (cget genInit t.group.gens l) ∧
      e.part = s.group.part ∧ e.pc = s.split.pc ∧ cget (fun _ => 0) e.before.s k = rs s k ∧ e.before.preds = s.group.preds) ∧
    (asked → isCrossLane (majorOf w) = false → spare →
      (getCore u core).chk = (getCore t core).chk + 1 ∧ (getCore u core).replay = (getCore t core).replay ∧
      (applyFlips (Config.laneFlips core t.tick 0) (recompute t e) = e.results →
        u = setCore t core { getCore t core with chk := (getCore t core).chk + 1 })) ∧
    (asked → isCrossLane (majorOf w) = true ∨ ¬ spare → t.team.core = core →
      ((entries t).length < 32 → entries u = entries t ++ [e] ∧ (getCore u core).drop = (getCore t core).drop) ∧
      (32 ≤ (entries t).length → (getCore u core).drop = (getCore t core).drop + 1))) ∧
  (∀ (s : State) (die : Nat), 2 ^ 20 ≤ (getDie s die).jobdones → (s.cores.map Prod.fst).Nodup →
    ∃ t, exec (.scoreDecay die) s = .next t ∧ (getDie t die).jobdones = (getDie s die).jobdones - 2 ^ 20 ∧
      (∀ c, (getCore t c).susp =
        if coreDie c = die ∧ (getCore s c).susp ≠ 0 then (getCore s c).susp - 1 else (getCore s c).susp) ∧
      (∀ c, (getCore t c).quarantined = (getCore s c).quarantined) ∧ SameFocus s t ∧ SameMemory s t)

/-- Tags, purges, translations and the end of a team (07_memory.md R158; 14_system.md R330 to R334, R339): in system
mode, with a lane active and an operand in range, TAGS and PURG do what they say; TLBI drops the translations it
names and waits for the accesses that used them; PPT parks its split while a drain is pending; HALT and KILL_TEAM
stop or end a team; a purge that is complete leaves no team of its tag running. That TAGS and PURG with no lane active only
go on is read in log 22; a firmware core's write is the model's form (log 21). -/
def Obligations.TagsAndTeams : Prop :=
  (∀ (s : State) (y z : BitVec 5), userMode s = false →
    let m := thisModule s
    let v := (rs s y.toNat).toNat
    let bad := trap s Cause.illegal (rs s y.toNat) (active s)
    let marked : List Instr := [.tagsSet y, .purg y, .purgClr y, .purgQry y z]
    (active s = 0 → ∀ i ∈ .tagsCnt y z :: marked, exec i s = .next (adv s)) ∧
    (active s ≠ 0 → v = 0 → ∀ i ∈ marked, exec i s = .next bad) ∧
    (active s ≠ 0 → 2 ^ 16 ≤ v → ∀ i ∈ .tagsCnt y z :: marked, exec i s = .next bad) ∧
    (active s ≠ 0 → v < 2 ^ 16 → exec (.tagsCnt y z) s = .next (adv (ws s z.toNat
      (BitVec.ofNat 64 ((tagTeams s m s.team.vi v).length + heldBearing s m s.team.vi v))))) ∧
    (active s ≠ 0 → v ≠ 0 → v < 2 ^ 16 →
      (tagDead s m s.team.vi v = false →
        exec (.tagsSet y) s = .next (adv { s with team := { s.team with rtag := BitVec.ofNat 16 v } })) ∧
      (tagDead s m s.team.vi v = true → ∃ t, exec (.tagsSet y) s = .next t ∧
        ∀ x, findTeam t s.team.id = some x → x.groups = [] ∧ x.job = none) ∧
      (tagCups s m s.team.vi v = [] → ∃ t, exec (.purg y) s = .next t ∧ t.group = s.group ∧ t.team = s.team ∧ SameMemory s t ∧
        t.split = { (adv s).split with wait := some (.purge (viKey m s.team.vi) v), active := false, woke := s.tick } ∧
        (∃ p ∈ t.purges, p.module = m ∧ p.vi = s.team.vi ∧ p.tag = v) ∧
        (getVi s m s.team.vi ≠ none → tagDead t m s.team.vi v = true)) ∧
      (∃ t, exec (.purgClr y) s = .next t ∧ t.split = (adv s).split ∧ t.group = s.group ∧ t.team = s.team ∧ SameMemory s t ∧
        ∀ k, tagDead t m s.team.vi k = (k != v && tagDead s m s.team.vi k)) ∧
      exec (.purgQry y z) s = .next (adv (ws s z.toNat (if tagDead s m s.team.vi v then 1 else 0))))) ∧
  (∀ (s : State) (z : BitVec 5),
    (bitsOf (getCore s s.team.core).bankst 0 2 = 1 → exec (.pptQry z) s = .next (adv (ws s z.toNat 1)) ∧
      exec .ppt s = .next { (adv s) with
        split := { (adv s).split with drainPark := true, active := false, woke := s.tick } }) ∧
    (bitsOf (getCore s s.team.core).bankst 0 2 ≠ 1 → exec (.pptQry z) s = .next (adv (ws s z.toNat 0)) ∧
      exec .ppt s = .next (adv s)) ∧
    (userMode s = false → ∃ t, exec .halt s = .next t ∧ t.team = { s.team with stopped := true } ∧ t.split = (adv s).split ∧
      t.group = s.group ∧
      t.reports = s.reports ++ [mkReport 0x13 s.team.vi (nextPc s) (BitVec.ofNat 64 s.team.teamix)])) ∧
  (∀ (s : State) (a : BitVec 5),
    let hit := fun (m vi : Nat) (v : DWord) (e : TlbEntry) => unitModule e.unit = m ∧ e.vi = vi ∧
      (bitsOf v 57 1 = 1 ∨ e.vpn = bitsOf v 16 41 * 65536 / 2 ^ levelShift e.level)
    (s.live = true → userMode s = false → ∃ t f, exec (.tlbiWrite a) s = .next t ∧ t.flights = s.flights ++ [f] ∧
      f.kind = .tlbi ∧ f.id = s.fresh ∧ t.group = s.group ∧ t.team = s.team ∧ SameMemory s t ∧
      t.split = { (adv s).split with wait := some (.flight f.id), active := false, woke := s.tick } ∧
      ∀ e, e ∈ t.tlb ↔ e ∈ s.tlb ∧ ¬ hit (thisModule s) s.team.vi (rs s a.toNat) e) ∧
    (s.live = false → let v := cget (fun _ => 0) s.fw a.toNat
      ∃ t f, exec (.tlbiWrite a) s = .next t ∧
        t = { s with tlb := t.tlb, fresh := s.fresh + 1, flights := s.flights ++ [f] } ∧ f.kind = .tlbi ∧ f.id = s.fresh ∧
        ∀ e, e ∈ t.tlb ↔ e ∈ s.tlb ∧ ¬ hit s.fwModule (bitsOf v 58 6) v e)) ∧
  (∀ (s : State) (id : Nat) (f : Flight), findFlight s id = some f → f.kind = .tlbi →
    ((∀ k ∈ f.after, performedAt s 5 k = true ∧ ∀ x ∈ heldStores s, x.id ≠ k) →
      exec (.tlbiComplete id) s = .next { s with flights := s.flights.filter (fun x => x.id != id) }) ∧
    ((∃ k ∈ f.after, performedAt s 5 k = false ∨ ∃ x ∈ heldStores s, x.id = k) →
      exec (.tlbiComplete id) s = .fault .notEnabled)) ∧
  (∀ (s : State) (vi tag : Nat) (p : Purge), s.purges.find? (fun x => viKey x.module x.vi == vi && x.tag == tag) = some p →
    ∃ t, exec (.purgeComplete vi tag) s = .next t ∧ (∃ r ∈ t.reports, r.code = 0x06 ∧ r.vi = p.vi ∧ r.arg0 = BitVec.ofNat 64 tag) ∧
      (∀ x ∈ t.purges, ¬ (x.module = p.module ∧ x.vi = p.vi ∧ x.tag = tag)) ∧
      ∀ x ∈ tagTeams s p.module p.vi tag, ∀ y, findTeam t x.id = some y → y.groups = []) ∧
  (∀ (s : State) (id : Nat) (tm : Team), findTeam s id = some tm →
    (killable tm = true → ∃ t, exec (.killTeam id) s = .next t ∧
      ∀ x, findTeam t id = some x → x.groups = [] ∧ x.job = none ∧ x.clean = false) ∧
    (killable tm = false → exec (.killTeam id) s = .fault .notEnabled))

/-- Pre-emption (14_system.md R335 to R349): BSWP swaps to a ready bank, CTXS and CTXL start a save or a load when
the other bank allows it, and a drain goes through its states, is written, or is forced into a swap when DRAINB ends;
a save or a load that ends leaves the bank empty or ready, and an image that goes to another module is written once its
requests are answered; RELEASE_COL_RECORDS drops the records of exactly the jobs that the image holds; a lost core holds
nothing. DRAINB also performs the purges of POISON traps that wait for their RTE (log 61). That BSWP, CTXS and CTXL with no
lane active only go on, that CTXS and CTXL take a number of SEQ, that a load into a core that takes no teams answers 1, and
that an image waits until its place can be reached, are read in logs 22, 62, 20 and 79. -/
def Obligations.Contexts : Prop :=
  (∀ (s : State) (x y z : BitVec 5) (k : BitVec 4), userMode s = false →
    let core := s.team.core
    let img := rs s x.toNat + limOffset s
    let obj := rs s y.toNat
    let put := fun (v : DWord) => (.next (adv (ws s z.toNat v)) : Host.Outcome State Fault Refusal)
    let starts := fun (i : Instr) (kd : FlightKind) (save : Bool) (tm : Option Nat) => ∃ t f, exec i s = .next t ∧
      t.flights = s.flights ++ [f] ∧ f.kind = kd ∧ f.id = s.fresh ∧ f.path = none ∧ fsc f 4 = img.toNat ∧
      shst t core = (if save then 3 else 1) ∧ runningBank t core = runningBank s core ∧
      (getCore t core).ctx = some ⟨save, tm, img, s.team.vi, some f.id, [], false, false, none⟩ ∧
      t.split = (adv (ws s z.toNat 0)).split ∧ t.group = { s.group with seq := s.group.seq + 1 } ∧ t.team = s.team ∧
      SameMemory s t
    let words : List Instr := [.ctxs x y z, .ctxl x y z, .ctxlTeam x y z k]
    (active s = 0 → ∀ i ∈ [.bswp z, .bswpQry z] ++ words, exec i s = .next (adv s)) ∧
    (active s ≠ 0 →
      exec (.bswpQry z) s = put (getCore s core).bankst ∧
      (shst s core ≠ 2 → exec (.bswp z) s = put 1) ∧
      (shst s core = 2 → ∃ t, exec (.bswp z) s = .next t ∧ runningBank t core = 1 - runningBank s core ∧
        drst t core = drst s core ∧ (getCore t core).loaded = false ∧
        (s.live = true → s.team.bank = runningBank s core → shst t core = 2)) ∧
      (img.toNat % 65536 ≠ 0 → ∀ i ∈ words, exec i s = .next (trap s Cause.misalign img (active s))) ∧
      (∀ pa, img.toNat % 65536 = 0 → (obj = 0 ∧ pa = 0 ∨ obj ≠ 0 ∧ checkObject s obj .write false = .ok pa ∧
          teamSpad s.team ≤ pa ∧ pa + 16 ≤ teamSpad s.team + s.team.spadBytes) →
        (shst s core = 0 → exec (.ctxs x y z) s = put 1) ∧
        (shst s core = 1 ∨ shst s core = 3 → exec (.ctxs x y z) s = put 2) ∧
        (shst s core = 2 → starts (.ctxs x y z) .ctxSave true none) ∧
        (takesTeams s core = false → ∀ i ∈ ([.ctxl x y z, .ctxlTeam x y z k] : List Instr), exec i s = put 1) ∧
        (shst s core ≠ 0 → exec (.ctxl x y z) s = put 1) ∧
        (takesTeams s core = true → shst s core = 0 → starts (.ctxl x y z) .ctxLoad false none) ∧
        (shst s core ≠ 0 → shst s core ≠ 2 ∨ (getCore s core).loaded = false → exec (.ctxlTeam x y z k) s = put 1) ∧
        (takesTeams s core = true → shst s core = 0 ∨ shst s core = 2 ∧ (getCore s core).loaded = true →
          starts (.ctxlTeam x y z k) .ctxLoad false (some k.toNat))))) ∧
  (∀ (s : State) (core : Nat),
    let c := getCore s core
    let bank := runningBank s core
    (drst s core = 1 → c.swapping = false → bankParked s core = true → ∃ t, exec (.drainAllParked core) s = .next t ∧
      drst t core = 2 ∧ SameFocus s t ∧ SameMemory s t) ∧
    (drst s core = 2 → bankIdle s core bank = true → ∃ t, exec (.drainFlushDone core) s = .next t ∧
      drst t core = 3 ∧ SameFocus s t ∧ SameMemory s t) ∧
    (∀ d, c.drain = some d → drst s core = 3 → d.failed = false → d.wrote = none →
      saveNear s core bank d.vi d.image.toNat false = true →
      (∀ e, writeImage (close s) core bank d.vi d.image.toNat false = .error e → ∃ t r, exec (.drainImageWritten core) s = .next t ∧
        drst t core = 3 ∧ (getCore t core).drain = some { d with failed := true } ∧ t.reports = s.reports ++ [r] ∧
        r.code = 0x14 ∧ r.arg0 = BitVec.ofNat 64 (core % 1024) ∧ r.arg1 = BitVec.ofNat 64 e.cause) ∧
      (∀ w, writeImage (close s) core bank d.vi d.image.toNat false = .ok w → ∃ t, exec (.drainImageWritten core) s = .next t ∧
        (imageOut (close s) w.1 core bank = none →
          drst t core = 0 ∧ (getCore t core).drain = none ∧ (∃ r ∈ t.reports, r.code = 0x07 ∧ r.arg1 = d.image) ∧
          ∀ x ∈ allTeams t, x.core = core → x.bank ≠ bank) ∧
        ∀ u, imageOut (close s) w.1 core bank = some u → drst t core = 3 ∧ t.reports = s.reports ∧
          (getCore t core).drain = some { d with wrote := some u.2 })) ∧
    (∀ d w, c.drain = some d → drst s core = 3 → d.failed = false → d.wrote = some w →
      ((∃ r ∈ s.reqs, r.id ∈ w.ids ∧ openReq r = true) → exec (.drainImageWritten core) s = .fault .notEnabled) ∧
      ((∀ r ∈ s.reqs, r.id ∈ w.ids → openReq r = false) → w.lost = false → ∃ t, exec (.drainImageWritten core) s = .next t ∧
        drst t core = 0 ∧ (getCore t core).drain = none ∧ (∃ r ∈ t.reports, r.code = 0x07 ∧ r.arg1 = d.image) ∧
        ∀ x ∈ allTeams t, x.core = core → x.bank ≠ bank)) ∧
    (drst s core = 1 → c.swapping = false → ∃ t, exec (.drainbExpire core) s = .next t ∧
      ((∀ tm ∈ allTeams s, tm.core = core → awaitsPurge tm = false) →
        (shst s core = 1 ∨ shst s core = 3 → (getCore t core).swapping = true ∧ runningBank t core = bank) ∧
        (∀ d, shst s core = 0 ∨ shst s core = 2 → c.drain = some d → runningBank t core = 1 - bank ∧ drst t core = 0 ∧
          shst t core = 3 ∧ (getCore t core).drain = none ∧
          (getCore t core).ctx = some ⟨true, none, d.image, d.vi, none, d.pkts, true, d.imm, none⟩))) ∧
    (drst s core ≠ 1 → (∃ tm ∈ allTeams s, tm.core = core ∧ awaitsPurge tm = true) →
      ∃ t, exec (.drainbExpire core) s = .next t ∧ ∀ tm ∈ allTeams s, tm.core = core → ∀ g ∈ tm.ptags, g ≠ 0 →
        ∃ p ∈ t.purges, p.module = coreModule core ∧ p.vi = tm.vi ∧ p.tag = g) ∧
    (∀ op, c.ctx = some op → c.swapping = false →
      (op.save = true → op.wrote = none → bankIdle s core (otherBank s core) = true →
        saveNear s core (otherBank s core) op.vi op.image.toNat op.forced = true → ∃ t, exec (.contextSaveDone core) s = .next t ∧
        (∀ e, writeImage (close s) core (otherBank s core) op.vi op.image.toNat op.forced = .error e →
          (getCore t core).ctx = none ∧ shst t core = 2) ∧
        (∀ w, writeImage (close s) core (otherBank s core) op.vi op.image.toNat op.forced = .ok w →
          (imageOut (close s) w.1 core (otherBank s core) = none →
            (getCore t core).ctx = none ∧ shst t core = 0 ∧ (getCore t core).loaded = false) ∧
          ∀ u, imageOut (close s) w.1 core (otherBank s core) = some u → shst t core = shst s core ∧
            (getCore t core).ctx = some { op with wrote := some u.2 })) ∧
      (∀ w, op.save = true → op.wrote = some w → (∀ r ∈ s.reqs, r.id ∈ w.ids → openReq r = false) → w.lost = false →
        ∃ t, exec (.contextSaveDone core) s = .next t ∧ (getCore t core).ctx = none ∧ shst t core = 0) ∧
      (op.save = false → loadNear s core op.vi op.image.toNat = true → ∃ t, exec (.contextLoadDone core) s = .next t ∧
        (∀ e, readImage (close s) core op.vi op.image.toNat = .error e → (getCore t core).ctx = none ∧
          shst t core = if c.loaded then 2 else 0) ∧
        (∀ im, readImage (close s) core op.vi op.image.toNat = .ok im →
          let r := loadReason (close s) core (otherBank s core) op im
          (r ≠ 0 → (getCore t core).ctx = none ∧ (shst t core = if c.loaded then 2 else 0) ∧
            (r = 2 → ∃ x ∈ t.reports, x.code = 0x08 ∧ x.arg0 = op.image)) ∧
          (r = 0 → op.pkts = [] → (getCore t core).ctx = none ∧ shst t core = 2 ∧ (getCore t core).loaded = true)))) ∧
    (c.lost = false → ∃ t, exec (.coreLost core) s = .next t ∧ (∃ r ∈ t.reports, r.code = 0x15 ∧ r.arg0 = BitVec.ofNat 64 (core % 1024)) ∧
      (let k := getCore t core;
        k.lost = true ∧ k.ready = false ∧ k.replay = [] ∧ k.mailbox = [] ∧ k.drain = none ∧ k.ctx = none ∧ k.bankst = 0) ∧
      (∀ f ∈ t.flights, f.core ≠ core)) ∧
    (c.lost = true → exec (.coreLost core) s = .fault .notEnabled)) ∧
  (∀ (s : State) (vi addr : Nat) (im : List Byte), readImage s (vi / 64 * 1024) (vi % 64) addr = .ok im → imageFormed im = true →
    loadNear s (vi / 64 * 1024) (vi % 64) addr = true → ∃ t, exec (.releaseColRecords vi addr) s = .next t ∧ SameFocus s t ∧ SameMemory s t ∧
      ∀ d j, j ∈ (getDie t d).jobs ↔ j ∈ (getDie s d).jobs ∧ ¬ ∃ k h, k < 16 ∧ slotValid im k = true ∧
        readJob im (frameAt im k + 512) = some h ∧ h.rerun = none ∧ h.colDie = d ∧ h.seq = djSeq j.desc ∧ j.cup = none)

/-- The queue has gone on to its next slot: HEAD has risen by one, and the slot is to be read. -/
def Passed (s t : State) (q : Nat) (x : QueueSt) : Prop :=
  queueOf t q = some { x with packet := none, watch := none, rereads := 0 } ∧ qHead t x = qHead s x + 1

/-- Fetching packets (16_frontend.md R369 to R373, R379): a slot is copied, a packet with its SEQ and CRC right is
taken, one that is torn is read again up to 16 times and then stops its queue, a slot that does not translate stops
it too, and a configuration that firmware may apply is what the VI's modules hold. Executing packets (16_frontend.md
R374 to R380, R421): the first packet of a served queue whose lane has its turn runs as its type and subtype say. It
is refused for the first reason that holds, with PKT_REFUSED, and otherwise has its effect; either way HEAD rises by one and
the queue goes on to its next slot. The first read copy of a queue is read in log 31, the checks of LAUNCH in log 65; that
LAUNCH takes the worker bit without the gang bit as an ordinary launch is the model's choice (log 69), and what a control block
keeps of other writes is read in log 100. -/
def Obligations.Packets : Prop :=
  ((∀ (s : State) (q : Nat) (x : QueueSt), queueOf s q = some x → served s q = true →
    let first := x.packet = none ∧ x.rereads = 0 ∧ x.watch = none
    let near := slotNear s q x = true
    (∀ ps p, first → near → qState s x = 0 → slotParts s q x = some ps → engineRead s (q / 128 * 16) ps = .ok p →
      let w := some (lineOf ((ps.map Prod.fst).headD 0))
      exec (.pktFetch q) s = .next (putQueue s q (
        if imgAt p 0 2 ≠ (qHead s x).toNat % 2 ^ 16 then { x with watch := w, rereads := 0 }
        else if packetCrc p = imgAt p 4 4 then { x with watch := w, packet := some p, rereads := 0 }
        else { x with watch := w, rereads := 1 }))) ∧
    (first → near → qState s x = 1 → ∃ t, exec (.pktFetch q) s = .next t) ∧
    (first → qState s x = 0 → slotParts s q x = none → ∃ t r, exec (.pktFetch q) s = .next t ∧ t.reports = s.reports ++ [r] ∧
      r.code = 0x1C ∧ r.arg0 = BitVec.ofNat 64 (q % 128) ∧ queueOf t q = some { x with rereads := 0, watch := none }) ∧
    (2 ≤ qState s x → exec (.pktFetch q) s = .fault .notEnabled) ∧
    (∀ ps p, x.rereads ≠ 0 → near → qState s x = 0 → slotParts s q x = some ps → engineRead s (q / 128 * 16) ps = .ok p →
      imgAt p 0 2 = (qHead s x).toNat % 2 ^ 16 →
      let w := some (lineOf ((ps.map Prod.fst).headD 0))
      (packetCrc p = imgAt p 4 4 →
        exec (.pktReread q) s = .next (putQueue s q { x with watch := w, packet := some p, rereads := 0 })) ∧
      (packetCrc p ≠ imgAt p 4 4 → x.rereads < 16 →
        exec (.pktReread q) s = .next (putQueue s q { x with watch := w, rereads := x.rereads + 1 })) ∧
      (packetCrc p ≠ imgAt p 4 4 → 16 ≤ x.rereads → ∃ t r, exec (.pktReread q) s = .next t ∧ t.reports = s.reports ++ [r] ∧
        r.code = 0x02 ∧ r.pos = qHead s x ∧ queueOf t q = some { x with watch := w, rereads := 0 })) ∧
    (qState s x = 3 → (slotParts s q x = none → exec (.queueTranslateRetry q) s = .next s) ∧
      (∀ ps, slotParts s q x = some ps → ∃ t, exec (.queueTranslateRetry q) s = .next t ∧ qState t x = 0 ∧
        queueOf t q = some { x with watch := none } ∧ SameOutside s t (x.qcb + 2) 1))) ∧
  (∀ (s : State) (c : ViConfig), (configOk s c = false → exec (.viConfiguration c) s = .fault .notEnabled) ∧
    (configOk s c = true → ∃ t, exec (.viConfiguration c) s = .next t ∧
      ∀ m ∈ configModules c, ∃ v, getVi t m c.vi = some v ∧ v.cfg = { withTimers c with cap := capOf c }))) ∧
  (∀ (s : State) (q : Nat) (x : QueueSt) (p : List Byte), queueOf s q = some x → x.packet = some p → served s q = true →
    laneTurn s q p = true →
    let ty := pType p
    let sub := pSub p
    let m := q / 128
    let core := pCore m p
    let c := close s
    let r : PktRef := ⟨q, qHead s x, x.vi, ty, sub, imgAt p 3 1 % 2 == 1⟩
    let img := imgAt p 16 8
    let refused := fun (i : Instr) (n : Nat) => ∃ t rep, exec i s = .next t ∧ t.reports = s.reports ++ [rep] ∧ rep.code = 0x03 ∧
      rep.reason = n ∧ rep.pos = qHead s x ∧ rep.vi = x.vi ∧ Passed s t q x ∧
      t.cores = s.cores ∧ t.dies = s.dies ∧ t.vis = s.vis ∧ t.launches = s.launches ∧ t.purges = s.purges
    let rows : List (Instr × Bool × Bool) := [(.nopPacket q, ty == 0 || decide (8 ≤ ty), true),
      (.queryStatus q, ty == 1 && sub != 1, queryFree s r p), (.clearQuarantine q, ty == 1 && sub == 1, true),
      (.opstreamRegister q, ty == 2 && sub != 1 && sub != 2, registerFree s r p),
      (.opstreamUnregister q, ty == 2 && sub == 1, streamIdle s r p), (.opstreamClearStop q, ty == 2 && sub == 2, true),
      (.eventAdd q, ty == 3 && sub != 1, true), (.eventReset q, ty == 3 && sub == 1, true), (.launch q, ty == 4, launchFree s r p),
      (.contextBank q, ty == 5 && sub != 1, true), (.contextTeam q, ty == 5 && sub == 1, true),
      (.preemptDrain q, ty == 6 && sub != 1, true), (.preemptImmediate q, ty == 6 && sub == 1, true),
      (.purge q, ty == 7 && sub != 1, true), (.purgeClear q, ty == 7 && sub == 1, true)]
    (∀ u y, queueOf u q = some y → queueOf (passPacket u q) q = some { y with packet := none, watch := none, rereads := 0 } ∧
      qHead (passPacket u q) y = qHead u y + 1) ∧
    (∀ e ∈ rows, (e.2.1 = true → e.2.2 = true → ∃ u, exec e.1 s = .next (refocus s (passPacket u q))) ∧
      (e.2.1 = false ∨ e.2.2 = false → exec e.1 s = .fault .notEnabled)) ∧
    (ty = 0 ∨ 8 ≤ ty → (ty ≠ 0 ∨ sub ≠ 0 → refused (.nopPacket q) 1) ∧
      (ty = 0 → sub = 0 → pReserved p [] = true → refused (.nopPacket q) 2) ∧
      (ty = 0 → sub = 0 → pReserved p [] = false → r.notify = true → ∃ t rep, exec (.nopPacket q) s = .next t ∧
        t.reports = s.reports ++ [rep] ∧ rep.code = 0x01 ∧ rep.pos = qHead s x ∧ Passed s t q x)) ∧
    (∀ i, (i, ty, sub) ∈ ([(.queryStatus q, 1, 2), (.opstreamRegister q, 2, 3), (.eventAdd q, 3, 2), (.launch q, 4, 1),
      (.contextBank q, 5, 2), (.preemptDrain q, 6, 2), (.purge q, 7, 2)] : List (Instr × Nat × Nat)) → refused i 1) ∧
    (ty = 1 → sub = 0 → pReserved p [(8, 8)] = true ∨ imgAt p 8 8 % 64 ≠ 0 → refused (.queryStatus q) 2) ∧
    (∀ pa k, ty = 1 → sub = 0 → pReserved p [(8, 8)] = false → imgAt p 8 8 % 64 = 0 → r.notify = false →
      rangeFree s r .write (imgAt p 8 8) 64 = true → NoWindows s →
      NoArms s → check c (frontAgent m x.vi) .write (imgAt p 8 8) 64 = .ok ⟨[(pa, 64)], k, false⟩ → isLocal m (pa, 64) = true →
      ∃ t, exec (.queryStatus q) s = .next t ∧ t.reports = s.reports ∧ Passed s t q x ∧ ∀ a, (a < x.qcb + 24 ∨ x.qcb + 28 ≤ a) →
        rdByte t a = landed s a (partsByte [(pa, 64)] (statusReply c m x.vi) a)) ∧
    (ty = 1 → sub = 1 → let no := pReserved p [(8, 2)] || badCore p
      (no = true → refused (.clearQuarantine q) 2) ∧
      (no = false → sysQueue s r = false → refused (.clearQuarantine q) 3) ∧
      (no = false → sysQueue s r = true → core ∉ allotment s m x.vi → refused (.clearQuarantine q) 4) ∧
      (no = false → sysQueue s r = true → core ∈ allotment s m x.vi → ∃ t, exec (.clearQuarantine q) s = .next t ∧
        getCore t core = { getCore s core with quarantined := false, susp := 0 } ∧ Passed s t q x)) ∧
    (ty = 2 → sub = 1 → let no := pReserved p [(16, 1)] || decide (16 ≤ imgAt p 16 1)
      (no = true → refused (.opstreamUnregister q) 2) ∧
      (no = false → findStream s m x.vi (imgAt p 16 1) = none → refused (.opstreamUnregister q) 8) ∧
      (∀ st, no = false → findStream s m x.vi (imgAt p 16 1) = some st → streamIdle s r p = true →
        ∃ t, exec (.opstreamUnregister q) s = .next t ∧ Passed s t q x ∧
        ∀ d, dieModule d = m → (getDie t d).streams = (getDie s d).streams.filter (fun y => !(y.vi == st.vi && y.num == st.num)))) ∧
    (∀ st, ty = 2 → sub = 2 → pReserved p [(16, 1)] = false → imgAt p 16 1 < 16 → findStream s m x.vi (imgAt p 16 1) = some st →
      ∃ t, exec (.opstreamClearStop q) s = .next t ∧
        ∀ d, dieModule d = m → ∀ y ∈ (getDie t d).streams, y.vi = st.vi → y.num = st.num → y.stopped = false) ∧
    (∀ b, ty = 2 → sub = 0 → pReserved p [(8, 8), (16, 1)] = false → imgAt p 16 1 < 16 → imgAt p 8 8 % 64 = 0 →
      rangeFree s r .read (imgAt p 8 8) 64 = true → dieRead c (m * 16) x.vi (imgAt p 8 8) 64 = some b → scbBad b = false →
      let st := scbStream b x.vi (imgAt p 16 1) (imgAt p 8 8)
      scbForeign c m st = false → (∃ ps, imagePages c (frontAgent m x.vi) .read st.base.toNat (32 * 2 ^ st.log2) = .ok ps) →
      (∃ ps, imagePages c (frontAgent m x.vi) .read st.ttbase.toNat (128 * st.ttcount) = .ok ps) →
      findStream c m x.vi (imgAt p 16 1) = none → ∃ t, exec (.opstreamRegister q) s = .next t ∧ Passed s t q x ∧
        ∀ d ∈ setDies m st.dmask, (getDie t d).streams = (getDie s d).streams ++ [st]) ∧
    (let name : Word := BitVec.ofNat 32 (imgAt p 8 4)
      let n := imgAt p 12 4
      (ty = 3 → sub = 0 → pReserved p [(8, 8)] = false → evAllowed s m x.vi name = false → refused (.eventAdd q) 4) ∧
      (∀ (i : Instr) (k : MsgKind), (i, k, sub) ∈ ([(.eventAdd q, .add n, 0),
          (.eventReset q, .reset (BitVec.ofNat 32 (imgAt p 16 4)) n, 1)] : List (Instr × MsgKind × Nat)) →
        ty = 3 → pReserved p (if sub = 0 then [(8, 8)] else [(8, 12)]) = false →
        (sub = 0 ∨ 1 ≤ n ∧ n < 2 ^ 16) → evAllowed s m x.vi name = true → evModule name ≠ m →
        (∀ w ∈ s.reqs, w.id < s.fresh) → ∃ t rq, exec i s = .next t ∧ Passed s t q x ∧ t.reqs = s.reqs ++ [rq] ∧
          rq.id = s.fresh ∧ rq.kind = .event name k ∧ t.awaits = s.awaits ++ [(s.fresh, r)])) ∧
    (ty = 4 → sub = 0 → let no := pReserved p [(8, 43), (52, 4)] || launchBad p
      let f := imgAt p 50 1
      (no = true → refused (.launch q) 2) ∧
      (no = false → 2 ≤ f → sysQueue s r = false → refused (.launch q) 3) ∧
      (no = false → f < 2 → imgAt p 48 2 = 0 → refused (.launch q) 4) ∧
      (no = false → f < 2 → imgAt p 36 4 = 0 → imgAt p 48 2 ≠ 0 → tagDead s m x.vi (imgAt p 48 2) = true →
        refused (.launch q) 5) ∧
      (∀ im, no = false → f < 2 → imgAt p 36 4 = 0 → imgAt p 48 2 ≠ 0 → tagDead s m x.vi (imgAt p 48 2) = false →
        launchFree s r p = true → (∀ w ∈ s.reqs, w.id < s.fresh) → loadBytes c m x.vi (imgAt p 8 8) (imgAt p 52 4) = .ok im →
        (imageOk im (imgAt p 52 4) = false → refused (.launch q) 7) ∧
        (imageOk im (imgAt p 52 4) = true → hdrGang (BitVec.ofNat 32 (iw im 0)) = false → (f = 1 → hasWorkers c m x.vi = false) →
          relocs im = [] → ∃ t, exec (.launch q) s = .next t ∧ Passed s t q x ∧ t.launches = s.launches ++ [launchOf s r p im]))) ∧
    (∀ (i : Instr) (tm : Option Nat) (nm : List (Nat × Nat)) (n : Nat), (i, tm, nm, n) ∈ ([
          (.contextBank q, none, [(8, 2), (16, 8)], 0), (.contextTeam q, some (imgAt p 10 1), [(8, 3), (16, 8)], 1)] :
          List (Instr × Option Nat × List (Nat × Nat) × Nat)) →
      ty = 5 → sub = n → pReserved p nm = false → badCore p = false → img % 65536 = 0 → (∀ k, tm = some k → k < 16) →
      core ∈ allotment s m x.vi → (∃ g, check c (imageAgent core x.vi) .read img 256 = .ok g) →
      (loadShut c tm.isSome core = true → refused i 9) ∧
      (loadShut c tm.isSome core = false → ∃ t, exec i s = .next t ∧ Passed s t q x ∧ shst t core = 1 ∧
        (getCore t core).ctx = some ⟨false, tm, BitVec.ofNat 64 img, x.vi, none, [r], false, false, none⟩)) ∧
    (ty = 6 → sub ≤ 1 → pReserved p [(8, 2), (16, 8)] = false → badCore p = false → img % 65536 = 0 →
      core ∈ allotment s m x.vi → (∃ g, check c (imageAgent core x.vi) .write img 256 = .ok g) →
      let i : Instr := if sub = 1 then .preemptImmediate q else .preemptDrain q
      (drainShut s core = true → refused i 9) ∧
      (drainShut s core = false → (getCore s core).drain = none → ∃ t, exec i s = .next t ∧
        (sub = 0 → drst t core = 1 ∧ (getCore t core).mailbox = [] ∧
          (getCore t core).drain = some ⟨BitVec.ofNat 64 img, x.vi, [r], false, false, none⟩) ∧
        (sub = 1 → shst s core = 0 ∨ shst s core = 2 → runningBank t core = 1 - runningBank s core ∧ shst t core = 3 ∧
          (getCore t core).ctx = some ⟨true, none, BitVec.ofNat 64 img, x.vi, none, [r], true, true, none⟩))) ∧
    (ty = 7 → sub ≤ 1 → let i : Instr := if sub = 1 then .purgeClear q else .purge q
      let tag := imgAt p 8 2
      (pReserved p [(8, 2)] = true → refused i 2) ∧
      (pReserved p [(8, 2)] = false → tag = 0 → refused i 4) ∧
      (pReserved p [(8, 2)] = false → tag ≠ 0 → ∃ t, exec i s = .next t ∧
        (sub = 0 → (∃ g ∈ t.purges, g.module = m ∧ g.vi = x.vi ∧ g.tag = tag) ∧
          (getVi s m x.vi ≠ none → tagDead t m x.vi tag = true)) ∧
        (sub = 1 → Passed s t q x ∧ ∀ k, tagDead t m x.vi k = (k != tag && tagDead s m x.vi k)))))

/-- The module (16_frontend.md R381 to R384; 17_module.md R385 to R392): its reset keeps the fuses and only an image
that the root of trust accepts, its functions become ready, its clocks step by one level, its trip loses all compute
state and clears no ready bit, and its management port stages, commits, measures and tells the figures of its dies and the
power and cap of each VI, with the cause of every step down; RDMA transfers through a VI's tables, and the host's cores, end
in completions of their own. Which number stands for a host core is the model's choice (log 85). What memory reads after
reset and trip, and the values that cores and dies start from, are named in logs 5 and 6; that no image runs after a refused
staged one, and that a firmware core is ready only with a running image, is read in log 33. SLOTID is sampled at reset (log 7);
figures that the spec leaves open are free (log 12); what becomes ready after a trip is deduced (log 89). -/
def Obligations.ModuleSteps : Prop :=
  ∀ (s : State) (m : Nat),
    let o := getModule s m
    let gone := fun (t : State) => (∀ x ∈ t.teams, coreModule x.core ≠ m) ∧ (∀ f ∈ t.flights, dieModule f.die ≠ m) ∧
      (∀ a, rdByte t a = if paModule a = m then memDflt a else rdByte s a) ∧ (∀ k, k ≠ m → getModule t k = getModule s k)
    (m < 2 ^ 10 → ∃ t run, exec (.moduleReset m m) s = .next t ∧ gone t ∧
      (∀ c, coreModule c = m → getCore t c = CoreSt.reset) ∧ (∀ d, dieModule d = m → getDie t d = DieSt.reset) ∧
      getModule t m = { ModuleSt.reset with svn := o.svn, keys := o.keys, revoked := o.revoked, running := run } ∧
      (∀ i, run = some i → imageTrusted o i = true) ∧
      (∀ i, o.staged = some i → run = if imageTrusted o i then some i else none)) ∧
    (∀ n, n < 2 ^ 10 → n ≠ m → ∃ t, exec (.moduleReset m n) s = .next t ∧ getModule t m = ModuleSt.reset ∧
      (getModule t n).svn = o.svn ∧ (getModule t n).keys = o.keys ∧ (getModule t n).revoked = o.revoked) ∧
    (∀ n, 2 ^ 10 ≤ n → exec (.moduleReset m n) s = .fault .notEnabled) ∧
    (o.tripped = false → (s.cores.map Prod.fst).Nodup → (s.dies.map Prod.fst).Nodup → (s.ports.map Prod.fst).Nodup →
      ∃ t, exec (.thermalTrip m) s = .next t ∧ gone t ∧
      (∀ c, coreModule c = m → getCore t c = { CoreSt.reset with ready := (getCore s c).ready, lost := (getCore s c).lost }) ∧
      (∀ d, dieModule d = m →
        getDie t d = { DieSt.reset with ready := (getDie s d).ready, hbmReady := (getDie s d).hbmReady }) ∧
      (∀ p, getPort t p = getPort s p) ∧ getModule t m = { ModuleSt.reset with
        fwReady := o.fwReady, svn := o.svn, keys := o.keys, revoked := o.revoked, staged := o.staged, running := o.running,
        meas := o.meas, tripped := true } ∧
      pwrgd t m = false ∧ thrmTripN t m = false) ∧
    (o.tripped = true → exec (.thermalTrip m) s = .fault .notEnabled) ∧
    (∀ k, k < 4 → o.running ≠ none → k ∉ o.fwReady → ∃ t, exec (.functionReady (.fwCore m k)) s = .next t ∧
      getModule t m = { o with fwReady := k :: o.fwReady } ∧ SameFocus s t) ∧
    (∀ (n : Nat), ((getModule s (dieModule n)).tripped = true →
        ∀ f ∈ ([.dieServices n, .hbm n] : List ModFn), exec (.functionReady f) s = .fault .notEnabled) ∧
      ((getModule s (coreModule n)).tripped = true → exec (.functionReady (.core n)) s = .fault .notEnabled) ∧
      ((getDie s n).ready = false → (getModule s (dieModule n)).tripped = false → exec (.functionReady (.dieServices n)) s =
        .next (setDie s n { getDie s n with ready := true })) ∧
      ((getDie s n).hbmReady = false → (getModule s (dieModule n)).tripped = false → exec (.functionReady (.hbm n)) s = .next (setDie s n { getDie s n with hbmReady := true })) ∧
      ((getCore s n).ready = false → (getCore s n).lost = false → n % 64 < 48 → (getModule s (coreModule n)).tripped = false →
        exec (.functionReady (.core n)) s = .next (setCore s n { getCore s n with ready := true })) ∧
      (let p := getPort s n
       (p.state = 0 → p.working ≠ 0 → exec (.functionReady (.port n)) s =
          .next (setPort s n { p with state := 2, width := if p.working = 4 then 4 else narrower 4 p.working })) ∧
        (p.state ≠ 0 ∨ p.working = 0 → exec (.functionReady (.port n)) s = .fault .notEnabled))) ∧
    (∀ (die : Nat) (cause : ThrottleCause), let d := getDie s die
      (6 < d.level → ∃ t, exec (.throttleDown die cause) s = .next t ∧ SameFocus s t ∧ SameMemory s t ∧
        (getDie t die).level = d.level - 1 ∧ (getDie t die).stepsDown = d.stepsDown + 1 ∧ (getDie t die).causes = cause :: d.causes) ∧
      (d.level ≤ 6 → exec (.throttleDown die cause) s = .fault .notEnabled) ∧
      (d.level < 16 → ∃ t, exec (.throttleUp die) s = .next t ∧ SameFocus s t ∧ SameMemory s t ∧
        (getDie t die).level = d.level + 1) ∧
      (16 ≤ d.level → exec (.throttleUp die) s = .fault .notEnabled)) ∧
    (∀ (key e : Nat) (v : ViSt), lookup s.vis key = some v → ∃ t, exec (.powerCapWindow key e) s = .next t ∧ SameFocus s t ∧
      lookup t.vis key = some { v with power := e, withheld := if v.cfg.cap = 0 then 0 else e - v.cfg.cap }) ∧
    (m < 2 ^ 10 → (∃ more, exec (.telemetry m) s = .next { s with notices := s.notices ++ more } ∧
        (∀ k, k < 16 → let d := getDie s (m * 16 + k)
          more[k]? = some ⟨"TELEMETRY", [m * 16 + k, d.level] ++ Config.telemetry (m * 16 + k) s.tick ++
            [if d.level < 16 then d.throttled + Config.throttleIntervals (m * 16 + k) s.tick else d.throttled, d.stepsDown] ++
            d.causes.map causeCode⟩) ∧
        ∀ e ∈ s.vis, e.1 / 64 = m → ⟨"POWER", [e.1, e.2.power, e.2.cfg.cap]⟩ ∈ more) ∧
      (∀ img, exec (.firmwareUpdate m img) s = .next (setModule s m { o with staged := some img })) ∧
      (∀ nonce, ∃ a, exec (.attestation m nonce) s = .next { s with notices := s.notices ++ [⟨"MEASUREMENTS", a⟩] } ∧
        ∀ k, k < 8 → a.getD (2 + k) 0 = (measReg o k).toNat) ∧
      (∀ reg obj, reg < 8 → measured o m reg obj = true → ∃ t, exec (.measureExtend m reg obj) s = .next t ∧ SameFocus s t ∧
        measReg (getModule t m) reg = BitVec.ofNat 512 (beNat (sha512 (measBytes (measReg o reg) ++ sha512 obj))) ∧
        ∀ k, k ≠ reg → measReg (getModule t m) k = measReg o k)) ∧
    (∀ i n, o.running = some i → i.svn = n → o.svn ≤ n → exec (.svnCommit m n) s = .next (setModule s m { o with svn := n })) ∧
    (∀ i n, o.running = some i → n < o.svn → exec (.svnCommit m n) s = .fault .notEnabled) ∧
    (∀ vi addr len, vi < 64 →
      (∀ e data, let k : Kind := if data.isSome then .write else .read
        let n := match data with | some (bs : List Byte) => bs.length | none => len
        hostFree s m vi k addr n = true → imagePages s (frontAgent m vi) k addr n = .error e →
        exec (.rdmaTransfer m vi addr len data) s = .next { s with rdma := s.rdma ++ [⟨"RDMA_ERROR", [m, vi, e.va]⟩] }) ∧
      (∀ pa bs, hostFree s m vi .read addr len = true →
        imagePages s (frontAgent m vi) .read addr len = .ok [(pa, len)] → place pa = .hbm →
        engineRead s (m * 16) [(pa, len)] = .ok bs → exec (.rdmaTransfer m vi addr len none) s =
          .next { s with rdma := s.rdma ++ [⟨"RDMA_DATA", [m, vi, addr] ++ bs.map BitVec.toNat⟩] }) ∧
      (∀ pa bs, hostFree s m vi .write addr bs.length = true →
        imagePages s (frontAgent m vi) .write addr bs.length = .ok [(pa, bs.length)] → place pa = .hbm →
        isLocal m (pa, bs.length) = true → NoWindows s → NoArms s → ∃ t, exec (.rdmaTransfer m vi addr len (some bs)) s = .next t ∧
          (∀ a, rdByte t a = landed s a (partsByte [(pa, bs.length)] bs a)) ∧ SameFocus s t) ∧
      (hostFree s m vi .read addr len = false → exec (.rdmaTransfer m vi addr len none) s = .fault .notEnabled)) ∧
    (∀ addr len bs, hostFree s m 64 .read addr len = true → engineRead s (m * 16) [(addr, len)] = .ok bs →
      exec (.rdmaTransfer m 64 addr len none) s =
        .next { s with rdma := s.rdma ++ [⟨"RDMA_DATA", [m, 64, addr] ++ bs.map BitVec.toNat⟩] }) ∧
    (∀ addr len (bs : List Byte), hostFree s m 64 .write addr bs.length = true →
      (noStore addr = true → exec (.rdmaTransfer m 64 addr len (some bs)) s =
        .next { s with rdma := s.rdma ++ [⟨"RDMA_ERROR", [m, 64, addr]⟩] }) ∧
      (noStore addr = false → NoWindows s → NoArms s → ∃ t, exec (.rdmaTransfer m 64 addr len (some bs)) s = .next t ∧
        (∀ a, rdByte t a = landed s a (partsByte [(addr, bs.length)] bs a)) ∧ SameFocus s t))

/-- The active set and what is no instruction (02_words.md R35 to R37, R52 to R54, R57 to R60): an entity that is not
ready leaves the active set; rotation takes out the entity that has held its entry longest, when that is 512 clocks, or,
when a ready pending one has waited 256, the longest resident of those that have issued, and puts in the ready one that
woke first; an owner whose checks are made keeps what its split has done since; a word that is no
instruction raises ILLEGAL with the word in TRAPV; and no instruction is ever refused. Without an input the machine
always steps. When the scheduler acts, and that a tick stands for a clock, are the model's choices (logs 2 and 10). -/
def Obligations.Scheduling : Prop :=
  ((∀ (s : State) (w : Word), exec (.notAnInstruction w) s = .next (trap s Cause.illegal (w.setWidth 64) (active s))) ∧
  (∀ (s : State) (i : Instr) (r : Refusal), exec i s ≠ .refused r) ∧
  (∀ (s : State) (t : Team) (g : Group) (x : Split), findTeam s t.id = some t → findGroup s t.id g.num = some g →
    findSplit s t.id g.num x.num = some x →
    let u := updSplit s t.id g.num x.num (fun y => { y with active := false, woke := s.tick })
    (x.active = true → entityReady s (t.id, g.num, x) = false → ∃ v, exec (.idleDemote t.id g.num x.num) s = .next v ∧
      (readyPending u t.core g.part = [] → v = u)) ∧
    (x.active = false ∨ entityReady s (t.id, g.num, x) = true → exec (.idleDemote t.id g.num x.num) s = .fault .notEnabled)) ∧
  (∀ (s : State) (core part : Nat),
    (readyPending s core part = [] → exec (.entityRotate core part) s = .fault .notEnabled) ∧
    (let act := (entities s core part).filter (fun e => e.2.2.active)
     let old := act.filter (fun e => decide (e.2.2.entered + 512 ≤ s.tick))
     let ran := act.filter (fun e => e.2.2.issued)
     let late := (readyPending s core part).filter (fun e => decide (e.2.2.woke + 256 ≤ s.tick))
     let out := if old = [] then ran else old
     (old = [] → ran = [] ∨ late = [] → exec (.entityRotate core part) s = .fault .notEnabled) ∧
     (readyPending s core part ≠ [] → old ≠ [] ∨ (ran ≠ [] ∧ late ≠ []) →
      ∃ e ∈ out, ∃ n ∈ readyPending s core part,
        (∀ x ∈ out, e.2.2.entered ≤ x.2.2.entered) ∧ (∀ x ∈ readyPending s core part, n.2.2.woke ≤ x.2.2.woke) ∧
        exec (.entityRotate core part) s = .next (updSplit
          (updSplit s e.1 e.2.1 e.2.2.num (fun x => { x with active := false, woke := s.tick })) n.1 n.2.1 n.2.2.num
          (fun x => { x with active := true, entered := s.tick, issued := false }))))) ∧
  (∀ (s : State) (f : Flight) (k : Snapshot), findFlight s f.id = some f → s.live = true → f.team = s.team.id →
    f.grp = s.group.num → f.spl = s.split.num → findSplit s f.team f.grp f.spl = some s.split → s.split.owner = some (f.id, k) →
    pathFull (passOwner (focusOn s f.team f.grp f.spl) f k) = false →
    ∃ t, exec (.ownerChecksPassed f.id) s = .next t ∧
      let s0 := putSnap (dropFlight s f.id) k
      let s1 := { s0 with
        lim := ownerLim f
        split := { s0.split with owner := none, wait := none }
        group := { s0.group with log := s0.group.log.filter (fun e => e.1 != s0.split.num) } }
      ∀ u, execFused f.instr s1 = some (.next u) →
        (tookTrap s1 u = true ∨ heldAt s1 u = true → t = u) ∧
        (tookTrap s1 u = false → heldAt s1 u = false → t.split.pc = s.split.pc ∧ t.split.mode = s.split.mode ∧
          t.split.s = s.split.s ∧ t.team = u.team ∧ t.flights = u.flights))) ∧
  (∀ s : State, s.agenda = [] → ∃ t, step s = .next t)
end

