-- ==== Sys2Proof/Laws/Exec.lean ====
section
/-! SUPPORT. The dispatcher, one equation per constructor, so that no proof unfolds it. -/

namespace Sys2Proof.Laws

open Sys2Proof.Machine

@[simp] theorem exec_mov {d a p} (s : State) : exec (.mov d a p) s =
    execMov d a p s := rfl
@[simp] theorem exec_movi {d imm} (s : State) : exec (.movi d imm) s =
    execMovi d imm s := rfl
@[simp] theorem exec_iadd {d a p b q} (s : State) : exec (.iadd d a p b q) s =
    execIadd d a p b q s := rfl
@[simp] theorem exec_isub {d a p b q} (s : State) : exec (.isub d a p b q) s =
    execIsub d a p b q s := rfl
@[simp] theorem exec_imul {d a p b q} (s : State) : exec (.imul d a p b q) s =
    execImul d a p b q s := rfl
@[simp] theorem exec_imulh {d a p b q} (s : State) : exec (.imulh d a p b q) s =
    execImulh d a p b q s := rfl
@[simp] theorem exec_imad {d a p b q} (s : State) : exec (.imad d a p b q) s =
    execImad d a p b q s := rfl
@[simp] theorem exec_iaddi {d a imm} (s : State) : exec (.iaddi d a imm) s =
    execIaddi d a imm s := rfl
@[simp] theorem exec_imin {d a p b q} (s : State) : exec (.imin d a p b q) s =
    execImin d a p b q s := rfl
@[simp] theorem exec_imax {d a p b q} (s : State) : exec (.imax d a p b q) s =
    execImax d a p b q s := rfl
@[simp] theorem exec_iabs {d a p} (s : State) : exec (.iabs d a p) s =
    execIabs d a p s := rfl
@[simp] theorem exec_ineg {d a p} (s : State) : exec (.ineg d a p) s =
    execIneg d a p s := rfl
@[simp] theorem exec_isad {d a p b q} (s : State) : exec (.isad d a p b q) s =
    execIsad d a p b q s := rfl
@[simp] theorem exec_idiv {d a p b q} (s : State) : exec (.idiv d a p b q) s =
    execIdiv d a p b q s := rfl
@[simp] theorem exec_irem {d a p b q} (s : State) : exec (.irem d a p b q) s =
    execIrem d a p b q s := rfl
@[simp] theorem exec_and {d a p b q} (s : State) : exec (.and d a p b q) s =
    execAnd d a p b q s := rfl
@[simp] theorem exec_or {d a p b q} (s : State) : exec (.or d a p b q) s =
    execOr d a p b q s := rfl
@[simp] theorem exec_xor {d a p b q} (s : State) : exec (.xor d a p b q) s =
    execXor d a p b q s := rfl
@[simp] theorem exec_andn {d a p b q} (s : State) : exec (.andn d a p b q) s =
    execAndn d a p b q s := rfl
@[simp] theorem exec_not {d a p} (s : State) : exec (.not d a p) s =
    execNot d a p s := rfl
@[simp] theorem exec_shl {d a p b q} (s : State) : exec (.shl d a p b q) s =
    execShl d a p b q s := rfl
@[simp] theorem exec_shr {d a p b q} (s : State) : exec (.shr d a p b q) s =
    execShr d a p b q s := rfl
@[simp] theorem exec_sha {d a p b q} (s : State) : exec (.sha d a p b q) s =
    execSha d a p b q s := rfl
@[simp] theorem exec_rotl {d a p b q} (s : State) : exec (.rotl d a p b q) s =
    execRotl d a p b q s := rfl
@[simp] theorem exec_shli {d a n} (s : State) : exec (.shli d a n) s =
    execShli d a n s := rfl
@[simp] theorem exec_shri {d a n} (s : State) : exec (.shri d a n) s =
    execShri d a n s := rfl
@[simp] theorem exec_shai {d a n} (s : State) : exec (.shai d a n) s =
    execShai d a n s := rfl
@[simp] theorem exec_popc {d a p} (s : State) : exec (.popc d a p) s =
    execPopc d a p s := rfl
@[simp] theorem exec_clz {d a p} (s : State) : exec (.clz d a p) s =
    execClz d a p s := rfl
@[simp] theorem exec_brev {d a p} (s : State) : exec (.brev d a p) s =
    execBrev d a p s := rfl
@[simp] theorem exec_bfx {d a l o} (s : State) : exec (.bfx d a l o) s =
    execBfx d a l o s := rfl
@[simp] theorem exec_bfi {d a l o} (s : State) : exec (.bfi d a l o) s =
    execBfi d a l o s := rfl
@[simp] theorem exec_sel {d a p b q} (s : State) : exec (.sel d a p b q) s =
    execSel d a p b q s := rfl
@[simp] theorem exec_icmp {d c a p b q} (s : State) : exec (.icmp d c a p b q) s =
    execIcmp d c a p b q s := rfl
@[simp] theorem exec_plog {d c a b} (s : State) : exec (.plog d c a b) s =
    execPlog d c a b s := rfl
@[simp] theorem exec_pmovNz {d a p} (s : State) : exec (.pmovNz d a p) s =
    execPmovNz d a p s := rfl
@[simp] theorem exec_pmovBit {d a p k} (s : State) : exec (.pmovBit d a p k) s =
    execPmovBit d a p k s := rfl
@[simp] theorem exec_pmovSet {d} (s : State) : exec (.pmovSet d) s =
    execPmovSet d s := rfl
@[simp] theorem exec_pmovClr {d} (s : State) : exec (.pmovClr d) s =
    execPmovClr d s := rfl
@[simp] theorem exec_pmovNot {d a} (s : State) : exec (.pmovNot d a) s =
    execPmovNot d a s := rfl
@[simp] theorem exec_pmovFroms {d a} (s : State) : exec (.pmovFroms d a) s =
    execPmovFroms d a s := rfl
@[simp] theorem exec_vote {d c a} (s : State) : exec (.vote d c a) s =
    execVote d c a s := rfl
@[simp] theorem exec_voteBallot {d a b} (s : State) : exec (.voteBallot d a b) s =
    execVoteBallot d a b s := rfl
@[simp] theorem exec_xshf {d a b q} (s : State) : exec (.xshf d a b q) s =
    execXshf d a b q s := rfl
@[simp] theorem exec_setx {n a b} (s : State) : exec (.setx n a b) s =
    execSetx n a b s := rfl
@[simp] theorem exec_movx {d a p n} (s : State) : exec (.movx d a p n) s =
    execMovx d a p n s := rfl
@[simp] theorem exec_stx {n a p b q} (s : State) : exec (.stx n a p b q) s =
    execStx n a p b q s := rfl
@[simp] theorem exec_s2v {d a} (s : State) : exec (.s2v d a) s =
    execS2v d a s := rfl
@[simp] theorem exec_v2s {d a p l} (s : State) : exec (.v2s d a p l) s =
    execV2s d a p l s := rfl
@[simp] theorem exec_sadd {d a b} (s : State) : exec (.sadd d a b) s =
    execSadd d a b s := rfl
@[simp] theorem exec_saddImm {d a imm} (s : State) : exec (.saddImm d a imm) s =
    execSaddImm d a imm s := rfl
@[simp] theorem exec_ssub {d a b} (s : State) : exec (.ssub d a b) s =
    execSsub d a b s := rfl
@[simp] theorem exec_ssubImm {d a imm} (s : State) : exec (.ssubImm d a imm) s =
    execSsubImm d a imm s := rfl
@[simp] theorem exec_smul {d a b} (s : State) : exec (.smul d a b) s =
    execSmul d a b s := rfl
@[simp] theorem exec_smulImm {d a imm} (s : State) : exec (.smulImm d a imm) s =
    execSmulImm d a imm s := rfl
@[simp] theorem exec_sand {d a b} (s : State) : exec (.sand d a b) s =
    execSand d a b s := rfl
@[simp] theorem exec_sandImm {d a imm} (s : State) : exec (.sandImm d a imm) s =
    execSandImm d a imm s := rfl
@[simp] theorem exec_sor {d a b} (s : State) : exec (.sor d a b) s =
    execSor d a b s := rfl
@[simp] theorem exec_sorImm {d a imm} (s : State) : exec (.sorImm d a imm) s =
    execSorImm d a imm s := rfl
@[simp] theorem exec_sxor {d a b} (s : State) : exec (.sxor d a b) s =
    execSxor d a b s := rfl
@[simp] theorem exec_sxorImm {d a imm} (s : State) : exec (.sxorImm d a imm) s =
    execSxorImm d a imm s := rfl
@[simp] theorem exec_sshl {d a b} (s : State) : exec (.sshl d a b) s =
    execSshl d a b s := rfl
@[simp] theorem exec_sshlImm {d a imm} (s : State) : exec (.sshlImm d a imm) s =
    execSshlImm d a imm s := rfl
@[simp] theorem exec_sshr {d a b} (s : State) : exec (.sshr d a b) s =
    execSshr d a b s := rfl
@[simp] theorem exec_sshrImm {d a imm} (s : State) : exec (.sshrImm d a imm) s =
    execSshrImm d a imm s := rfl
@[simp] theorem exec_scmp {d a b c} (s : State) : exec (.scmp d a b c) s =
    execScmp d a b c s := rfl
@[simp] theorem exec_smovi {d imm} (s : State) : exec (.smovi d imm) s =
    execSmovi d imm s := rfl
@[simp] theorem exec_sreg {d n} (s : State) : exec (.sreg d n) s =
    execSreg d n s := rfl
@[simp] theorem exec_setm {a} (s : State) : exec (.setm a) s =
    execSetm a s := rfl
@[simp] theorem exec_modi {f v} (s : State) : exec (.modi f v) s =
    execModi f v s := rfl
@[simp] theorem exec_bysel {d a p b q} (s : State) : exec (.bysel d a p b q) s =
    execBysel d a p b q s := rfl
@[simp] theorem exec_idot4 {d a p b q} (s : State) : exec (.idot4 d a p b q) s =
    execIdot4 d a p b q s := rfl
@[simp] theorem exec_ired {d a o} (s : State) : exec (.ired d a o) s =
    execIred d a o s := rfl
@[simp] theorem exec_fadd {d a p b q} (s : State) : exec (.fadd d a p b q) s =
    execFadd d a p b q s := rfl
@[simp] theorem exec_fsub {d a p b q} (s : State) : exec (.fsub d a p b q) s =
    execFsub d a p b q s := rfl
@[simp] theorem exec_fmul {d a p b q} (s : State) : exec (.fmul d a p b q) s =
    execFmul d a p b q s := rfl
@[simp] theorem exec_fma {d a p b q} (s : State) : exec (.fma d a p b q) s =
    execFma d a p b q s := rfl
@[simp] theorem exec_fms {d a p b q} (s : State) : exec (.fms d a p b q) s =
    execFms d a p b q s := rfl
@[simp] theorem exec_fnma {d a p b q} (s : State) : exec (.fnma d a p b q) s =
    execFnma d a p b q s := rfl
@[simp] theorem exec_fmin {d a p b q} (s : State) : exec (.fmin d a p b q) s =
    execFmin d a p b q s := rfl
@[simp] theorem exec_fmax {d a p b q} (s : State) : exec (.fmax d a p b q) s =
    execFmax d a p b q s := rfl
@[simp] theorem exec_fabs {d a p} (s : State) : exec (.fabs d a p) s =
    execFabs d a p s := rfl
@[simp] theorem exec_fneg {d a p} (s : State) : exec (.fneg d a p) s =
    execFneg d a p s := rfl
@[simp] theorem exec_fsgn {d a p b q} (s : State) : exec (.fsgn d a p b q) s =
    execFsgn d a p b q s := rfl
@[simp] theorem exec_fcmp {d c a p b q} (s : State) : exec (.fcmp d c a p b q) s =
    execFcmp d c a p b q s := rfl
@[simp] theorem exec_fclass {d a p} (s : State) : exec (.fclass d a p) s =
    execFclass d a p s := rfl
@[simp] theorem exec_frint {d a p} (s : State) : exec (.frint d a p) s =
    execFrint d a p s := rfl
@[simp] theorem exec_fscale {d a p b q} (s : State) : exec (.fscale d a p b q) s =
    execFscale d a p b q s := rfl
@[simp] theorem exec_fgetexp {d a p} (s : State) : exec (.fgetexp d a p) s =
    execFgetexp d a p s := rfl
@[simp] theorem exec_fdiv {d a p b q} (s : State) : exec (.fdiv d a p b q) s =
    execFdiv d a p b q s := rfl
@[simp] theorem exec_fsqrt {d a p} (s : State) : exec (.fsqrt d a p) s =
    execFsqrt d a p s := rfl
@[simp] theorem exec_frcp {d a p} (s : State) : exec (.frcp d a p) s =
    execFrcp d a p s := rfl
@[simp] theorem exec_frsq {d a p} (s : State) : exec (.frsq d a p) s =
    execFrsq d a p s := rfl
@[simp] theorem exec_fexp2 {d a p} (s : State) : exec (.fexp2 d a p) s =
    execFexp2 d a p s := rfl
@[simp] theorem exec_flog2 {d a p} (s : State) : exec (.flog2 d a p) s =
    execFlog2 d a p s := rfl
@[simp] theorem exec_fsin {d a p} (s : State) : exec (.fsin d a p) s =
    execFsin d a p s := rfl
@[simp] theorem exec_fcos {d a p} (s : State) : exec (.fcos d a p) s =
    execFcos d a p s := rfl
@[simp] theorem exec_ftanh {d a p} (s : State) : exec (.ftanh d a p) s =
    execFtanh d a p s := rfl
@[simp] theorem exec_fdot2 {d a p b q} (s : State) : exec (.fdot2 d a p b q) s =
    execFdot2 d a p b q s := rfl
@[simp] theorem exec_fdot4 {d a p b q} (s : State) : exec (.fdot4 d a p b q) s =
    execFdot4 d a p b q s := rfl
@[simp] theorem exec_fred {d a o} (s : State) : exec (.fred d a o) s =
    execFred d a o s := rfl
@[simp] theorem exec_argmx {d a p b q} (s : State) : exec (.argmx d a p b q) s =
    execArgmx d a p b q s := rfl
@[simp] theorem exec_cvt {d a p x t} (s : State) : exec (.cvt d a p x t) s =
    execCvt d a p x t s := rfl
@[simp] theorem exec_cvtp {d a p b q} (s : State) : exec (.cvtp d a p b q) s =
    execCvtp d a p b q s := rfl
@[simp] theorem exec_seed {a} (s : State) : exec (.seed a) s =
    execSeed a s := rfl
@[simp] theorem exec_rngU32 {d} (s : State) : exec (.rngU32 d) s =
    execRngU32 d s := rfl
@[simp] theorem exec_rngUnit {d} (s : State) : exec (.rngUnit d) s =
    execRngUnit d s := rfl
@[simp] theorem exec_rngGet {d} (s : State) : exec (.rngGet d) s =
    execRngGet d s := rfl
@[simp] theorem exec_rngSet {a p} (s : State) : exec (.rngSet a p) s =
    execRngSet a p s := rfl
@[simp] theorem exec_qmx {d a p} (s : State) : exec (.qmx d a p) s =
    execQmx d a p s := rfl
@[simp] theorem exec_qmxa {d a p b q} (s : State) : exec (.qmxa d a p b q) s =
    execQmxa d a p b q s := rfl
@[simp] theorem exec_bra {imm} (s : State) : exec (.bra imm) s =
    execBra imm s := rfl
@[simp] theorem exec_brall {imm} (s : State) : exec (.brall imm) s =
    execBrall imm s := rfl
@[simp] theorem exec_brany {imm} (s : State) : exec (.brany imm) s =
    execBrany imm s := rfl
@[simp] theorem exec_brx {a} (s : State) : exec (.brx a) s =
    execBrx a s := rfl
@[simp] theorem exec_call {imm} (s : State) : exec (.call imm) s =
    execCall imm s := rfl
@[simp] theorem exec_callx {a} (s : State) : exec (.callx a) s =
    execCallx a s := rfl
@[simp] theorem exec_ret {a} (s : State) : exec (.ret a) s =
    execRet a s := rfl
@[simp] theorem exec_split {imm} (s : State) : exec (.split imm) s =
    execSplit imm s := rfl
@[simp] theorem exec_rcv {imm} (s : State) : exec (.rcv imm) s =
    execRcv imm s := rfl
@[simp] theorem exec_wait {p b} (s : State) : exec (.wait p b) s =
    execWait p b s := rfl
@[simp] theorem exec_waitImm {p n} (s : State) : exec (.waitImm p n) s =
    execWaitImm p n s := rfl
@[simp] theorem exec_bkpt {imm} (s : State) : exec (.bkpt imm) s =
    execBkpt imm s := rfl
@[simp] theorem exec_msqStart {x l} (s : State) : exec (.msqStart x l) s =
    execMsqStart x l s := rfl
@[simp] theorem exec_msqQry {z l} (s : State) : exec (.msqQry z l) s =
    execMsqQry z l s := rfl
@[simp] theorem exec_ldb {d a sb l q} (s : State) : exec (.ldb d a sb l q) s =
    execLdb d a sb l q s := rfl
@[simp] theorem exec_ldh {d a sb l q} (s : State) : exec (.ldh d a sb l q) s =
    execLdh d a sb l q s := rfl
@[simp] theorem exec_ldw {d a sb l q} (s : State) : exec (.ldw d a sb l q) s =
    execLdw d a sb l q s := rfl
@[simp] theorem exec_ldd {d a sb l q} (s : State) : exec (.ldd d a sb l q) s =
    execLdd d a sb l q s := rfl
@[simp] theorem exec_ldq {d a sb l q} (s : State) : exec (.ldq d a sb l q) s =
    execLdq d a sb l q s := rfl
@[simp] theorem exec_stb {d a sb l q} (s : State) : exec (.stb d a sb l q) s =
    execStb d a sb l q s := rfl
@[simp] theorem exec_sth {d a sb l q} (s : State) : exec (.sth d a sb l q) s =
    execSth d a sb l q s := rfl
@[simp] theorem exec_stw {d a sb l q} (s : State) : exec (.stw d a sb l q) s =
    execStw d a sb l q s := rfl
@[simp] theorem exec_std {d a sb l q} (s : State) : exec (.std d a sb l q) s =
    execStd d a sb l q s := rfl
@[simp] theorem exec_stq {d a sb l q} (s : State) : exec (.stq d a sb l q) s =
    execStq d a sb l q s := rfl
@[simp] theorem exec_ldc {d sb l q} (s : State) : exec (.ldc d sb l q) s =
    execLdc d sb l q s := rfl
@[simp] theorem exec_pref {v a sb l} (s : State) : exec (.pref v a sb l) s =
    execPref v a sb l s := rfl
@[simp] theorem exec_cctlL1inv {a sb l} (s : State) : exec (.cctlL1inv a sb l) s =
    execCctlL1inv a sb l s := rfl
@[simp] theorem exec_cctlRdcinv {a sb l} (s : State) : exec (.cctlRdcinv a sb l) s =
    execCctlRdcinv a sb l s := rfl
@[simp] theorem exec_cctlWb {a sb l} (s : State) : exec (.cctlWb a sb l) s =
    execCctlWb a sb l s := rfl
@[simp] theorem exec_cctlWbinv {a sb l} (s : State) : exec (.cctlWbinv a sb l) s =
    execCctlWbinv a sb l s := rfl
@[simp] theorem exec_pinSet {x y z l} (s : State) : exec (.pinSet x y z l) s =
    execPinSet x y z l s := rfl
@[simp] theorem exec_pinClr {x y z l} (s : State) : exec (.pinClr x y z l) s =
    execPinClr x y z l s := rfl
@[simp] theorem exec_pinQry {y z l} (s : State) : exec (.pinQry y z l) s =
    execPinQry y z l s := rfl
@[simp] theorem exec_pinAll {z l} (s : State) : exec (.pinAll z l) s =
    execPinAll z l s := rfl
@[simp] theorem exec_atrn {d a sb l w} (s : State) : exec (.atrn d a sb l w) s =
    execAtrn d a sb l w s := rfl
@[simp] theorem exec_fence {n c} (s : State) : exec (.fence n c) s =
    execFence n c s := rfl
@[simp] theorem exec_binit {x y l} (s : State) : exec (.binit x y l) s =
    execBinit x y l s := rfl
@[simp] theorem exec_barv {x z l c} (s : State) : exec (.barv x z l c) s =
    execBarv x z l c s := rfl
@[simp] theorem exec_barvB {x y z l c} (s : State) : exec (.barvB x y z l c) s =
    execBarvB x y z l c s := rfl
@[simp] theorem exec_bexp {x y l} (s : State) : exec (.bexp x y l) s =
    execBexp x y l s := rfl
@[simp] theorem exec_bwait {x y c} (s : State) : exec (.bwait x y c) s =
    execBwait x y c s := rfl
@[simp] theorem exec_btest {x z l h} (s : State) : exec (.btest x z l h) s =
    execBtest x z l h s := rfl
@[simp] theorem exec_rinit {y k} (s : State) : exec (.rinit y k) s =
    execRinit y k s := rfl
@[simp] theorem exec_rarv {z k} (s : State) : exec (.rarv z k) s =
    execRarv z k s := rfl
@[simp] theorem exec_rwait {y k} (s : State) : exec (.rwait y k) s =
    execRwait y k s := rfl
@[simp] theorem exec_rsync {z k} (s : State) : exec (.rsync z k) s =
    execRsync z k s := rfl
@[simp] theorem exec_aadd {d a b l o} (s : State) : exec (.aadd d a b l o) s =
    execAadd d a b l o s := rfl
@[simp] theorem exec_amin {d a b l o} (s : State) : exec (.amin d a b l o) s =
    execAmin d a b l o s := rfl
@[simp] theorem exec_amax {d a b l o} (s : State) : exec (.amax d a b l o) s =
    execAmax d a b l o s := rfl
@[simp] theorem exec_aand {d a b l o} (s : State) : exec (.aand d a b l o) s =
    execAand d a b l o s := rfl
@[simp] theorem exec_aor {d a b l o} (s : State) : exec (.aor d a b l o) s =
    execAor d a b l o s := rfl
@[simp] theorem exec_axor {d a b l o} (s : State) : exec (.axor d a b l o) s =
    execAxor d a b l o s := rfl
@[simp] theorem exec_axch {d a b l o} (s : State) : exec (.axch d a b l o) s =
    execAxch d a b l o s := rfl
@[simp] theorem exec_acas {d a b l o} (s : State) : exec (.acas d a b l o) s =
    execAcas d a b l o s := rfl
@[simp] theorem exec_afadd {d a b l o} (s : State) : exec (.afadd d a b l o) s =
    execAfadd d a b l o s := rfl
@[simp] theorem exec_red {o a b l r} (s : State) : exec (.red o a b l r) s =
    execRed o a b l r s := rfl
@[simp] theorem exec_bump {d a b l o} (s : State) : exec (.bump d a b l o) s =
    execBump d a b l o s := rfl
@[simp] theorem exec_sigi {d a b o} (s : State) : exec (.sigi d a b o) s =
    execSigi d a b o s := rfl
@[simp] theorem exec_sigd {d a b o} (s : State) : exec (.sigd d a b o) s =
    execSigd d a b o s := rfl
@[simp] theorem exec_tlsig {d a b o} (s : State) : exec (.tlsig d a b o) s =
    execTlsig d a b o s := rfl
@[simp] theorem exec_carm {x y z l c} (s : State) : exec (.carm x y z l c) s =
    execCarm x y z l c s := rfl
@[simp] theorem exec_carmCancel {y z l} (s : State) : exec (.carmCancel y z l) s =
    execCarmCancel y z l s := rfl
@[simp] theorem exec_cpa {d a sb l t} (s : State) : exec (.cpa d a sb l t) s =
    execCpa d a sb l t s := rfl
@[simp] theorem exec_hdefChk {y z l} (s : State) : exec (.hdefChk y z l) s =
    execHdefChk y z l s := rfl
@[simp] theorem exec_hdefBase {x y l} (s : State) : exec (.hdefBase x y l) s =
    execHdefBase x y l s := rfl
@[simp] theorem exec_hdefOrg {x y l} (s : State) : exec (.hdefOrg x y l) s =
    execHdefOrg x y l s := rfl
@[simp] theorem exec_hdefAdv {x y l} (s : State) : exec (.hdefAdv x y l) s =
    execHdefAdv x y l s := rfl
@[simp] theorem exec_hdefOrgh {x y l} (s : State) : exec (.hdefOrgh x y l) s =
    execHdefOrgh x y l s := rfl
@[simp] theorem exec_tcpy {x y z l u n} (s : State) : exec (.tcpy x y z l u n) s =
    execTcpy x y z l u n s := rfl
@[simp] theorem exec_tsto {x y z l u n} (s : State) : exec (.tsto x y z l u n) s =
    execTsto x y z l u n s := rfl
@[simp] theorem exec_tred {x y z l u n} (s : State) : exec (.tred x y z l u n) s =
    execTred x y z l u n s := rfl
@[simp] theorem exec_tsct {x y z l k} (s : State) : exec (.tsct x y z l k) s =
    execTsct x y z l k s := rfl
@[simp] theorem exec_tgth {x y z l u n} (s : State) : exec (.tgth x y z l u n) s =
    execTgth x y z l u n s := rfl
@[simp] theorem exec_crset {x y l} (s : State) : exec (.crset x y l) s =
    execCrset x y l s := rfl
@[simp] theorem exec_crpop {z l} (s : State) : exec (.crpop z l) s =
    execCrpop z l s := rfl
@[simp] theorem exec_crpopSeq {z l} (s : State) : exec (.crpopSeq z l) s =
    execCrpopSeq z l s := rfl
@[simp] theorem exec_crpopDrop {z l} (s : State) : exec (.crpopDrop z l) s =
    execCrpopDrop z l s := rfl
@[simp] theorem exec_mbxget {z l} (s : State) : exec (.mbxget z l) s =
    execMbxget z l s := rfl
@[simp] theorem exec_mbxgetSp {y z l} (s : State) : exec (.mbxgetSp y z l) s =
    execMbxgetSp y z l s := rfl
@[simp] theorem exec_mbxarm {y} (s : State) : exec (.mbxarm y) s =
    execMbxarm y s := rfl
@[simp] theorem exec_mbxarmCancel {y z} (s : State) : exec (.mbxarmCancel y z) s =
    execMbxarmCancel y z s := rfl
@[simp] theorem exec_evsigAdd {x y} (s : State) : exec (.evsigAdd x y) s =
    execEvsigAdd x y s := rfl
@[simp] theorem exec_evsigReset {x y z} (s : State) : exec (.evsigReset x y z) s =
    execEvsigReset x y z s := rfl
@[simp] theorem exec_evarm {x y z} (s : State) : exec (.evarm x y z) s =
    execEvarm x y z s := rfl
@[simp] theorem exec_evarmCancel {y z} (s : State) : exec (.evarmCancel y z) s =
    execEvarmCancel y z s := rfl
@[simp] theorem exec_evqry {x z l h} (s : State) : exec (.evqry x z l h) s =
    execEvqry x z l h s := rfl
@[simp] theorem exec_opapp {x y z l} (s : State) : exec (.opapp x y z l) s =
    execOpapp x y z l s := rfl
@[simp] theorem exec_fixup {x z} (s : State) : exec (.fixup x z) s =
    execFixup x z s := rfl
@[simp] theorem exec_lmap {y z l n} (s : State) : exec (.lmap y z l n) s =
    execLmap y z l n s := rfl
@[simp] theorem exec_xa2a {x y z l n m} (s : State) : exec (.xa2a x y z l n m) s =
    execXa2a x y z l n m s := rfl
@[simp] theorem exec_xag {x y z l n m} (s : State) : exec (.xag x y z l n m) s =
    execXag x y z l n m s := rfl
@[simp] theorem exec_xrs {x y z l n m} (s : State) : exec (.xrs x y z l n m) s =
    execXrs x y z l n m s := rfl
@[simp] theorem exec_rdcfRange {x y z l} (s : State) : exec (.rdcfRange x y z l) s =
    execRdcfRange x y z l s := rfl
@[simp] theorem exec_rdcfMod {y z l} (s : State) : exec (.rdcfMod y z l) s =
    execRdcfMod y z l s := rfl
@[simp] theorem exec_fqryPort {y z l} (s : State) : exec (.fqryPort y z l) s =
    execFqryPort y z l s := rfl
@[simp] theorem exec_fqryPlane {y z l} (s : State) : exec (.fqryPlane y z l) s =
    execFqryPlane y z l s := rfl
@[simp] theorem exec_fqryReach {y z l} (s : State) : exec (.fqryReach y z l) s =
    execFqryReach y z l s := rfl
@[simp] theorem exec_digs {a p b q} (s : State) : exec (.digs a p b q) s =
    execDigs a p b q s := rfl
@[simp] theorem exec_clonChk {d} (s : State) : exec (.clonChk d) s =
    execClonChk d s := rfl
@[simp] theorem exec_clonDrop {d} (s : State) : exec (.clonDrop d) s =
    execClonDrop d s := rfl
@[simp] theorem exec_clonTrans {d} (s : State) : exec (.clonTrans d) s =
    execClonTrans d s := rfl
@[simp] theorem exec_scrnDig {z} (s : State) : exec (.scrnDig z) s =
    execScrnDig z s := rfl
@[simp] theorem exec_susqScore {y z} (s : State) : exec (.susqScore y z) s =
    execSusqScore y z s := rfl
@[simp] theorem exec_susqQmask {y z} (s : State) : exec (.susqQmask y z) s =
    execSusqQmask y z s := rfl
@[simp] theorem exec_susqStat {y z} (s : State) : exec (.susqStat y z) s =
    execSusqStat y z s := rfl
@[simp] theorem exec_trap {imm} (s : State) : exec (.trap imm) s =
    execTrap imm s := rfl
@[simp] theorem exec_csrr {d c} (s : State) : exec (.csrr d c) s =
    execCsrr d c s := rfl
@[simp] theorem exec_csrw {a c} (s : State) : exec (.csrw a c) s =
    execCsrw a c s := rfl
@[simp] theorem exec_tlbiWrite {a} (s : State) : exec (.tlbiWrite a) s =
    execTlbiWrite a s := rfl
@[simp] theorem exec_fpmapWrite {a} (s : State) : exec (.fpmapWrite a) s =
    execFpmapWrite a s := rfl
@[simp] theorem exec_pptQry {z} (s : State) : exec (.pptQry z) s =
    execPptQry z s := rfl
@[simp] theorem exec_bswp {z} (s : State) : exec (.bswp z) s =
    execBswp z s := rfl
@[simp] theorem exec_bswpQry {z} (s : State) : exec (.bswpQry z) s =
    execBswpQry z s := rfl
@[simp] theorem exec_ctxs {x y z} (s : State) : exec (.ctxs x y z) s =
    execCtxs x y z s := rfl
@[simp] theorem exec_ctxl {x y z} (s : State) : exec (.ctxl x y z) s =
    execCtxl x y z s := rfl
@[simp] theorem exec_ctxlTeam {x y z t} (s : State) : exec (.ctxlTeam x y z t) s =
    execCtxlTeam x y z t s := rfl
@[simp] theorem exec_tagsSet {y} (s : State) : exec (.tagsSet y) s =
    execTagsSet y s := rfl
@[simp] theorem exec_tagsCnt {y z} (s : State) : exec (.tagsCnt y z) s =
    execTagsCnt y z s := rfl
@[simp] theorem exec_purg {y} (s : State) : exec (.purg y) s =
    execPurg y s := rfl
@[simp] theorem exec_purgClr {y} (s : State) : exec (.purgClr y) s =
    execPurgClr y s := rfl
@[simp] theorem exec_purgQry {y z} (s : State) : exec (.purgQry y z) s =
    execPurgQry y z s := rfl
@[simp] theorem exec_mzero {m v} (s : State) : exec (.mzero m v) s =
    execMzero m v s := rfl
@[simp] theorem exec_mma {m a b k n u t} (s : State) : exec (.mma m a b k n u t) s =
    execMma m a b k n u t s := rfl
@[simp] theorem exec_mmas {m a b k n u} (s : State) : exec (.mmas m a b k n u) s =
    execMmas m a b k n u s := rfl
@[simp] theorem exec_mmax {m a b k n u t} (s : State) : exec (.mmax m a b k n u t) s =
    execMmax m a b k n u t s := rfl
@[simp] theorem exec_mlda {m a v t} (s : State) : exec (.mlda m a v t) s =
    execMlda m a v t s := rfl
@[simp] theorem exec_msta {m a v sb r t} (s : State) : exec (.msta m a v sb r t) s =
    execMsta m a v sb r t s := rfl
@[simp] theorem exec_mcmp {a b k} (s : State) : exec (.mcmp a b k) s =
    execMcmp a b k s := rfl
@[simp] theorem exec_marv {k} (s : State) : exec (.marv k) s =
    execMarv k s := rfl
@[simp] theorem exec_mwat {k} (s : State) : exec (.mwat k) s =
    execMwat k s := rfl
@[simp] theorem exec_mhdl {h imm} (s : State) : exec (.mhdl h imm) s =
    execMhdl h imm s := rfl
@[simp] theorem exec_mjmp {imm} (s : State) : exec (.mjmp imm) s =
    execMjmp imm s := rfl
@[simp] theorem exec_mloop {n imm} (s : State) : exec (.mloop n imm) s =
    execMloop n imm s := rfl
@[simp] theorem exec_lim {imm} (s : State) : exec (.lim imm) s =
    execLim imm s := rfl
@[simp] theorem exec_mtrn {m t v c} (s : State) : exec (.mtrn m t v c) s =
    execMtrn m t v c s := rfl
@[simp] theorem exec_nop (s : State) : exec (.nop) s =
    execNop s := rfl
@[simp] theorem exec_join (s : State) : exec (.join) s =
    execJoin s := rfl
@[simp] theorem exec_exit (s : State) : exec (.exit) s =
    execExit s := rfl
@[simp] theorem exec_yield (s : State) : exec (.yield) s =
    execYield s := rfl
@[simp] theorem exec_jobdone (s : State) : exec (.jobdone) s =
    execJobdone s := rfl
@[simp] theorem exec_clonSync (s : State) : exec (.clonSync) s =
    execClonSync s := rfl
@[simp] theorem exec_scrnSkip (s : State) : exec (.scrnSkip) s =
    execScrnSkip s := rfl
@[simp] theorem exec_rte (s : State) : exec (.rte) s =
    execRte s := rfl
@[simp] theorem exec_ppt (s : State) : exec (.ppt) s =
    execPpt s := rfl
@[simp] theorem exec_halt (s : State) : exec (.halt) s =
    execHalt s := rfl
@[simp] theorem exec_mend (s : State) : exec (.mend) s =
    execMend s := rfl
@[simp] theorem exec_mendComplete {team} (s : State) : exec (.mendComplete team) s =
    execMendComplete team s := rfl
@[simp] theorem exec_idleDemote {team grp spl} (s : State) : exec (.idleDemote team grp spl) s =
    execIdleDemote team grp spl s := rfl
@[simp] theorem exec_entityRotate {core part} (s : State) : exec (.entityRotate core part) s =
    execEntityRotate core part s := rfl
@[simp] theorem exec_ownerChecksPassed {flight} (s : State) : exec (.ownerChecksPassed flight) s =
    execOwnerChecksPassed flight s := rfl
@[simp] theorem exec_loadDataReturn {flight} (s : State) : exec (.loadDataReturn flight) s =
    execLoadDataReturn flight s := rfl
@[simp] theorem exec_storePerform {flight} (s : State) : exec (.storePerform flight) s =
    execStorePerform flight s := rfl
@[simp] theorem exec_atomicExecute {flight} (s : State) : exec (.atomicExecute flight) s =
    execAtomicExecute flight s := rfl
@[simp] theorem exec_l1Invalidate {core line} (s : State) : exec (.l1Invalidate core line) s =
    execL1Invalidate core line s := rfl
@[simp] theorem exec_fenceComplete {team grp spl} (s : State) : exec (.fenceComplete team grp spl) s =
    execFenceComplete team grp spl s := rfl
@[simp] theorem exec_tlbiComplete {flight} (s : State) : exec (.tlbiComplete flight) s =
    execTlbiComplete flight s := rfl
@[simp] theorem exec_uncorrectableError {w} (s : State) : exec (.uncorrectableError w) s =
    execUncorrectableError w s := rfl
@[simp] theorem exec_leaseExpire {die line} (s : State) : exec (.leaseExpire die line) s =
    execLeaseExpire die line s := rfl
@[simp] theorem exec_leaseInvalidateTimeout {die line} (s : State) : exec (.leaseInvalidateTimeout die line) s =
    execLeaseInvalidateTimeout die line s := rfl
@[simp] theorem exec_cpaLand {flight} (s : State) : exec (.cpaLand flight) s =
    execCpaLand flight s := rfl
@[simp] theorem exec_tileOpComplete {flight} (s : State) : exec (.tileOpComplete flight) s =
    execTileOpComplete flight s := rfl
@[simp] theorem exec_tredTurn {flight} (s : State) : exec (.tredTurn flight) s =
    execTredTurn flight s := rfl
@[simp] theorem exec_fixupRelease {flight} (s : State) : exec (.fixupRelease flight) s =
    execFixupRelease flight s := rfl
@[simp] theorem exec_xrsTurn {flight} (s : State) : exec (.xrsTurn flight) s =
    execXrsTurn flight s := rfl
@[simp] theorem exec_exchangeComplete {flight} (s : State) : exec (.exchangeComplete flight) s =
    execExchangeComplete flight s := rfl
@[simp] theorem exec_opExpand {die vi stream} (s : State) : exec (.opExpand die vi stream) s =
    execOpExpand die vi stream s := rfl
@[simp] theorem exec_eventSubscribe {msg} (s : State) : exec (.eventSubscribe msg) s =
    execEventSubscribe msg s := rfl
@[simp] theorem exec_eventHomeUpdate {msg} (s : State) : exec (.eventHomeUpdate msg) s =
    execEventHomeUpdate msg s := rfl
@[simp] theorem exec_eventNotify {msg} (s : State) : exec (.eventNotify msg) s =
    execEventNotify msg s := rfl
@[simp] theorem exec_jobPlace {die} (s : State) : exec (.jobPlace die) s =
    execJobPlace die s := rfl
@[simp] theorem exec_jobdoneRetire {flight} (s : State) : exec (.jobdoneRetire flight) s =
    execJobdoneRetire flight s := rfl
@[simp] theorem exec_teamPlace {launch} (s : State) : exec (.teamPlace launch) s =
    execTeamPlace launch s := rfl
@[simp] theorem exec_gangAge {launch} (s : State) : exec (.gangAge launch) s =
    execGangAge launch s := rfl
@[simp] theorem exec_gangStarved {launch} (s : State) : exec (.gangStarved launch) s =
    execGangStarved launch s := rfl
@[simp] theorem exec_waitTimeout {who} (s : State) : exec (.waitTimeout who) s =
    execWaitTimeout who s := rfl
@[simp] theorem exec_purgeComplete {vi tag} (s : State) : exec (.purgeComplete vi tag) s =
    execPurgeComplete vi tag s := rfl
@[simp] theorem exec_drainAllParked {core} (s : State) : exec (.drainAllParked core) s =
    execDrainAllParked core s := rfl
@[simp] theorem exec_drainFlushDone {core} (s : State) : exec (.drainFlushDone core) s =
    execDrainFlushDone core s := rfl
@[simp] theorem exec_drainImageWritten {core} (s : State) : exec (.drainImageWritten core) s =
    execDrainImageWritten core s := rfl
@[simp] theorem exec_drainbExpire {core} (s : State) : exec (.drainbExpire core) s =
    execDrainbExpire core s := rfl
@[simp] theorem exec_contextSaveDone {core} (s : State) : exec (.contextSaveDone core) s =
    execContextSaveDone core s := rfl
@[simp] theorem exec_contextLoadDone {core} (s : State) : exec (.contextLoadDone core) s =
    execContextLoadDone core s := rfl
@[simp] theorem exec_coreLost {core} (s : State) : exec (.coreLost core) s =
    execCoreLost core s := rfl
@[simp] theorem exec_replayRerun {core part res} (s : State) : exec (.replayRerun core part res) s =
    execReplayRerun core part res s := rfl
@[simp] theorem exec_cupTimerExpire {die job} (s : State) : exec (.cupTimerExpire die job) s =
    execCupTimerExpire die job s := rfl
@[simp] theorem exec_scoreDecay {die} (s : State) : exec (.scoreDecay die) s =
    execScoreDecay die s := rfl
@[simp] theorem exec_pktFetch {queue} (s : State) : exec (.pktFetch queue) s =
    execPktFetch queue s := rfl
@[simp] theorem exec_pktReread {queue} (s : State) : exec (.pktReread queue) s =
    execPktReread queue s := rfl
@[simp] theorem exec_queueTranslateRetry {queue} (s : State) : exec (.queueTranslateRetry queue) s =
    execQueueTranslateRetry queue s := rfl
@[simp] theorem exec_nopPacket {queue} (s : State) : exec (.nopPacket queue) s =
    execNopPacket queue s := rfl
@[simp] theorem exec_queryStatus {queue} (s : State) : exec (.queryStatus queue) s =
    execQueryStatus queue s := rfl
@[simp] theorem exec_clearQuarantine {queue} (s : State) : exec (.clearQuarantine queue) s =
    execClearQuarantine queue s := rfl
@[simp] theorem exec_opstreamRegister {queue} (s : State) : exec (.opstreamRegister queue) s =
    execOpstreamRegister queue s := rfl
@[simp] theorem exec_opstreamUnregister {queue} (s : State) : exec (.opstreamUnregister queue) s =
    execOpstreamUnregister queue s := rfl
@[simp] theorem exec_opstreamClearStop {queue} (s : State) : exec (.opstreamClearStop queue) s =
    execOpstreamClearStop queue s := rfl
@[simp] theorem exec_eventAdd {queue} (s : State) : exec (.eventAdd queue) s =
    execEventAdd queue s := rfl
@[simp] theorem exec_eventReset {queue} (s : State) : exec (.eventReset queue) s =
    execEventReset queue s := rfl
@[simp] theorem exec_launch {queue} (s : State) : exec (.launch queue) s =
    execLaunch queue s := rfl
@[simp] theorem exec_contextBank {queue} (s : State) : exec (.contextBank queue) s =
    execContextBank queue s := rfl
@[simp] theorem exec_contextTeam {queue} (s : State) : exec (.contextTeam queue) s =
    execContextTeam queue s := rfl
@[simp] theorem exec_preemptDrain {queue} (s : State) : exec (.preemptDrain queue) s =
    execPreemptDrain queue s := rfl
@[simp] theorem exec_preemptImmediate {queue} (s : State) : exec (.preemptImmediate queue) s =
    execPreemptImmediate queue s := rfl
@[simp] theorem exec_purge {queue} (s : State) : exec (.purge queue) s =
    execPurge queue s := rfl
@[simp] theorem exec_purgeClear {queue} (s : State) : exec (.purgeClear queue) s =
    execPurgeClear queue s := rfl
@[simp] theorem exec_laneFailure {port} (s : State) : exec (.laneFailure port) s =
    execLaneFailure port s := rfl
@[simp] theorem exec_portRetrain {port width} (s : State) : exec (.portRetrain port width) s =
    execPortRetrain port width s := rfl
@[simp] theorem exec_planeQuiesced {module plane} (s : State) : exec (.planeQuiesced module plane) s =
    execPlaneQuiesced module plane s := rfl
@[simp] theorem exec_fabricRequestArrive {req} (s : State) : exec (.fabricRequestArrive req) s =
    execFabricRequestArrive req s := rfl
@[simp] theorem exec_fabricAck {req} (s : State) : exec (.fabricAck req) s =
    execFabricAck req s := rfl
@[simp] theorem exec_dedupAdvance {src tgt} (s : State) : exec (.dedupAdvance src tgt) s =
    execDedupAdvance src tgt s := rfl
@[simp] theorem exec_requestResend {req} (s : State) : exec (.requestResend req) s =
    execRequestResend req s := rfl
@[simp] theorem exec_reachTimeout {req} (s : State) : exec (.reachTimeout req) s =
    execReachTimeout req s := rfl
@[simp] theorem exec_moduleReset {module slotid} (s : State) : exec (.moduleReset module slotid) s =
    execModuleReset module slotid s := rfl
@[simp] theorem exec_functionReady {fn} (s : State) : exec (.functionReady fn) s =
    execFunctionReady fn s := rfl
@[simp] theorem exec_throttleDown {die cause} (s : State) : exec (.throttleDown die cause) s =
    execThrottleDown die cause s := rfl
@[simp] theorem exec_throttleUp {die} (s : State) : exec (.throttleUp die) s =
    execThrottleUp die s := rfl
@[simp] theorem exec_thermalTrip {module} (s : State) : exec (.thermalTrip module) s =
    execThermalTrip module s := rfl
@[simp] theorem exec_powerCapWindow {vi energy} (s : State) : exec (.powerCapWindow vi energy) s =
    execPowerCapWindow vi energy s := rfl
@[simp] theorem exec_telemetry {module} (s : State) : exec (.telemetry module) s =
    execTelemetry module s := rfl
@[simp] theorem exec_firmwareUpdate {module img} (s : State) : exec (.firmwareUpdate module img) s =
    execFirmwareUpdate module img s := rfl
@[simp] theorem exec_svnCommit {module svn} (s : State) : exec (.svnCommit module svn) s =
    execSvnCommit module svn s := rfl
@[simp] theorem exec_attestation {module nonce} (s : State) : exec (.attestation module nonce) s =
    execAttestation module nonce s := rfl
@[simp] theorem exec_viConfiguration {cfg} (s : State) : exec (.viConfiguration cfg) s =
    execViConfiguration cfg s := rfl
@[simp] theorem exec_measureExtend {module reg obj} (s : State) : exec (.measureExtend module reg obj) s =
    execMeasureExtend module reg obj s := rfl
@[simp] theorem exec_rdmaTransfer {module vi addr len data} (s : State) : exec (.rdmaTransfer module vi addr len data) s =
    execRdmaTransfer module vi addr len data s := rfl
@[simp] theorem exec_notAnInstruction {w} (s : State) : exec (.notAnInstruction w) s =
    execNotAnInstruction w s := rfl
@[simp] theorem exec_mWordNotInstruction {w} (s : State) : exec (.mWordNotInstruction w) s =
    execMWordNotInstruction w s := rfl
@[simp] theorem exec_retrainComplete {port} (s : State) : exec (.retrainComplete port) s =
    execRetrainComplete port s := rfl
@[simp] theorem exec_linkLevelRetry {port} (s : State) : exec (.linkLevelRetry port) s =
    execLinkLevelRetry port s := rfl
@[simp] theorem exec_killTeam {team} (s : State) : exec (.killTeam team) s =
    execKillTeam team s := rfl
@[simp] theorem exec_releaseColRecords {vi addr} (s : State) : exec (.releaseColRecords vi addr) s =
    execReleaseColRecords vi addr s := rfl

end Sys2Proof.Laws
end

