-- ==== Sys2Proof/Laws/Issue.lean ====
section
/-! SUPPORT. What issuing a word can do: the lemmas through which a statement about one instruction reaches a step. -/

namespace Sys2Proof.Laws

open Sys2Proof.Machine

/-- Nothing is left of an earlier wait. -/
theorem beginIssue_self (s : State) (h1 : s.lim = none) (h2 : s.split.wait = none) : beginIssue s = s := by
  obtain ⟨sp⟩ := s
  obtain ⟨⟩ := sp
  simp only at h1 h2
  subst h1 h2
  rfl

/-- Remembering a translation changes the TLB alone. -/
theorem remember_fields (s : State) (m u v a : Nat) : ∃ l, remember s m u v a = { s with tlb := l } := by
  unfold remember
  split
  · exact ⟨_, rfl⟩
  · split
    · exact ⟨_, rfl⟩
    · exact ⟨_, rfl⟩

theorem touch_fields (s : State) (g : Agent) (a n : Nat) : ∃ l, touch s g a n = { s with tlb := l } := by
  unfold touch
  split
  · exact ⟨_, rfl⟩
  · obtain ⟨l, h⟩ := remember_fields s g.module g.unit g.vi a
    rw [h]
    obtain ⟨l', h'⟩ := remember_fields { s with tlb := l } g.module g.unit g.vi (a + n - 1)
    exact ⟨l', h'⟩

/-- Without an open window an instruction passes none. -/
theorem withPassed_self (s : State) (op : Nat) (h : s.split.windows = []) : withPassed s op = s := by
  obtain ⟨sp⟩ := s
  obtain ⟨⟩ := sp
  simp only at h
  subst h
  rfl

/-- Without a deferred fault of the group none is due at a held instruction. -/
theorem dueFault_held_none (s : State) (regs : List Reg) (h : s.group.faults = []) : dueFault s (.held regs) = none := by
  have none_ : ∀ g : Group, List.filter (faultDue false g s.split.num (.held regs)) g.faults = [] := by
    intro g; exact List.filter_eq_nil_iff.mpr (fun f _ => by simp [faultDue])
  have all : List.flatMap (fun g => List.filter (faultDue false g s.split.num (.held regs)) g.faults) s.team.groups = [] :=
    List.flatMap_eq_nil_iff.mpr (fun g _ => none_ g)
  simp only [dueFault, h, all]; rfl

theorem lookaheadOf_none (s : State) (op : Nat) (regs : List Reg) (h : s.split.windows = []) :
    lookaheadOf s op regs = none := by
  unfold lookaheadOf; split <;> simp [h]

/-- What becomes of an instruction without windows, fence, owner or CLONE: its own effect, and the note of what it
opened. -/
theorem settle_run (s t : State) (w : Word) (i : Instr) (f : State → State) (hw : s.split.windows = [])
    (hfen : s.split.fence = none) (hown : s.split.owner = none) (hcl : mClone s.split.mode = false) (hf : f s = t)
    (hp : pathFull t = false) :
    ∃ ws b k, settle s w i f = { t with split := { t.split with windows := ws, issued := b, woke := k } } := by
  unfold settle
  rw [withPassed_self s _ hw]
  simp only [hf]
  split
  · unfold guardTrap; rw [hfen, hown]; simp only [hf]; exact ⟨_, t.split.issued, t.split.woke, rfl⟩
  · split
    · exact ⟨_, t.split.issued, t.split.woke, rfl⟩
    · rw [hp]; simp only [Bool.and_false, Bool.false_eq_true, if_false]
      rw [hfen]; simp only [Option.isSome_none, Bool.false_and, Bool.false_eq_true, if_false]
      have hne : needsEntry s w i = false := by simp [needsEntry, hfen, hown]
      rw [hne]; simp only [Bool.false_and, Bool.false_eq_true, if_false]
      unfold executed
      split
      · exact ⟨t.split.windows, t.split.issued, t.split.woke, rfl⟩
      · have hcc : checkClone s t w i = t := by simp [checkClone, hcl]
        simp only [hcc, hfen, Option.isSome_none, Bool.or_false, Bool.false_eq_true, if_false]
        exact ⟨_, _, _, rfl⟩

/-- LIM's opcode is read by no instruction of the map. -/
theorem decodeMajor_not_lim (w : Word) (i : Instr) (h : decodeMajor w.toNat = .ok i) : majorOf w ≠ 0xFF := by
  intro hm
  have h1 : fld w.toNat 28 4 = 15 := by simp only [majorOf] at hm; simp only [fld]; omega
  have h2 : fld w.toNat 24 4 = 15 := by simp only [majorOf] at hm; simp only [fld]; omega
  simp [decodeMajor, decodeMajorF, h1, h2] at h

end Sys2Proof.Laws
end

