-- ==== Sys2Proof/Laws/Operands.lean ====
section
/-! SUPPORT. The registers that a word names, one equation per constructor that names any, so that no proof unfolds the table. -/

namespace Sys2Proof.Laws

open Sys2Proof.Machine

@[simp] theorem operands_mov (m : DWord) {d a u2} :
    operands m (.mov d a u2) =
      [.wv d.toNat (wd m), .rv a.toNat (wd m)] := rfl
@[simp] theorem operands_movi (m : DWord) {d u1} :
    operands m (.movi d u1) =
      [.wv d.toNat (wd m)] := rfl
@[simp] theorem operands_iadd (m : DWord) {d a u2 b u4} :
    operands m (.iadd d a u2 b u4) =
      [.wv d.toNat (wd m), .rv a.toNat (wd m), .rv b.toNat (wd m)] := rfl
@[simp] theorem operands_isub (m : DWord) {d a u2 b u4} :
    operands m (.isub d a u2 b u4) =
      [.wv d.toNat (wd m), .rv a.toNat (wd m), .rv b.toNat (wd m)] := rfl
@[simp] theorem operands_imul (m : DWord) {d a u2 b u4} :
    operands m (.imul d a u2 b u4) =
      [.wv d.toNat (wd m), .rv a.toNat (wd m), .rv b.toNat (wd m)] := rfl
@[simp] theorem operands_imulh (m : DWord) {d a u2 b u4} :
    operands m (.imulh d a u2 b u4) =
      [.wv d.toNat (wd m), .rv a.toNat (wd m), .rv b.toNat (wd m)] := rfl
@[simp] theorem operands_imad (m : DWord) {d a u2 b u4} :
    operands m (.imad d a u2 b u4) =
      [.xv d.toNat (wd m), .rv a.toNat (wd m), .rv b.toNat (wd m)] := rfl
@[simp] theorem operands_iaddi (m : DWord) {d a u2} :
    operands m (.iaddi d a u2) =
      [.wv d.toNat (wd m), .rv a.toNat (wd m)] := rfl
@[simp] theorem operands_imin (m : DWord) {d a u2 b u4} :
    operands m (.imin d a u2 b u4) =
      [.wv d.toNat (wd m), .rv a.toNat (wd m), .rv b.toNat (wd m)] := rfl
@[simp] theorem operands_imax (m : DWord) {d a u2 b u4} :
    operands m (.imax d a u2 b u4) =
      [.wv d.toNat (wd m), .rv a.toNat (wd m), .rv b.toNat (wd m)] := rfl
@[simp] theorem operands_iabs (m : DWord) {d a u2} :
    operands m (.iabs d a u2) =
      [.wv d.toNat (wd m), .rv a.toNat (wd m)] := rfl
@[simp] theorem operands_ineg (m : DWord) {d a u2} :
    operands m (.ineg d a u2) =
      [.wv d.toNat (wd m), .rv a.toNat (wd m)] := rfl
@[simp] theorem operands_isad (m : DWord) {d a u2 b u4} :
    operands m (.isad d a u2 b u4) =
      [.xv d.toNat (wd m), .rv a.toNat (wd m), .rv b.toNat (wd m)] := rfl
@[simp] theorem operands_idiv (m : DWord) {d a u2 b u4} :
    operands m (.idiv d a u2 b u4) =
      [.wv d.toNat (wd m), .rv a.toNat (wd m), .rv b.toNat (wd m)] := rfl
@[simp] theorem operands_irem (m : DWord) {d a u2 b u4} :
    operands m (.irem d a u2 b u4) =
      [.wv d.toNat (wd m), .rv a.toNat (wd m), .rv b.toNat (wd m)] := rfl
@[simp] theorem operands_and (m : DWord) {d a u2 b u4} :
    operands m (.and d a u2 b u4) =
      [.wv d.toNat (wd m), .rv a.toNat (wd m), .rv b.toNat (wd m)] := rfl
@[simp] theorem operands_or (m : DWord) {d a u2 b u4} :
    operands m (.or d a u2 b u4) =
      [.wv d.toNat (wd m), .rv a.toNat (wd m), .rv b.toNat (wd m)] := rfl
@[simp] theorem operands_xor (m : DWord) {d a u2 b u4} :
    operands m (.xor d a u2 b u4) =
      [.wv d.toNat (wd m), .rv a.toNat (wd m), .rv b.toNat (wd m)] := rfl
@[simp] theorem operands_andn (m : DWord) {d a u2 b u4} :
    operands m (.andn d a u2 b u4) =
      [.wv d.toNat (wd m), .rv a.toNat (wd m), .rv b.toNat (wd m)] := rfl
@[simp] theorem operands_not (m : DWord) {d a u2} :
    operands m (.not d a u2) =
      [.wv d.toNat (wd m), .rv a.toNat (wd m)] := rfl
@[simp] theorem operands_shl (m : DWord) {d a u2 b u4} :
    operands m (.shl d a u2 b u4) =
      [.wv d.toNat (wd m), .rv a.toNat (wd m), .rv b.toNat 1] := rfl
@[simp] theorem operands_shr (m : DWord) {d a u2 b u4} :
    operands m (.shr d a u2 b u4) =
      [.wv d.toNat (wd m), .rv a.toNat (wd m), .rv b.toNat 1] := rfl
@[simp] theorem operands_sha (m : DWord) {d a u2 b u4} :
    operands m (.sha d a u2 b u4) =
      [.wv d.toNat (wd m), .rv a.toNat (wd m), .rv b.toNat 1] := rfl
@[simp] theorem operands_rotl (m : DWord) {d a u2 b u4} :
    operands m (.rotl d a u2 b u4) =
      [.wv d.toNat (wd m), .rv a.toNat (wd m), .rv b.toNat 1] := rfl
@[simp] theorem operands_shli (m : DWord) {d a u2} :
    operands m (.shli d a u2) =
      [.wv d.toNat (wd m), .rv a.toNat (wd m)] := rfl
@[simp] theorem operands_shri (m : DWord) {d a u2} :
    operands m (.shri d a u2) =
      [.wv d.toNat (wd m), .rv a.toNat (wd m)] := rfl
@[simp] theorem operands_shai (m : DWord) {d a u2} :
    operands m (.shai d a u2) =
      [.wv d.toNat (wd m), .rv a.toNat (wd m)] := rfl
@[simp] theorem operands_popc (m : DWord) {d a u2} :
    operands m (.popc d a u2) =
      [.wv d.toNat (wd m), .rv a.toNat (wd m)] := rfl
@[simp] theorem operands_clz (m : DWord) {d a u2} :
    operands m (.clz d a u2) =
      [.wv d.toNat (wd m), .rv a.toNat (wd m)] := rfl
@[simp] theorem operands_brev (m : DWord) {d a u2} :
    operands m (.brev d a u2) =
      [.wv d.toNat (wd m), .rv a.toNat (wd m)] := rfl
@[simp] theorem operands_bfx (m : DWord) {d a u2 u3} :
    operands m (.bfx d a u2 u3) =
      [.wv d.toNat (wd m), .rv a.toNat (wd m)] := rfl
@[simp] theorem operands_bfi (m : DWord) {d a u2 u3} :
    operands m (.bfi d a u2 u3) =
      [.xv d.toNat (wd m), .rv a.toNat (wd m)] := rfl
@[simp] theorem operands_sel (m : DWord) {d a u2 b u4} :
    operands m (.sel d a u2 b u4) =
      [.wv d.toNat (wd m), .rv a.toNat (wd m), .rv b.toNat (wd m)] := rfl
@[simp] theorem operands_icmp (m : DWord) {d u1 a u3 b u5} :
    operands m (.icmp d u1 a u3 b u5) =
      [.wp d.toNat, .rv a.toNat (wd m), .rv b.toNat (wd m)] := rfl
@[simp] theorem operands_plog (m : DWord) {d u1 a b} :
    operands m (.plog d u1 a b) =
      [.wp d.toNat, .rp a.toNat, .rp b.toNat] := rfl
@[simp] theorem operands_pmovNz (m : DWord) {d a u2} :
    operands m (.pmovNz d a u2) =
      [.wp d.toNat, .rv a.toNat 1] := rfl
@[simp] theorem operands_pmovBit (m : DWord) {d a u2 u3} :
    operands m (.pmovBit d a u2 u3) =
      [.wp d.toNat, .rv a.toNat 1] := rfl
@[simp] theorem operands_pmovSet (m : DWord) {d} :
    operands m (.pmovSet d) =
      [.wp d.toNat] := rfl
@[simp] theorem operands_pmovClr (m : DWord) {d} :
    operands m (.pmovClr d) =
      [.wp d.toNat] := rfl
@[simp] theorem operands_pmovNot (m : DWord) {d a} :
    operands m (.pmovNot d a) =
      [.wp d.toNat, .rp a.toNat] := rfl
@[simp] theorem operands_pmovFroms (m : DWord) {d a} :
    operands m (.pmovFroms d a) =
      [.wp d.toNat, .rs a.toNat] := rfl
@[simp] theorem operands_vote (m : DWord) {d u1 a} :
    operands m (.vote d u1 a) =
      [.wp d.toNat, .rp a.toNat] := rfl
@[simp] theorem operands_voteBallot (m : DWord) {d a b} :
    operands m (.voteBallot d a b) =
      [.wp d.toNat, .rp a.toNat, .ws b.toNat 1] := rfl
@[simp] theorem operands_xshf (m : DWord) {d a b u3} :
    operands m (.xshf d a b u3) =
      [.wv d.toNat (wd m), .rv a.toNat (wd m), .rv b.toNat 1] := rfl
@[simp] theorem operands_setx (m : DWord) {u0 a b} :
    operands m (.setx u0 a b) =
      [.rs a.toNat, .rs b.toNat] := rfl
@[simp] theorem operands_movx (m : DWord) {d a u2 u3} :
    operands m (.movx d a u2 u3) =
      [.wv d.toNat 1, .rv a.toNat 1] := rfl
@[simp] theorem operands_stx (m : DWord) {u0 a u2 b u4} :
    operands m (.stx u0 a u2 b u4) =
      [.rv a.toNat 1, .rv b.toNat 1] := rfl
@[simp] theorem operands_s2v (m : DWord) {d a} :
    operands m (.s2v d a) =
      [.wv d.toNat (wd m), .rs a.toNat] := rfl
@[simp] theorem operands_v2s (m : DWord) {d a u2 u3} :
    operands m (.v2s d a u2 u3) =
      [.ws d.toNat 1, .rv a.toNat (wd m)] := rfl
@[simp] theorem operands_sadd (m : DWord) {d a b} :
    operands m (.sadd d a b) =
      [.ws d.toNat 1, .rs a.toNat, .rs b.toNat] := rfl
@[simp] theorem operands_saddImm (m : DWord) {d a u2} :
    operands m (.saddImm d a u2) =
      [.ws d.toNat 1, .rs a.toNat] := rfl
@[simp] theorem operands_ssub (m : DWord) {d a b} :
    operands m (.ssub d a b) =
      [.ws d.toNat 1, .rs a.toNat, .rs b.toNat] := rfl
@[simp] theorem operands_ssubImm (m : DWord) {d a u2} :
    operands m (.ssubImm d a u2) =
      [.ws d.toNat 1, .rs a.toNat] := rfl
@[simp] theorem operands_smul (m : DWord) {d a b} :
    operands m (.smul d a b) =
      [.ws d.toNat 1, .rs a.toNat, .rs b.toNat] := rfl
@[simp] theorem operands_smulImm (m : DWord) {d a u2} :
    operands m (.smulImm d a u2) =
      [.ws d.toNat 1, .rs a.toNat] := rfl
@[simp] theorem operands_sand (m : DWord) {d a b} :
    operands m (.sand d a b) =
      [.ws d.toNat 1, .rs a.toNat, .rs b.toNat] := rfl
@[simp] theorem operands_sandImm (m : DWord) {d a u2} :
    operands m (.sandImm d a u2) =
      [.ws d.toNat 1, .rs a.toNat] := rfl
@[simp] theorem operands_sor (m : DWord) {d a b} :
    operands m (.sor d a b) =
      [.ws d.toNat 1, .rs a.toNat, .rs b.toNat] := rfl
@[simp] theorem operands_sorImm (m : DWord) {d a u2} :
    operands m (.sorImm d a u2) =
      [.ws d.toNat 1, .rs a.toNat] := rfl
@[simp] theorem operands_sxor (m : DWord) {d a b} :
    operands m (.sxor d a b) =
      [.ws d.toNat 1, .rs a.toNat, .rs b.toNat] := rfl
@[simp] theorem operands_sxorImm (m : DWord) {d a u2} :
    operands m (.sxorImm d a u2) =
      [.ws d.toNat 1, .rs a.toNat] := rfl
@[simp] theorem operands_sshl (m : DWord) {d a b} :
    operands m (.sshl d a b) =
      [.ws d.toNat 1, .rs a.toNat, .rs b.toNat] := rfl
@[simp] theorem operands_sshlImm (m : DWord) {d a u2} :
    operands m (.sshlImm d a u2) =
      [.ws d.toNat 1, .rs a.toNat] := rfl
@[simp] theorem operands_sshr (m : DWord) {d a b} :
    operands m (.sshr d a b) =
      [.ws d.toNat 1, .rs a.toNat, .rs b.toNat] := rfl
@[simp] theorem operands_sshrImm (m : DWord) {d a u2} :
    operands m (.sshrImm d a u2) =
      [.ws d.toNat 1, .rs a.toNat] := rfl
@[simp] theorem operands_scmp (m : DWord) {d a b u3} :
    operands m (.scmp d a b u3) =
      [.ws d.toNat 1, .rs a.toNat, .rs b.toNat] := rfl
@[simp] theorem operands_smovi (m : DWord) {d u1} :
    operands m (.smovi d u1) =
      [.ws d.toNat 1] := rfl
@[simp] theorem operands_sreg (m : DWord) {d n} :
    operands m (.sreg d n) =
      if n.toNat = 0 then [.wv d.toNat 1] else [.ws d.toNat 1] := rfl
@[simp] theorem operands_setm (m : DWord) {a} :
    operands m (.setm a) =
      [.rs a.toNat] := rfl
@[simp] theorem operands_bysel (m : DWord) {d a u2 b u4} :
    operands m (.bysel d a u2 b u4) =
      [.xv d.toNat 1, .rv a.toNat 1, .rv b.toNat 1] := rfl
@[simp] theorem operands_idot4 (m : DWord) {d a u2 b u4} :
    operands m (.idot4 d a u2 b u4) =
      [.xv d.toNat 1, .rv a.toNat 1, .rv b.toNat 1] := rfl
@[simp] theorem operands_ired (m : DWord) {d a u2} :
    operands m (.ired d a u2) =
      [.wv d.toNat (wd m), .rv a.toNat (wd m)] := rfl
@[simp] theorem operands_fadd (m : DWord) {d a u2 b u4} :
    operands m (.fadd d a u2 b u4) =
      [.wv d.toNat (wd m), .rv a.toNat (wd m), .rv b.toNat (wd m)] := rfl
@[simp] theorem operands_fsub (m : DWord) {d a u2 b u4} :
    operands m (.fsub d a u2 b u4) =
      [.wv d.toNat (wd m), .rv a.toNat (wd m), .rv b.toNat (wd m)] := rfl
@[simp] theorem operands_fmul (m : DWord) {d a u2 b u4} :
    operands m (.fmul d a u2 b u4) =
      [.wv d.toNat (wd m), .rv a.toNat (wd m), .rv b.toNat (wd m)] := rfl
@[simp] theorem operands_fma (m : DWord) {d a u2 b u4} :
    operands m (.fma d a u2 b u4) =
      [.xv d.toNat (wd m), .rv a.toNat (wd m), .rv b.toNat (wd m)] := rfl
@[simp] theorem operands_fms (m : DWord) {d a u2 b u4} :
    operands m (.fms d a u2 b u4) =
      [.xv d.toNat (wd m), .rv a.toNat (wd m), .rv b.toNat (wd m)] := rfl
@[simp] theorem operands_fnma (m : DWord) {d a u2 b u4} :
    operands m (.fnma d a u2 b u4) =
      [.xv d.toNat (wd m), .rv a.toNat (wd m), .rv b.toNat (wd m)] := rfl
@[simp] theorem operands_fmin (m : DWord) {d a u2 b u4} :
    operands m (.fmin d a u2 b u4) =
      [.wv d.toNat (wd m), .rv a.toNat (wd m), .rv b.toNat (wd m)] := rfl
@[simp] theorem operands_fmax (m : DWord) {d a u2 b u4} :
    operands m (.fmax d a u2 b u4) =
      [.wv d.toNat (wd m), .rv a.toNat (wd m), .rv b.toNat (wd m)] := rfl
@[simp] theorem operands_fabs (m : DWord) {d a u2} :
    operands m (.fabs d a u2) =
      [.wv d.toNat (wd m), .rv a.toNat (wd m)] := rfl
@[simp] theorem operands_fneg (m : DWord) {d a u2} :
    operands m (.fneg d a u2) =
      [.wv d.toNat (wd m), .rv a.toNat (wd m)] := rfl
@[simp] theorem operands_fsgn (m : DWord) {d a u2 b u4} :
    operands m (.fsgn d a u2 b u4) =
      [.wv d.toNat (wd m), .rv a.toNat (wd m), .rv b.toNat (wd m)] := rfl
@[simp] theorem operands_fcmp (m : DWord) {d u1 a u3 b u5} :
    operands m (.fcmp d u1 a u3 b u5) =
      [.wp d.toNat, .rv a.toNat (wd m), .rv b.toNat (wd m)] := rfl
@[simp] theorem operands_fclass (m : DWord) {d a u2} :
    operands m (.fclass d a u2) =
      [.wv d.toNat 1, .rv a.toNat (wd m)] := rfl
@[simp] theorem operands_frint (m : DWord) {d a u2} :
    operands m (.frint d a u2) =
      [.wv d.toNat (wd m), .rv a.toNat (wd m)] := rfl
@[simp] theorem operands_fscale (m : DWord) {d a u2 b u4} :
    operands m (.fscale d a u2 b u4) =
      [.wv d.toNat (wd m), .rv a.toNat (wd m), .rv b.toNat 1] := rfl
@[simp] theorem operands_fgetexp (m : DWord) {d a u2} :
    operands m (.fgetexp d a u2) =
      [.wv d.toNat 1, .rv a.toNat (wd m)] := rfl
@[simp] theorem operands_fdiv (m : DWord) {d a u2 b u4} :
    operands m (.fdiv d a u2 b u4) =
      [.wv d.toNat (wd m), .rv a.toNat (wd m), .rv b.toNat (wd m)] := rfl
@[simp] theorem operands_fsqrt (m : DWord) {d a u2} :
    operands m (.fsqrt d a u2) =
      [.wv d.toNat (wd m), .rv a.toNat (wd m)] := rfl
@[simp] theorem operands_frcp (m : DWord) {d a u2} :
    operands m (.frcp d a u2) =
      [.wv d.toNat (wd m), .rv a.toNat (wd m)] := rfl
@[simp] theorem operands_frsq (m : DWord) {d a u2} :
    operands m (.frsq d a u2) =
      [.wv d.toNat (wd m), .rv a.toNat (wd m)] := rfl
@[simp] theorem operands_fexp2 (m : DWord) {d a u2} :
    operands m (.fexp2 d a u2) =
      [.wv d.toNat (wd m), .rv a.toNat (wd m)] := rfl
@[simp] theorem operands_flog2 (m : DWord) {d a u2} :
    operands m (.flog2 d a u2) =
      [.wv d.toNat (wd m), .rv a.toNat (wd m)] := rfl
@[simp] theorem operands_fsin (m : DWord) {d a u2} :
    operands m (.fsin d a u2) =
      [.wv d.toNat (wd m), .rv a.toNat (wd m)] := rfl
@[simp] theorem operands_fcos (m : DWord) {d a u2} :
    operands m (.fcos d a u2) =
      [.wv d.toNat (wd m), .rv a.toNat (wd m)] := rfl
@[simp] theorem operands_ftanh (m : DWord) {d a u2} :
    operands m (.ftanh d a u2) =
      [.wv d.toNat (wd m), .rv a.toNat (wd m)] := rfl
@[simp] theorem operands_fdot2 (m : DWord) {d a u2 b u4} :
    operands m (.fdot2 d a u2 b u4) =
      [.xv d.toNat 1, .rv a.toNat 1, .rv b.toNat 1] := rfl
@[simp] theorem operands_fdot4 (m : DWord) {d a u2 b u4} :
    operands m (.fdot4 d a u2 b u4) =
      [.xv d.toNat 1, .rv a.toNat 1, .rv b.toNat 1] := rfl
@[simp] theorem operands_fred (m : DWord) {d a u2} :
    operands m (.fred d a u2) =
      [.wv d.toNat (wd m), .rv a.toNat (wd m)] := rfl
@[simp] theorem operands_argmx (m : DWord) {d a u2 b u4} :
    operands m (.argmx d a u2 b u4) =
      [.wv d.toNat (if mType m = 9 then 3 else 2), .rv a.toNat (wd m), .rv b.toNat 1] := rfl
@[simp] theorem operands_cvt (m : DWord) {d a u2 x t} :
    operands m (.cvt d a u2 x t) =
      [.xv d.toNat (wd m), .rv a.toNat (cvtWd x.toNat t.toNat)] := rfl
@[simp] theorem operands_cvtp (m : DWord) {d a u2 b u4} :
    operands m (.cvtp d a u2 b u4) =
      [.xv d.toNat 1, .rv a.toNat 1, .rv b.toNat 1] := rfl
@[simp] theorem operands_seed (m : DWord) {a} :
    operands m (.seed a) =
      [.rs a.toNat] := rfl
@[simp] theorem operands_rngU32 (m : DWord) {d} :
    operands m (.rngU32 d) =
      [.wv d.toNat 1] := rfl
@[simp] theorem operands_rngUnit (m : DWord) {d} :
    operands m (.rngUnit d) =
      [.wv d.toNat 1] := rfl
@[simp] theorem operands_rngGet (m : DWord) {d} :
    operands m (.rngGet d) =
      [.wv d.toNat 1] := rfl
@[simp] theorem operands_rngSet (m : DWord) {a u1} :
    operands m (.rngSet a u1) =
      [.rv a.toNat 1] := rfl
@[simp] theorem operands_qmx (m : DWord) {d a u2} :
    operands m (.qmx d a u2) =
      [.wv d.toNat 1, .rv a.toNat 1] := rfl
@[simp] theorem operands_qmxa (m : DWord) {d a u2 b u4} :
    operands m (.qmxa d a u2 b u4) =
      [.xv d.toNat 1, .rv a.toNat 1, .rv b.toNat 1] := rfl
@[simp] theorem operands_brx (m : DWord) {a} :
    operands m (.brx a) =
      [.rv a.toNat 2] := rfl
@[simp] theorem operands_call (m : DWord) {u0} :
    operands m (.call u0) =
      [.ws 31 1] := rfl
@[simp] theorem operands_callx (m : DWord) {a} :
    operands m (.callx a) =
      [.rv a.toNat 2, .ws 31 1] := rfl
@[simp] theorem operands_ret (m : DWord) {a} :
    operands m (.ret a) =
      [.rs a.toNat] := rfl
@[simp] theorem operands_wait (m : DWord) {u0 b} :
    operands m (.wait u0 b) =
      [.rs b.toNat] := rfl
@[simp] theorem operands_msqStart (m : DWord) {x u1} :
    operands m (.msqStart x u1) =
      [.rs x.toNat] := rfl
@[simp] theorem operands_msqQry (m : DWord) {z u1} :
    operands m (.msqQry z u1) =
      [.ws z.toNat 1] := rfl
@[simp] theorem operands_ldb (m : DWord) {d a sb u3 u4} :
    operands m (.ldb d a sb u3 u4) =
      [.wv d.toNat 1, .rv a.toNat 1, .rs sb.toNat] := rfl
@[simp] theorem operands_ldh (m : DWord) {d a sb u3 u4} :
    operands m (.ldh d a sb u3 u4) =
      [.wv d.toNat 1, .rv a.toNat 1, .rs sb.toNat] := rfl
@[simp] theorem operands_ldw (m : DWord) {d a sb u3 u4} :
    operands m (.ldw d a sb u3 u4) =
      [.wv d.toNat 1, .rv a.toNat 1, .rs sb.toNat] := rfl
@[simp] theorem operands_ldd (m : DWord) {d a sb u3 u4} :
    operands m (.ldd d a sb u3 u4) =
      [.wv d.toNat 2, .rv a.toNat 1, .rs sb.toNat] := rfl
@[simp] theorem operands_ldq (m : DWord) {d a sb u3 u4} :
    operands m (.ldq d a sb u3 u4) =
      [.wv d.toNat 4, .rv a.toNat 1, .rs sb.toNat] := rfl
@[simp] theorem operands_stb (m : DWord) {d a sb u3 u4} :
    operands m (.stb d a sb u3 u4) =
      [.rv d.toNat 1, .rv a.toNat 1, .rs sb.toNat] := rfl
@[simp] theorem operands_sth (m : DWord) {d a sb u3 u4} :
    operands m (.sth d a sb u3 u4) =
      [.rv d.toNat 1, .rv a.toNat 1, .rs sb.toNat] := rfl
@[simp] theorem operands_stw (m : DWord) {d a sb u3 u4} :
    operands m (.stw d a sb u3 u4) =
      [.rv d.toNat 1, .rv a.toNat 1, .rs sb.toNat] := rfl
@[simp] theorem operands_std (m : DWord) {d a sb u3 u4} :
    operands m (.std d a sb u3 u4) =
      [.rv d.toNat 2, .rv a.toNat 1, .rs sb.toNat] := rfl
@[simp] theorem operands_stq (m : DWord) {d a sb u3 u4} :
    operands m (.stq d a sb u3 u4) =
      [.rv d.toNat 4, .rv a.toNat 1, .rs sb.toNat] := rfl
@[simp] theorem operands_ldc (m : DWord) {d sb u2 u3} :
    operands m (.ldc d sb u2 u3) =
      [.ws d.toNat 1, .rs sb.toNat] := rfl
@[simp] theorem operands_pref (m : DWord) {u0 a sb u3} :
    operands m (.pref u0 a sb u3) =
      [.rv a.toNat 1, .rs sb.toNat] := rfl
@[simp] theorem operands_cctlL1inv (m : DWord) {a sb u2} :
    operands m (.cctlL1inv a sb u2) =
      [.rv a.toNat 1, .rs sb.toNat] := rfl
@[simp] theorem operands_cctlRdcinv (m : DWord) {a sb u2} :
    operands m (.cctlRdcinv a sb u2) =
      [.rv a.toNat 1, .rs sb.toNat] := rfl
@[simp] theorem operands_cctlWb (m : DWord) {a sb u2} :
    operands m (.cctlWb a sb u2) =
      [.rv a.toNat 1, .rs sb.toNat] := rfl
@[simp] theorem operands_cctlWbinv (m : DWord) {a sb u2} :
    operands m (.cctlWbinv a sb u2) =
      [.rv a.toNat 1, .rs sb.toNat] := rfl
@[simp] theorem operands_pinSet (m : DWord) {x y z u3} :
    operands m (.pinSet x y z u3) =
      [.rs x.toNat, .rs y.toNat, .ws z.toNat 1] := rfl
@[simp] theorem operands_pinClr (m : DWord) {x y z u3} :
    operands m (.pinClr x y z u3) =
      [.rs x.toNat, .rs y.toNat, .ws z.toNat 1] := rfl
@[simp] theorem operands_pinQry (m : DWord) {y z u2} :
    operands m (.pinQry y z u2) =
      [.rs y.toNat, .ws z.toNat 1] := rfl
@[simp] theorem operands_pinAll (m : DWord) {z u1} :
    operands m (.pinAll z u1) =
      [.ws z.toNat 1] := rfl
@[simp] theorem operands_atrn (m : DWord) {d a sb u3 u4} :
    operands m (.atrn d a sb u3 u4) =
      [.wv d.toNat 2, .rv a.toNat 1, .rs sb.toNat] := rfl
@[simp] theorem operands_binit (m : DWord) {x y u2} :
    operands m (.binit x y u2) =
      [.rs x.toNat, .rs y.toNat] := rfl
@[simp] theorem operands_barv (m : DWord) {x z u2 u3} :
    operands m (.barv x z u2 u3) =
      [.rs x.toNat, .ws z.toNat 1] := rfl
@[simp] theorem operands_barvB (m : DWord) {x y z u3 u4} :
    operands m (.barvB x y z u3 u4) =
      [.rs x.toNat, .rs y.toNat, .ws z.toNat 1] := rfl
@[simp] theorem operands_bexp (m : DWord) {x y u2} :
    operands m (.bexp x y u2) =
      [.rs x.toNat, .rs y.toNat] := rfl
@[simp] theorem operands_bwait (m : DWord) {x y u2} :
    operands m (.bwait x y u2) =
      [.rs x.toNat, .rs y.toNat] := rfl
@[simp] theorem operands_btest (m : DWord) {x z u2 u3} :
    operands m (.btest x z u2 u3) =
      [.rs x.toNat, .ws z.toNat 1] := rfl
@[simp] theorem operands_rinit (m : DWord) {y u1} :
    operands m (.rinit y u1) =
      [.rs y.toNat] := rfl
@[simp] theorem operands_rarv (m : DWord) {z u1} :
    operands m (.rarv z u1) =
      [.ws z.toNat 1] := rfl
@[simp] theorem operands_rwait (m : DWord) {y u1} :
    operands m (.rwait y u1) =
      [.rs y.toNat] := rfl
@[simp] theorem operands_rsync (m : DWord) {z u1} :
    operands m (.rsync z u1) =
      [.ws z.toNat 1] := rfl
@[simp] theorem operands_aadd (m : DWord) {d a b u3 u4} :
    operands m (.aadd d a b u3 u4) =
      [.wv d.toNat (wd m), .rv a.toNat 2, .rv b.toNat (wd m)] := rfl
@[simp] theorem operands_amin (m : DWord) {d a b u3 u4} :
    operands m (.amin d a b u3 u4) =
      [.wv d.toNat (wd m), .rv a.toNat 2, .rv b.toNat (wd m)] := rfl
@[simp] theorem operands_amax (m : DWord) {d a b u3 u4} :
    operands m (.amax d a b u3 u4) =
      [.wv d.toNat (wd m), .rv a.toNat 2, .rv b.toNat (wd m)] := rfl
@[simp] theorem operands_aand (m : DWord) {d a b u3 u4} :
    operands m (.aand d a b u3 u4) =
      [.wv d.toNat (wd m), .rv a.toNat 2, .rv b.toNat (wd m)] := rfl
@[simp] theorem operands_aor (m : DWord) {d a b u3 u4} :
    operands m (.aor d a b u3 u4) =
      [.wv d.toNat (wd m), .rv a.toNat 2, .rv b.toNat (wd m)] := rfl
@[simp] theorem operands_axor (m : DWord) {d a b u3 u4} :
    operands m (.axor d a b u3 u4) =
      [.wv d.toNat (wd m), .rv a.toNat 2, .rv b.toNat (wd m)] := rfl
@[simp] theorem operands_axch (m : DWord) {d a b u3 u4} :
    operands m (.axch d a b u3 u4) =
      [.wv d.toNat (wd m), .rv a.toNat 2, .rv b.toNat (wd m)] := rfl
@[simp] theorem operands_acas (m : DWord) {d a b u3 u4} :
    operands m (.acas d a b u3 u4) =
      [.xv d.toNat (wd m), .rv a.toNat 2, .rv b.toNat (wd m)] := rfl
@[simp] theorem operands_afadd (m : DWord) {d a b u3 u4} :
    operands m (.afadd d a b u3 u4) =
      [.wv d.toNat (wd m), .rv a.toNat 2, .rv b.toNat (wd m)] := rfl
@[simp] theorem operands_red (m : DWord) {u0 a b u3 u4} :
    operands m (.red u0 a b u3 u4) =
      [.rv a.toNat 2, .rv b.toNat (wd m)] := rfl
@[simp] theorem operands_bump (m : DWord) {d a b u3 u4} :
    operands m (.bump d a b u3 u4) =
      [.wv d.toNat 2, .rv a.toNat 2, .rv b.toNat 1] := rfl
@[simp] theorem operands_sigi (m : DWord) {d a b u3} :
    operands m (.sigi d a b u3) =
      [.wv d.toNat 2, .rv a.toNat 2, .rv b.toNat 1] := rfl
@[simp] theorem operands_sigd (m : DWord) {d a b u3} :
    operands m (.sigd d a b u3) =
      [.wv d.toNat 2, .rv a.toNat 2, .rv b.toNat 1] := rfl
@[simp] theorem operands_tlsig (m : DWord) {d a b u3} :
    operands m (.tlsig d a b u3) =
      [.wv d.toNat 2, .rv a.toNat 2, .rv b.toNat 2] := rfl
@[simp] theorem operands_carm (m : DWord) {x y z u3 u4} :
    operands m (.carm x y z u3 u4) =
      [.rs x.toNat, .rs y.toNat, .rs z.toNat] := rfl
@[simp] theorem operands_carmCancel (m : DWord) {y z u2} :
    operands m (.carmCancel y z u2) =
      [.rs y.toNat, .ws z.toNat 1] := rfl
@[simp] theorem operands_cpa (m : DWord) {d a sb u3 u4} :
    operands m (.cpa d a sb u3 u4) =
      [.rv d.toNat 2, .rv a.toNat 1, .rs sb.toNat] := rfl
@[simp] theorem operands_hdefChk (m : DWord) {y z u2} :
    operands m (.hdefChk y z u2) =
      [.rs y.toNat, .ws z.toNat 1] := rfl
@[simp] theorem operands_hdefBase (m : DWord) {x y u2} :
    operands m (.hdefBase x y u2) =
      [.rs x.toNat, .rs y.toNat] := rfl
@[simp] theorem operands_hdefOrg (m : DWord) {x y u2} :
    operands m (.hdefOrg x y u2) =
      [.rs x.toNat, .rs y.toNat] := rfl
@[simp] theorem operands_hdefAdv (m : DWord) {x y u2} :
    operands m (.hdefAdv x y u2) =
      [.rs x.toNat, .rs y.toNat] := rfl
@[simp] theorem operands_hdefOrgh (m : DWord) {x y u2} :
    operands m (.hdefOrgh x y u2) =
      [.rs x.toNat, .rs y.toNat] := rfl
@[simp] theorem operands_tcpy (m : DWord) {x y z u3 u4 u5} :
    operands m (.tcpy x y z u3 u4 u5) =
      [.rs x.toNat, .rs y.toNat, .rs z.toNat] := rfl
@[simp] theorem operands_tsto (m : DWord) {x y z u3 u4 u5} :
    operands m (.tsto x y z u3 u4 u5) =
      [.rs x.toNat, .rs y.toNat, .rs z.toNat] := rfl
@[simp] theorem operands_tred (m : DWord) {x y z u3 u4 u5} :
    operands m (.tred x y z u3 u4 u5) =
      [.rs x.toNat, .rs y.toNat, .rs z.toNat] := rfl
@[simp] theorem operands_tsct (m : DWord) {x y z u3 u4} :
    operands m (.tsct x y z u3 u4) =
      [.rs x.toNat, .rs y.toNat, .rs z.toNat] := rfl
@[simp] theorem operands_tgth (m : DWord) {x y z u3 u4 u5} :
    operands m (.tgth x y z u3 u4 u5) =
      [.rs x.toNat, .rs y.toNat, .rs z.toNat] := rfl
@[simp] theorem operands_crset (m : DWord) {x y u2} :
    operands m (.crset x y u2) =
      [.rs x.toNat, .rs y.toNat] := rfl
@[simp] theorem operands_crpop (m : DWord) {z u1} :
    operands m (.crpop z u1) =
      [.ws z.toNat 4] := rfl
@[simp] theorem operands_crpopSeq (m : DWord) {z u1} :
    operands m (.crpopSeq z u1) =
      [.ws z.toNat 1] := rfl
@[simp] theorem operands_crpopDrop (m : DWord) {z u1} :
    operands m (.crpopDrop z u1) =
      [.ws z.toNat 1] := rfl
@[simp] theorem operands_mbxget (m : DWord) {z u1} :
    operands m (.mbxget z u1) =
      [.ws z.toNat 8] := rfl
@[simp] theorem operands_mbxgetSp (m : DWord) {y z u2} :
    operands m (.mbxgetSp y z u2) =
      [.rs y.toNat, .ws z.toNat 1] := rfl
@[simp] theorem operands_mbxarm (m : DWord) {y} :
    operands m (.mbxarm y) =
      [.rs y.toNat] := rfl
@[simp] theorem operands_mbxarmCancel (m : DWord) {y z} :
    operands m (.mbxarmCancel y z) =
      [.rs y.toNat, .ws z.toNat 1] := rfl
@[simp] theorem operands_evsigAdd (m : DWord) {x y} :
    operands m (.evsigAdd x y) =
      [.rs x.toNat, .rs y.toNat] := rfl
@[simp] theorem operands_evsigReset (m : DWord) {x y z} :
    operands m (.evsigReset x y z) =
      [.rs x.toNat, .rs y.toNat, .rs z.toNat] := rfl
@[simp] theorem operands_evarm (m : DWord) {x y z} :
    operands m (.evarm x y z) =
      [.rs x.toNat, .rs y.toNat, .rs z.toNat] := rfl
@[simp] theorem operands_evarmCancel (m : DWord) {y z} :
    operands m (.evarmCancel y z) =
      [.rs y.toNat, .ws z.toNat 1] := rfl
@[simp] theorem operands_evqry (m : DWord) {x z u2 u3} :
    operands m (.evqry x z u2 u3) =
      [.rs x.toNat, .ws z.toNat 1] := rfl
@[simp] theorem operands_opapp (m : DWord) {x y z u3} :
    operands m (.opapp x y z u3) =
      [.rs x.toNat, .rs y.toNat, .ws z.toNat 1] := rfl
@[simp] theorem operands_fixup (m : DWord) {x z} :
    operands m (.fixup x z) =
      [.rs x.toNat, .rs z.toNat] := rfl
@[simp] theorem operands_lmap (m : DWord) {y z u2 u3} :
    operands m (.lmap y z u2 u3) =
      [.rs y.toNat, .ws z.toNat 1] := rfl
@[simp] theorem operands_xa2a (m : DWord) {x y z u3 u4 u5} :
    operands m (.xa2a x y z u3 u4 u5) =
      [.rs x.toNat, .rs y.toNat, .rs z.toNat] := rfl
@[simp] theorem operands_xag (m : DWord) {x y z u3 u4 u5} :
    operands m (.xag x y z u3 u4 u5) =
      [.rs x.toNat, .rs y.toNat, .rs z.toNat] := rfl
@[simp] theorem operands_xrs (m : DWord) {x y z u3 u4 u5} :
    operands m (.xrs x y z u3 u4 u5) =
      [.rs x.toNat, .rs y.toNat, .rs z.toNat] := rfl
@[simp] theorem operands_rdcfRange (m : DWord) {x y z u3} :
    operands m (.rdcfRange x y z u3) =
      [.rs x.toNat, .rs y.toNat, .ws z.toNat 1] := rfl
@[simp] theorem operands_rdcfMod (m : DWord) {y z u2} :
    operands m (.rdcfMod y z u2) =
      [.rs y.toNat, .ws z.toNat 1] := rfl
@[simp] theorem operands_fqryPort (m : DWord) {y z u2} :
    operands m (.fqryPort y z u2) =
      [.rs y.toNat, .ws z.toNat 1] := rfl
@[simp] theorem operands_fqryPlane (m : DWord) {y z u2} :
    operands m (.fqryPlane y z u2) =
      [.rs y.toNat, .ws z.toNat 1] := rfl
@[simp] theorem operands_fqryReach (m : DWord) {y z u2} :
    operands m (.fqryReach y z u2) =
      [.rs y.toNat, .ws z.toNat 1] := rfl
@[simp] theorem operands_digs (m : DWord) {a u1 b u3} :
    operands m (.digs a u1 b u3) =
      [.rv a.toNat 1, .rv b.toNat 1] := rfl
@[simp] theorem operands_clonChk (m : DWord) {d} :
    operands m (.clonChk d) =
      [.ws d.toNat 1] := rfl
@[simp] theorem operands_clonDrop (m : DWord) {d} :
    operands m (.clonDrop d) =
      [.ws d.toNat 1] := rfl
@[simp] theorem operands_clonTrans (m : DWord) {d} :
    operands m (.clonTrans d) =
      [.ws d.toNat 1] := rfl
@[simp] theorem operands_scrnDig (m : DWord) {z} :
    operands m (.scrnDig z) =
      [.ws z.toNat 1] := rfl
@[simp] theorem operands_susqScore (m : DWord) {y z} :
    operands m (.susqScore y z) =
      [.rs y.toNat, .ws z.toNat 1] := rfl
@[simp] theorem operands_susqQmask (m : DWord) {y z} :
    operands m (.susqQmask y z) =
      [.rs y.toNat, .ws z.toNat 1] := rfl
@[simp] theorem operands_susqStat (m : DWord) {y z} :
    operands m (.susqStat y z) =
      [.rs y.toNat, .ws z.toNat 1] := rfl
@[simp] theorem operands_csrr (m : DWord) {d u1} :
    operands m (.csrr d u1) =
      [.ws d.toNat 1] := rfl
@[simp] theorem operands_csrw (m : DWord) {a u1} :
    operands m (.csrw a u1) =
      [.rs a.toNat] := rfl
@[simp] theorem operands_tlbiWrite (m : DWord) {a} :
    operands m (.tlbiWrite a) =
      [.rs a.toNat] := rfl
@[simp] theorem operands_fpmapWrite (m : DWord) {a} :
    operands m (.fpmapWrite a) =
      [.rs a.toNat] := rfl
@[simp] theorem operands_pptQry (m : DWord) {z} :
    operands m (.pptQry z) =
      [.ws z.toNat 1] := rfl
@[simp] theorem operands_bswp (m : DWord) {z} :
    operands m (.bswp z) =
      [.ws z.toNat 1] := rfl
@[simp] theorem operands_bswpQry (m : DWord) {z} :
    operands m (.bswpQry z) =
      [.ws z.toNat 1] := rfl
@[simp] theorem operands_ctxs (m : DWord) {x y z} :
    operands m (.ctxs x y z) =
      [.rs x.toNat, .rs y.toNat, .ws z.toNat 1] := rfl
@[simp] theorem operands_ctxl (m : DWord) {x y z} :
    operands m (.ctxl x y z) =
      [.rs x.toNat, .rs y.toNat, .ws z.toNat 1] := rfl
@[simp] theorem operands_ctxlTeam (m : DWord) {x y z u3} :
    operands m (.ctxlTeam x y z u3) =
      [.rs x.toNat, .rs y.toNat, .ws z.toNat 1] := rfl
@[simp] theorem operands_tagsSet (m : DWord) {y} :
    operands m (.tagsSet y) =
      [.rs y.toNat] := rfl
@[simp] theorem operands_tagsCnt (m : DWord) {y z} :
    operands m (.tagsCnt y z) =
      [.rs y.toNat, .ws z.toNat 1] := rfl
@[simp] theorem operands_purg (m : DWord) {y} :
    operands m (.purg y) =
      [.rs y.toNat] := rfl
@[simp] theorem operands_purgClr (m : DWord) {y} :
    operands m (.purgClr y) =
      [.rs y.toNat] := rfl
@[simp] theorem operands_purgQry (m : DWord) {y z} :
    operands m (.purgQry y z) =
      [.rs y.toNat, .ws z.toNat 1] := rfl
@[simp] theorem operands_modi (m : DWord) {f v} : operands m (.modi f v) = [] := rfl
@[simp] theorem operands_bra (m : DWord) {imm} : operands m (.bra imm) = [] := rfl
@[simp] theorem operands_brall (m : DWord) {imm} : operands m (.brall imm) = [] := rfl
@[simp] theorem operands_brany (m : DWord) {imm} : operands m (.brany imm) = [] := rfl
@[simp] theorem operands_split (m : DWord) {imm} : operands m (.split imm) = [] := rfl
@[simp] theorem operands_rcv (m : DWord) {imm} : operands m (.rcv imm) = [] := rfl
@[simp] theorem operands_waitImm (m : DWord) {p n} : operands m (.waitImm p n) = [] := rfl
@[simp] theorem operands_bkpt (m : DWord) {imm} : operands m (.bkpt imm) = [] := rfl
@[simp] theorem operands_fence (m : DWord) {n c} : operands m (.fence n c) = [] := rfl
@[simp] theorem operands_trap (md : DWord) {imm} : operands md (.trap imm) = [] := rfl
@[simp] theorem operands_mzero (md : DWord) {m v} : operands md (.mzero m v) = [] := rfl
@[simp] theorem operands_mma (md : DWord) {m a b k n u t} : operands md (.mma m a b k n u t) = [] := rfl
@[simp] theorem operands_mmas (md : DWord) {m a b k n u} : operands md (.mmas m a b k n u) = [] := rfl
@[simp] theorem operands_mmax (md : DWord) {m a b k n u t} : operands md (.mmax m a b k n u t) = [] := rfl
@[simp] theorem operands_mlda (md : DWord) {m a v t} : operands md (.mlda m a v t) = [] := rfl
@[simp] theorem operands_msta (md : DWord) {m a v sb r t} : operands md (.msta m a v sb r t) = [] := rfl
@[simp] theorem operands_mcmp (md : DWord) {a b k} : operands md (.mcmp a b k) = [] := rfl
@[simp] theorem operands_marv (md : DWord) {k} : operands md (.marv k) = [] := rfl
@[simp] theorem operands_mwat (md : DWord) {k} : operands md (.mwat k) = [] := rfl
@[simp] theorem operands_mhdl (md : DWord) {h imm} : operands md (.mhdl h imm) = [] := rfl
@[simp] theorem operands_mjmp (md : DWord) {imm} : operands md (.mjmp imm) = [] := rfl
@[simp] theorem operands_mloop (md : DWord) {n imm} : operands md (.mloop n imm) = [] := rfl
@[simp] theorem operands_lim (md : DWord) {imm} : operands md (.lim imm) = [] := rfl
@[simp] theorem operands_mtrn (md : DWord) {m t v c} : operands md (.mtrn m t v c) = [] := rfl
@[simp] theorem operands_nop (md : DWord) : operands md (.nop) = [] := rfl
@[simp] theorem operands_join (md : DWord) : operands md (.join) = [] := rfl
@[simp] theorem operands_exit (md : DWord) : operands md (.exit) = [] := rfl
@[simp] theorem operands_yield (md : DWord) : operands md (.yield) = [] := rfl
@[simp] theorem operands_jobdone (md : DWord) : operands md (.jobdone) = [] := rfl
@[simp] theorem operands_clonSync (md : DWord) : operands md (.clonSync) = [] := rfl
@[simp] theorem operands_scrnSkip (md : DWord) : operands md (.scrnSkip) = [] := rfl
@[simp] theorem operands_rte (md : DWord) : operands md (.rte) = [] := rfl
@[simp] theorem operands_ppt (md : DWord) : operands md (.ppt) = [] := rfl
@[simp] theorem operands_halt (md : DWord) : operands md (.halt) = [] := rfl
@[simp] theorem operands_mend (md : DWord) : operands md (.mend) = [] := rfl

end Sys2Proof.Laws
end

