-- ==== Sys2Proof/Laws/Regs.lean ====
section
/-! SUPPORT. What the register operations leave: lane registers, pairs, predicates, scalars and generators. -/

namespace Sys2Proof.Laws

open Sys2Proof.Machine Sys2Proof.Safety

theorem vkey_inj {n m l k : Nat} (hl : l < 32) (hk : k < 32) (h : vkey n l = vkey m k) : n = m ∧ l = k := by
  unfold vkey at h; omega

/-- Reading a lane register after a write to one. -/
theorem gv_gput (g : Group) {n m l k : Nat} (v : Word) (hl : l < 32) (hk : k < 32) :
    gv (gput g n l v) m k = if m = n ∧ k = l then v else gv g m k := by
  unfold gv gput
  by_cases h : m = n ∧ k = l
  · obtain ⟨rfl, rfl⟩ := h; simp
  · rw [if_neg h]
    exact cget_cput_other _ _ _ (fun e => h (vkey_inj hk hl e))

@[simp] theorem rs_ws (s : State) (n m : Nat) (v : DWord) : rs (ws s n v) m = if m = n then v else rs s m := by
  simp [rs, ws, splitPutS, cget_cput]

theorem mem_lanesOf {m : Word} {l : Nat} : l ∈ lanesOf m ↔ l < 32 ∧ laneBit m l = true := by
  simp [lanesOf]

theorem mem_actives {s : State} {l : Nat} (h : l < 32) : l ∈ actives s ↔ isActive s l = true := by
  simp [actives, mem_lanesOf, isActive, h]

theorem actives_lt (s : State) : ∀ l ∈ actives s, l < 32 := fun _ h => (mem_lanesOf.mp h).1

/-- Writing one register in the lanes of a list replaces the lane registers, and gives every one of them. -/
theorem wvs_fields (s : State) (n : Nat) (f : Nat → Word) (ls : List Nat) (h : ∀ l ∈ ls, l < 32) :
    ∃ r, wvs s n f ls = withRegs s r ∧
      ∀ m l, l < 32 → regAt r m l = if m = n ∧ l ∈ ls then f l else rv s m l := by
  induction ls generalizing s with
  | nil => exact ⟨s.group.regs, rfl, fun m l _ => by simp [regAt, rv, gv]⟩
  | cons a r ih =>
    have ha := h a (by simp)
    obtain ⟨q, e, hq⟩ := ih (wv s n a (f a)) (fun l hl => h l (by simp [hl]))
    refine ⟨q, by rw [wvs, e]; rfl, fun m l hl => ?_⟩
    rw [hq m l hl]
    by_cases h1 : m = n ∧ l ∈ r
    · simp [h1]
    · rw [if_neg h1]
      show gv (gput s.group n a (f a)) m l = _
      rw [gv_gput _ _ ha hl]
      by_cases h2 : m = n ∧ l = a
      · obtain ⟨rfl, rfl⟩ := h2; simp
      · rw [if_neg h2, if_neg]
        · rfl
        · rintro ⟨e1, e2⟩
          rcases List.mem_cons.mp e2 with e3 | e3
          · exact h2 ⟨e1, e3⟩
          · exact h1 ⟨e1, e3⟩

/-- The same for pairs. -/
theorem wv2s_fields (s : State) (n : Nat) (f : Nat → DWord) (ls : List Nat) (h : ∀ l ∈ ls, l < 32) :
    ∃ r, wv2s s n f ls = withRegs s r ∧
      ∀ m l, l < 32 → regAt r m l =
        if m = n ∧ l ∈ ls then (f l).extractLsb' 0 32
        else if m = n + 1 ∧ l ∈ ls then (f l).extractLsb' 32 32 else rv s m l := by
  induction ls generalizing s with
  | nil => exact ⟨s.group.regs, rfl, fun m l _ => by simp [regAt, rv, gv]⟩
  | cons a r ih =>
    have ha := h a (by simp)
    obtain ⟨q, e, hq⟩ := ih (wv2 s n a (f a)) (fun l hl => h l (by simp [hl]))
    refine ⟨q, by rw [wv2s, e]; rfl, fun m l hl => ?_⟩
    rw [hq m l hl]
    have hv : rv (wv2 s n a (f a)) m l =
        if m = n + 1 ∧ l = a then (f a).extractLsb' 32 32
        else if m = n ∧ l = a then (f a).extractLsb' 0 32 else rv s m l := by
      show gv (gput (gput s.group n a _) (n + 1) a _) m l = _
      rw [gv_gput _ _ ha hl, gv_gput _ _ ha hl]; rfl
    rw [hv]
    by_cases hr : l ∈ r
    · by_cases h1 : m = n
      · simp [h1, hr]
      · by_cases h2 : m = n + 1
        · simp [h2, hr]
        · simp [h1, h2]
    · by_cases h3 : l = a
      · subst h3
        by_cases h1 : m = n
        · simp [h1, hr]
        · by_cases h2 : m = n + 1
          · simp [h2, hr]
          · simp [h1, h2]
      · simp [hr, h3]

/-- A register written in the active lanes. -/
theorem oneReg_wvs (s : State) (n : Nat) (f : Nat → Word) :
    ∃ r, wvs s n f (actives s) = withRegs s r ∧ OneReg s r n f := by
  obtain ⟨r, e, h⟩ := wvs_fields s n f (actives s) (actives_lt s)
  refine ⟨r, e, fun m l hl => ?_⟩
  rw [h m l hl]
  simp only [mem_actives hl]

/-- A pair written in the active lanes. -/
theorem pairReg_wv2s (s : State) (n : Nat) (f : Nat → DWord) :
    ∃ r, wv2s s n f (actives s) = withRegs s r ∧ PairReg s r n f := by
  obtain ⟨r, e, h⟩ := wv2s_fields s n f (actives s) (actives_lt s)
  refine ⟨r, e, fun m l hl => ?_⟩
  rw [h m l hl]
  simp only [mem_actives hl]

theorem wroteReg_wvs (s : State) (n : Nat) (f : Nat → Word) : WroteReg s (adv (wvs s n f (actives s))) n f := by
  obtain ⟨r, e, h⟩ := oneReg_wvs s n f
  exact ⟨r, by rw [e], h⟩

theorem wrotePair_wv2s (s : State) (n : Nat) (f : Nat → DWord) : WrotePair s (adv (wv2s s n f (actives s))) n f := by
  obtain ⟨r, e, h⟩ := pairReg_wv2s s n f
  exact ⟨r, by rw [e], h⟩

/-- WriteOp in the active lanes, and the PC moved on (03_integer.md R68). -/
theorem wroteTyped_writeOps (s : State) (n w : Nat) (sg sat : Bool) (f : Nat → Int) :
    WroteTyped s (adv (writeOps s n w sg sat f (actives s))) n w (fun l => fitOp w sg sat (f l)) := by
  unfold WroteTyped writeOps
  split
  · exact wrotePair_wv2s s n _
  · exact wroteReg_wvs s n _

/-- A sized write in the active lanes, and the PC moved on (03_integer.md R67). -/
theorem wroteSized_writeSized (s : State) (n : Nat) (f : Nat → DWord) :
    WroteSized s (adv (writeSized s n f (actives s))) n f := by
  unfold WroteSized writeSized
  split
  · exact wrotePair_wv2s s n _
  · exact wroteReg_wvs s n _

theorem laneBit_or (a b : Word) (l : Nat) : laneBit (a ||| b) l = (laneBit a l || laneBit b l) := by simp [laneBit]
theorem laneBit_and (a b : Word) (l : Nat) : laneBit (a &&& b) l = (laneBit a l && laneBit b l) := by simp [laneBit]
theorem laneBit_not (a : Word) {l : Nat} (h : l < 32) : laneBit (~~~ a) l = !laneBit a l := by simp [laneBit, h]

/-- A predicate after it is written under a mask; p0 stays as it is (03_integer.md R64). -/
theorem predMask_wp (s : State) (d p : Nat) (m v : Word) {l : Nat} (hl : l < 32) :
    laneBit (predMask (wp s d m v).group p) l =
      if p = d ∧ d ≠ 0 ∧ laneBit m l then laneBit v l else laneBit (predMask s.group p) l := by
  unfold wp
  by_cases hd : d = 0
  · simp [hd]
  · simp only [hd, if_false]
    by_cases hp : p = d
    · subst hp
      simp only [predMask, hd, if_false, cget_cput_same, laneBit_or, laneBit_and, laneBit_not _ hl]
      cases laneBit m l <;> simp [hd]
    · by_cases h0 : p = 0
      · simp [predMask, h0, Ne.symm hd]
      · simp [predMask, hp, h0, cget_cput_other]

/-- What predicate writes change. -/
theorem wp_fields (s : State) (d : Nat) (m v : Word) :
    ∃ q, wp s d m v = { s with group := { s.group with preds := q } } := by
  unfold wp; split
  · exact ⟨_, rfl⟩
  · exact ⟨_, rfl⟩

/-- The mask of a lane test holds in a lane as the test does. -/
theorem laneBit_ofBits (f : Nat → Bool) (n l : Nat) (hl : l < 32) :
    laneBit (BitVec.ofNat 32 ((List.range n).foldl (fun a k => if f k then a + 2 ^ k else a) 0)) l
      = (decide (l < n) && f l) := by
  have bound : ∀ n, (List.range n).foldl (fun a k => if f k then a + 2 ^ k else a) 0 < 2 ^ n := by
    intro n
    induction n with
    | zero => simp
    | succ n ih =>
      rw [List.range_succ, List.foldl_append]
      simp only [List.foldl_cons, List.foldl_nil]
      split <;> omega
  have bit : ∀ n, Nat.testBit ((List.range n).foldl (fun a k => if f k then a + 2 ^ k else a) 0) l
      = (decide (l < n) && f l) := by
    intro n
    induction n with
    | zero => simp
    | succ n ih =>
      rw [List.range_succ, List.foldl_append]
      simp only [List.foldl_cons, List.foldl_nil]
      split
      · rename_i hf
        rw [Nat.add_comm]
        by_cases h : l = n
        · subst h
          rw [Nat.testBit_two_pow_add_eq, ih]; simp [hf]
        · by_cases h2 : l < n
          · rw [Nat.testBit_two_pow_add_gt h2, ih]; simp [h2, show l < n + 1 by omega]
          · have b := bound n
            have e : 2 ^ (n + 1) ≤ 2 ^ l := Nat.pow_le_pow_right (by decide) (by omega)
            rw [Nat.testBit_lt_two_pow (by omega)]
            simp [show ¬ l < n + 1 by omega]
      · rename_i hf
        rw [ih]
        by_cases h : l = n
        · subst h; simp [hf]
        · congr 1; simp; omega
  unfold laneBit; rw [BitVec.getLsbD_ofNat]; simp [bit, hl]

@[simp] theorem laneBit_maskOf (f : Nat → Bool) {l : Nat} (hl : l < 32) : laneBit (maskOf f) l = f l := by
  unfold maskOf; rw [laneBit_ofBits f 32 l hl]; simp [hl]

/-- A predicate written in the active lanes from a lane test, and the PC moved on. -/
theorem wrotePred_predWrite (s : State) (d : Nat) (f : Nat → Bool) : WrotePred s (predWrite s d f) d f := by
  obtain ⟨q, e⟩ := wp_fields s d (active s) (maskOf f)
  refine ⟨q, by rw [predWrite, e], fun p l hl => ?_⟩
  show laneBit (predMask (wp s d (active s) (maskOf f)).group p) l = _
  rw [predMask_wp s d p _ _ hl, laneBit_maskOf f hl]; rfl

/-- The same from a mask. -/
theorem wrotePred_wp (s : State) (d : Nat) (v : Word) :
    WrotePred s (adv (wp s d (active s) v)) d (fun l => laneBit v l) := by
  obtain ⟨q, e⟩ := wp_fields s d (active s) v
  refine ⟨q, by rw [e], fun p l hl => ?_⟩
  show laneBit (predMask (wp s d (active s) v).group p) l = _
  rw [predMask_wp s d p _ _ hl]; rfl

/-- A scalar written, and the PC moved on. -/
theorem wroteScalar_ws (s : State) (d : Nat) (v : DWord) : WroteScalar s (adv (ws s d v)) d v :=
  ⟨cput (fun _ => 0) s.split.s d v, rfl, fun n => by rw [cget_cput]; rfl⟩

theorem advanceGens_cons (s : State) (n a : Nat) (r : List Nat) : advanceGens s n (a :: r) =
    advanceGens { s with group := { s.group with
      gens := cput genInit s.group.gens a (genAfter (genOf s.group a) n) } } n r := rfl

theorem genOf_put (g : Group) (a k : Nat) (v : Word) :
    genOf { g with gens := cput genInit g.gens a v } k = if k = a then v else genOf g k := cget_cput ..

theorem genOf_advanceGens (s : State) (n : Nat) (ls : List Nat) (nd : ls.Nodup) (l : Nat) :
    genOf (advanceGens s n ls).group l = if l ∈ ls then genAfter (genOf s.group l) n else genOf s.group l := by
  induction ls generalizing s with
  | nil => exact (if_neg (by simp)).symm
  | cons a r ih =>
    obtain ⟨na, nr⟩ := List.nodup_cons.mp nd
    rw [advanceGens_cons, ih _ nr, genOf_put]
    by_cases h1 : l = a
    · subst h1; rw [if_neg na, if_pos List.mem_cons_self, if_pos rfl]
    · by_cases h2 : l ∈ r
      · rw [if_pos h2, if_pos (List.mem_cons_of_mem _ h2), if_neg h1]
      · rw [if_neg h2, if_neg (fun q => (List.mem_cons.mp q).elim h1 h2), if_neg h1]

/-- A change of the generators alone. -/
def putGens (s : State) (g : Cells Word) : State := { s with group := { s.group with gens := g } }

theorem putGens_putGens (s : State) (c g : Cells Word) : putGens (putGens s c) g = putGens s g := rfl

theorem advanceGens_put (s : State) (n a : Nat) (r : List Nat) : advanceGens s n (a :: r) =
    advanceGens (putGens s (cput genInit s.group.gens a (genAfter (genOf s.group a) n))) n r := rfl

theorem advanceGens_fields (s : State) (n : Nat) (ls : List Nat) :
    ∃ g, advanceGens s n ls = putGens s g := by
  induction ls generalizing s with
  | nil => exact ⟨s.group.gens, rfl⟩
  | cons a r ih =>
    rw [advanceGens_put]
    generalize cput genInit s.group.gens a (genAfter (genOf s.group a) n) = c
    obtain ⟨g, e⟩ := ih (putGens s c)
    exact ⟨g, by rw [e, putGens_putGens]⟩

theorem actives_nodup (s : State) : (actives s).Nodup := by
  unfold actives lanesOf
  exact List.nodup_range.filter _

theorem drewGens (s : State) (n : Nat) :
    ∃ g, advanceGens s n (actives s) = { s with group := { s.group with gens := g } } ∧ DrewGens s g n := by
  obtain ⟨g, e⟩ := advanceGens_fields s n (actives s)
  refine ⟨g, e, fun l hl => ?_⟩
  have h := genOf_advanceGens s n _ (actives_nodup s) l
  rw [e] at h
  simp only [mem_actives hl] at h
  exact h

end Sys2Proof.Laws
end

