-- ==== Sys2Proof/Laws/Run.lean ====
section
/-! SUPPORT. The wrappers that every meaning runs under: what each answers, and when. -/

namespace Sys2Proof.Laws

open Sys2Proof.Machine

/-- A word whose operands stand within the budget has its own effect. -/
theorem run_ok {i : Instr} {s : State} (h : operandsBad s i = false) (f : State → State) : run i s f = .next (f s) := by
  simp [run, h]

/-- A word that breaks R65 or R67 raises ILLEGAL. -/
theorem run_bad {i : Instr} {s : State} (h : operandsBad s i = true) (f : State → State) :
    run i s f = .next (illegal s i.word) := by
  simp [run, h]

theorem runTyped_ok {i : Instr} {s : State} {w : Nat} {sg : Bool} (h : operandsBad s i = false)
    (ht : typed s.split.mode = some (w, sg)) (f : Nat → Bool → State → State) :
    runTyped i s f = .next (f w sg s) := by
  simp [runTyped, run, h, ht]

/-- A typed word under a TYPE that is no integer type raises ILLEGAL (03_integer.md R67). -/
theorem runTyped_illegal {i : Instr} {s : State} (ht : typed s.split.mode = none) (f : Nat → Bool → State → State) :
    runTyped i s f = .next (illegal s i.word) := by
  simp [runTyped, run, ht]

theorem runPriv_ok {i : Instr} {s : State} (h : userMode s = false) (f : State → State) : runPriv i s f = .next (f s) := by
  simp [runPriv, h]

/-- A privileged word in user mode raises PRIV. -/
theorem runPriv_user {i : Instr} {s : State} (h : userMode s = true) (f : State → State) :
    runPriv i s f = .next (trap s Cause.priv (i.word.setWidth 64) (active s)) := by
  simp [runPriv, h]

theorem runEvent_ok {s : State} {ok : Bool} (h : ok = true) (f : State → State) : runEvent ok s f = .next (f s) := by
  simp [runEvent, h]

theorem runEvent_not {s : State} {ok : Bool} (h : ok = false) (f : State → State) :
    runEvent ok s f = .fault .notEnabled := by
  simp [runEvent, h]

end Sys2Proof.Laws
end

