-- ==== Sys2Proof/Tests/Slice0.lean ====
section
/-! SUPPORT. Tests of the model on small states, and for every statement with hypotheses a witness: a concrete
state and operands that meet them. Expected results come from the spec's worked examples and by hand. -/

namespace Sys2Proof.Tests

set_option Elab.async false

open Sys2Proof Sys2Proof.Machine Sys2Proof.Safety

/-! ## Helpers -/

/-- The answer is `a`. -/
def isOk {ε α : Type} [DecidableEq α] (x : Except ε α) (a : α) : Bool :=
  match x with
  | .ok b => decide (b = a)
  | .error _ => false

theorem isOk_eq {ε α : Type} [DecidableEq α] {x : Except ε α} {a : α} (h : isOk x a = true) : x = .ok a := by
  cases x <;> simp_all [isOk]

/-- There is an answer. -/
def okB {ε α : Type} (x : Except ε α) : Bool :=
  match x with
  | .ok _ => true
  | .error _ => false

/-- The answer, or `d`. -/
def okGet {ε α : Type} (d : α) (x : Except ε α) : α :=
  match x with
  | .ok a => a
  | .error _ => d

theorem ok_get {ε α : Type} {x : Except ε α} (d : α) (h : okB x = true) : x = .ok (okGet d x) := by
  cases x <;> simp_all [okB, okGet]

/-- The error, or `d`. -/
def errGet {ε α : Type} (d : ε) (x : Except ε α) : ε :=
  match x with
  | .ok _ => d
  | .error a => a

theorem err_get {ε α : Type} {x : Except ε α} (d : ε) (h : okB x = false) : x = .error (errGet d x) := by
  cases x <;> simp_all [okB, errGet]

/-- The next state, or `s` where there is none. -/
def nextOr (s : State) (o : Host.Outcome State Fault Refusal) : State :=
  match o with
  | .next t => t
  | .fault _ => s
  | .refused _ => s

/-- There is a next state. -/
def goes (o : Host.Outcome State Fault Refusal) : Bool :=
  match o with
  | .next _ => true
  | .fault _ => false
  | .refused _ => false

/-- The state after an instruction. -/
def after (i : Instr) (s : State) : State := nextOr s (exec i s)

/-- The machine of log 3 with some words at its PC, its team given 256 registers a lane and nine points: a
privileged split of 32 lanes. -/
def withWords (ws : List Nat) : State :=
  let s := benchMachine State.reset (ws.flatMap (natLe 4))
  { s with
    live := true, split := benchSplit s, group := Group.fresh
    team := { benchTeam State.reset with roles := [0xF00], hdr := 0x9000 } }

/-- The same with a NOP. -/
def b : State := withWords [0x01000000]

/-- In another MODE. -/
def inMode (m : DWord) (s : State) : State := { s with split := { s.split with mode := m } }

/-- With some scalars. -/
def withS (l : List (Nat × DWord)) (s : State) : State := l.foldl (fun t e => ws t e.1 e.2) s

/-- With some lane registers of lane 0. -/
def withV (l : List (Nat × Word)) (s : State) : State := l.foldl (fun t e => wv t e.1 0 e.2) s

/-- In user mode. -/
def user (s : State) : State := { s with split := { s.split with tstat := 0 } }

/-- With no lane active: the guard is p1. -/
def noLane (s : State) : State := inMode (putBits s.split.mode 10 3 1) s

/-- With lanes 0 to 7 active: the guard is p1. -/
def fewLanes (s : State) : State :=
  inMode (putBits s.split.mode 10 3 1) { s with group := { s.group with preds := [(1, 0xFF)] } }

/-- The formats of 02_words.md R30 and R34, from the fields. -/
def fmtV (op d a pa b pb : Nat) : Nat := op * 2 ^ 24 + d * 2 ^ 18 + a * 2 ^ 12 + pa * 2 ^ 9 + b * 2 ^ 3 + pb
def fmtI (op d a imm : Nat) : Nat := op * 2 ^ 24 + d * 2 ^ 18 + a * 2 ^ 12 + imm
def fmtP (op pd c a pa b pb : Nat) : Nat := op * 2 ^ 24 + pd * 2 ^ 21 + c * 2 ^ 18 + a * 2 ^ 12 + pa * 2 ^ 9 + b * 2 ^ 3 + pb
def fmtS (op d a b imm : Nat) : Nat := op * 2 ^ 24 + d * 2 ^ 19 + a * 2 ^ 14 + b * 2 ^ 9 + imm
def fmtL (op d a s la q : Nat) : Nat := op * 2 ^ 24 + d * 2 ^ 18 + a * 2 ^ 12 + s * 2 ^ 7 + la * 2 ^ 3 + q
def fmtA (op d a b la ord : Nat) : Nat := op * 2 ^ 24 + d * 2 ^ 18 + a * 2 ^ 12 + b * 2 ^ 6 + la * 2 ^ 2 + ord
def fmtE (op x y z la sub : Nat) : Nat := op * 2 ^ 24 + x * 2 ^ 19 + y * 2 ^ 14 + z * 2 ^ 9 + la * 2 ^ 5 + sub
def fmtB (op disp : Nat) : Nat := op * 2 ^ 24 + disp
def fmtM (op m ha hb k flags : Nat) : Nat := op * 2 ^ 24 + m * 2 ^ 22 + ha * 2 ^ 17 + hb * 2 ^ 12 + k * 2 ^ 6 + flags

/-! ## Well-formedness: an ill-formed term for each check -/

theorem test_wellFormed_refuses : ([
    .vote 1 3 1, .sreg 1 20, .modi 14 0, .ired 1 2 6, .fred 1 2 3, .brx 3, .callx 3, .ldd 1 2 3 0 0, .ldq 2 2 3 0 0,
    .std 1 2 3 0 0, .stq 2 2 3 0 0, .pref 2 1 2 0, .atrn 1 2 3 0 0, .fence 0 0, .fence 0 6, .barv 1 2 0 6, .barvB 1 2 3 0 6,
    .bwait 1 2 6, .aadd 1 3 2 0 0, .amin 1 3 2 0 0, .amax 1 3 2 0 0, .aand 1 3 2 0 0, .aor 1 3 2 0 0, .axor 1 3 2 0 0,
    .axch 1 3 2 0 0, .acas 1 3 2 0 0, .afadd 1 3 2 0 0] : List Instr).all (fun i => !i.wellFormed) = true := by decide

theorem test_wellFormed_refuses_more : ([
    .red 7 2 3 0 0, .red 0 3 2 0 0, .bump 1 2 3 0 0, .bump 2 1 3 0 0, .sigi 1 2 3 0, .sigi 2 1 3 0, .sigd 1 2 3 0, .sigd 2 1 3 0,
    .tlsig 2 2 3 0, .tlsig 1 2 2 0, .tlsig 2 1 2 0, .carm 1 2 3 0 6, .cpa 1 2 3 0 0, .crpop 2 0, .mbxget 4 0, .csrr 1 11,
    .csrw 1 11, .csrw 1 17, .csrw 1 19, .msta 0 1 0 0 3 0, .mloop 1 2047, .loadDataReturn 0, .nopPacket 0, .moduleReset 0 0,
    .notAnInstruction 0, .mWordNotInstruction 0] : List Instr).all (fun i => !i.wellFormed) = true := by decide

theorem test_wellFormed_accepts : ([
    .vote 1 2 1, .sreg 1 19, .modi 13 0, .ired 1 2 5, .fred 1 2 2, .brx 2, .ldd 2 1 3 0 0, .ldq 4 1 3 0 0, .pref 1 1 2 0,
    .fence 0 5, .barv 1 2 0 5, .red 6 2 3 0 0, .carm 1 2 3 0 5, .crpop 4 0, .mbxget 8 0, .csrr 1 34, .msta 0 1 0 0 2 0,
    .mloop 1 2048] : List Instr).all Instr.wellFormed = true := by decide

/-! ## Decoding: words put together from the formats of R30 and the codes of R33 and the home chapters -/

/-- Each word decodes to its instruction. -/
noncomputable def decodes (l : List (Nat × Instr)) : Bool := l.all (fun e => isOk (decodeWord e.1) e.2)

/-- 02_words.md R32 and R37 give the words of IADD v5, v3, v7:rot1 and of LIM and MOVI. -/
theorem test_decode_integer : decodes [(0x0414303D, .iadd 5 3 0 7 5), (0xFF012345, .lim 0x12345), (0x03080678, .movi 2 0x678),
    (0x03080FFF, .movi 2 0xFFF), (fmtV 0x10 1 2 3 4 5, .irem 1 2 3 4 5), (fmtI 0x1A 1 2 31, .shli 1 2 31),
    (fmtP 0x23 1 5 2 0 3 0, .icmp 1 5 2 0 3 0), (fmtS 0x2D 1 2 3 0, .sadd 1 2 3), (fmtS 0x37 4 0 0 19, .sreg 4 19)] = true := by
  decide +kernel

theorem test_decode_float : decodes [(fmtV 0x40 1 2 3 4 5, .fadd 1 2 3 4 5), (fmtP 0x4B 7 7 2 1 3 2, .fcmp 7 7 2 1 3 2),
    (fmtV 0x52 1 2 3 0 0, .frcp 1 2 3), (fmtV 0x5A 1 2 3 4 5, .fdot4 1 2 3 4 5), (fmtV 0x61 1 2 3 4 5, .cvtp 1 2 3 4 5),
    (fmtV 0x65 1 2 3 4 5, .qmxa 1 2 3 4 5)] = true := by decide +kernel

theorem test_decode_control : decodes [(fmtB 0x70 4, .bra 4), (fmtB 0x77 0xFFFFFF, .split 0xFFFFFF), (fmtB 0x78 7, .rcv 7),
    (fmtV 0x79 0 0 0 0 0, .join), (fmtV 0x7A 0 0 0 0 0, .exit), (fmtI 0x7D 0 0 7, .bkpt 7), (fmtI 0xF0 0 0 7, .trap 7),
    (fmtV 0xF1 0 0 0 0 0, .rte), (fmtS 0xF2 3 0 0 18, .csrr 3 18), (fmtV 0xFA 0 0 0 0 0, .halt)] = true := by decide +kernel

theorem test_decode_memory : decodes [(fmtL 0x82 1 2 3 4 5, .ldw 1 2 3 4 5), (fmtL 0x88 2 3 4 5 6, .std 2 3 4 5 6),
    (fmtA 0xB0 1 2 3 4 1, .aadd 1 2 3 4 1), (fmtA 0xBD 2 4 6 0 3, .tlsig 2 4 6 3), (fmtL 0xC0 2 1 3 4 2, .cpa 2 1 3 4 2)] = true := by
  decide +kernel

/-- A word with a reserved field, a code that no chapter lists, an odd pair, or no opcode is no instruction (R35). -/
theorem test_decode_refuses : [0, 0x3D000000, 0x90000000, fmtV 0x01 1 0 0 0 0, fmtS 0x2D 1 2 3 0x80 + 2 ^ 7, fmtL 0x83 1 2 3 4 5,
    fmtS 0x37 4 0 0 20, fmtV 0x79 0 0 0 0 1, fmtI 0x39 56 0 0].all (fun w => !okB (decodeWord w)) = true := by decide +kernel

theorem test_decode_matrix : [(fmtM 0x01 2 0 0 0 0, Instr.mzero 2 0), (fmtM 0x02 1 3 4 5 0, .mma 1 3 4 5 0 0 0),
    (fmtM 0x0D 0 0 0 0 0, .mend)].all (fun e => isOk (decodeMatrixWord e.1) e.2) = true := by decide +kernel

/-! ## Results -/

/-- Lane `l` of `n` after an instruction. -/
def got (i : Instr) (s : State) (n l : Nat) : Word := rv (after i s) n l

theorem test_fetch_runs : (nextOr b (step (State.reset.withFetchWord 32 0x03080FFF))).group.regs.length = 32 := by decide +kernel

/-- The table of 02_words.md R39: source lanes under PK 3, PL 9, PX 6, PS 2. -/
theorem test_patterns : let m : DWord := 3 * 2 ^ 17 + 9 * 2 ^ 22 + 6 * 2 ^ 27 + 2 * 2 ^ 32
    [1, 2, 3, 4, 5, 6, 7].map (fun p => srcLane m p 20) = [23, 9, 18, 19, 21, 21, 0] ∧
    [1, 2, 3, 4, 5, 6, 7].map (fun p => srcLane (m + 2 ^ 42) p 30) = [17, 25, 24, 25, 31, 31, 16] := by decide +kernel

/-- The pair of 02_words.md R37. -/
theorem test_lim_movi : got (.lim 0x12345) (withWords [0xFF012345, 0x03080678]) 2 31 = 0x12345678 := by decide +kernel

theorem test_iadd_wraps : got (.iadd 3 1 0 2 0) (withV [(1, 0x7FFFFFFF), (2, 1)] b) 3 0 = 0x80000000 := by decide +kernel
theorem test_iadd_saturates : got (.iadd 3 1 0 2 0) (inMode 0x80 (withV [(1, 0x7FFFFFFF), (2, 1)] b)) 3 0 = 0x7FFFFFFF := by
  decide +kernel
theorem test_idiv_by_zero : got (.idiv 3 1 0 2 0) (withV [(1, 7)] b) 3 0 = 0xFFFFFFFF := by decide +kernel
theorem test_irem_sign : got (.irem 3 1 0 2 0) (withV [(1, 0xFFFFFFF9), (2, 2)] b) 3 0 = 0xFFFFFFFF := by decide +kernel
theorem test_shl_full_width : got (.shl 3 1 0 2 0) (withV [(1, 1), (2, 32)] b) 3 0 = 0 := by decide +kernel
theorem test_bfx_sign : got (.bfx 3 1 4 4) (withV [(1, 0xF0)] b) 3 0 = 0xFFFFFFFF := by decide +kernel
theorem test_p0_is_fixed : (predMask (after (.pmovClr 0) b).group 0) = 0xFFFFFFFF := by decide +kernel
theorem test_fadd_rounds_even : got (.fadd 3 1 0 2 0) (inMode 8 (withV [(1, 0x3F800000), (2, 0x33800000)] b)) 3 0 = 0x3F800000 := by
  decide +kernel
theorem test_fma_one_rounding : got (.fma 3 1 0 1 0) (inMode 8 (withV [(1, 0x3F800001), (3, 0xBF800002)] b)) 3 0 = 0x28800000 := by
  decide +kernel
theorem test_fmin_signed_zero : got (.fmin 3 1 0 2 0) (inMode 8 (withV [(2, 0x80000000)] b)) 3 0 = 0x80000000 := by decide +kernel
theorem test_guard_keeps : got (.movi 3 1) (noLane b) 3 0 = 0 := by decide +kernel
theorem test_bra_backwards : (after (.bra 0xFFFFFF) b).split.pc = 0xFFFC := by decide +kernel
theorem test_misaligned_store_crosses :
    let t := after (.stw 1 2 0 0 0) (withV [(1, 0x11223344), (2, 0x20FFE)] (inMode 0x400 { b with group := { b.group with preds := [(1, 1)] } }))
    let u := after (.storePerform b.fresh) t
    rdNat u 0x20FFE 4 = 0x11223344 := by decide +kernel

/-! ## Witnesses: states and operands that meet the hypotheses of the statements, clause by clause -/

/-- No instruction of the list names a register out of place. -/
def named (s : State) (l : List Instr) : Bool := l.all (fun i => !operandsBad s i)

/-- The scratchpad window. -/
def win (o : Nat) : DWord := BitVec.ofNat 64 (Config.window + o)

/-- A state where lane 0 alone is active. -/
def oneLane (s : State) : State :=
  inMode (putBits s.split.mode 10 3 1) { s with group := { s.group with preds := [(1, 1)] } }

theorem witness_DecodeEncode : (Instr.iadd 63 63 7 63 7).wellFormed = true ∧ (Instr.msta 3 31 1 1 2 1).wellFormed = true ∧
    (Instr.ldq 60 63 31 15 7).wellFormed = true := by decide

theorem witness_EncodeDecode : isOk (decodeWord 0xFFFFFFFF) (.lim 0xFFFFFF) = true ∧ isOk (decodeWord 0x01000000) .nop = true := by
  decide +kernel

theorem witness_StepRunsWord : Undisturbed b ∧ stamp b = b ∧ isOk (fetchWord b b.split.pc) (0x01000000 : Word) = true ∧
    isOk (decodeMajor 0x01000000) .nop = true ∧ putsOff (touch b (me b) b.split.pc.toNat 4) 0x01000000 .nop = false ∧
    goes (exec .nop (touch b (me b) b.split.pc.toNat 4)) = true ∧
    pathFull (after .nop (touch b (me b) b.split.pc.toNat 4)) = false := by
  unfold Undisturbed; decide +kernel

/-- A LIM pair, and a LIM before a NOP. -/
theorem witness_LimPair :
    let s := withWords [0xFF800000, 0x03080678]
    let n := withWords [0xFF012345, 0x01000000]
    isOk (fetchWord s (s.split.pc + 4)) (0x03080678 : Word) = true ∧ isOk (decodeMajor 0x03080678) (.movi 2 0x678) = true ∧
      (execFused (.movi 2 0x678) { s with lim := some 0x800000 }).isSome = true ∧
      isOk (fetchWord n (n.split.pc + 4)) (0x01000000 : Word) = true ∧ isOk (decodeMajor 0x01000000) .nop = true ∧
      (execFused .nop { n with lim := some 0x12345 }).isNone = true := by decide +kernel

theorem witness_MemoryForm : Memory.wf b.mem = true ∧ b.mem ≠ [] ∧ goes (step b) = true := by decide +kernel

/-- 32 bits signed, 64 bits signed with pairs at the top of the budget, 8 bits unsigned under SAT. -/
theorem witness_TypedArithmetic : typed b.split.mode = some (32, true) ∧ typed (inMode 2 b).split.mode = some (64, true) ∧
    typed (inMode 0x87 b).split.mode = some (8, false) ∧
    (([b, inMode 2 b, inMode 0x87 b] : List State).all (fun s => named s [.iadd 62 2 0 62 7, .isub 0 2 0 4 1, .imul 0 2 0 4 0,
      .imulh 0 2 0 4 0, .imad 0 2 0 4 0, .imin 0 2 0 4 0, .imax 0 2 0 4 0, .iabs 0 2 0, .ineg 0 2 0, .isad 0 2 0 4 0,
      .idiv 0 2 0 4 0, .irem 0 2 0 4 0, .iaddi 62 62 0x800])) = true := by decide +kernel

theorem witness_ShiftsAndFields : typed b.split.mode = some (32, true) ∧ typed (inMode 3 b).split.mode = some (64, false) ∧
    typed (inMode 6 b).split.mode = some (8, true) ∧ (∀ w sg, typed (inMode 8 b).split.mode = some (w, sg) → w ≥ 32) ∧
    (([b, inMode 3 b] : List State).all (fun s => named s [.shl 62 2 0 62 7, .shr 0 2 0 4 0, .sha 0 2 0 4 0, .rotl 0 2 0 4 0,
      .shli 0 2 63, .shri 0 2 63, .shai 0 2 63, .popc 0 2 0, .brev 0 2 0, .bfx 0 2 0 63, .bfi 0 2 63 63, .clz 62 2 7])) = true ∧
    named (inMode 6 b) [.idot4 63 1 0 2 0] = true := by
  refine ⟨by decide +kernel, by decide +kernel, by decide +kernel, fun w sg h => ?_, by decide +kernel, by decide +kernel⟩
  cases (show (none : Option (Nat × Bool)) = some (w, sg) from h)

theorem witness_LogicAndMoves : (([b, inMode 9 b, inMode 2 (withWords [0])] : List State).all (fun s => named s [.and 62 2 0 4 0,
    .or 0 2 0 4 0, .xor 0 2 0 4 0, .andn 0 2 0 4 0, .not 0 2 0, .mov 62 62 7, .movi 62 0xFFF, .sel 0 2 0 4 0, .xshf 0 2 4 7,
    .s2v 62 31])) = true := by decide +kernel

theorem witness_ByteSelect : named b [.bysel 63 63 7 63 7] = true := by decide +kernel

theorem witness_PredicateMoves : named b [.plog 0 7 7 7, .pmovNz 7 63 7, .pmovBit 7 63 7 31, .pmovSet 7, .pmovClr 0, .pmovNot 0 7,
    .pmovFroms 7 31] = true := by decide +kernel

theorem witness_IntegerCompare : typed (inMode 8 b).split.mode = none ∧ typed (inMode 3 b).split.mode = some (64, false) ∧
    named (inMode 3 b) [.icmp 7 7 62 7 62 7, .icmp 0 0 0 0 2 0] = true := by decide +kernel

theorem witness_LaneVotes : typed b.split.mode = some (32, true) ∧ named b [.ired 63 63 0, .ired 63 63 5] = true ∧
    mSat b.split.mode = false ∧ isActive b 31 = true := by decide +kernel

theorem witness_ScalarReads : named b [.v2s 31 63 7 31, .sreg 31 0, .sreg 0 19] = true ∧ userMode (user b) = true ∧
    userMode b = false ∧ modeOk (putBits (rs b 0) 42 1 (bitsOf b.split.mode 42 1)) = true ∧
    (List.range 14).all (fun f => (modiField f).isSome) = true ∧ modeOk (putBits b.split.mode 4 3 6) = true ∧
    modeOk (putBits b.split.mode 4 3 7) = false := by decide +kernel

/-- Bounds up to the region's size of 192; and an index one below its bound, and at it. -/
theorem witness_IndexedRegion : budget b - 64 = 192 ∧ named b [.movx 63 1 0 7, .stx 7 1 0 63 0] = true ∧
    (let s := { withV [(1, 191)] (oneLane b) with split := { (oneLane b).split with x := [(7, ⟨0, 192⟩)] } };
      maskOf (fun l => isActive s l && decide ((rx s 7).bound.toNat ≤ (rx s 7).base.toNat + (src s 1 0 l).toNat)) = 0) ∧
    (let s := { withV [(1, 192)] (oneLane b) with split := { (oneLane b).split with x := [(7, ⟨0, 192⟩)] } };
      maskOf (fun l => isActive s l && decide ((rx s 7).bound.toNat ≤ (rx s 7).base.toNat + (src s 1 0 l).toNat)) = 1) := by
  decide +kernel

theorem witness_FloatArithmetic : (([(8, .f32), (9, .f64), (10, .f16), (11, .bf16)] : List (DWord × Fmt)).all (fun e =>
      laneFmt (inMode e.1 b).split.mode == some e.2 && named (inMode e.1 b) [.fadd 62 2 0 62 7, .fsub 0 2 0 4 0, .fmul 0 2 0 4 0,
        .fma 0 2 0 4 0, .fms 0 2 0 4 0, .fnma 0 2 0 4 0, .fdiv 0 2 0 4 0, .fsqrt 0 2 0, .frcp 0 2 0, .frsq 0 2 0, .fexp2 0 2 0,
        .flog2 0 2 0, .fsin 0 2 0, .fcos 0 2 0, .ftanh 0 2 0, .fscale 0 2 0 4 0])) = true ∧
    (∃ n m e, decodeF .f16 1 = .num n m e) ∧ 1 < 2 ^ Fmt.f16.width := by
  refine ⟨by decide +kernel, ⟨_, _, _, rfl⟩, by decide +kernel⟩

theorem witness_FloatSelection : laneFmt (inMode 9 b).split.mode = some .f64 ∧ laneFmt b.split.mode = none ∧
    laneFmt (inMode 12 b).split.mode = none ∧ named (inMode 9 b) [.frint 62 62 7, .fmin 0 2 0 4 0, .fmax 0 2 0 4 0, .fabs 0 2 0,
      .fneg 0 2 0, .fsgn 0 2 0 4 0, .fclass 0 2 0, .fgetexp 0 2 0, .fcmp 7 7 2 0 4 0] = true := by decide +kernel

theorem witness_FloatSums : mType (inMode 10 b).split.mode = 10 ∧ mType (inMode 11 b).split.mode = 11 ∧
    mType (inMode 12 b).split.mode = 12 ∧ mType (inMode 15 b).split.mode = 15 ∧ mType b.split.mode = 0 ∧
    named (inMode 10 b) [.fdot2 63 1 0 2 0] = true ∧ named (inMode 15 b) [.fdot4 63 1 0 2 0] = true ∧
    laneFmt (inMode 8 b).split.mode = some .f32 ∧ named (inMode 8 b) [.fred 63 63 0, .fred 63 63 2, .argmx 62 63 0 63 0] = true ∧
    laneFmt (inMode 9 b).split.mode = some .f64 ∧ named (inMode 9 b) [.argmx 60 62 0 63 0, .argmx 62 62 0 63 0] = true ∧
    isActive b 31 = true := by decide +kernel

/-- CVT between F32 and F16 at the upper position, F64, MXINT8 and E8M0; CVTP at its last position; the MX words, with
a lane that is infinite, all lanes zero, and a number in lane 0. -/
theorem witness_Conversions : let h := inMode (10 + 1 * 2 ^ 35) b;
    cvtFormats h.split.mode 0 8 = some (typeElem 8, typeElem 10) ∧ subOk (typeElem 8) 1 = true ∧ subOk (typeElem 10) 1 = true ∧
    (cvtFormats (inMode 8 b).split.mode 3 7).isSome = true ∧ (cvtFormats (inMode 6 b).split.mode 2 8).isSome = true ∧
    named h [.cvt 63 63 7 0 8] = true ∧ named (inMode 9 b) [.cvt 62 63 0 0 8] = true ∧
    cvtpFmt (inMode (15 + 3 * 2 ^ 35) b).split.mode = some .e2m1 ∧ named (inMode (15 + 3 * 2 ^ 35) b) [.cvtp 63 63 0 63 0] = true ∧
    mxFmt (inMode 12 b).split.mode = some (.e4m3, 8) ∧ named (inMode 12 b) [.qmx 63 63 7, .qmxa 63 63 7 63 7] = true ∧
    subOk (.flt .e4m3) 3 = true ∧
    special (readF .f32 false (rv (withV [(1, 0x7F800000)] b) 1 0).toNat) = true ∧ special (readF .f32 false 0) = false ∧
    lgOf (readF .f32 false 0) = none ∧ lgOf (readF .f32 false 0x3F800000) = some 0 := by decide +kernel

theorem witness_Generators : named b [.rngSet 63 7, .rngU32 63, .rngUnit 63, .rngGet 63] = true := by decide +kernel

/-- The entry that a partial branch at the PC pushes. -/
def pushed (s : State) (take : Word) : StackEntry :=
  ⟨s.split.mask &&& ~~~ take, nextPc s, if s.split.rcvaValid then some s.split.rcva else none, false⟩

/-- With a divergence stack. -/
def withStack (l : List StackEntry) (n : Nat) (s : State) : State := { s with split := { s.split with stack := l, spilled := n } }

/-- An entry that waits at an address and reconverges at another. -/
def entry (wpc ra : DWord) (park : Bool) : StackEntry := ⟨0xFF00, wpc, some ra, park⟩

/-- With RCVA. -/
def withRcva (a : DWord) (s : State) : State := { s with split := { s.split with rcva := a, rcvaValid := true } }

/-- All lanes, none and some; the top entry matches, the stack has 15 and 16 entries, is at its limit, and the RA is
the farthest that is allowed and 4 bytes past it. -/
theorem witness_Branches :
    let s := withRcva 0x20000 (fewLanes b)
    b.split.mask ≠ 0 ∧ active b = b.split.mask ∧ active (noLane b) = 0 ∧ active s ≠ s.split.mask ∧ active s ≠ 0 ∧
      named b [.bra 0x800000, .brall 1, .brany 1, .brx 62, .ret 31] = true ∧
      (∀ l < 32, isActive (withV [(62, 0x20000)] (oneLane b)) l = true → rv2 (withV [(62, 0x20000)] (oneLane b)) 62 l = 0x20000) ∧
      (let top := entry (nextPc s) 0x20000 false; top.park = false ∧ top.ra = (pushed s 0xFF).ra ∧ top.wpc = (pushed s 0xFF).wpc) ∧
      raFar (pushed (withRcva (nextPc s + 0x200000000) s) 0xFF) = false ∧
      raFar (pushed (withRcva (nextPc s + 0x200000004) s) 0xFF) = true ∧
      (let u := withStack (List.replicate 15 (entry 0 4 false)) 112 s; stackDepth u.split < depthLimit u ∧ u.split.stack.length < 16 ∧
        ¬ ((entry 0 4 false).wpc = (pushed u 0xFF).wpc)) ∧
      (let u := withStack (List.replicate 16 (entry 0 4 false)) 111 s; stackDepth u.split < depthLimit u ∧
        u.split.stack = List.replicate 15 (entry 0 4 false) ++ [entry 0 4 false]) ∧
      (let u := withStack (List.replicate 16 (entry 0 4 false)) 112 s; depthLimit u ≤ stackDepth u.split) ∧
      (let u := withStack (List.replicate 16 (entry 0 4 false)) 111 s; u.flights = [] ∧
        let v := { u with flights := [newFlight u .load .nop none [⟨0, 0, [(spillSlot u 111, 4)], 0, 0, []⟩] [] []] };
        ((v.flights.filter (fun f => isAccess f && f.team == v.team.id && f.grp == v.group.num &&
          overlap (flightParts f) [(spillSlot v v.split.spilled, 16)])).map Flight.id) ≠ []) := by decide +kernel

/-- Lanes with one target, with two targets, and with a target that is no multiple of 4; CALL by all lanes, by some, by
none, and with the stack full. -/
theorem witness_Calls :
    let s := withV [(62, 0x20000)] (oneLane b)
    let two := wv (wv (fewLanes b) 62 0 0x20000) 62 1 0x20004
    let odd := withV [(62, 0x20002)] (oneLane b)
    isActive s 0 = true ∧ named s [.brx 62, .callx 62] = true ∧
      maskOf (fun k => isActive s k && rv2 s 62 k != rv2 s 62 0) = 0 ∧ (rv2 s 62 0).toNat % 4 = 0 ∧
      maskOf (fun k => isActive two k && rv2 two 62 k != rv2 two 62 0) ≠ 0 ∧
      maskOf (fun k => isActive odd k && rv2 odd 62 k != rv2 odd 62 0) = 0 ∧ (rv2 odd 62 0).toNat % 4 ≠ 0 ∧
      (rs (withS [(31, 2)] b) 31).toNat % 4 ≠ 0 ∧ active (noLane b) = 0 ∧ active b = b.split.mask ∧ active s ≠ s.split.mask ∧
      (let u := withStack (List.replicate 15 (entry 0 4 false)) 0 s; stackDepth u.split < depthLimit u ∧ u.split.stack.length < 16) ∧
      (let u := withStack (List.replicate 16 (entry 0 4 false)) 112 s; depthLimit u ≤ stackDepth u.split) := by decide +kernel

/-- An entry whose addresses the spilled layout can hold. -/
def packs (e : StackEntry) : Bool :=
  let r := e.ra.getD e.wpc
  decide (e.wpc.toNat % 4 = 0) && decide (e.wpc.toNat < 2 ^ 57) && (!e.park || e.ra == none || e.ra == some e.wpc) &&
    decide (r.toNat % 4 = 0) && decide (r.toNat < 2 ^ 57) && decide (r.toNat < e.wpc.toNat + 2 ^ 33) &&
    decide (e.wpc.toNat ≤ r.toNat + 2 ^ 33)

/-- The top entry reconverges here or elsewhere, its lanes waiting or parked; and entries at both ends of RAD. -/
theorem witness_Divergence :
    let pc := b.split.pc
    (withStack [entry 4 pc false] 0 b).split.stack = [entry 4 pc false] ∧ (entry 4 pc false).ra = some pc ∧
      (entry 4 (pc + 4) false).ra ≠ some pc ∧ (entry pc pc true).ra = some pc ∧ (withStack [entry pc pc true] 0 b).split.spilled = 0 ∧
      (([entry 0x1FFFFFFFFFFFFFC 0x1FFFFFE00000000 false, entry 0 0x1FFFFFFFC false, entry 8 8 true] : List StackEntry).all packs) = true := by decide +kernel

/-- Another split of the group. -/
def other (n : Nat) (parked : Option (DWord × Nat)) : Split := { Split.fresh with num := n, mask := 0xFF00, parked := parked }

/-- With other splits in the group. -/
def withSplits (l : List Split) (s : State) : State := { s with group := { s.group with splits := l } }

/-- All lanes, none and some, with a number free and with none; a JOIN with an entry on the stack, with a split that
runs on, and with all the others parked here. -/
theorem witness_SplitAndJoin :
    let s := fewLanes b
    let three := withSplits [other 1 none, other 2 none, other 3 none] s
    let last := withSplits [other 1 (some (b.split.pc, 0))] b
    active (noLane b) = 0 ∧ active b = b.split.mask ∧ active s ≠ 0 ∧ active s ≠ s.split.mask ∧ s.group.splits.length < 3 ∧
      freeNumber s = some 1 ∧ freeNumber (withSplits [other 1 none, other 2 none] s) = some 3 ∧ three.group.splits.length = 3 ∧
      0 < stackDepth (withStack [entry 0 4 false] 0 b).split ∧ stackDepth b.split = 0 ∧
      (∃ x ∈ putSplit { b.split with parked := some (b.split.pc, 0) } [other 1 none], x.parked = none) ∧
      last.group.arrivals = 0 ∧ ∀ x ∈ putSplit { last.split with parked := some (last.split.pc, 0) } last.group.splits,
        (∃ n ∈ [0], x.parked = some (last.split.pc, n)) ∧ halfOf x = halfOf last.split := by decide +kernel

/-- Lanes left over; a waiting entry; another split; another group. -/
theorem witness_ExitWord : b.flights = [] ∧ dueFault b .msq = none ∧ dueFault b .exit = none ∧ dueMatrix b .msq = none ∧
    active (noLane b) = 0 ∧ (fewLanes b).split.mask &&& ~~~ active (fewLanes b) ≠ 0 ∧ active b ≠ 0 ∧
    b.split.mask &&& ~~~ active b = 0 ∧ (withStack [entry 0 4 false] 0 b).split.spilled = 0 ∧ b.split.stack = [] ∧
    (∃ x ∈ (withSplits [other 1 none] b).group.splits, x.parked = none) ∧ b.group.splits = [] ∧
    { b.team with groups := [{ Group.fresh with num := 1 }] }.groups ≠ [] := by decide +kernel

/-- A path counter equal to n and one above it. -/
theorem witness_YieldWaitBreak :
    let s := { b with group := { b.group with paths := [⟨7, 1, false⟩] } }
    dueFault s (.path 7 1) = none ∧ dueMatrix s (.path 7 1) = none ∧ pathCount s.group 7 ≤ (1 : DWord).toNat ∧
      dueFault s (.path 7 0) = none ∧ dueMatrix s (.path 7 0) = none ∧ (0 : DWord).toNat < pathCount s.group 7 := by decide +kernel

/-- With a handler; in it, TSTAT.INTR is set. -/
def withHandler (s : State) : State := { s with team := { s.team with tvec := 0x30001 } }
def inHandler (s : State) : State := { s with split := { s.split with tstat := 3 } }

theorem witness_TrapEntry : bitsOf (withHandler b).team.tvec 0 1 = 1 ∧ bitsOf b.split.tstat 1 1 = 0 ∧ bitsOf b.team.tvec 0 1 = 0 ∧
    bitsOf (inHandler b).split.tstat 1 1 = 1 := by decide +kernel

theorem witness_ReturnFromTrap : userMode (user b) = true ∧ userMode b = false ∧ bitsOf b.split.tstat 1 1 = 0 ∧
    userMode (inHandler b) = false ∧ bitsOf (inHandler b).split.tstat 1 1 = 1 ∧ modeOk (inHandler b).split.frame.tmode = true ∧
    bitsOf (inHandler b).split.tstat 4 1 = 0 ∧ (inHandler b).split.frame.trappc.toNat % 4 = 0 ∧
    (let s := { b with split := { b.split with tstat := 0x13, ptag := some 1 } }; bitsOf s.split.tstat 1 1 = 1 ∧ userMode s = false ∧
      modeOk s.split.frame.tmode = true ∧ bitsOf s.split.tstat 4 1 = 1 ∧ s.split.ptag.getD s.team.rtag.toNat ≠ 0) ∧
    b.team.mslot.any (fun m => m.owner != some (b.group.num, b.split.num)) = true := by decide +kernel

/-- A register at the budget of 16, and an odd pair under a 64-bit TYPE. -/
theorem witness_Guards : userMode (user b) = true ∧ (user b).live = true ∧ (33 : BitVec 9).toNat ∉ [18, 24, 25, 32] ∧
    (let s := { b with team := { b.team with roles := [0] } }; budget s = 16 ∧
      (([.mov 1 16 0, .movi 16 1, .iadd 1 16 0 2 0, .brx 16, .rngU32 16, .argmx 16 1 0 2 0] : List Instr).all (operandsBad s)) = true) ∧
    (([.mov 1 2 0, .iadd 2 3 0 4 0, .fadd 2 4 0 5 0] : List Instr).all (operandsBad (inMode 9 b))) = true := by decide +kernel

theorem witness_SystemRegisters : userMode b = false ∧ userMode (user b) = true ∧ (18 : BitVec 9).toNat ∈ [18, 24, 25, 32] ∧
    10 < (16 : BitVec 9).toNat := by decide +kernel

/-- The answer is the error `e`. -/
def isErr {ε α : Type} [DecidableEq ε] (x : Except ε α) (e : ε) : Bool :=
  match x with
  | .ok _ => false
  | .error a => decide (a = e)

/-- The newest flight passes a test. -/
def newest (s : State) (p : Flight → Bool) : Bool := s.flights.getLast?.any (fun f => decide (findFlight s f.id = some f) && p f)

/-- Every active lane passes its checks for `n` bytes. -/
def allow (s : State) (k : Kind) (ea : Nat → Nat) (n : Nat) : Bool :=
  (List.range 32).all (fun l => !isActive s l || okB (check s (me s) k (ea l) n))

/-- Scalar 1 is an address in memory, scalar 2 one in the window. -/
def addrs (s : State) : State := withS [(1, 0x20000), (2, win 0xFFF0)] s

theorem witness_AccessesIssue : let s := addrs b
    s.split.fence = none ∧ NoWindows s ∧ active s ≠ 0 ∧ active (noLane s) = 0 ∧
      named s [.ldb 63 63 1 15 7, .ldh 63 0 1 0 0, .ldw 63 0 1 0 0, .ldd 62 0 1 0 0, .ldq 60 0 2 0 0, .stb 63 63 1 15 7, .sth 63 0 1 0 0,
        .stw 63 0 1 0 0, .std 62 0 1 0 0, .stq 60 0 2 0 0] = true ∧
      allow s .read (laneEa s 0 1) 16 = true ∧ allow s .read (laneEa s 0 2) 16 = true ∧ allow s .write (laneEa s 0 1) 16 = true ∧
      allow s .write (laneEa s 0 2) 16 = true ∧ okB (check s (me s) .read (rs s 2 + limOffset s).toNat 8) = true ∧
      Released s 4 [] ∧ Released s 5 [] ∧ releaseWaits (after (.stw 3 0 1 0 0) s) 4 [] ≠ [] ∧
      (let w := after (.fence 0 3) (after (.ldw 3 0 1 0 0) s); w.split.fence.isSome = true ∧ active w ≠ 0 ∧
        allow w .write (laneEa w 0 1) 16 = true ∧ allow w .read (laneEa w 0 1) 16 = true) := by
  unfold NoWindows Released; decide +kernel

/-- Lane 0 names the first address past the page, in memory and past the window's end. -/
theorem witness_AccessChecks : let s := withS [(1, 0x40000000), (2, win 0xFFF1)] (oneLane b)
    named s [.ldb 1 2 1 0 0, .stq 4 2 2 0 0, .cctlWb 2 1 0] = true ∧
      (∀ x < 32, isActive s x = true → x = 0 ∧ isErr (check s (me s) .read (laneEa s 2 1 x) 1) (Cause.pageFault, 0x40000000) = true ∧
        isErr (check s (me s) .write (laneEa s 2 2 x) 16) (Cause.access, (win 0xFFF1).toNat) = true) ∧
      isActive s 0 = true := by decide +kernel

/-- A store of 32 lanes, a load, and an LDC in flight. -/
def stored : State := after (.stw 3 0 1 0 0) (addrs b)
def loading : State := after (.ldd 62 0 1 0 0) (addrs b)

theorem witness_AccessesPerform : (NoWindows stored ∧ NoArms stored ∧ stored.reqs = [] ∧ newest stored (fun f => f.kind == .store &&
      f.stage == 0 && storeReady stored f && f.lanes.length == 32 && f.lanes.all (fun l => match l.parts with
        | [(p, n)] => l.data.length == n && decide (0 < n) && isLocal (dieModule f.die) (p, n)
        | _ => false)) = true) ∧
    (NoWindows loading ∧ loading.reqs = [] ∧ newest loading (fun f => f.kind == .load && loadReady loading f &&
      (findGroup loading f.team f.grp).isSome && f.lanes.length == 32 && (seenStores loading f).isEmpty &&
      f.lanes.all (fun l => decide (l.lane < 32) && !laneUncertain loading f l && okB (laneRead loading f (seenStores loading f) l)) &&
      decide ((f.lanes.map LaneReq.lane).Nodup)) = true) ∧
    newest (after (.ldc 31 2 0 0) (addrs b)) (fun f => f.lanes.length == 1 &&
      (findSplit (after (.ldc 31 2 0 0) (addrs b)) f.team f.grp f.spl).isSome) = true := by
  unfold NoWindows NoArms; decide +kernel

/-- An L1 that holds a line. -/
noncomputable def loaded : State := after (.loadDataReturn (addrs b).fresh) loading

theorem witness_CacheAndPins : let s := addrs b
    NoWindows s ∧ named s [.pref 1 0 1 15, .cctlL1inv 0 1 15, .cctlRdcinv 0 1 0, .cctlWb 0 1 0, .cctlWbinv 0 1 0, .atrn 62 0 1 15 1] = true ∧
      active s ≠ 0 ∧ userMode s = false ∧ allow s .read (laneEa s 0 1) 1 = true ∧ allow s .write (laneEa s 0 1) 1 = true ∧
      NoWindows loaded ∧ 0x20000 / 128 ∈ (getCore loaded 0).l1 ∧ place 0xFFFFFFFFF = .hbm ∧
      2 ^ 32 ≤ (rs (withS [(3, 0x100000000)] s) 3).toNat ∧ (rs (withS [(3, 0xFFFFFFFF)] s) 3).toNat < 2 ^ 32 ∧
      ((rangeLines 0x20000 128).filterMap (pinLine s)).length = 1 ∧
      newest (after (.cctlL1inv 0 1 0) (addrs b)) (fun f => f.kind == .cctl && readyAfter (after (.cctlL1inv 0 1 0) (addrs b)) f &&
        !(linesOf (flightParts f)).isEmpty) = true ∧
      newest (after (.cctlRdcinv 0 1 0) (addrs b)) (fun f => f.kind == .cctl) = true ∧
      NoWindows (after (.cctlL1inv 0 1 0) (addrs b)) ∧ 0x20000 / 128 ∈ (getDie { loaded with dies := [(0, { DieSt.reset with rdc := [1024] })] } 0).rdc ∧
      leased { loaded with leases := [⟨0, 2 ^ 35⟩] } 0 (2 ^ 35) = true := by
  unfold NoWindows; decide +kernel

theorem witness_BarrierObjects : let z : Bar := ⟨0, 0, false, false, false, true, 0, 0, 1, 0⟩
    ({ z with pend := 1 } : Bar).pend ≠ 0 ∧ ({ z with pend := 0 } : Bar).pend = 0 ∧ -2147483648 ≤ z.rem.toInt - (2 ^ 31 : Nat) ∧
      2147483647 < z.rem.toInt + (2 ^ 31 : Nat) := by decide +kernel

/-- A barrier object in the window, made for three arrivals, and one held by an arm. -/
def objects (n : DWord) : State := withS [(4, win 0x100), (5, n), (6, win 0x108)] (addrs b)
def armedObj (n : DWord) : State := setBar (objects n) (okGet 0 (checkObject (objects n) (win 0x100) .write true))
  ⟨0, 0, false, false, true, true, 0, 1, 1, 0⟩
def objPa : Nat := spadAddr 0 0 0x100

theorem witness_BarrierWords : let s := objects 0xFFFF
    let q := after (.stw 3 0 4 0 0) (oneLane s)
    active s ≠ 0 ∧ isOk (checkObject s (win 0x100) .write true) objPa = true ∧ isOk (checkObject s (win 0x100) .write false) objPa = true ∧
      isOk (checkObject s (win 0x100) .read true) objPa = true ∧ (rs s 5).toNat < 2 ^ 16 ∧ (getBar s objPa).armed = false ∧
      (getBar (armedObj 1) objPa).armed = true ∧ isOk (checkObject (armedObj 1) (win 0x100) .write true) objPa = true ∧
      2 ^ 16 ≤ (rs (objects 0x10000) 5).toNat ∧ (rs (objects 0x7FFFFFFF) 5).toNat < 2 ^ 31 ∧ s.split.wait = none ∧
      releaseWaits (touch (after (.stw 3 0 1 0 0) s) (me s) (win 0x100).toNat 16) 5 [(objPa, 16)] ≠ [] ∧
      Released (touch s (me s) (win 0x100).toNat 16) 0 [(objPa, 16)] ∧ Released (touch s (me s) (win 0x100).toNat 16) 5 [(objPa, 16)] ∧
      releaseWaits (touch q (me q) (win 0x100).toNat 16) 0 [(objPa, 16)] ≠ [] ∧ barrierMet s objPa 0 = true ∧ barrierMet s objPa 1 = false ∧
      (∀ met, dueFault s (.object objPa met) = none ∧ dueMatrix s (.object objPa met) = none) ∧ isErr (checkObject s (win 0x108) .write true) Cause.misalign = true := by
  unfold Released; decide +kernel

/-- The last point, not started and started for one participant. -/
def pointed : State := after (.rinit 5 8) (objects 1)

theorem witness_RendezvousWords : let s := objects 97
    active s ≠ 0 ∧ rdvCount s = 9 ∧ (teamPoint s.team 8).init = false ∧ (rs s 5).toNat ≤ 97 ∧ 97 < (rs (objects 98) 5).toNat ∧
      (rs (objects 0) 5).toNat = 0 ∧ 1 ≤ (rs pointed 5).toNat ∧ (teamPoint pointed.team 8).init = true ∧ rdvCount pointed = 9 ∧
      active pointed ≠ 0 ∧ pointed.split.wait = none ∧ Released pointed 0 [] ∧ Released pointed 1 [] ∧ releaseWaits (after (.ldw 3 0 1 0 0) pointed) 1 [] ≠ [] ∧
      (∀ met, dueFault pointed (.point 8 met) = none ∧ dueMatrix pointed (.point 8 met) = none) ∧
      (∀ met, dueFault s (.point 31 met) = none ∧ dueMatrix s (.point 31 met) = none) := by
  unfold Released; decide +kernel

/-- That split has no RSYNC begun. -/
theorem witness_RendezvousWords_first (p : Nat) (u : Word) : pointed.split.wait ≠ some (.rsync p u) := by
  rw [show pointed.split.wait = none by decide +kernel]; simp

/-- A fence window whose store is performed. -/
noncomputable def fenced : State := after (.storePerform (addrs b).fresh) (after (.fence 0 3) stored)

theorem witness_Fences : fenceWaits b 5 = [] ∧ fenceWaits stored 3 ≠ [] ∧ fenced.live = true ∧
    (fenced.split.fence.any (fun w => w.waits.all (performedAt fenced w.scope) && decide (w.scope ≤ 3) && w.held.isEmpty)) = true ∧
    fenced.group.log = [] ∧
    (let t := after (.waitImm 1 0) stored; t.live = true ∧ t.split.wait = some (.path 1 0)) := by decide +kernel

/-- A window that holds a trap, POISON or another; and an uncertain outcome that is due. -/
noncomputable def trapHeld (c : Nat) : State :=
  { fenced with split := { fenced.split with fence := fenced.split.fence.map (fun w => { w with trap := some ⟨c, 0x10000, 0, 1, 0⟩ }) } }

/-- With an uncertain outcome of the group's. -/
def uncertainHere (s : State) : State :=
  { s with group := { s.group with faults := [⟨9, Cause.fabricUncertain, 0x10000, 0, some 1, (.path 1 1), [], s.split.num, none, none⟩] } }

theorem witness_Fences_traps : (trapHeld Cause.poison).split.fence.any (fun w => w.trap.any (fun i => i.cause == Cause.poison)) = true ∧
    (trapHeld Cause.access).split.fence.any (fun w => w.trap.any (fun i => i.cause != Cause.poison)) = true ∧
    (dueFault (uncertainHere b) .fence).isSome = true ∧ fenceWaits (uncertainHere b) 4 = [] := by decide +kernel

/-- A lane pair at registers 2 and 3 names an address. -/
def aimed (m : DWord) : State := withV [(2, 0x20000)] (inMode m (oneLane b))

theorem witness_AtomicsIssue :
    let f : List Instr := [.aadd 62 2 60 15 3, .amin 4 2 6 0 0, .amax 4 2 6 0 0, .aand 4 2 6 0 0, .aor 4 2 6 0 0, .axor 4 2 6 0 0,
      .axch 4 2 6 0 0, .acas 4 2 6 0 0, .red 5 2 6 0 0, .bump 4 2 6 0 0, .sigi 4 2 6 0, .sigd 4 2 6 0, .tlsig 4 2 6 3]
    named (aimed 0x400) f = true ∧ named (aimed 0x402) f = true ∧ named (aimed 0x409) [.afadd 4 2 6 0 0, .axch 4 2 6 0 0, .red 6 2 6 0 0] = true ∧
      active (aimed 0x400) ≠ 0 ∧ active (noLane b) = 0 ∧ mType (aimed 0x400).split.mode = 0 ∧ mType (aimed 0x402).split.mode = 2 ∧
      mType (aimed 0x409).split.mode = 9 ∧ mType (inMode 4 b).split.mode = 4 ∧
      ∀ k < 32, isActive (aimed 0x400) k = true → pairEa (aimed 0x400) 2 k % 16 = 0 ∧
        okB (check (aimed 0x400) (me (aimed 0x400)) .atomic (pairEa (aimed 0x400) 2 k) 16) = true := by decide +kernel

/-- At module scope: nothing waits, or an earlier store does. -/
theorem witness_AtomicsIssue_release : let s := aimed (0x400 + 4 * 2 ^ 38)
    mAscope s.split.mode = 4 ∧ Released s 4 [] ∧ releaseWaits (after (.stw 3 2 0 0 0) s) 4 [] ≠ [] := by
  unfold Released; decide +kernel

/-- An AADD in flight. -/
def adding : State := after (.aadd 4 2 6 0 0) (aimed 0x400)

theorem witness_AtomicsExecute : CopiesClean adding 0x20000 4 ∧ (0xFFFFFFFF < 2 ^ (8 * 4)) ∧ mType 1 = 1 ∧ mType 3 = 3 ∧ NoWindows adding ∧ NoArms adding ∧
    adding.reqs = [] ∧ newest adding (fun f => f.kind == .atomic && f.stage == 0 && atomicReady adding f && !isChecked f.instr &&
      (findGroup adding f.team f.grp).isSome && decide ((f.lanes.map LaneReq.lane).Nodup) && f.lanes.length == 1 &&
      f.lanes.all (fun l => l.lane == 0 && l.parts == [(0x20000, 4)] && isLocal (dieModule f.die) (0x20000, 4) &&
        !poisoned adding 0x20000 4 && okB (atomOp f.instr f.mode 4 (rdNat adding 0x20000 4) l.a.toNat l.b.toNat))) = true := by
  unfold CopiesClean NoWindows NoArms; decide +kernel

/-- An object, a watched word that holds 0, and the comparand 0 or 1. -/
def watching (c m : DWord) : State := withS [(7, c), (1, m)] (objects 1)
def armed : State := after (.carm 1 4 7 0 4) (watching 1 0x20000)

theorem witness_ConditionArms : let s := watching 1 0x20000
    let v := touch s (me s) 0x20000 4
    let u := touch v (me v) (win 0x100).toNat 16
    active s ≠ 0 ∧ (rs (watching 1 0x20002) 1).toNat % 4 ≠ 0 ∧
      isOk ((check s (me s) .read 0x20000 4).map (fun g => g.parts.head?)) (some (0x20000, 4)) = true ∧
      isOk (checkObject v (win 0x100) .write true) objPa = true ∧ (getBar s objPa).armed = false ∧ (getBar (armedObj 1) objPa).armed = true ∧
      armFull u 0x20000 0x20000 = false ∧ poisoned s 0x20000 4 = false ∧ 0x20000 + 4 ≤ objPa ∧ condHolds 4 (rdNat s 0x20000 4) 1 = false ∧
      condHolds 4 (rdNat s 0x20000 4) 0 = true ∧ (∀ e ∈ s.dies, ∀ a ∈ e.2.arms, a.object ≠ objPa) ∧
      (∃ e ∈ armed.dies, ∃ a ∈ e.2.arms, a.object = objPa) ∧ isOk (checkObject armed (win 0x100) .write true) objPa = true := by
  decide +kernel

/-- A handle descriptor of rank 2 (11_copy.md R249): base, type, dimensions, box, and metadata plane. -/
def hd (base ty d0 d1 b0 b1 moff : Nat) : BitVec 512 :=
  BitVec.ofNat 512 (base + 1 * 2 ^ 57 + d0 * 2 ^ 64 + d1 * 2 ^ 96 + 64 * 2 ^ 288 + (b0 - 1) * 2 ^ 416 + (b1 - 1) * 2 ^ 424 +
    ty * 2 ^ 448 + moff * 2 ^ 490)

/-- A tensor of one element for the operands A and B in F64, a tile, and the two sides of a compression in E5M2. -/
def handles : List (Nat × BitVec 512) := [(0, hd 0x20000 9 1 1 8 64 0), (1, hd 0x20000 9 1 1 64 8 0), (2, hd 0x20000 9 2 1 64 64 0),
  (3, hd 0x20000 13 8 1 64 128 0), (4, hd 0x20000 13 8 1 32 128 1), (31, hd 0x40000000 9 1 1 8 64 0)]

/-- The slot of the bench's team. -/
def slot : MSlot := { MSlot.fresh with spc := BitVec.ofNat 64 benchPc, mstat := 1, handles := handles }
def streaming (m : MSlot) : State := { b with team := { b.team with mslot := some m } }

/-- A valid descriptor at byte 64 k of the scratchpad, and point 8 started. -/
def withDesc (k : Nat) (d : BitVec 512) (s : State) : State := wrNat s (teamSpad s.team + 64 * k) 64 d.toNat

theorem witness_StreamWords : let m := slot
    let at_ := fun (l : List (DWord × Nat)) => { m with loops := l }
    (slotNow (streaming m)).isSome = true ∧ (at_ [(m.spc, 0)]).loops = [(m.spc, 0)] ∧ (at_ [(m.spc, 5)]).loops = [(m.spc, 5)] ∧
      (∀ e ∈ (at_ (List.replicate 3 (0, 1))).loops, e.1 ≠ m.spc) ∧ (at_ (List.replicate 3 (0, 1))).loops.length < 4 ∧
      (at_ (List.replicate 4 (0, 1))).loops.length = 4 ∧ b.team.spadBytes < 64 * 1024 + 64 ∧ 64 * 1023 + 64 ≤ b.team.spadBytes ∧
      okB (engineRead b 0 [(teamSpad b.team + 64 * 1023, 64)]) = true ∧ reason 0 ≠ 0 ∧ reason (hd 0x20000 9 1 1 8 64 0) = 0 ∧
      hdrField b.team 12 5 ≤ 9 ∧ (teamPoint b.team 8).init = false ∧ 8 < hdrField pointed.team 12 5 ∧
      (teamPoint pointed.team 8).init = true ∧ reached (teamPoint pointed.team 8).phase (targetOf m 8) = true ∧
      reached (teamPoint pointed.team 8).phase (targetOf { m with targets := [(8, 1)] } 8) = false ∧
      (findTeam (streaming { m with ending := true }) b.team.id).isSome = true ∧ (fullTeam b).groups ≠ [] ∧
      ({ b with team := { b.team with mslot := none } } : State).team.mslot = none ∧ dueFault b .msq = none ∧ dueMatrix b .msq = none ∧
      (let p := streaming { MSlot.fresh with fault := some (3, ⟨Cause.poison, 0, 0, 0, 0⟩), owner := some (0, 7) };
        p.team.mslot.any (fun m => m.fault.isSome && m.mstat.toNat % 4 == 0) = true ∧ dueMatrix p .msq = none) ∧ MSlot.fresh.fault = none ∧
      (rs (addrs b) 1 + limOffset b).toNat % 4 = 0 ∧ m.mstat.toNat % 4 ≠ 0 ∧ MSlot.fresh.mstat.toNat % 4 = 0 := by decide +kernel

/-- An MMA whose operands pass and one whose A operand is not mapped; the tile's load and store; a compression. -/
theorem witness_StreamSlabs : let s := streaming slot
    let g := slotAgent (fullTeam s) slot
    let w : MulWord := ⟨3, 0, 1, 1, false, false, false, false, false⟩
    (mulOperands slot w).isSome = true ∧ (mulOperands slot { w with a := 1 }).isNone = true ∧
      (match mulOperands slot w with
        | some (da, db, q) => okB (mulBlocks (touchPages s g (mulPages slot w da db q)) (fullTeam s) slot w da db q)
        | none => false) = true ∧
      (match mulOperands slot { w with a := 31 } with
        | some (da, db, q) => !okB (mulBlocks (touchPages s g (mulPages slot { w with a := 31 } da db q)) (fullTeam s) slot { w with a := 31 } da db q)
        | none => false) = true ∧
      (tileBox slot 1 3 2 [9]).isSome = true ∧ (tileBox slot 1 3 0 [9]).isNone = true ∧
      okB (rowReads (touchPages s g (coordPages (hd 0x20000 9 2 1 64 64 0) ((slabCoords slot (hd 0x20000 9 2 1 64 64 0) 1 false).flatMap Prod.snd)))
        g 0 (hd 0x20000 9 2 1 64 64 0) (slabCoords slot (hd 0x20000 9 2 1 64 64 0) 1 false)) = true ∧
      (mcmpOperands slot 3 4).isSome = true ∧ (mcmpOperands slot 4 3).isNone = true ∧ rerunning (fullTeam s) = false := by
  decide +kernel

theorem witness_StreamSlabs_stores : NoWindows (streaming slot) ∧ NoArms (streaming slot) ∧
    (checkStores (streaming slot) (slotAgent (fullTeam b) slot) [(0x20000, [1, 2]), (Config.window, [3])]).toOption.any (fun xs =>
      xs.all (fun x => match x.parts with
        | [(p, n)] => n == x.data.length && isLocal 0 (p, 1)
        | _ => false)) = true := by
  unfold NoWindows NoArms; decide +kernel

/-- An F32 tensor of 4 by 4 at index 16 of the scratchpad, and scalars 1 to 3. -/
def tile4 (ty : Nat) : BitVec 512 := hd 0x20000 ty 4 4 4 4 0
def copying (x y z : DWord) : State := withS [(1, x), (2, y), (3, z)] (withDesc 16 (tile4 8) b)

/-- A copy engine that holds 128 operations. -/
noncomputable def fullEngine (k : FlightKind) (s : State) : State :=
  { s with flights := List.replicate 128 { newFlight s k .nop none [] [] [] with kind := k } }

theorem witness_CopyWords : let s := copying 0x2000 16 0
    NoWindows s ∧ NoArms s ∧ active s ≠ 0 ∧ active (noLane s) = 0 ∧ s.flights = [] ∧ 64 * 1023 + 64 ≤ s.team.spadBytes ∧
      2 ^ 57 ≤ (rs (copying 0x200000000000000 16 0) 1 + limOffset s).toNat ∧
      (rs (copying 0x1FFFFFFFFFFFFFF 16 0) 1 + limOffset s).toNat < 2 ^ 57 ∧ 2048 = 2 ^ 11 ∧ 32 * 2048 ≤ s.team.spadBytes ∧
      s.group.ringTail = s.group.ringHead ∧ ({ s.group with ringTail := 1 } : Group).ringTail ≠ s.group.ringHead ∧
      named s [.cpa 62 63 31 15 3] = true ∧
      (let t := withV [(62, 0xFFE0), (63, 33)] (oneLane s); ∀ k < 32, isActive t k = true →
        (rv t 62 k).toNat % 16 = 0 ∧ (rv t 62 k).toNat + 32 ≤ t.team.spadBytes) ∧
      tileReason (tile4 8) ⟨0xC2, 16, none, 0, 0, false, false, none, false, false⟩ = 0 ∧
      tileReason (tile4 12) ⟨0xC4, 16, none, 0, 0, false, true, none, false, false⟩ ≠ 0 ∧
      tileReason (tile4 8) ⟨0xC6, 16, some 0x1000, 256, 0, false, false, none, true, false⟩ = 0 ∧
      0x2000 + imageBytes (tile4 8) ⟨0xC6, 16, some 0x1000, 256, 0, false, false, none, true, false⟩ ≤ s.team.spadBytes ∧
      0x1000 + 4 * 256 ≤ s.team.spadBytes ∧
      isOk (tileTarget s ⟨0xC2, 16, none, 0, 0, false, false, none, false, false⟩ 0) 0 = true ∧
      isOk (tileTarget s ⟨0xC2, 16, none, 0, 0, false, false, none, false, false⟩ (win 0x100)) objPa = true ∧
      isOk (tileTarget s ⟨0xC4, 16, none, 0, 0, false, true, none, false, false⟩ 0x20004) 0 = true ∧
      isOk (tileTarget s ⟨0xC5, 16, some 0x1000, 1, 7, true, false, some 8, true, false⟩ 0x20010) 0 = true ∧
      engineFull s = false ∧ engineFull (fullEngine .tile s) = true := by
  unfold NoWindows NoArms; decide +kernel

/-- A CPA, a TCPY and a TRED with turn 0 in flight; the TRED with turn 1 is not due, and with turn 2^32 - 1 it is past. -/
def cpaFlying : State := after (.cpa 62 63 3 0 1) (withS [(3, 0x20000)] (withV [(62, 0xFFE0), (63, 20)] (oneLane b)))
def tcpyFlying : State := after (.tcpy 1 2 3 0 0 0) (copying 0x2000 16 0)
def tredFlying (turn : Nat) : State := after (.tred 1 2 3 0 1 0) (copying 0x2000 (BitVec.ofNat 64 (16 + turn * 2 ^ 16)) 0x30000)

/-- A purge has ended the operation: flag 5. -/
def endedFlag (f : Flight) : Flight := { f with scal := f.scal.set 7 (BitVec.ofNat 64 (fsc f 7 + 32)) }

theorem witness_CopyEngines : NoWindows cpaFlying ∧ NoArms cpaFlying ∧ newest cpaFlying (fun f =>
      cpaReady cpaFlying f && (findGroup cpaFlying f.team f.grp).isSome &&
        (let u := touchPages cpaFlying (copyAgent f) ((f.lanes.filter (fun (l : LaneReq) => l.a != 0)).map LaneReq.va)
         (grantLines (cpaGrants u f)).all (fun e => asks u f.die 0 e.2.1 e.1 == none)) &&
        f.lanes.length == 1 && f.lanes.all (fun l => okB (cpaSource cpaFlying f l) && (l.parts.map Prod.snd) == [32])) = true ∧
    newest tcpyFlying (fun f => tileReady tcpyFlying f && (findGroup tcpyFlying f.team f.grp).isSome &&
      tileReady tcpyFlying { f with stage := 2, scal := f.scal.set 7 0 }) = true ∧ tcpyFlying.reqs = [] ∧
    newest (tredFlying 0) (fun f => turnReady (tredFlying 0) f && turnOf (tredFlying 0) f == .mine && !tileFlag f 5 &&
      tileFlag (endedFlag f) 5 && turnOf (tredFlying 0) (endedFlag f) == .mine && turnReady (tredFlying 0) (endedFlag f) &&
      isOk (check (tredFlying 0) (copyAgent f) .atomic (fsc f 5) 4) ⟨[(0x30000, 4)], 0, false⟩ && isLocal (dieModule f.die) (0x30000, 4)) = true ∧
    newest (tredFlying 0xFFFFFFFF) (fun f => turnReady (tredFlying 0xFFFFFFFF) f && turnOf (tredFlying 0xFFFFFFFF) f == .broken &&
      !tileFlag f 5 && turnOf (tredFlying 0xFFFFFFFF) (endedFlag f) != .mine) = true ∧
    newest (tredFlying 1) (fun f => turnOf (tredFlying 1) f == .wait) = true := by
  unfold NoWindows NoArms; decide +kernel

/-- A TCPY with NOTE whose answers have come, and room in the ring. -/
theorem witness_CopyEngines_note : let s := after (.crset 4 5 0) (withS [(4, 0x100), (5, 2)] (copying 0x2000 16 0))
    let t := after (.tcpy 1 2 3 0 0 1) s
    newest t (fun f => let u := { f with stage := 2 }; fsc u 7 == 1 && fsc u 13 == 0 && (addLost u).isNone && tileReady t u &&
        tileOp u.instr != 0xC5 && (findTeam t u.team).isSome) = true ∧ t.reqs = [] ∧
      (t.group.ringTail - t.group.ringHead).toNat < t.group.ringSize.toNat := by decide +kernel

/-- An element inside the tensor and one outside. -/
theorem witness_CopyEngines_elements : NoWindows tcpyFlying ∧ NoArms tcpyFlying ∧ newest tcpyFlying (fun f =>
    halfBytes (hdType (tileDesc f)) == 8 && inTensor (tileDesc f) [3, 3, 0, 0, 0] && !inTensor (tileDesc f) [4, 0, 0, 0, 0] &&
      okB (tensorElem tcpyFlying f [3, 3, 0, 0, 0]) && okB (imageRead tcpyFlying f [3, 3, 0, 0, 0]) && !tileFlag f 4 &&
      (check tcpyFlying (copyAgent f) .write (hdAddr (tileDesc f) [3, 3, 0, 0, 0]).1 4).toOption.any (fun g =>
        g.parts.length == 1 && g.parts.all (fun p => isLocal (dieModule f.die) p && !poisoned tcpyFlying p.1 p.2)) &&
      okB (check tcpyFlying (copyAgent f) .atomic (hdAddr (tileDesc f) [3, 3, 0, 0, 0]).1 4) &&
      !atomPoisoned tcpyFlying f.core (hdAddr (tileDesc f) [3, 3, 0, 0, 0]).1 4) = true := by
  unfold NoWindows NoArms; decide +kernel

/-- A worker team; with a job bound, and taken. The job is an OWNER of one element with one part. -/
def jobWord : BitVec 512 := BitVec.ofNat 512 (7 + 9 * 2 ^ 32 + 1 * 2 ^ 64 + 1 * 2 ^ 104 + 1 * 2 ^ 176 + 0x500 * 2 ^ 320 + 0x501 * 2 ^ 352 +
  0x40000 * 2 ^ 448)
def held (taken : Bool) : HeldJob := ⟨jobWord, 7, 0, taken, none⟩
def worker (j : Option HeldJob) (s : State) : State := { s with team := { s.team with worker := true, job := j } }

/-- VI 0 has domain 1, and so have two events of this module; event 2^18 lies on die 1, and 2^22 on module 1. -/
def evented (s : State) : State :=
  let s := { s with vis := s.vis.map (fun e => (e.1, { e.2 with cfg := { e.2.cfg with domain := 1 } })) }
  let s := setModule s 0 { getModule s 0 with members := [1] }
  [0x500, 0x501, 0x400000].foldl (fun (s : State) (n : Nat) => setEv s (BitVec.ofNat 32 n) { getEv s (BitVec.ofNat 32 n) with domain := 1 }) s

/-- Scalars: an event, a count, an object and a number. -/
def working (e n : DWord) : State := withS [(1, e), (2, n), (3, 0), (4, win 0x100)] (evented b)

/-- A registered stream whose control block is at 0x50000, its ring at 0x51000 and its tables at 0x52000; TAIL 1. -/
def stream : Stream where
  vi := 0
  num := 15
  scb := 0x50000
  base := 0x51000
  log2 := 1
  dev := true
  dmask := 1
  ttcount := 4
  ttbase := 0x52000
  fxbase := 0
  next := 0
  stopped := false
  skip := none
  made := []
  hand := none

def streamed (tail : Nat) (st : Stream) : State :=
  let s := wrNat (working 0x500 1) 0x50018 4 tail
  setDie s 0 { getDie s 0 with streams := [st] }

theorem witness_WorkWords : let s := working 0x500 0xFFFF
    let w := worker none s
    active s ≠ 0 ∧ active (noLane s) = 0 ∧ s.team.worker = false ∧ w.team.worker = true ∧ w.team.job = none ∧
      jobTaken (worker (some (held true)) s) = true ∧ jobTaken (worker (some (held false)) s) = false ∧ jobTaken w = false ∧
      65472 % 64 = 0 ∧ 65472 + 64 ≤ s.team.spadBytes ∧ djKind jobWord = 1 ∧ djTm jobWord = 1 ∧ djTn jobWord = 1 ∧
      0xFFF0 + 4 * djTm jobWord * djTn jobWord ≤ s.team.spadBytes ∧ engineFull w = false ∧
      isOk (checkObject w (win 0x100) .write true) objPa = true ∧ isOk (checkObject w (win 0x100) .write false) objPa = true ∧
      (getBar w objPa).armed = false ∧
      poisoned w (mailOf w w.team.core w.team.id) 64 = false ∧
      (∀ e ∈ w.dies, ∀ a ∈ e.2.arms, a.object ≠ objPa) ∧
      (let t := after (.evarm 1 4 3) s; isOk (checkObject t (win 0x100) .write true) objPa = true ∧ active t ≠ 0 ∧
        ∃ e ∈ t.dies, ∃ a ∈ e.2.arms, a.object = objPa) := by decide +kernel

theorem witness_WorkWords_events : let s := working 0x500 0xFFFF
    let r := working 0x400000 1
    (rs s 1).toNat < 2 ^ 32 ∧ (let k : Int := (rs s 1).toNat % 2 ^ 18 + (limOffset s).toInt; 0 ≤ k ∧ k < 2 ^ 18) ∧
      (let u := { s with lim := some 0xFFFFFF }; let k : Int := (rs u 1).toNat % 2 ^ 18 + (limOffset u).toInt; k < 2 ^ 18) ∧
      (let u := { working 0x3FFFF 1 with lim := some 1 }; let k : Int := (rs u 1).toNat % 2 ^ 18 + (limOffset u).toInt; 2 ^ 18 ≤ k) ∧
      evAllowed s (thisModule s) s.team.vi 0x500 = true ∧ evModule 0x500 = thisModule s ∧
      evAllowed r (thisModule r) r.team.vi 0x400000 = true ∧ evModule 0x400000 ≠ thisModule r ∧ s.split.wait = none ∧
      Released s 5 [] ∧ Released r 5 [] ∧ 1 ≤ (rs r 2).toNat ∧ (rs s 2).toNat < 2 ^ 16 ∧ rerunning s.team = false ∧
      freeWaiter (touch s (me s) (win 0x100).toNat 16) (evDie 0x500) ≠ none ∧ lmReason 0 ≠ 0 ∧
      (findStream (streamed 0 stream) 0 0 15).isSome = true ∧ stream.dev = true ∧
      okB (check (streamed 0 stream) (dieAgent 0 0) .write 0x50000 64) = true ∧
      (dieRead (streamed 2 stream) 0 0 0x50018 4).getD 0 = 2 ^ stream.log2 ∧ (dieRead (streamed 1 stream) 0 0 0x50018 4).getD 0 = 1 ∧
      isOk (check (streamed 1 stream) (dieAgent 0 0) .write 0x51020 32) ⟨[(0x51020, 32)], 0, false⟩ = true ∧ isLocal 0 (0x51020, 32) = true ∧
      dieParts (performWrite (streamed 1 stream) noCore [(0x51020, 32)] []) 0 0 .write 0x50018 4 = some [(0x50018, 4)] ∧
      isLocal 0 (0x50018, 4) = true ∧ scbFree (streamed 1 stream) [(0x50000, 64)] = true ∧
      lineWrites (streamed 1 stream) [(0x51020, 32), (0x50018, 4)] = [] ∧ 0x50018 + 4 ≤ 0x51020 ∧ NoWindows (streamed 1 stream) ∧ NoArms (streamed 1 stream) := by
  unfold NoWindows NoArms Released; decide +kernel

/-- A message about event 0x500. -/
noncomputable def messaged (k : MsgKind) : State := { working 0x500 1 with msgs := [⟨0, 0x500, 0, k, [], none, 0⟩] }

theorem witness_EventSteps : let s := messaged (.subscribe 0 0)
    findMsg s 0 = some ⟨0, 0x500, 0, .subscribe 0 0, [], none, 0⟩ ∧ msgReady s ⟨0, 0x500, 0, .subscribe 0 0, [], none, 0⟩ = true ∧ NoArms s ∧
      dieModule 0 = evModule 0x500 ∧ freeWaiter s (evDie 0x500) ≠ none ∧ ((getEv s 0x500).satisfied 0 || (getEv s 0x500).pois) = false ∧
      ((getEv s 0x500).satisfied 0xFFFFFFFF || (getEv s 0x500).pois) = true ∧
      (findMsg (messaged (.add 0xFFFFFFFF)) 0).isSome = true ∧ (findMsg (messaged (.reset 1 0xFFFF)) 0).isSome = true ∧
      (findMsg (messaged .poison) 0).isSome = true ∧ (findMsg (messaged (.notify 0 0 true)) 0).isSome = true ∧
      ((getDie s (evDie 0x500)).waiters.map Waiter.num).Nodup ∧
      poisoned s (eventAddr 0x500) 16 = false ∧
      inputOpen ⟨0, jobWord, 0, 0, [(0x500, 0)], [], false, 0, .waiting, none⟩ (0x500, 0) = true := by
  unfold NoArms; decide +kernel

/-- An operator record of one tile at the stream's position 0, with an operator code. -/
def recorded (opc : Nat) (st : Stream) : State :=
  wrNat (streamed 1 st) 0x51000 32 (1 + 1 * 2 ^ 32 + 0x500 * 2 ^ 96 + opc * 2 ^ 216 + 1 * 2 ^ 240)

/-- A Col that holds a job, of a kind and at a stage, beside a worker team with a group. -/
def colJob (st : JobStage) : Job := ⟨0, jobWord, 0, 0, [], [], false, 0, st, none⟩
noncomputable def colled : State :=
  let s := close (worker none (working 0x500 1))
  setDie s 0 { getDie s 0 with jobs := [colJob .ready] }

/-- A JOBDONE and a FIXUP in flight; the fix-up event is satisfied, or poisoned. -/
def retiring : State := after .jobdone (worker (some (held true)) (working 0x500 1))
def fixing (e : Ev → Ev) : State :=
  let s := worker (some (held true)) (working 0x500 1)
  let s := after (.fixup 5 3) s
  setEv s 0x501 (e (getEv s 0x501))
def satisfied (e : Ev) : Ev := e.restart 9 0
def poisonedEv (e : Ev) : Ev := { e with pois := true }

/-- A re-run whose verdict is open. -/
noncomputable def cupped (ds : List DWord) : State :=
  let s := working 0x500 1
  setDie s 0 { getDie s 0 with cups := [⟨3, 0, jobWord, [0], ds, [], none, false⟩] }

theorem witness_JobSteps : let s := recorded 1 stream
    (getDie s 0).streams.find? (fun x => x.vi == 0 && x.num == 15) = some stream ∧ expandReady s 0 stream = true ∧
      expandReady (recorded 0 stream) 0 stream = true ∧ stream.skip ≠ some stream.next ∧ stream.hand = none ∧ NoWindows s ∧ tagDead s 0 0 1 = false ∧ NoArms s ∧
      (match nextRecord s 0 stream with
        | some (some r, h) => refusal s 0 stream r (producers s 0 stream h r) == 0 && decide ((ownPieces 0 stream r).length ≤ jobRoom s 0)
        | _ => false) = true ∧
      (match nextRecord (recorded 0 stream) 0 stream with
        | some (some r, h) => refusal (recorded 0 stream) 0 stream r (producers (recorded 0 stream) 0 stream h r) == 1
        | _ => false) = true ∧
      (let lost := { stream with base := 0x40000000 }; expandReady (streamed 1 lost) 0 lost = true ∧
        nextRecord (streamed 1 lost) 0 lost = some (none, 0)) ∧
      (nextJob colled 0).isSome = true ∧ NoArms colled ∧
      newest retiring (fun f => (findTeam retiring f.team).any (fun t => t.job.isSome && jobdoneReady retiring f t) && f.stage == 0) = true ∧
      evModule (jobEvent jobWord) = coreModule retiring.team.core := by
  unfold NoWindows NoArms; decide +kernel

theorem witness_JobSteps_fixup : NoWindows (fixing satisfied) ∧ NoArms (fixing satisfied) ∧ newest (fixing satisfied) (fun f =>
      (findGroup (fixing satisfied) f.team f.grp).isSome && fixupReady (fixing satisfied) f && fixupEvent (fixing satisfied) f == some true &&
        (grantLines (fixupGrants (fixing satisfied) f)).all (fun e => asks (fixing satisfied) f.die 0 e.2.1 e.1 == none) && fsc f 7 == 0 &&
        (fixupRun f (f.blob.headD 0) (List.range (djTm (f.blob.headD 0) * djTn (f.blob.headD 0)))
          (fillGrants (fixing satisfied) f.die 0 (fixupGrants (fixing satisfied) f)) 0).2.2.isNone) = true ∧
    newest (fixing poisonedEv) (fun f => fixupReady (fixing poisonedEv) f && fixupEvent (fixing poisonedEv) f == some false) = true ∧
    ((getDie (cupped [0]) 0).cups.find? (fun x => x.id == 3)).isSome = true ∧
    ((getDie (cupped [0, 0]) 0).cups.find? (fun x => x.id == 3)).isSome = true := by
  unfold NoWindows NoArms; decide +kernel

/-- A launch of a grid of two teams with one role of one group, and one that is a gang. -/
def launching (gang : Bool) (aged : Nat) : Launch where
  id := 9
  vi := 0
  module := 0
  queue := 0
  pos := 0
  notify := false
  image := 0x60000
  arg := 5
  ext := (2, 1, 1)
  cev := 0
  tvec := 0
  rtag := 1
  worker := false
  system := false
  header := if gang then 0xE3080010 else 0xE3000010
  roles := [0x001]
  next := 0
  lastCore := none
  aged := aged
  fixes := []

def launched (l : Launch) : State := { b with launches := [l] }

theorem witness_Placement : let l := launching false 0
    findLaunch (launched l) 9 = some l ∧ hdrGang l.header = false ∧ (findSpot false (close (launched l)) l).isSome = true ∧
      tagDead (launched l) 0 0 1 = false ∧ l.next + 1 < gridSize l ∧ hdrGang (launching true 0).header = true ∧
      findLaunch (launched (launching true 1)) 9 = some (launching true 1) ∧ (launching true 0).aged = 0 := by decide +kernel

/-- A layout map of 4 by 4 F32 elements for two ranks, A and G the dimensions 0 and 1, with events at 0x500. -/
def mapWord : BitVec 512 := BitVec.ofNat 512 (0x80000 + 0x500 * 2 ^ 128 + 4 * 2 ^ 160 + 4 * 2 ^ 176 + 16 * 2 ^ 224 + 1 * 2 ^ 320 +
  0 * 2 ^ 330 + 1 * 2 ^ 332 + 1 * 2 ^ 336 + 2 * 2 ^ 338 + 3 * 2 ^ 340 + 8 * 2 ^ 344 + 1 * 2 ^ 349)

/-- With the map in slot 7; scalars 1 to 4: the source, the rank, no object, an object. -/
def mapped (x y : DWord) : State :=
  let s := withS [(1, x), (2, y), (4, win 0x100)] (evented b)
  { s with team := { s.team with maps := [(7, mapWord)] } }

/-- Leases on lines of module 1. -/
def leasing : State := { mapped 0x20000 0 with leases := [⟨0, 0x400⟩, ⟨0, 2 ^ 35⟩] }

/-- Exchanges in flight. -/
def flying (i : Instr) (y : DWord) : State := after i (mapped 0x20000 y)

theorem witness_FabricWords : let s := mapped 0x20000 1
    lmReason mapWord = 0 ∧ active s ≠ 0 ∧ active (noLane s) = 0 ∧ 2 ^ 32 ≤ (rs (mapped 0 0x100000000) 2).toNat ∧
      (rs (mapped 0 0xFFFFFFFF) 2).toNat < 2 ^ 32 ∧ 2 ^ 10 ≤ (rs (mapped 0 1024) 2).toNat ∧ (rs (mapped 0 1023) 2).toNat < 2 ^ 10 ∧
      NoWindows s ∧ lookup s.team.maps 0 = none ∧ lookup s.team.maps 7 = some mapWord ∧ lmP mapWord ≤ (rs (mapped 0 2) 2).toNat ∧
      (rs s 2).toNat < lmP mapWord ∧ xReason 1 mapWord = 0 ∧ xReason 2 mapWord = 0 ∧ xReason 3 mapWord = 0 ∧
      xReason 1 (mapWord + BitVec.ofNat 512 (2 ^ 160)) ≠ 0 ∧ (rs (mapped 2 1) 1 + limOffset s).toNat % lmEs mapWord ≠ 0 ∧
      (rs s 1 + limOffset s).toNat % lmEs mapWord = 0 ∧ rs s 3 = 0 ∧ isOk (checkObject s (rs s 4) .write false) objPa = true ∧
      teamSpad s.team ≤ objPa ∧ objPa + 16 ≤ teamSpad s.team + s.team.spadBytes ∧ exchangeFull s = false ∧
      exchangeFull { s with flights := List.replicate 32 (newFlight s .exchange .nop none [] [] []) } = true ∧
      s.live = true ∧ userMode s = false := by
  unfold NoWindows; decide +kernel

/-- An XAG to start, one whose ranks are done, one that waits for its last answer; XRS at its turn, past it and waiting;
and one element to move. -/
theorem witness_FabricWords_exchanges : let g := flying (.xag 1 2 3 0 0 7) 0
    let r := flying (.xrs 1 2 3 0 0 7) 0
    let w := flying (.xrs 1 2 3 0 0 7) 1
    NoWindows g ∧ NoArms g ∧ g.reqs = [] ∧ newest g (fun f => (findGroup g f.team f.grp).isSome && exchangeReady g f &&
      exchangeReady g { f with lanes := [] } && fsc f 7 == 0 && exchangeReady g { f with stage := 3 } && !tileFlag f 4 &&
      (match (xFlightElems f 0).head? with
        | some (a, d) => lmEs (xMap f) == 4 && okB (check g (xAgent f) .read a 4) && okB (engineRead g f.die [(a, 4)]) &&
          isOk (check g (xAgent f) .write d 4) ⟨[(d, 4)], 0, false⟩ && isLocal (dieModule f.die) (d, 4) && !lostLines g f [(a, 4)]
        | none => false)) = true ∧
      newest r (fun f => turnsReady r f && xTurn r f == some 0 && evAllowed r (dieModule f.die) f.vi (xEvent f 0) && xOp f.instr == 3) = true ∧
      (let q := setEv r 0x500 { getEv r 0x500 with count := 1 };
        newest q (fun f => turnsReady q f && xTurn q f == some 0 && decide (fsc f 6 < (getEv q (xEvent f 0)).count.toNat))) = true ∧
      newest w (fun f => xTurn w f == none) = true ∧ poisoned r (eventAddr 0x500) 16 = false ∧
      newest g (fun f => let u := { f with stage := 1, scal := f.scal.set 9 0 }; exchangeReady g u && !tileFlag u 4 &&
        evAllowed g (dieModule u.die) u.vi (xEvent u 0) && evModule (xEvent u 0) == dieModule u.die &&
        ((xFlightElems u 0).foldl (moveElem g u (fsc u 6 == 0)) ⟨[], none⟩).fail.isNone &&
        ((xFlightElems u 0).foldl (moveElem g u (fsc u 6 == 0)) ⟨[], none⟩).out.all (fun x => match x.parts with
          | [(p, n)] => n == x.data.length && isLocal (dieModule u.die) (p, 1) && decide (p + n ≤ eventAddr (xEvent u 0).toNat)
          | _ => false)) = true := by
  unfold NoWindows NoArms; decide +kernel

/-- A write to module 1, sent; its ports are up. -/
def far (kind : ReqKind) (sent performed : Bool) : Request where
  id := 40
  die := 0
  src := 0
  tgt := 1
  seq := 0
  line := 2 ^ 35
  plane := 0
  kind := kind
  flight := none
  va := 0x30000
  pc := 0x10000
  who := some (b.team.id, 0, 0)
  vi := some 0
  contribs := []
  op := none
  mask := 1
  rise := 0
  after := []
  sent := sent
  performed := performed
  acked := false
  abandoned := false

noncomputable def asking (r : Request) : State :=
  let s := (List.range 64).foldl (fun s k => setPort (setPort s k ⟨2, 4, 4, 0⟩) (64 + k) ⟨2, 4, 4, 0⟩) (evented b)
  { setDie s 16 { DieSt.reset with ready := true, hbmReady := true } with reqs := [r] }

def writeKind : ReqKind := .write [(2 ^ 42, 7)]

theorem witness_FabricSteps : let s := asking (far writeKind true false)
    findReq s 40 = some (far writeKind true false) ∧ arriveReady s (far writeKind true false) = true ∧ NoWindows s ∧ NoArms s ∧ s.awaits = [] ∧
      seenBefore (dedupOf s 0 1) 0 = false ∧ seenBefore { dedupOf s 0 1 with marks := [(0, [])] } 0 = true ∧
      crosses s (far writeKind true true) = true ∧ openReq (far writeKind true true) = true ∧ (far writeKind true true).src ≠ (far writeKind true true).tgt ∧
      (∃ i, i < 8 ∧ reach s 0 1 i = true) ∧ [1, 2, 4].contains (getPort (setPort s 3 ⟨1, 2, 4, 0⟩) 3).working = true ∧ openReq (far writeKind true false) = true ∧ mayAbandon writeKind = true ∧
      (findGroup s b.team.id 0).isSome = true ∧
      (let t := { asking (far (.read true none) true false) with dedups := [⟨0, 1, 5, 0, []⟩] }; advanceTo t (dedupOf t 0 1) ≠ (dedupOf t 0 1).base) ∧
      leased leasing 0 0x400 = true ∧ NoWindows leasing ∧ reach leasing (2 ^ 35 * 128 / 2 ^ 42) (dieModule 0) (2 ^ 35 % 8) = false ∧
      (getPort s 3).state ≠ 0 ∧ (getPort (setPort s 3 ⟨1, 2, 2, 0⟩) 3).state = 1 ∧ (getPort (setPort s 3 ⟨1, 2, 2, 0⟩) 3).width < 4 ∧
      (let q := setModule s 0 { getModule s 0 with fpmap := 0x8706050403020100 };
        fpEntry q 0 7 / 128 = 1 ∧ fpEntry q 0 7 / 64 % 2 = 0) ∧ State.reset.live = false := by
  unfold NoWindows NoArms; decide +kernel

/-- What the replay queue captures of MOVI v3, 1. -/
def moved : ReplayEntry := capture b (after (.movi 3 1) b) none (.movi 3 1)

/-- An open digest; the replay entry of the split, on a core whose score is 56. -/
def replaying : State :=
  let s := putDigest b 0 0 0 { teamDigest b 0 0 0 with isOpen := true }
  setCore s 0 { getCore s 0 with susp := 56, replay := [moved] }

theorem witness_CheckingWords : named b [.digs 63 63 7 7] = true ∧ b.split.fence = none ∧ b.split.owner = none ∧
    stored.split.fence.isSome = false ∧ (after (.fence 0 3) stored).split.fence.isSome = true ∧
    (teamDigest replaying 0 0 0).isOpen = true ∧ (teamDigest b 0 0 0).isOpen = false ∧ (getCore b 0).replay = [] ∧
    (∃ e ∈ (getCore replaying 0).replay, e.part = b.group.part ∧ e.team = b.team.id ∧ e.grp = b.group.num ∧ e.spl = b.split.num) ∧
    active b ≠ 0 ∧ active (noLane b) = 0 ∧ userMode b = false ∧ (rs (withS [(1, 15)] b) 1).toNat < 16 ∧
    16 ≤ (rs (withS [(1, 16)] b) 1).toNat ∧ (getCore replaying 0).replay.find? (fun x => x.part == 0) = some moved ∧
    (let s := setDie b 0 { getDie b 0 with jobdones := 2 ^ 20 }; 2 ^ 20 ≤ (getDie s 0).jobdones ∧ (s.cores.map Prod.fst).Nodup) := by
  decide +kernel

/-- Core 0 with its BANKST, and a drain in progress. -/
def banked (v : DWord) (d : Option DrainSt) (o : Option CtxOp) (loaded : Bool) (s : State) : State :=
  setCore s 0 { getCore s 0 with bankst := v, drain := d, ctx := o, loaded := loaded }

/-- A TLBI in flight, and a purge. -/
noncomputable def tlbing : State := after (.tlbiWrite 1) (withS [(1, 0x20000)] b)
def purging : State := { b with purges := [⟨0, 0, 1, none, []⟩] }

theorem witness_TagsAndTeams : userMode b = false ∧ active b ≠ 0 ∧ active (noLane b) = 0 ∧ (rs b 1).toNat = 0 ∧
    2 ^ 16 ≤ (rs (withS [(1, 0x10000)] b) 1).toNat ∧ (rs (withS [(1, 0xFFFF)] b) 1).toNat < 2 ^ 16 ∧ tagDead b 0 0 1 = false ∧
    tagDead (markDead b 0 0 1) 0 0 1 = true ∧ getVi b 0 0 ≠ none ∧
    bitsOf (getCore (banked 1 none none false b) 0).bankst 0 2 = 1 ∧ bitsOf (getCore b 0).bankst 0 2 ≠ 1 ∧ b.live = true ∧
    State.reset.live = false ∧ newest tlbing (fun f => f.kind == .tlbi && f.after.all (fun k => !pending tlbing k)) = true ∧
    (purging.purges.find? (fun x => viKey x.module x.vi == 0 && x.tag == 1)).isSome = true ∧
    (findTeam b b.team.id).any (fun t => !killable t) = true ∧ (findTeam (stopTeam b) b.team.id).any killable = true := by
  decide +kernel

/-- Images: at 0x80000 memory that holds none, and an address that is not mapped. -/
def drain (img : DWord) : Option DrainSt := some ⟨img, 0, [], false, false, none⟩
def ctxOp (save : Bool) (img : DWord) : Option CtxOp := some ⟨save, none, img, 0, none, [], false, false, none⟩

theorem witness_Contexts_words : let s := withS [(1, 0x80000), (2, win 0x100)] b
    userMode s = false ∧ active s ≠ 0 ∧ active (noLane s) = 0 ∧ shst b 0 = 0 ∧ shst (banked 0x10 none none false b) 0 = 1 ∧
      shst (banked 0x20 none none true b) 0 = 2 ∧ shst (banked 0x30 none none false b) 0 = 3 ∧ s.live = true ∧
      s.team.bank = runningBank s s.team.core ∧ (rs (withS [(1, 0x18000)] b) 1 + limOffset b).toNat % 65536 ≠ 0 ∧
      (rs s 1 + limOffset s).toNat % 65536 = 0 ∧ rs s 3 = 0 ∧ isOk (checkObject s (rs s 2) .write false) objPa = true ∧
      teamSpad s.team ≤ objPa ∧ objPa + 16 ≤ teamSpad s.team + s.team.spadBytes ∧
      takesTeams s 0 = true ∧ takesTeams (setCore s 0 { getCore s 0 with quarantined := true }) 0 = false ∧
      (getCore (banked 0x20 none none true b) 0).loaded = true ∧ (getCore (banked 0x20 none none false b) 0).loaded = false := by
  decide +kernel

/-- A team of core 0 with a POISON trap that waits for its RTE. -/
def pois : State := { b with split := { b.split with tstat := 0x13, ptag := some 1 }, team := { b.team with ptags := [1] } }

theorem witness_Contexts_steps : let p := stopTeam b
    drst (banked 1 (drain 0x80000) none false p) 0 = 1 ∧ (getCore (banked 1 (drain 0x80000) none false p) 0).swapping = false ∧
      bankParked (banked 1 (drain 0x80000) none false p) 0 = true ∧ drst (banked 2 (drain 0x80000) none false p) 0 = 2 ∧
      bankIdle (banked 2 (drain 0x80000) none false b) 0 0 = true ∧ drst (banked 3 (drain 0x80000) none false p) 0 = 3 ∧
      (∀ tm ∈ allTeams (banked 1 (drain 0x80000) none false b), tm.core = 0 → awaitsPurge tm = false) ∧
      shst (banked 0x11 (drain 0x80000) none false b) 0 = 1 ∧ shst (banked 1 (drain 0x80000) none false b) 0 = 0 ∧
      drst pois 0 ≠ 1 ∧ (∃ tm ∈ allTeams pois, tm.core = 0 ∧ awaitsPurge tm = true ∧ tm.ptags = [1]) ∧
      bankIdle (banked 0x30 none (ctxOp true 0x80000) false b) 0 1 = true ∧
      (getCore (banked 0x30 none (ctxOp true 0x80000) false b) 0).ctx.any (fun o => o.save) = true ∧
      (getCore (banked 0x10 none (ctxOp false 0x80000) false b) 0).ctx.any (fun o => !o.save) = true ∧
      okB (readImage (close b) 0 0 0x40000000) = false ∧ okB (readImage (close b) 0 0 0x80000) = true ∧
      (readImage (close b) 0 0 0x80000).toOption.any (fun im => loadReason (close b) 0 1 ⟨false, none, 0x80000, 0, none, [], false, false, none⟩ im == 1) = true ∧
      (getCore b 0).lost = false ∧ (getCore (setCore b 0 { getCore b 0 with lost := true }) 0).lost = true ∧
      loadNear b 0 0 0x80000 = true ∧ loadNear b 0 0 0x40000000 = true := by decide +kernel

/-- An image's length, without its bytes. -/
theorem sealed_length (fs : List ImgField) (n x : Nat) :
    ((layOut fs n).take 68 ++ natLe 4 x ++ (layOut fs n).drop 72).length = min 68 n + 4 + (n - 72) := by
  simp [layOut, natLe]; omega

theorem image_length : (bankImage b 0 1 0 false).length = 1589248 ∧ (bankImage b 0 0 0 false).length = 1591556 ∧
    (bankImage (close b) 0 1 0 false).length = 1589248 :=
  ⟨(sealed_length _ _ _).trans (by decide +kernel), (sealed_length _ _ _).trans (by decide +kernel),
    (sealed_length _ _ _).trans (by decide +kernel)⟩

theorem no_lost (s : State) (h : s.poison = []) (core bank : Nat) : lostByte s core bank = none := by
  simp [lostByte, poisoned, h]


theorem near_of (s : State) (core bank vi va : Nat) (f : Bool) (n : Nat) (h : (bankImage s core bank vi f).length = n)
    (k : imageNear s core vi .write va n = true) : saveNear s core bank vi va f = true := by unfold saveNear; rw [h]; exact k

theorem writes_of (s : State) (core bank vi va : Nat) (f : Bool) (n : Nat) (h : (bankImage s core bank vi f).length = n)
    (p : s.poison = []) : okB (writeImage s core bank vi va f) = okB (imagePages s (imageAgent core vi) .write va n) := by
  unfold writeImage; dsimp only; rw [h, no_lost s p]
  cases imagePages s (imageAgent core vi) .write va n <;> rfl

/-- An image can be written at 0x80000, and at an address that is not mapped it cannot. -/
theorem witness_Contexts_images : saveNear b 0 1 0 0x80000 false = true ∧ saveNear b 0 0 0 0x80000 false = true ∧
    saveNear b 0 1 0 0x40000000 false = true ∧ okB (writeImage (close b) 0 1 0 0x80000 false) = true ∧
    okB (writeImage (close b) 0 1 0 0x40000000 false) = false := by
  obtain ⟨h, k, l⟩ := image_length
  have p : (close b).poison = [] := by decide +kernel
  exact ⟨near_of _ _ _ _ _ _ _ h (by decide +kernel), near_of _ _ _ _ _ _ _ k (by decide +kernel),
    near_of _ _ _ _ _ _ _ h (by decide +kernel), (writes_of _ _ _ _ _ _ _ l p).trans (by decide +kernel),
    (writes_of _ _ _ _ _ _ _ l p).trans (by decide +kernel)⟩

/-- A packet of 64 bytes with its CRC: type and sub, the low byte of SEQ and flags 0, and the body as a number. -/
def packet (ty sub seq body : Nat) : List Byte :=
  let p := natLe 4 (seq + (ty + 16 * sub) * 2 ^ 16) ++ [0, 0, 0, 0] ++ natLe 56 body
  p.take 4 ++ natLe 4 (packetCrc p) ++ p.drop 8

/-- A queue of VI 0 with its control block at 0x70000 and its slots at 0x71000, in a state; a packet stands in slot 0. -/
def queued (st : Nat) (slots : Nat) (sys : Nat) (p : List Byte) (x : QueueSt) : State :=
  let s := evented b
  let s := setModule s 0 { getModule s 0 with fwReady := [0, 1, 2, 3] }
  let s := wrNat s 0x70000 24 (4 * 2 ^ 7 + sys * 2 ^ 17 + st * 2 ^ 18 + slots * 2 ^ 128)
  { wrBytes s 0x71000 p with queues := [(0, x)] }

def queue0 : QueueSt := ⟨0, 0x70000, none, none, 0⟩

/-- The fetch: good, torn and old; a slot that is not mapped; STATE 1, 2 and 3; the sixteenth re-read and one before it. -/
theorem witness_Packets_fetch : let good := packet 0 0 0 0
    let torn := (packet 0 0 0 0).set 4 0
    let s := queued 0 0x71000 0 good queue0
    let lost := queued 0 0x40000000 0 good queue0
    queueOf s 0 = some queue0 ∧ served s 0 = true ∧ slotNear s 0 queue0 = true ∧ qState s queue0 = 0 ∧ slotParts s 0 queue0 = some [(0x71000, 64)] ∧
      isOk (engineRead s 0 [(0x71000, 64)]) good = true ∧ imgAt good 0 2 = (qHead s queue0).toNat % 2 ^ 16 ∧
      packetCrc good = imgAt good 4 4 ∧ packetCrc torn ≠ imgAt torn 4 4 ∧ imgAt torn 0 2 = (qHead s queue0).toNat % 2 ^ 16 ∧
      imgAt (packet 0 0 0xFFFF 0) 0 2 ≠ (qHead s queue0).toNat % 2 ^ 16 ∧ qState (queued 1 0x71000 0 torn queue0) queue0 = 1 ∧
      2 ≤ qState (queued 2 0x71000 0 good queue0) queue0 ∧ qState (queued 3 0x71000 0 good queue0) queue0 = 3 ∧
      slotParts lost 0 queue0 = none ∧ qState (queued 3 0x40000000 0 good queue0) queue0 = 3 ∧
      slotParts (queued 3 0x40000000 0 good queue0) 0 queue0 = none ∧ 15 < 16 ∧ { queue0 with rereads := 16 }.rereads ≠ 0 := by
  decide +kernel

/-- A configuration that firmware may apply, and one with no domain. -/
def config (domain : Nat) : ViConfig :=
  { benchVi with vi := 63, cores := [47], domain := domain, drainb := 200, wdog := 100, gangAge := 10, gangLimit := 1000000, cupTimer := 2 }

/-- With a packet at hand. -/
def served0 (sys : Nat) (ty sub body : Nat) : State := queued 0 0x71000 sys [] { queue0 with packet := some (packet ty sub 0 body) }

/-- What every packet clause asks for. -/
def atHand (s : State) : Bool :=
  (queueOf s 0).any (fun x => x.packet.any (fun p => served s 0 && laneTurn s 0 p))

theorem witness_Packets_execute : configOk b (config 2) = true ∧ configOk b (config 0) = false ∧
    ([(0, 0, 0), (0, 1, 0), (0, 0, 1), (8, 0, 0), (15, 15, 0), (1, 2, 0), (2, 3, 0), (3, 2, 0), (4, 1, 0), (5, 2, 0), (6, 2, 0), (7, 2, 0)] :
      List (Nat × Nat × Nat)).all (fun e => atHand (served0 0 e.1 e.2.1 e.2.2)) = true ∧
    pReserved (packet 0 0 0 1) [] = true ∧ pReserved (packet 0 0 0 0) [] = false ∧
    imgAt (packet 1 0 0 0x80020) 8 8 % 64 ≠ 0 ∧ imgAt (packet 1 0 0 0x80040) 8 8 % 64 = 0 ∧
    pReserved (packet 1 0 0 0x80040) [(8, 8)] = false ∧ pReserved (packet 1 0 0 (2 ^ 64)) [(8, 8)] = true ∧
    NoWindows (served0 0 1 0 0x80040) ∧ NoArms (served0 0 1 0 0x80040) ∧
    isOk (check (close (served0 0 1 0 0x80040)) (frontAgent 0 0) .write 0x80040 64) ⟨[(0x80040, 64)], 0, false⟩ = true ∧
    isLocal 0 (0x80040, 64) = true ∧ badCore (packet 1 1 0 48) = true ∧ badCore (packet 1 1 0 47) = false ∧
    sysQueue (served0 0 1 1 0) ⟨0, 0, 0, 1, 1, false⟩ = false ∧ sysQueue (served0 1 1 1 0) ⟨0, 0, 0, 1, 1, false⟩ = true ∧
    rangeFree (served0 0 1 0 0x80040) ⟨0, 0, 0, 1, 0, false⟩ .write 0x80040 64 = true ∧
    0 ∈ allotment (served0 1 1 1 0) 0 0 ∧ 47 ∉ allotment (served0 1 1 1 47) 0 0 := by
  unfold NoWindows NoArms; decide +kernel

/-- A control block of stream 15 at 0x50000 with 16 slots and one table entry. -/
def scb : Nat := 0x51000 + 0x52000 * 2 ^ 64 + 1 * 2 ^ 266 + 4 * 2 ^ 267 + 1 * 2 ^ 272 + 1 * 2 ^ 288
def registering : State := wrNat (served0 0 2 0 (0x50000 + 15 * 2 ^ 64)) 0x50000 64 scb
def registered (sub n : Nat) : State := setDie (served0 0 2 sub (n * 2 ^ 64)) 0 { getDie b 0 with streams := [stream] }

theorem witness_Packets_streams : let p := packet 2 0 0 (0x50000 + 15 * 2 ^ 64)
    let c := close registering
    atHand registering = true ∧ pReserved p [(8, 8), (16, 1)] = false ∧ imgAt p 16 1 < 16 ∧ imgAt p 8 8 % 64 = 0 ∧
      dieRead c 0 0 0x50000 64 = some scb ∧ scbBad scb = false ∧ scbForeign c 0 (scbStream scb 0 15 0x50000) = false ∧
      okB (imagePages c (frontAgent 0 0) .read 0x51000 (32 * 2 ^ 4)) = true ∧ okB (imagePages c (frontAgent 0 0) .read 0x52000 128) = true ∧
      findStream c 0 0 15 = none ∧ atHand (registered 1 15) = true ∧ findStream (registered 1 15) 0 0 15 = some stream ∧
      atHand (registered 2 15) = true ∧ findStream (registered 2 15) 0 0 15 = some stream ∧ findStream (registered 1 0) 0 0 0 = none ∧
      rangeFree registering ⟨0, 0, 0, 2, 0, false⟩ .read 0x50000 64 = true ∧
      streamIdle (registered 1 15) ⟨0, 0, 0, 2, 1, false⟩ (packet 2 1 0 (15 * 2 ^ 64)) = true ∧
      (let s := registered 1 15; streamIdle (setDie s 0 { getDie s 0 with streams := [{ stream with hand := some (0, []) }] })
        ⟨0, 0, 0, 2, 1, false⟩ (packet 2 1 0 (15 * 2 ^ 64)) = false) ∧
      16 ≤ imgAt (packet 2 1 0 (16 * 2 ^ 64)) 16 1 := by decide +kernel

/-- A LAUNCH of a grid of one team: the image at 0x60000 has a name at byte 36 and 40 bytes. -/
def image : Nat := 0xE3000000 + (36 * 2 ^ 12 + 1) * 2 ^ 32 + 40 * 2 ^ 224 + 0x01000000 * 2 ^ 256 + 0x41 * 2 ^ 288
def launchBody (flags tag : Nat) : Nat :=
  0x60000 + 1 * 2 ^ 128 + 1 * 2 ^ 160 + 1 * 2 ^ 192 + tag * 2 ^ 320 + flags * 2 ^ 336 + 40 * 2 ^ 352
def launchPacket (flags tag : Nat) : State := wrNat (served0 0 4 0 (launchBody flags tag)) 0x60000 40 image

theorem witness_Packets_launch : let p := fun (f t : Nat) => packet 4 0 0 (launchBody f t)
    let ok := fun (q : List Byte) => !pReserved q [(8, 43), (52, 4)] && !launchBad q
    ok (p 0 1) = true ∧ ok (p 1 1) = true ∧ ok (p 3 1) = true ∧ ok (p 4 1) = false ∧ atHand (launchPacket 0 1) = true ∧
      sysQueue (launchPacket 3 1) ⟨0, 0, 0, 4, 0, false⟩ = false ∧ imgAt (p 0 0) 48 2 = 0 ∧ imgAt (p 0 0xFFFF) 48 2 ≠ 0 ∧
      imgAt (p 0 1) 36 4 = 0 ∧ tagDead (launchPacket 0 1) 0 0 1 = false ∧ tagDead (markDead (launchPacket 0 1) 0 0 1) 0 0 1 = true ∧
      (loadBytes (close (launchPacket 0 1)) 0 0 0x60000 40).toOption.any (fun im => imageOk im 40 &&
        !hdrGang (BitVec.ofNat 32 (iw im 0)) && (relocs im).isEmpty) = true ∧
      (loadBytes (close (served0 0 4 0 (launchBody 0 1))) 0 0 0x60000 40).toOption.any (fun im => !imageOk im 40) = true ∧
      hasWorkers (close (launchPacket 1 1)) 0 0 = false ∧
      rangeFree (launchPacket 0 1) ⟨0, 0, 0, 4, 0, false⟩ .read 0x60000 40 = true := by decide +kernel

theorem witness_Packets_events : let p := packet 3 0 0 (0x400000 + 1 * 2 ^ 32)
    let s := served0 0 3 0 (0x400000 + 1 * 2 ^ 32)
    atHand s = true ∧ pReserved p [(8, 8)] = false ∧ 1 ≤ imgAt p 12 4 ∧ evAllowed s 0 0 0x400000 = true ∧ evModule 0x400000 ≠ 0 ∧
      evAllowed s 0 0 0 = false ∧ pReserved (packet 3 1 0 (0x400000 + 0xFFFF * 2 ^ 32)) [(8, 12)] = false ∧
      imgAt (packet 3 1 0 (0x400000 + 0xFFFF * 2 ^ 32)) 12 4 < 2 ^ 16 := by decide +kernel

/-- CONTEXT and PREEMPT on core 0 with an image at 0x80000, and PURGE. -/
def coreBody (t : Nat) : Nat := t * 2 ^ 16 + 0x80000 * 2 ^ 64

theorem witness_Packets_context : let s := served0 0 5 0 (coreBody 0)
    atHand s = true ∧ atHand (served0 0 5 1 (coreBody 15)) = true ∧ atHand (served0 0 6 0 (coreBody 0)) = true ∧
      atHand (served0 0 6 1 (coreBody 0)) = true ∧ pReserved (packet 5 0 0 (coreBody 0)) [(8, 2), (16, 8)] = false ∧
      pReserved (packet 5 1 0 (coreBody 15)) [(8, 3), (16, 8)] = false ∧ imgAt (packet 5 1 0 (coreBody 15)) 10 1 < 16 ∧
      badCore (packet 5 0 0 (coreBody 0)) = false ∧ imgAt (packet 5 0 0 (coreBody 0)) 16 8 % 65536 = 0 ∧ 0 ∈ allotment s 0 0 ∧
      okB (check (close s) (imageAgent 0 0) .read 0x80000 256) = true ∧ okB (check (close s) (imageAgent 0 0) .write 0x80000 256) = true ∧
      loadShut (close s) false 0 = false ∧ loadShut (close (banked 0x10 none none false s)) false 0 = true ∧ drainShut s 0 = false ∧
      drainShut (setCore s 0 { getCore s 0 with lost := true }) 0 = true ∧ (getCore s 0).drain = none ∧ shst s 0 = 0 ∧
      atHand (served0 0 7 0 0xFFFF) = true ∧ atHand (served0 0 7 1 1) = true ∧ pReserved (packet 7 0 0 0x10000) [(8, 2)] = true ∧
      pReserved (packet 7 0 0 0xFFFF) [(8, 2)] = false ∧ imgAt (packet 7 0 0 0) 8 2 = 0 ∧ imgAt (packet 7 0 0 0xFFFF) 8 2 ≠ 0 ∧
      getVi s 0 0 ≠ none := by decide +kernel

/-- A firmware image, staged and running, with SVN 127. -/
def firmware : FwImage := ⟨0, 1, 3, 127, [], 0⟩
def updated : State := setModule b 0 { getModule b 0 with staged := some firmware, running := some firmware }

theorem witness_ModuleSteps : (1023 < 2 ^ 10) ∧ (getModule updated 0).tripped = false ∧ (getModule updated 0).running ≠ none ∧
    3 ∉ (getModule updated 0).fwReady ∧ (getModule updated 0).staged = some firmware ∧ (getDie State.reset 0).ready = false ∧
    (getDie State.reset 0).hbmReady = false ∧ (getCore State.reset 47).ready = false ∧ (getCore State.reset 47).lost = false ∧ 47 % 64 < 48 ∧
    (getModule (setModule b 0 { getModule b 0 with tripped := true }) (dieModule 15)).tripped = true ∧ (getModule b (coreModule 47)).tripped = false ∧
    (getPort State.reset 63).state = 0 ∧ (getPort State.reset 63).working = 4 ∧ (getPort (setPort b 3 ⟨0, 0, 0, 0⟩) 3).working = 0 ∧
    hostFree b 0 0 .read 0x20000 64 = true ∧ hostFree b 0 0 .write 0x20000 1 = true ∧ hostFree b 0 1 .read 0x20000 64 = false ∧
    hostFree b 0 64 .read 0x20000 64 = true ∧ 6 < (getDie State.reset 0).level ∧
    (let s := setDie b 0 { getDie b 0 with level := 6 }; (getDie s 0).level ≤ 6 ∧ (getDie s 0).level < 16) ∧ 16 ≤ (getDie b 0).level ∧
    (lookup b.vis 0).isSome = true ∧ (7 < 8) ∧ firmware.svn = 127 ∧ (getModule updated 0).svn ≤ 127 ∧
    (let s := setModule updated 0 { getModule updated 0 with svn := 127 }; 126 < (getModule s 0).svn) ∧ getVi b 0 0 ≠ none ∧
    okB (imagePages b (frontAgent 0 0) .read 0x40000000 64) = false ∧
    isOk (imagePages b (frontAgent 0 0) .read 0x20000 64) [(0x20000, 64)] = true ∧ place 0x20000 = .hbm ∧
    okB (engineRead b 0 [(0x20000, 64)]) = true ∧ isOk (imagePages b (frontAgent 0 0) .write 0x20000 1) [(0x20000, 1)] = true ∧
    isLocal 0 (0x20000, 1) = true ∧ NoWindows b ∧ NoArms b := by
  unfold NoWindows NoArms; decide +kernel

/-- Two more groups with a split each: one is active and has issued, one is pending and ready. -/
def scheduled : State :=
  let t := { fullTeam b with groups := [
    { Group.fresh with num := 1, splits := [{ benchSplit b with issued := true }] },
    { Group.fresh with num := 2, splits := [{ benchSplit b with active := false }] },
    { Group.fresh with num := 3, splits := [{ benchSplit b with wait := some (.flight 1) }] }] }
  { close b with teams := [t], flights := [newFlight b .load .nop none [] [] []] }

/-- A load whose checks are not made yet: its split has gone on. -/
noncomputable def deferring : State := deferOwner b (.ldw 1 0 0 0 0) 1 (passWindows 0x82 b.split.windows)

/-- The flight of that owner, and the state its checks are made in. -/
theorem witness_Scheduling_owner : ∃ f k u, findFlight deferring f.id = some f ∧ deferring.live = true ∧ f.team = deferring.team.id ∧
    f.grp = deferring.group.num ∧ f.spl = deferring.split.num ∧ findSplit deferring f.team f.grp f.spl = some deferring.split ∧
    deferring.split.owner = some (f.id, k) ∧
    (let s0 := putSnap (dropFlight deferring f.id) k
     execFused f.instr { s0 with
       lim := ownerLim f
       split := { s0.split with owner := none, wait := none }
       group := { s0.group with log := s0.group.log.filter (fun e => e.1 != s0.split.num) } } = some (.next u)) :=
  ⟨newFlight b .owner (.ldw 1 0 0 0 0) none [] [] [], takeSnap b, _, by decide +kernel, rfl, rfl, rfl, rfl, by decide +kernel, rfl, rfl⟩

theorem witness_Scheduling : (findTeam b b.team.id).isSome = true ∧ (findGroup b b.team.id 0).isSome = true ∧
    (findSplit b b.team.id 0 0).isSome = true ∧
    b.split.active = true ∧ entityReady b (b.team.id, b.group.num, b.split) = true ∧ b.agenda = [] ∧
    (entities scheduled 0 0).any (fun e => e.2.2.active && e.2.2.issued) = true ∧
    (readyPending { scheduled with tick := 256 } 0 0).any (fun e => decide (e.2.2.woke + 256 ≤ 256)) = true ∧
    (entities { scheduled with tick := 512 } 0 0).any (fun e => e.2.2.active && decide (e.2.2.entered + 512 ≤ 512)) = true ∧
    readyPending { scheduled with tick := 512 } 0 0 ≠ [] ∧ pathFull deferring = false ∧ readyPending scheduled 0 0 ≠ [] ∧ readyPending b 0 0 = [] ∧
    (findSplit scheduled b.team.id 2 0).any (fun x => !x.active) = true ∧
    (findSplit scheduled b.team.id 3 0).any (fun x => x.active && !entityReady scheduled (b.team.id, 3, x)) = true := by decide +kernel

/-! ## Witnesses of the clauses about order, refills and faults -/

/-- An LIM pair and a plain word: the tables that their translations read stand here and are ready. -/
theorem witness_StepRunsWord_tables : TablesNear b (transFetch b) ∧
    insnAt (touch b (me b) b.split.pc.toNat 4) 0x01000000 = some (0x01000000, .nop) ∧
    TablesNear (touch b (me b) b.split.pc.toNat 4) (translates (withLim (touch b (me b) b.split.pc.toNat 4) 0x01000000) .nop) ∧
    (let s := withWords [0xFF012345, 0x03080678]
     TablesNear s (transFetch s) ∧ insnAt s 0xFF012345 = some (0x03080678, .movi 2 0x678) ∧
       putsOff (withLim s 0xFF012345) 0x03080678 (.movi 2 0x678) = false ∧ isOk (decodeWord 0xFF012345) (.lim 0x12345) = true) := by
  unfold TablesNear; decide +kernel

/-- The stack is full in hardware, and a load of the slot that the oldest entry goes to is under way. -/
def spilling : State :=
  let s := withStack (List.replicate 16 (entry 0 4 false)) 111 (withRcva 0x20000 (fewLanes b))
  { s with flights := [newFlight s .load .nop none [⟨0, 0, [(spillSlot s 111, 4)], 0, 0, []⟩] [] []] }

theorem witness_Branches_order :
    ((orderAfter spilling [(spillSlot spilling 111, 16)] false true).filter (fun i => !performedAt spilling 1 i)) ≠ [] ∧
    InOrder { spilling with flights := [] } [(spillSlot spilling 111, 16)] := by
  unfold InOrder; decide +kernel

/-- The last entry in hardware ends its divergence and one is spilled; the slot is clean, or an error has taken it. -/
def refilling (bad : Bool) : State :=
  let s := withStack [entry 0x20000 b.split.pc true] 1 b
  if bad then { s with poison := [spillSlot s 0 / 32] } else s

theorem witness_Refill : (refilling false).split.stack = [entry 0x20000 b.split.pc true] ∧ (refilling false).split.spilled = 0 + 1 ∧
    (entry 0x20000 b.split.pc true).ra = some b.split.pc ∧ InOrder (refilling false) (spilledSlots (refilling false)) ∧
    poisoned (refilling false) (spillSlot (refilling false) 0) 16 = false ∧ poisoned (refilling true) (spillSlot (refilling true) 0) 16 = true ∧
    InOrder (refilling true) (spilledSlots (refilling true)) ∧ dueFault (refilling true) .exit = none := by
  unfold InOrder; decide +kernel

/-- Splits parked at two addresses. -/
def parkedApart (s : State) : State := withSplits [other 1 (some (0x20000, 0)), other 2 (some (s.split.pc, 1))] s

theorem witness_Merged : stackDepth (parkedApart b).split = 0 ∧
    (∀ x ∈ putSplit { b.split with parked := some (b.split.pc, 0) } (parkedApart b).group.splits, x.parked ≠ none) ∧
    ((putSplit { b.split with parked := some (b.split.pc, 0) } (parkedApart b).group.splits).map Split.num).Nodup ∧
    ((parkedApart b).group.splits.map Split.num).Nodup ∧ (parkedApart b).group.splits ≠ [] ∧ InOrder b (spilledSlots b) ∧
    tagCups b (thisModule b) b.team.vi 1 = [] := by
  unfold InOrder; decide +kernel

theorem witness_Guards_forms : budget b = 256 ∧ wide b.split.mode = false ∧ wide (inMode 9 b).split.mode = true ∧
    budget { b with team := { b.team with roles := [0] } } ≤ (16 : BitVec 6).toNat ∧ (16 : BitVec 9).toNat ∈ [16, 18, 24, 25, 32, 33, 34] := by
  decide +kernel

/-- A store of the group's path STG whose outcome is uncertain is due at a release; none is due in the bench. -/
theorem witness_AccessChecks_faults : (dueFault (uncertainHere b) .fence).isSome = true ∧ dueFault b .fence = none := by decide +kernel

/-- Two lanes draw one word down by 1 each: the second fails. A handler stands ready. -/
def signalling : State :=
  let s := wrNat (withHandler (wv (wv (wv (wv (fewLanes b) 2 0 0x20000) 2 1 0x20000) 6 0 1) 6 1 1)) 0x20000 8 1
  after (.sigd 4 2 6 0) { s with group := { s.group with preds := [(1, 3)] } }

/-- The state before the j-th lane of that atomic acts. -/
def drawn (j : Nat) : State :=
  if j = 0 then signalling else wrBytes signalling 0x20000 (keepBytes signalling 0x20000 (natLe 8 0))

/-- The two answers are the same. -/
def isOkOr {ε α : Type} [DecidableEq ε] [DecidableEq α] (x y : Except ε α) : Bool :=
  match x, y with
  | .ok u, .ok v => decide (u = v)
  | .error u, .error v => decide (u = v)
  | _, _ => false

/-- The other bank runs. -/
def swapped (core : Nat) : State :=
  setCore signalling core { getCore signalling core with bankst := BitVec.ofNat 64 (8 * (1 - runningBank signalling core)) }

/-- What the lanes of that atomic answer. -/
def drewOut (l : LaneReq) : Except Nat (Option Nat × Nat) := if l.lane = 0 then .ok (some 0, 1) else .error Cause.sigUnder

theorem witness_AtomicsExecute_chain : NoWindows signalling ∧ NoArms signalling ∧ signalling.reqs = [] ∧ CopiesClean signalling 0x20000 8 ∧
    newest signalling (fun f => f.kind == .atomic && f.stage == 0 && atomicReady signalling f && isChecked f.instr &&
      f.lanes.map LaneReq.lane == [0, 1] && f.lanes.all (fun l => l.parts == [(0x20000, 8)]) &&
      f.lanes.zipIdx.all (fun e => isOkOr (atomOp f.instr f.mode 8 (rdNat (drawn e.2) 0x20000 8) e.1.a.toNat e.1.b.toNat) (drewOut e.1)) &&
      decide (drawn 1 = match drewOut (f.lanes.headD ⟨0, 0, [], 0, 0, []⟩) with
        | .ok (some v, _) => wrBytes (drawn 0) 0x20000 (keepBytes (drawn 0) 0x20000 (natLe 8 v))
        | _ => drawn 0) &&
      (findSplit signalling f.team f.grp f.spl).any (fun sp => bitsOf sp.tstat 1 1 == 0) &&
      (findTeam signalling f.team).any (fun tm => bitsOf tm.tvec 0 1 == 1) &&
      runningBank signalling f.core == f.bank && runningBank (swapped f.core) f.core != f.bank) = true := by
  unfold NoWindows NoArms CopiesClean; decide +kernel

/-- An arm on the word at 0x20000, and a die with many of them. -/
def onWord : Arm := ⟨0, .word 4 0, 0x20000, 0x20000, 0, 0, 0, 0, 0, 0, 0, 0, 0, 0⟩
def crowd (n : Nat) : State :=
  let s := watching 1 0x20000
  setDie s (armDie 0x20000) { getDie s (armDie 0x20000) with arms := List.replicate n onWord }

theorem eraseDups_replicate (n k : Nat) : (List.replicate (n + 1) k).eraseDups = [k] := by
  simp [List.replicate_succ, List.eraseDups_cons]

theorem armFull_replicate (s : State) (n : Nat) (h : (getDie s (armDie 0x20000)).arms = List.replicate (n + 1) onWord) :
    armFull s 0x20000 0x20000 = (decide (2048 ≤ n + 1) && decide (65536 ≤ 0 + (n + 1 - 2048))) := by
  have u : armUnits s (armDie 0x20000) = List.replicate (n + 1) (armUnit 0x20000 0x20000) := by simp [armUnits, h, onWord]
  unfold armFull
  rw [u]
  dsimp only
  rw [eraseDups_replicate]
  simp only [List.filter_replicate, beq_self_eq_true, if_true, List.length_replicate, List.foldl]

/-- With 67,584 arms the word's unit and the overflow area are full, with one less they are not. -/
theorem witness_ConditionArms_full :
    let full := crowd 67584
    let v := touch full (me full) 0x20000 4
    armFull (touch v (me v) (win 0x100).toNat 16) 0x20000 0x20000 = true ∧ armFull (crowd 67583) 0x20000 0x20000 = false :=
  ⟨(armFull_replicate _ 67583 rfl).trans (by decide), (armFull_replicate _ 67582 rfl).trans (by decide)⟩

theorem witness_ConditionArms_checks :
    let full := crowd 67584
    let v := touch full (me full) 0x20000 4
    active full ≠ 0 ∧ isOk ((check full (me full) .read 0x20000 4).map (fun g => g.parts.head?)) (some (0x20000, 4)) = true ∧
      isOk (checkObject v (win 0x100) .write true) objPa = true ∧ (getBar full objPa).armed = false := by decide +kernel

/-- A stopped stream of this split: its fault is due at MSQ.start; and one that its earlier owner has not been told of. -/
def stoppedStream (o : Option (Nat × Nat)) : State :=
  streaming { slot with fault := some (9, ⟨Cause.matrixFault, 0, 0, 0, 0⟩), owner := o, mstat := 2 }

theorem witness_StreamWords_faults : dueFault (stoppedStream (some (0, 0))) .msq = none ∧
    (dueMatrix (stoppedStream (some (0, 0))) .msq).isSome = true ∧ dueMatrix (stoppedStream none) .msq = none ∧
    slotOwner (fullTeam (stoppedStream (some (0, 0)))) { slot with owner := some (0, 0) } = some (0, 0) ∧
    (findGroup (stoppedStream (some (0, 0))) b.team.id 0).isSome = true ∧
    (findTeam (streaming { slot with ending := true }) b.team.id).any (fun t => t.bank == runningBank b t.core && !t.groups.isEmpty) = true := by
  decide +kernel

/-- A copy's descriptor that a store of the group is still to write, and a list that an error has taken. -/
def awaitedDesc : State :=
  let s := copying 0x2000 16 0
  { s with flights := [newFlight s .store .nop none [⟨0, 0, [(teamSpad s.team + 1024, 4)], 0, 0, []⟩] [] []] }
def poisonedAt (o : Nat) (s : State) : State := { s with poison := [(teamSpad s.team + o) / 32] }

theorem witness_CopyWords_order : let s := awaitedDesc
    let a : TileArgs := ⟨0xC6, 16, some 0x1000, 256, 0, false, false, none, true, false⟩
    let l := poisonedAt 0x1000 (copying 0x2000 16 0)
    ¬ InOrder s (ownSpad s 1024 64) ∧ ¬ InOrder s (issueReads s a) ∧ InOrder l (issueReads l a) ∧
      issueLost l (ownSpad l 1024 64) = none ∧ (issueLost l (issueReads l a)).isSome = true ∧
      issueLost (copying 0x2000 16 0) (issueReads (copying 0x2000 16 0) a) = none ∧
      ¬ ({ awaitedDesc.group with ringTail := 1, ringBase := 1024 } : Group).ringTail = awaitedDesc.group.ringHead ∧
      (let r := { awaitedDesc with group := { awaitedDesc.group with ringTail := 1, ringBase := 1024, ringSize := 2 } }
       ¬ InOrder r (ownSpad r (recordOffset r.group r.group.ringHead) 32)) := by
  unfold InOrder; decide +kernel

theorem witness_CopyEngines_pages : newest cpaFlying (fun f =>
      let u := rememberPages cpaFlying (copyAgent f) ((f.lanes.filter (fun (l : LaneReq) => l.a != 0)).map LaneReq.va)
      (grantLines (cpaGrants u f)).all (fun e => asks u f.die 0 e.2.1 e.1 == none) && f.lanes.all (fun l => okB (cpaSource u f l))) = true ∧
    newest (tredFlying 0) (fun f => f.after.all (performedAt (tredFlying 0) 5) && (lineWrites (tredFlying 0) [(0x30000, 4)]).isEmpty) = true ∧
    CopiesClean tcpyFlying 0x20000 64 := by
  unfold CopiesClean; decide +kernel

theorem witness_WorkWords_more : let w := worker (some (held false)) (working 0x500 0xFFFF)
    PlainBytes w (teamSpad w.team + 65472) 64 ∧ InOrder w (ownSpad w 65472 64) ∧ NoWindows w ∧ NoArms w ∧
      (dueFault (uncertainHere (working 0x500 1)) .fence).isSome = true ∧ ¬ (rs (working 0x100000000 1) 1).toNat < 2 ^ 32 ∧
      (∀ r ∈ w.reqs, r.id < w.fresh) ∧ dueFault w .fence = none ∧ rerunning w.team = false ∧
      rerunning (worker (some { held true with rerun := some 3 }) w).team = true := by
  unfold InOrder NoWindows NoArms
  exact ⟨fun _ _ _ => rfl, by decide +kernel⟩

theorem witness_JobSteps_pages : newest (fixing satisfied) (fun f =>
    let p := rememberPages (fixing satisfied) (copyAgent f) ((fixupPages f).flatMap (fun p => [p.1, p.1 + p.2 - 1]))
    (grantLines (fixupGrants p f)).all (fun e => asks p f.die 0 e.2.1 e.1 == none) &&
      (fixupRun f (f.blob.headD 0) (List.range (djTm (f.blob.headD 0) * djTn (f.blob.headD 0)))
        (fillGrants p f.die 0 (fixupGrants p f)) 0).2.2.isNone) = true := by decide +kernel

/-- A launch whose relocation is on its way; the last team of a grid, with DONE asked for; a gang that has room and one
that has not; a launch whose tag is dead. -/
def lastOf (notify : Bool) : Launch := { launching false 0 with next := 1, notify := notify }
def wideGang : Launch := { launching true 0 with ext := (2000, 1, 1) }

theorem witness_Placement_forms : let l := launching false 0
    let w := { launched { l with fixes := [1] } with fresh := 100, flights := [{ newFlight b .store .nop none [] [] [] with id := 1 }] }
    fixed w { l with fixes := [1] } = false ∧ fixed (launched l) l = true ∧ shortfall (launched (launching true 0)) (launching true 0) = 0 ∧
      (launching true 0).next = 0 ∧ (lastOf true).next + 1 = gridSize (lastOf true) ∧
      (findSpot false (close (launched (lastOf true))) (lastOf true)).isSome = true ∧
      (∀ tm ∈ allTeams (launched l), tm.id < (launched l).fresh) ∧ tagDead (markDead (launched l) 0 0 1) 0 0 1 = true ∧
      (findSpot false (close (markDead (launched l) 0 0 1)) l).isSome = true := by decide +kernel

theorem witness_Placement_short : shortfall (launched wideGang) wideGang ≠ 0 := by decide +kernel

/-- An XRS whose rank 1 has its event on module 1: the line is asked for, and has been answered. -/
def farRank (acked : Bool) : State :=
  let s := flying (.xrs 1 2 3 0 0 7) 0
  match s.flights.getLast? with
  | none => s
  | some f =>
    let d : BitVec 512 := f.blob.headD 0
    let g := { f with blob := [d + BitVec.ofNat 512 ((0x400000 - 0x500) * 2 ^ 128)] }
    { s with
      flights := s.flights.dropLast ++ [g]
      reqs := if acked then [{ far (.read false none) true true with
        line := lineOf (eventAddr (xEvent g 0).toNat), flight := some g.id, acked := true }] else [] }

theorem witness_FabricWords_events : newest (farRank false) (fun f => turnsReady (farRank false) f && (xTurn (farRank false) f).isSome &&
      evModule (xEvent f 0) != dieModule f.die && (farRank false).reqs.isEmpty) = true ∧
    newest (farRank true) (fun f => (farRank true).reqs.any (fun r => r.flight == some f.id && r.acked &&
      r.line == lineOf (eventAddr (xEvent f 0).toNat))) = true ∧
    newest (flying (.xrs 1 2 3 0 0 7) 0) (fun f => evModule (xEvent f 0) == dieModule f.die) = true := by decide +kernel

theorem witness_FabricSteps_plain : (far writeKind true false).contribs = [] ∧ (far writeKind true false).op = none ∧
    (far writeKind true false).flight = none ∧ (∀ a c, writeKind ≠ .read a c) ∧
    (∃ w, (far writeKind true false).who = some w ∧ (findGroup (asking (far writeKind true false)) w.1 w.2.1).isSome = true) :=
  ⟨rfl, rfl, rfl, fun _ _ h => (nomatch h), _, rfl, by decide +kernel⟩

/-- What a re-run computes is what was committed; with a lane in error it is not. -/
def wrongLane : List Flip := [⟨3, 0, 1⟩]

theorem witness_CheckingWords_reruns : applyFlips [] (recompute replaying moved) = moved.results ∧
    applyFlips wrongLane (recompute replaying moved) ≠ moved.results ∧ moved.results.length = 32 := by decide +kernel

/-- With CLONE on; all lanes active, and the lower half alone. -/
def cloning : State := inMode (2 ^ 41) b
def cloningHalf : State := let s := inMode (putBits (BitVec.ofNat 64 (2 ^ 41)) 10 3 1) b; { s with group := { s.group with preds := [(1, 0xFFFF)] } }

theorem witness_CheckingWords_clones : mClone cloning.split.mode = true ∧ mClone b.split.mode = false ∧ isCloned 0x03 = true ∧
    isCrossLane 0x03 = false ∧ active cloning ≠ 0 ∧
    (∀ l < 32, isActive cloningHalf l = true → isActive cloningHalf (l ^^^ (if mC16 cloningHalf.split.mode then 15 else 31)) = false) ∧
    active cloningHalf ≠ 0 ∧ mClone cloningHalf.split.mode = true ∧
    ¬ (∀ l < 32, isActive cloning l = true → isActive cloning (l ^^^ (if mC16 cloning.split.mode then 15 else 31)) = false) ∧
    ((getCore cloning 0).replay.filter (fun y => y.part == moved.part)).length < 32 ∧
    32 ≤ ((getCore (setCore cloning 0 { getCore cloning 0 with replay := List.replicate 32 moved }) 0).replay.filter
      (fun y => y.part == moved.part)).length := by decide +kernel

/-- A TLBI that a store of the group still has to come before, and one that a store held in a fence window has. -/
noncomputable def tlbingAfter : State := after (.tlbiWrite 1) stored
noncomputable def tlbingHeld : State := after (.tlbiWrite 1) (after (.stw 3 0 1 0 0) (after (.fence 0 3) stored))

theorem witness_TagsAndTeams_stores : tagCups b (thisModule b) b.team.vi 1 = [] ∧
    newest tlbing (fun f => f.after.all (fun k => performedAt tlbing 5 k && (heldStores tlbing).all (fun x => x.id != k))) = true ∧
    newest tlbingAfter (fun f => f.after.any (fun k => !performedAt tlbingAfter 5 k)) = true ∧
    newest tlbingHeld (fun f => f.after.any (fun k => (heldStores tlbingHeld).any (fun x => x.id == k))) = true := by decide +kernel

/-- An image whose requests are out, and one whose requests are all answered. -/
def sent (id : Nat) : Option ImageWrite := some ⟨[id], false, []⟩
noncomputable def imageSent (performed : Bool) (save : Bool) : State :=
  let r := { far writeKind true performed with acked := performed }
  let s := { asking r with reqs := [r] }
  if save then banked 0x30 none (some ⟨true, none, 0x80000, 0, none, [], false, false, sent 40⟩) false s
  else banked 3 (some ⟨0x80000, 0, [], false, false, sent 40⟩) none false s

theorem witness_Contexts_requests : drst (imageSent true false) 0 = 3 ∧
    (getCore (imageSent true false) 0).drain = some ⟨0x80000, 0, [], false, false, sent 40⟩ ∧
    (∃ r ∈ (imageSent false false).reqs, r.id ∈ [40] ∧ openReq r = true) ∧
    (∀ r ∈ (imageSent true false).reqs, r.id ∈ [40] → openReq r = false) ∧
    (getCore (imageSent true true) 0).ctx = some ⟨true, none, 0x80000, 0, none, [], false, false, sent 40⟩ ∧
    (∀ r ∈ (imageSent true true).reqs, r.id ∈ [40] → openReq r = false) := by decide +kernel

theorem witness_Packets_free : launchFree (launchPacket 0 1) ⟨0, 0, 0, 4, 0, false⟩ (packet 4 0 0 (launchBody 0 1)) = true ∧
    (∀ w ∈ (launchPacket 0 1).reqs, w.id < (launchPacket 0 1).fresh) := by decide +kernel

theorem witness_ModuleSteps_more : (b.cores.map Prod.fst).Nodup ∧ (b.dies.map Prod.fst).Nodup ∧ (b.ports.map Prod.fst).Nodup ∧
    measured (getModule updated 0) 0 1 [] = true ∧ measured (getModule b 0) 0 7 [1] = true ∧ noStore (eventAddr 0x500) = true ∧
    hostFree b 0 64 .write (eventAddr 0x500) 8 = true ∧ noStore 0x20000 = false ∧ hostFree b 0 64 .write 0x20000 1 = true ∧
    ((evented b).vis.any (fun e => e.1 / 64 == 0)) = true := by decide +kernel

end Sys2Proof.Tests
end

section
/-! SUPPORT. Proofs of the statements on conversion, quantisation and the lanes' generators (05_convert.md R117 to
R127): the laws of the operations that the chapter's words share, then one lemma per word. -/

namespace Sys2Proof.Conversion

open Sys2Proof.Machine Sys2Proof.Safety Sys2Proof.Laws

/-! ## Elements in their containers (R117) -/

/-- Place as three fields: what lies above the container, the element, and what lies below. -/
theorem place32_eq (old w i enc : Nat) :
    place32 old w i enc = 2 ^ (w * i) * (2 ^ w * (old / 2 ^ (w * i) / 2 ^ w) + enc % 2 ^ w) + old % 2 ^ (w * i) := by
  have low := Nat.div_add_mod old (2 ^ (w * i))
  have high := Nat.div_add_mod (old / 2 ^ (w * i)) (2 ^ w)
  unfold place32
  generalize old / 2 ^ (w * i) = q at *
  generalize 2 ^ (w * i) = a at *
  have : old = a * (2 ^ w * (q / 2 ^ w)) + q % 2 ^ w * a + old % a := by
    rw [Nat.mul_comm (q % 2 ^ w), ← Nat.mul_add, high, low]
  rw [Nat.mul_add, Nat.mul_comm a (enc % 2 ^ w)]
  omega

theorem testBit_place32 (old w i enc j : Nat) : (place32 old w i enc).testBit j =
    if j < w * i then old.testBit j
    else if j < w * i + w then enc.testBit (j - w * i) else old.testBit j := by
  rw [place32_eq, Nat.testBit_two_pow_mul_add _ (Nat.mod_lt _ (Nat.two_pow_pos _)),
    Nat.testBit_two_pow_mul_add _ (Nat.mod_lt _ (Nat.two_pow_pos _))]
  by_cases below : j < w * i
  · simp [below]
  · by_cases inside : j < w * i + w
    · simp [below, inside, show j - w * i < w by omega]
    · simp [below, inside, show ¬ j - w * i < w by omega, Nat.testBit_div_two_pow,
        show j - w * i - w + w + w * i = j by omega]

theorem testBit_place32_inside (old enc : Nat) {w i j : Nat} (h : j < w) :
    (place32 old w i enc).testBit (w * i + j) = enc.testBit j := by
  rw [testBit_place32, if_neg (by omega), if_pos (by omega), Nat.add_sub_cancel_left]

theorem testBit_place32_outside (old enc : Nat) {w i j : Nat} (h : j < w * i ∨ w * i + w ≤ j) :
    (place32 old w i enc).testBit j = old.testBit j := by
  rw [testBit_place32]
  split
  · rfl
  · rw [if_neg (by omega)]

/-- The register `u` is `old` with the element `v` in its container of width `w` at position `i`. -/
def Placed (old u : Word) (w i v : Nat) : Prop :=
  (∀ j, j < w → u.getLsbD (w * i + j) = v.testBit j) ∧
    ∀ j, j < 32 → j < w * i ∨ w * i + w ≤ j → u.getLsbD j = old.getLsbD j

theorem placed_place32 (old : Word) (enc : Nat) {w i : Nat} (fits : w * i + w ≤ 32) :
    Placed old (BitVec.ofNat 32 (place32 old.toNat w i enc)) w i enc := by
  refine ⟨fun j hj => ?_, fun j hj out => ?_⟩
  · rw [BitVec.getLsbD_ofNat, testBit_place32_inside _ _ hj]
    simp [show w * i + j < 32 by omega]
  · rw [BitVec.getLsbD_ofNat, testBit_place32_outside _ _ out, BitVec.testBit_toNat]
    simp [hj]

/-- Two elements placed side by side, as CVTP places them (R125). -/
theorem getLsbD_place32_pair (old : Word) (x y : Nat) {w k : Nat} (fits : w * k + 2 * w ≤ 32) :
    let u := BitVec.ofNat 32 (place32 (place32 old.toNat w k x) w (k + 1) y)
    (∀ j, j < w → u.getLsbD (w * k + j) = x.testBit j ∧ u.getLsbD (w * (k + 1) + j) = y.testBit j) ∧
    (∀ j, j < 32 → j < w * k ∨ w * k + 2 * w ≤ j → u.getLsbD j = old.getLsbD j) := by
  have next : w * (k + 1) = w * k + w := Nat.mul_succ w k
  refine ⟨fun j hj => ⟨?_, ?_⟩, fun j hj out => ?_⟩
  · rw [BitVec.getLsbD_ofNat, testBit_place32_outside _ _ (by omega), testBit_place32_inside _ _ hj]
    simp [show w * k + j < 32 by omega]
  · rw [BitVec.getLsbD_ofNat, testBit_place32_inside _ _ hj]
    simp [show w * (k + 1) + j < 32 by omega]
  · rw [BitVec.getLsbD_ofNat, testBit_place32_outside _ _ (by omega), testBit_place32_outside _ _ (by omega),
      BitVec.testBit_toNat]
    simp [hj]

/-- A position that SUB may name lies within the register. -/
theorem subOk_fits {e : Elem} {sub : Nat} (ok : subOk e sub = true) (narrow : e.container < 32) :
    e.container * sub + e.container ≤ 32 := by
  have hs : sub < 32 / e.container := by simpa [subOk, Nat.not_le.mpr narrow] using ok
  calc e.container * sub + e.container = e.container * (sub + 1) := rfl
    _ ≤ e.container * (32 / e.container) := Nat.mul_le_mul_left _ hs
    _ ≤ 32 := Nat.mul_div_le 32 _

theorem container_typeElem (t : Nat) : (typeElem t).container ≤ 32 ∨ (typeElem t).container = 64 := by
  unfold typeElem
  split <;> decide

/-- CVT's destination is no wider than a register, or a pair. -/
theorem container_of_cvtFormats {m : DWord} {x t : Nat} {f g : Elem} (h : cvtFormats m x t = some (f, g)) :
    g.container ≤ 32 ∨ g.container = 64 := by
  have byType := container_typeElem (mType m)
  unfold cvtFormats at h
  split at h
  · cases h; exact byType
  · split at h <;> cases h; exact byType
  · split at h <;> cases h; exact .inl (by decide)
  · split at h <;> cases h; exact byType

/-- Both elements of a CVTP that is accepted lie within the register (R125). -/
theorem cvtpFmt_fits {m : DWord} {f : Fmt} (h : cvtpFmt m = some f) :
    (Elem.flt f).container * (2 * mSub m) + 2 * (Elem.flt f).container ≤ 32 := by
  unfold cvtpFmt at h
  split at h
  case h_7 => cases h
  all_goals
    split at h <;> cases h
    simp only [Elem.container]
    omega

/-- An MX element is narrow. -/
theorem container_of_mxFmt {m : DWord} {f : Fmt} {emax : Int} (h : mxFmt m = some (f, emax)) :
    (Elem.flt f).container < 32 := by
  unfold mxFmt at h
  split at h
  · cases h
  · split at h <;> cases h <;> decide

/-! ## Writing elements and drawing -/

/-- A narrow element is written into its container alone (R117). -/
theorem writeElem_narrow (s : State) {e : Elem} (n : Nat) {i : Nat} (v : Nat → Nat) (narrow : e.container < 32)
    (fits : e.container * i + e.container ≤ 32) :
    ∃ r u, writeElem s e n i v (actives s) = withRegs s r ∧ OneReg s r n u ∧
      ∀ l, Placed (rv s n l) (u l) e.container i (v l) := by
  obtain ⟨r, eq, wrote⟩ :=
    oneReg_wvs s n (fun l => BitVec.ofNat 32 (place32 (rv s n l).toNat e.container i (v l)))
  refine ⟨r, _, ?_, wrote, fun l => placed_place32 _ _ fits⟩
  rw [writeElem, if_neg (by omega), if_neg (by omega), eq]

/-- An element is written as a pair, as a register, or into its container alone (R123). -/
theorem writeElem_fields (s : State) {e : Elem} (n : Nat) {i : Nat} (v : Nat → Nat)
    (size : e.container ≤ 32 ∨ e.container = 64) (ok : subOk e i = true) :
    ∃ r, writeElem s e n i v (actives s) = withRegs s r ∧
      (if e.container = 64 then PairReg s r n (fun l => BitVec.ofNat 64 (v l))
       else if e.container = 32 then OneReg s r n (fun l => BitVec.ofNat 32 (v l))
       else ∃ u, OneReg s r n u ∧ ∀ l, Placed (rv s n l) (u l) e.container i (v l)) := by
  by_cases pair : e.container = 64
  · simpa only [writeElem, if_pos pair] using pairReg_wv2s s n _
  · by_cases whole : e.container = 32
    · simpa only [writeElem, if_neg pair, if_pos whole] using oneReg_wvs s n _
    · have narrow : e.container < 32 := by omega
      obtain ⟨r, u, eq, wrote, placed⟩ := writeElem_narrow s n v narrow (subOk_fits ok narrow)
      refine ⟨r, eq, ?_⟩
      rw [if_neg pair, if_neg whole]
      exact ⟨u, wrote, placed⟩

/-- The draws that follow a register write leave the registers, and are those of the state before it. -/
theorem drawn_withRegs (s : State) (r : Cells Word) (n : Nat) :
    ∃ c, drawn (withRegs s r) n = { s with group := { s.group with regs := r, gens := c } } ∧
      DrewGens s c (if mRnd s.split.mode = 5 then n else 0) := by
  by_cases sr : mRnd s.split.mode = 5
  · obtain ⟨c, hc, drew⟩ := drewGens (withRegs s r) n
    exact ⟨c, (if_pos sr).trans hc, by rw [if_pos sr]; exact drew⟩
  · exact ⟨s.group.gens, if_neg sr, by rw [if_neg sr]; exact fun l _ => (ite_self _).symm⟩

/-! ## The words where no check fails -/

/-- An F32 operand is the whole register. -/
theorem srcF_f32 (s : State) (n pat l : Nat) :
    srcF s .f32 n pat l = readF .f32 (mFtz s.split.mode) (src s n pat l).toNat := by
  have all : (src s n pat l).toNat % 2 ^ Fmt.f32.width = (src s n pat l).toNat := Nat.mod_eq_of_lt (src s n pat l).isLt
  simp [srcF, srcEnc, all]

theorem exec_cvt_ok {s : State} {d a : BitVec 6} {p : BitVec 3} {x : BitVec 2} {k : BitVec 4} {f g : Elem}
    (formats : cvtFormats s.split.mode x.toNat k.toNat = some (f, g))
    (okF : subOk f (mSub s.split.mode) = true) (okG : subOk g (mSub s.split.mode) = true)
    (ok : operandsBad s (.cvt d a p x k) = false) :
    exec (.cvt d a p x k) s = .next (adv (drawn (writeElem s g d.toNat (mSub s.split.mode)
      (fun l => convert f g (rmode s.split.mode) (genAfter (genOf s.group l) 1)
        (elemAt s f a.toNat p.toNat (mSub s.split.mode) l)) (actives s)) (convertDraws f g))) := by
  rw [exec_cvt, execCvt, run_ok ok]
  simp [formats, okF, okG, draw]

theorem exec_cvtp_ok {s : State} {d a b : BitVec 6} {p q : BitVec 3} {f : Fmt}
    (accepted : cvtpFmt s.split.mode = some f) (ok : operandsBad s (.cvtp d a p b q) = false) :
    let w := (Elem.flt f).container
    let k := 2 * mSub s.split.mode
    let one := fun (l : Nat) (n pat j : Nat) => roundTo f (rmode s.split.mode) (genAfter (genOf s.group l) j)
      (readF .f32 (mFtz s.split.mode) (src s n pat l).toNat).exact
    exec (.cvtp d a p b q) s = .next (adv (drawn (wvs s d.toNat (fun l => BitVec.ofNat 32
      (place32 (place32 (rv s d.toNat l).toNat w k (one l a.toNat p.toNat 1)) w (k + 1) (one l b.toNat q.toNat 2)))
      (actives s)) 2)) := by
  rw [exec_cvtp, execCvtp, run_ok ok]
  simp [accepted, draw, srcF_f32]

theorem exec_qmx_ok {s : State} {d a : BitVec 6} {p : BitVec 3} {f : Fmt} {emax : Int}
    (accepted : mxFmt s.split.mode = some (f, emax)) (ok : operandsBad s (.qmx d a p) = false) :
    exec (.qmx d a p) s = .next (adv (wvs s d.toNat (fun _ => BitVec.ofNat 32
      (qmxScale emax ((actives s).map (fun l => readF .f32 (mFtz s.split.mode) (src s a.toNat p.toNat l).toNat))))
      (actives s))) := by
  rw [exec_qmx, execQmx, run_ok ok]
  simp [accepted, srcF_f32]

theorem exec_qmxa_ok {s : State} {d a b : BitVec 6} {p q : BitVec 3} {f : Fmt} {emax : Int}
    (accepted : mxFmt s.split.mode = some (f, emax)) (okF : subOk (.flt f) (mSub s.split.mode) = true)
    (ok : operandsBad s (.qmxa d a p b q) = false) :
    exec (.qmxa d a p b q) s = .next (adv (drawn (writeElem s (.flt f) d.toNat (mSub s.split.mode)
      (fun l => qmxaElem f (rmode s.split.mode) (genAfter (genOf s.group l) 1)
        (readF .f32 (mFtz s.split.mode) (src s a.toNat p.toNat l).toNat)
        ((src s b.toNat q.toNat l).toNat % 256)) (actives s)) 1)) := by
  rw [exec_qmxa, execQmxa, run_ok ok]
  simp [accepted, okF, draw, srcF_f32]

/-! ## The scale of an MX block (R126) -/

/-- A fold that keeps the greater of what it has and what it meets gives the maximum of a list. -/
theorem foldl_eq_max? (op : Option Int → Int → Option Int) (first : ∀ x, op none x = some x)
    (next : ∀ y x, op (some y) x = some (max x y)) (xs : List Int) : xs.foldl op none = xs.max? := by
  have go : ∀ (xs : List Int) (y : Int), xs.foldl op (some y) = some (xs.foldl max y) := by
    intro xs
    induction xs with
    | nil => exact fun _ => rfl
    | cons x xs ih => exact fun y => by rw [List.foldl_cons, next, ih, List.foldl_cons, Int.max_comm]
  cases xs with
  | nil => rfl
  | cons x xs => rw [List.foldl_cons, first, go, List.max?_cons']

theorem qmxScale_special {emax : Int} {vals : List FVal} (h : ∃ x ∈ vals, special x = true) :
    qmxScale emax vals = 0xFF := by
  rw [qmxScale, if_pos (List.any_eq_true.mpr h)]

theorem qmxScale_zeros {emax : Int} {vals : List FVal} (plain : ∀ x ∈ vals, special x = false)
    (zeros : ∀ x ∈ vals, lgOf x = none) : qmxScale emax vals = 0x7F := by
  have h : vals.any special = false := by simpa using plain
  rw [qmxScale, h, List.filterMap_eq_nil_iff.mpr zeros]
  rfl

theorem qmxScale_largest {emax g : Int} {vals : List FVal} (plain : ∀ x ∈ vals, special x = false)
    (mem : ∃ x ∈ vals, lgOf x = some g) (largest : ∀ x ∈ vals, ∀ h, lgOf x = some h → h ≤ g) :
    qmxScale emax vals = (clampInt 0 254 (g - emax + 127)).toNat := by
  have h : vals.any special = false := by simpa using plain
  have hmax : (vals.filterMap lgOf).max? = some g := by
    refine List.max?_eq_some_iff.mpr ⟨List.mem_filterMap.mpr mem, fun y hy => ?_⟩
    obtain ⟨x, hx, hxy⟩ := List.mem_filterMap.mp hy
    exact largest x hx y hxy
  rw [qmxScale, h, foldl_eq_max? _ (fun _ => rfl) (fun _ _ => rfl), hmax]
  rfl

theorem toNat_clampInt (x : Int) : ((clampInt 0 254 x).toNat : Int) = max 0 (min 254 x) := by
  unfold clampInt
  split
  · omega
  · split <;> omega

/-- What holds of the values of the block is what holds of each active lane's. -/
theorem forall_mem_block {s : State} {x : Nat → FVal} {P : FVal → Prop} :
    (∀ v ∈ (actives s).map x, P v) ↔ ∀ l, l < 32 → isActive s l = true → P (x l) := by
  rw [List.forall_mem_map]
  exact ⟨fun h l hl act => h l ((mem_actives hl).mpr act),
    fun h l mem => h l (actives_lt s l mem) ((mem_actives (actives_lt s l mem)).mp mem)⟩

theorem mem_block {s : State} {x : Nat → FVal} {l : Nat} (hl : l < 32) (act : isActive s l = true) :
    x l ∈ (actives s).map x := List.mem_map_of_mem ((mem_actives hl).mpr act)

/-! ## The generators (R118 to R121) -/

theorem setGens_cons (s : State) (f : Nat → Word) (a : Nat) (r : List Nat) : setGens s f (a :: r) =
    setGens (putGens s (cput genInit s.group.gens a (if f a = 0 then 1 else f a))) f r := rfl

theorem genOf_putGens (s : State) (g : Cells Word) (l : Nat) : genOf (putGens s g).group l = cget genInit g l := rfl

/-- Setting the generators of the lanes of a list replaces the generators, and gives every one of them. -/
theorem setGens_fields (s : State) (f : Nat → Word) (ls : List Nat) :
    ∃ g, setGens s f ls = putGens s g ∧
      ∀ l, cget genInit g l = if l ∈ ls then (if f l = 0 then 1 else f l) else genOf s.group l := by
  induction ls generalizing s with
  | nil => exact ⟨s.group.gens, rfl, fun l => (if_neg (by simp)).symm⟩
  | cons a r ih =>
    rw [setGens_cons]
    generalize hc : cput genInit s.group.gens a (if f a = 0 then 1 else f a) = c
    obtain ⟨g, e, hg⟩ := ih (putGens s c)
    refine ⟨g, by rw [e, putGens_putGens], fun l => ?_⟩
    rw [hg, genOf_putGens, ← hc, cget_cput, ← genOf]
    by_cases h1 : l ∈ r
    · simp [h1]
    · by_cases h2 : l = a
      · subst h2; simp
      · simp [h1, h2]

/-- The generators of the active lanes set, none to zero. -/
theorem setGens_actives (s : State) (f : Nat → Word) :
    ∃ g, setGens s f (actives s) = { s with group := { s.group with gens := g } } ∧
      ∀ l, l < 32 → cget genInit g l = if isActive s l then (if f l = 0 then 1 else f l) else genOf s.group l := by
  obtain ⟨g, e, hg⟩ := setGens_fields s f (actives s)
  refine ⟨g, e, fun l hl => ?_⟩
  rw [hg l]
  simp only [mem_actives hl]

/-- One register written in the active lanes and one word drawn there. -/
theorem oneReg_advanceGens (s : State) (n : Nat) (v : Nat → Word) :
    ∃ r g, advanceGens (wvs s n v (actives s)) 1 (actives s) =
        { s with group := { s.group with regs := r, gens := g } } ∧ OneReg s r n v ∧
      ∀ l, l < 32 → cget genInit g l = if isActive s l then nextGen (genOf s.group l) else genOf s.group l := by
  obtain ⟨r, e, wrote⟩ := oneReg_wvs s n v
  obtain ⟨g, e', drew⟩ := drewGens (withRegs s r) 1
  exact ⟨r, g, by rw [e]; exact e', wrote, drew⟩

/-- The word divided by 256 is what is left of it after eight bits are shifted out. -/
theorem unitF32_eq (g : Word) :
    unitF32 g = roundTo .f32 ⟨0, false, false⟩ 0 (exactInt (g >>> 8).toNat (-24) false) := by
  rw [unitF32, BitVec.toNat_ushiftRight, Nat.shiftRight_eq_div_pow]

end Sys2Proof.Conversion

open Sys2Proof Sys2Proof.Machine Sys2Proof.Safety Sys2Proof.Laws Sys2Proof.Conversion

/-- Settles O22: an element placed in its container keeps the other bits, and the scale is that of the largest exponent. -/
theorem conversions : Obligations.Conversions := by
  unfold Obligations.Conversions
  refine ⟨⟨?cvt, ?cvtp⟩, ?qmx, ?qmxa⟩
  case cvt =>
    intro s d a p x k f g m formats okF okG ok w v
    obtain ⟨r, e, wrote⟩ := writeElem_fields s d.toNat v (container_of_cvtFormats formats) okG
    obtain ⟨c, e', drew⟩ := drawn_withRegs s r (convertDraws f g)
    exact ⟨r, c, by rw [exec_cvt_ok formats okF okG ok, e, e'], wrote, drew⟩
  case cvtp =>
    intro s d a b p q f accepted ok w k one
    obtain ⟨r, e, wrote⟩ := oneReg_wvs s d.toNat (fun l => BitVec.ofNat 32
      (place32 (place32 (rv s d.toNat l).toNat w k (one l a.toNat p.toNat 1)) w (k + 1) (one l b.toNat q.toNat 2)))
    obtain ⟨c, e', drew⟩ := drawn_withRegs s r 2
    exact ⟨r, c, _, by rw [exec_cvtp_ok accepted ok, e, e'], wrote,
      fun l => getLsbD_place32_pair _ _ _ (cvtpFmt_fits accepted), drew⟩
  case qmx =>
    intro s d a p f emax accepted ok x
    refine ⟨_, qmxScale emax ((actives s).map x), exec_qmx_ok accepted ok, wroteReg_wvs s d.toNat _, ?_,
      fun plain => ⟨fun zeros => ?_, fun k g hk act hg largest => ?_⟩⟩
    · rintro ⟨l, hl, act, sp⟩
      exact qmxScale_special ⟨x l, mem_block hl act, sp⟩
    · exact qmxScale_zeros (forall_mem_block.mpr plain) (forall_mem_block.mpr zeros)
    · rw [qmxScale_largest (forall_mem_block.mpr plain) ⟨x k, mem_block hk act, hg⟩
        (forall_mem_block.mpr fun l hl actl h => largest l h hl actl), toNat_clampInt]
  case qmxa =>
    intro s d a b p q f emax accepted m okF ok w e v
    have narrow := container_of_mxFmt accepted
    obtain ⟨r, u, eq, wrote, placed⟩ := writeElem_narrow s d.toNat v narrow (subOk_fits okF narrow)
    obtain ⟨c, eq', drew⟩ := drawn_withRegs s r 1
    exact ⟨r, c, u, (exec_qmxa_ok accepted okF ok).trans (by rw [← eq', ← eq]; rfl), wrote, placed, drew⟩

/-- Settles O23: what setting and what drawing leave in every lane, used once for each word. -/
theorem generators : Obligations.Generators := by
  unfold Obligations.Generators
  refine ⟨fun s a b p => ⟨?_, fun ok => ?_⟩, fun s d => ⟨fun ok => ?_, fun ok => ?_, fun ok => ?_⟩⟩
  · have ok : operandsBad s (.seed a) = false := by simp [operandsBad, Operand.bad]
    obtain ⟨g, e, hset⟩ := setGens_actives s (fun l =>
      (rs s a.toNat).setWidth 32 ^^^ BitVec.ofNat 32 (laneNo s.split.mode l * 0x9E3779B9))
    refine ⟨g, ?_, hset⟩
    rw [exec_seed, execSeed, run_ok ok]
    exact congrArg (fun t => Host.Outcome.next (adv t)) e
  · obtain ⟨g, e, hset⟩ := setGens_actives s (fun l => src s b.toNat p.toNat l)
    exact ⟨g, by rw [exec_rngSet, execRngSet, run_ok ok, e], hset⟩
  · obtain ⟨r, g, e, wrote, drew⟩ := oneReg_advanceGens s d.toNat (fun l => draw s l 0)
    exact ⟨r, g, by rw [exec_rngU32, execRngU32, run_ok ok, e], wrote, drew⟩
  · obtain ⟨r, g, e, wrote, drew⟩ := oneReg_advanceGens s d.toNat (fun l => BitVec.ofNat 32 (unitF32 (draw s l 0)))
    simp only [unitF32_eq] at wrote
    exact ⟨r, g, by rw [exec_rngUnit, execRngUnit, run_ok ok, e], wrote, drew⟩
  · exact ⟨_, by rw [exec_rngGet, execRngGet, run_ok ok], wroteReg_wvs s d.toNat _⟩

end
